-- ==== Sys2Proof/Word.lean ====
section
/-!
DEFINITION. The words of the AD-7820: 64-bit registers, 32-bit lanes and code words, bytes.
-/

namespace Sys2Proof

/-- A 64-bit integer register (R142). -/
abbrev Word := BitVec 64

/-- A 32-bit lane, code word or token payload (R142, R148). -/
abbrev Half := BitVec 32

/-- One byte of memory (R3). -/
abbrev Byte := BitVec 8

/-- A predicate register: bit l stands for lane l (R142). -/
abbrev Mask := BitVec 16

/-- The sixteen 32-bit lanes of a vector register (R142). -/
abbrev Lanes := Vector Half 16

end Sys2Proof
end

