-- ==== Sys2Proof/Syntax.lean ====
section
/-!
DEFINITION. The instruction set: one constructor of Instr for every row of the opcode table, in the table's order.
Rows 0 to 142 are control-core instructions, rows 143 to 177 are the column operations of a schedule word, and the
remaining rows are the device steps, six of them moved ahead of the host messages; the operands of a device step name the
unit it concerns and carry what the environment supplies to it.
-/

namespace Sys2Proof

/-! ### Operands of control-core instructions -/

/-- An integer register specifier: windowed w0 to w31 or global g0 to g15 (R153). -/
inductive XReg where
  | w (i : Fin 32)
  | g (i : Fin 16)
  deriving DecidableEq, Repr

/-- A vector register v0 to v31 (R153). -/
abbrev VReg := Fin 32
/-- A predicate register p0 to p7 (R153). -/
abbrev PReg := Fin 8
/-- A tile descriptor register d0 to d15 (R153). -/
abbrev DReg := Fin 16
/-- A port generator of the issuing core (R203). -/
abbrev Gen := Fin 4
/-- A block handle (R210). -/
abbrev Hnd := Fin 8
/-- A format tag FT0 to FT63 (R59). -/
abbrev Tag := BitVec 6

/-- Order codes 00, 01, 10, 11 (R123). -/
inductive Order where
  | plain | acq | rel | acqRel
  deriving DecidableEq, Repr

/-- Scope codes 000 to 100 (R27, R123). -/
inductive Scope where
  | core | clu | die | dev | sys
  deriving DecidableEq, Repr

/-- Rounding codes 000 to 101 (R80). -/
inductive Rm where
  | rne | rtz | rup | rdn | rna | stoch
  deriving DecidableEq, Repr

/-- Overflow policies 00 to 11 (R83). -/
inductive Ovf where
  | sat | inf | nan | trap
  deriving DecidableEq, Repr

/-- Access size codes of CM format (R155). -/
inductive Size where
  | b1 | b2 | b4 | b8
  deriving DecidableEq, Repr

/-- Saturation codes 00, 01, 10 (R196, R252). -/
inductive Sat where
  | wrap | signed | unsigned
  deriving DecidableEq, Repr

/-- Transpose codes 00, 01, 10 (R204, R207). -/
inductive Transp where
  | none | t8 | t16
  deriving DecidableEq, Repr

/-- Width of EXTS and EXTZ (R174). -/
inductive ExtWidth where
  | w8 | w16 | w32
  deriving DecidableEq, Repr

/-- The memory operand of a load or store: base, index, order, scope, displacement (R155). -/
structure MemOp where
  base : XReg
  index : XReg
  ord : Order
  scope : Scope
  disp : BitVec 32
  deriving DecidableEq, Repr

/-- The fields of an atomic (R179): wide is FN[0], 1 for eight bytes. -/
structure AtOp where
  wide : Bool
  base : XReg
  src : XReg
  ord : Order
  scope : Scope
  disp : BitVec 32
  deriving DecidableEq, Repr

/-- A CB-format target: LINE DELTA and WORD (R156). -/
structure CodeRef where
  delta : BitVec 11
  word : BitVec 5
  deriving DecidableEq, Repr

/-- PRED, SF and RM of CV word 1 (R157). -/
structure VCtl where
  pred : PReg
  sf : Bool
  rm : Rm
  deriving DecidableEq, Repr

/-- Shift amount of VSHL, VSHR, VSRA: a vector register, or EXTRA[4:0] (R195). -/
inductive VAmount where
  | reg (c : VReg)
  | imm (n : BitVec 5)
  deriving DecidableEq, Repr

/-- The stream configuration word (R207). -/
structure StreamCfg where
  write : Bool
  scope : Scope
  tr : Transp
  gath : Bool
  mxs : Bool
  wid : Bool
  rsym : Bool
  matb : Bool
  stg : BitVec 2
  deriving DecidableEq, Repr

/-! ### Operands of column operations -/

/-- DLY and RP of a schedule word (R234). -/
structure QHead where
  dly : BitVec 4
  rp : Bool
  deriving DecidableEq, Repr

/-- Empty policies 00, 01, 10 (R49). -/
inductive Ep where
  | absorb | forward | replace
  deriving DecidableEq, Repr

/-- A source specifier (R235). -/
inductive QSrc where
  | cell (i : Fin 16)
  | inp (p : Fin 8)
  | zero
  deriving DecidableEq, Repr

/-- A destination specifier (R235). -/
inductive QDst where
  | cell (i : Fin 16)
  | out (p : Fin 8)
  | none
  deriving DecidableEq, Repr

/-- A word with one source. xoff is XOFF in two's complement (R237). -/
structure QOp1 where
  head : QHead
  dst : QDst
  s1 : QSrc
  xoff : BitVec 5
  ep : Ep
  deriving DecidableEq, Repr

/-- A word with two sources. -/
structure QOp2 where
  head : QHead
  dst : QDst
  s1 : QSrc
  s2 : QSrc
  xoff : BitVec 5
  ep : Ep
  deriving DecidableEq, Repr

/-- A word with three sources. -/
structure QOp3 where
  head : QHead
  dst : QDst
  s1 : QSrc
  s2 : QSrc
  s3 : QSrc
  xoff : BitVec 5
  ep : Ep
  deriving DecidableEq, Repr

/-- Shift amount of QSHL, QSHR, QSRA (R252). -/
inductive QAmount where
  | src (s2 : QSrc)
  | imm (n : BitVec 5)
  deriving DecidableEq, Repr

/-- COND of QCMP (R254). -/
inductive QCond where
  | eq | ne | lt | le | ltu | leu | feq | fne | flt | fle
  deriving DecidableEq, Repr

/-- XS of QREDL (R264). -/
inductive RedOp where
  | add | max | min | fadd | fmax
  deriving DecidableEq, Repr

/-- The five forms of QMOV (R256). -/
inductive MovForm where
  | move (s1 : QSrc) (xoff : BitVec 5)
  | lo (imm : BitVec 12)
  | mid (imm : BitVec 12)
  | hi (imm : BitVec 8)
  | tag (s1 : QSrc) (xoff : BitVec 5) (t : Tag)
  deriving DecidableEq, Repr

/-- The two forms of QSCALE (R269). -/
inductive ScaleForm where
  | lane (s1 : QSrc)
  | tensor (port : BitVec 3)
  deriving DecidableEq, Repr

/-! ### Operands of device steps -/

/-- A control core: 32 x die + core, or 384, 385 for the two command-processor cores. -/
abbrev CoreId := Fin 386
/-- A compute die. -/
abbrev DieId := Fin 12
/-- A partition (R369). -/
abbrev PartId := Fin 12
/-- A group of four cores of a die (R413). -/
abbrev ClusterId := Fin 8

/-- A GHT message as it arrives: the header fields of R363 that are not fixed by its kind, its payload, and the port it came
by: a peer port 0 to 7, or the host port, 8 (log 37). -/
structure Msg where
  part : BitVec 8
  chan : BitVec 12
  seq : BitVec 48
  ack : BitVec 48
  ackv : Bool
  rst : Bool
  arg : BitVec 96
  payload : List Byte
  port : Fin 9 := 8
  deriving DecidableEq, Repr

/-- The SecTAG of a frame: association number, packet number, and the ICV it carries (R362). -/
structure SecTag where
  an : BitVec 2
  pn : Nat
  icv : List Byte
  deriving DecidableEq, Repr

/-- An Ethernet frame as it arrives, in the terms R361 and R362 decide on: its port, whether it is a PAUSE or priority-flow-control
frame, its length and 802.1Q tags, its SecTAG, IPv6 or IPv4, options or extension headers, whether it is a fragment, the UDP
checksum field and whether it agrees with the datagram, the UDP destination port, and the datagram. -/
structure EthFrame where
  port : Fin 9
  pause : Bool
  len : Nat
  tags : Nat
  sec : Option SecTag
  v6 : Bool
  extra : Bool
  fragment : Bool
  sum : BitVec 16
  sumGood : Bool
  dport : BitVec 16
  data : List Byte
  deriving DecidableEq, Repr

/-- One constructor per row of the opcode table. -/
inductive Instr where
  -- register arithmetic and logic (R172, R173)
  | add (a b c : XReg)
  | sub (a b c : XReg)
  | mul (a b c : XReg)
  | mulhs (a b c : XReg)
  | mulhu (a b c : XReg)
  | divs (a b c : XReg)
  | divu (a b c : XReg)
  | rems (a b c : XReg)
  | remu (a b c : XReg)
  | min (a b c : XReg)
  | max (a b c : XReg)
  | minu (a b c : XReg)
  | maxu (a b c : XReg)
  | and (a b c : XReg)
  | or (a b c : XReg)
  | xor (a b c : XReg)
  | andn (a b c : XReg)
  | shl (a b c : XReg)
  | shr (a b c : XReg)
  | sra (a b c : XReg)
  | rol (a b c : XReg)
  | seq (a b c : XReg)
  | slt (a b c : XReg)
  | sltu (a b c : XReg)
  | sel (a b c : XReg)
  | clz (a b : XReg)
  | ctz (a b : XReg)
  | popc (a b : XReg)
  | mov (a b : XReg)
  | exts (a b : XReg) (n : ExtWidth)
  | extz (a b : XReg) (n : ExtWidth)
  -- immediates and addresses (R175, R176)
  | addi (a b : XReg) (imm : BitVec 32)
  | andi (a b : XReg) (imm : BitVec 32)
  | ori (a b : XReg) (imm : BitVec 32)
  | xori (a b : XReg) (imm : BitVec 32)
  | shli (a b : XReg) (n : BitVec 6)
  | shri (a b : XReg) (n : BitVec 6)
  | srai (a b : XReg) (n : BitVec 6)
  | roli (a b : XReg) (n : BitVec 6)
  | limm (a : XReg) (imm : BitVec 32)
  | limmh (a : XReg) (imm : BitVec 32)
  | lea (a base index : XReg) (size : Size) (disp : BitVec 32)
  -- loads and stores (R177, R178)
  | ldb (a : XReg) (m : MemOp)
  | ldh (a : XReg) (m : MemOp)
  | ldw (a : XReg) (m : MemOp)
  | ldd (a : XReg) (m : MemOp)
  | ldbu (a : XReg) (m : MemOp)
  | ldhu (a : XReg) (m : MemOp)
  | ldwu (a : XReg) (m : MemOp)
  | stb (a : XReg) (m : MemOp)
  | sth (a : XReg) (m : MemOp)
  | stw (a : XReg) (m : MemOp)
  | std (a : XReg) (m : MemOp)
  | ldv (a : VReg) (m : MemOp)
  | stv (a : VReg) (m : MemOp)
  -- atomics (R179, R180)
  | aadd (a : XReg) (o : AtOp)
  | axchg (a : XReg) (o : AtOp)
  | aand (a : XReg) (o : AtOp)
  | aor (a : XReg) (o : AtOp)
  | axor (a : XReg) (o : AtOp)
  | acas (a : XReg) (o : AtOp)
  | amin (a : XReg) (o : AtOp)
  | aminu (a : XReg) (o : AtOp)
  | amax (a : XReg) (o : AtOp)
  | amaxu (a : XReg) (o : AtOp)
  -- waiting, fences, cluster barriers (R181 to R183)
  | waita (a base : XReg) (scope : Scope) (disp : BitVec 32)
  | fence (kind : BitVec 4) (scope : Scope)
  | cbar
  -- control flow (R184 to R189)
  | bez (a : XReg) (t : CodeRef)
  | bnz (a : XReg) (t : CodeRef)
  | bltz (a : XReg) (t : CodeRef)
  | bgez (a : XReg) (t : CodeRef)
  | jmp (t : CodeRef)
  | call (t : CodeRef)
  | jr (b : XReg)
  | callr (b : XReg)
  | ret
  | trap (code : BitVec 32)
  | endTask (next : BitVec 32)
  -- vector instructions (R190 to R202)
  | vadd (a b c : VReg) (f : VCtl)
  | vsub (a b c : VReg) (f : VCtl)
  | vmul (a b c : VReg) (f : VCtl)
  | vfma (a b c : VReg) (f : VCtl)
  | vfms (a b c : VReg) (f : VCtl)
  | vmin (a b c : VReg) (f : VCtl)
  | vmax (a b c : VReg) (f : VCtl)
  | vabs (a b : VReg) (f : VCtl)
  | vneg (a b : VReg) (f : VCtl)
  | vdiv (a b c : VReg) (f : VCtl)
  | vsqrt (a b : VReg) (f : VCtl)
  | vrcp (a b : VReg) (f : VCtl)
  | vrsq (a b : VReg) (f : VCtl)
  | vcmpeq (a : PReg) (b c : VReg) (pred : PReg) (sf u : Bool)
  | vcmplt (a : PReg) (b c : VReg) (pred : PReg) (sf u : Bool)
  | vcmple (a : PReg) (b c : VReg) (pred : PReg) (sf u : Bool)
  | vsel (a b c : VReg) (pred : PReg)
  | vand (a b c : VReg) (pred : PReg)
  | vor (a b c : VReg) (pred : PReg)
  | vxor (a b c : VReg) (pred : PReg)
  | vshl (a b : VReg) (n : VAmount) (pred : PReg)
  | vshr (a b : VReg) (n : VAmount) (pred : PReg)
  | vsra (a b : VReg) (n : VAmount) (pred : PReg)
  | viadd (a b c : VReg) (s : Sat) (pred : PReg)
  | visub (a b c : VReg) (s : Sat) (pred : PReg)
  | vimul (a b c : VReg) (s : Sat) (pred : PReg)
  | vperm (a b c : VReg) (pred : PReg)
  | vredadd (a b : VReg) (f : VCtl) (sat : BitVec 2)
  | vredmax (a b : VReg) (f : VCtl) (sat : BitVec 2)
  | vbcast (a b : VReg) (k : BitVec 4) (pred : PReg)
  | vmov (a b : VReg) (pred : PReg)
  | vins (a : VReg) (b : XReg) (k : BitVec 4)
  | vext (a : XReg) (b : VReg) (z : Bool) (k : BitVec 4)
  | vtag (a b : VReg) (t : Tag)
  | vflags (a : XReg) (flag : BitVec 3) (clr : Bool) (pred : PReg)
  | vcvt (a b : VReg) (t : Tag) (f : VCtl) (ov : Ovf) (dsel ssel : BitVec 3)
  | vrng (a : VReg) (pred : PReg)
  -- tile loads, streams, blocks, copies (R203 to R217)
  | ldt (a b : DReg) (scope : Scope) (tr : Transp)
  | sbind (pg : Gen) (b c : DReg) (cfg : StreamCfg) (rep : BitVec 32) (wtag : Tag)
  | sgate (pg : Gen) (b : PReg) (start : BitVec 32)
  | swait (pg : Gen) (scope : Scope)
  | fload (h : Hnd) (index : BitVec 16)
  | fstart (h : Hnd)
  | fbar (scope : Scope)
  | fwait (scope : Scope) (mask : BitVec 8)
  | frestart (h : Hnd)
  | fqry (a : XReg) (h : Hnd) (item : BitVec 4)
  | acopy (a b c e : XReg) (f : Option XReg) (scope : Scope) (disp : BitVec 32)
  | binit (b c : XReg) (disp : BitVec 32) (scope : Scope)
  | bexpect (b c : XReg) (disp : BitVec 32) (scope : Scope)
  | bwait (b c : XReg) (disp : BitVec 32) (scope : Scope)
  -- rows, control registers, system (R218 to R223)
  | rowopen (a b : XReg)
  | rowholdKeep (a b : XReg)
  | rowholdDrop (a b : XReg)
  | rowrel (a b : XReg)
  | rowqry (a b : XReg)
  | crd (a : XReg) (num : BitVec 12)
  | cwr (a : XReg) (num : BitVec 12)
  | rett
  | rqrd (a b : XReg)
  | rqinj (b : XReg)
  | tlbinv (b : XReg) (all : Bool) (scope : Scope)
  | idle (b : XReg)
  | brk
  -- column operations (R244, R283)
  | qnop (h : QHead)
  | qadd (o : QOp2) (s : Sat)
  | qsub (o : QOp2) (s : Sat)
  | qmul (o : QOp2) (s : Sat)
  | qmac (o : QOp3) (s : Sat)
  | qand (o : QOp2)
  | qor (o : QOp2)
  | qxor (o : QOp2)
  | qshl (o : QOp1) (n : QAmount)
  | qshr (o : QOp1) (n : QAmount)
  | qsra (o : QOp1) (n : QAmount)
  | qmin (o : QOp2) (u : Bool)
  | qmax (o : QOp2) (u : Bool)
  | qcmp (o : QOp2) (cond : QCond)
  | qsel (o : QOp3)
  | qfadd (o : QOp2) (rm : Rm)
  | qfmul (o : QOp2) (rm : Rm)
  | qfma (o : QOp3) (rm : Rm)
  | qfmin (o : QOp2)
  | qfmax (o : QOp2)
  | qcvt (o : QOp1) (t : Tag) (rm : Rm) (ov : Ovf) (dsel ssel : BitVec 3)
  | qrecv (h : QHead) (dst : Option (Fin 16)) (p : Fin 8) (peek : Bool) (ep : Ep)
  | qsend (h : QHead) (p : Fin 8) (s1 : QSrc) (gate : Option (Fin 16)) (e : Bool) (xoff : BitVec 5) (ep : Ep)
  | qlane (h : QHead) (dst : QDst) (c : Fin 16) (xoff : BitVec 5) (z : Bool)
  | qbcast (h : QHead) (dst : QDst) (c : Fin 16) (lane : BitVec 4)
  | qredl (h : QHead) (dst : QDst) (s1 : QSrc) (op : RedOp) (rm : Rm) (ep : Ep)
  | qmov (h : QHead) (dst : QDst) (f : MovForm) (ep : Ep)
  | qtstep (h : QHead) (p : Fin 4) (rep : BitVec 4) (gb : BitVec 5) (na : BitVec 2) (lb za : Bool)
  | qdrain (h : QHead) (p : Fin 8) (n0 : BitVec 4) (g : BitVec 5) (ov : Ovf) (rm : Rm) (pk : Bool)
  | qscale (h : QHead) (f : ScaleForm)
  | qiter (h : QHead) (dst : QDst) (item : BitVec 3)
  | qempty (h : QHead) (dst : Option (Fin 16)) (p : Fin 8) (c : Bool)
  | qrsym (h : QHead)
  | qrload (h : QHead) (p : Fin 8) (e0 : BitVec 10)
  | qrdrain (h : QHead) (p : Fin 8) (e0 : BitVec 10) (ov : Ovf) (rm : Rm)
  -- steps of control cores and their engines
  | variableLatencyComplete (core : CoreId) (k : Fin 8)
  | storePerform (core : CoreId) (second : Bool) (k : Fin 8)
  | windowRack (core : CoreId)
  | waiterProceed (core : CoreId)
  | idleTimeout (core : CoreId)
  | blockLoadComplete (core : CoreId) (h : Hnd)
  | blockFirstIssue (core : CoreId) (h : Hnd)
  | blockIssueFinish (core : CoreId) (h : Hnd)
  | blockComplete (core : CoreId) (h : Hnd)
  | generatorReadReturn (core : CoreId) (g : Gen)
  | generatorStore (core : CoreId) (g : Gen) (lane : Fin 16)
  | streamFinish (core : CoreId) (g : Gen)
  | copyComplete (core : CoreId) (slot : Fin 512)
  | copyFault (core : CoreId) (slot : Fin 512)
  | pageWalkComplete (k : Nat)
  | takeAsyncTrap (core : CoreId)
  | watchdog (core : CoreId) (us : BitVec 32)
  | rowRefresh (stack : Fin 12) (pc : Fin 64)
  | rowReopen (stack : Fin 12) (pc : Fin 64) (slot : Fin 4)
  | preemption (core : CoreId)
  | swapComplete (core : CoreId)
  | bankSpillDone (core : CoreId)
  | scratchpadBankExchange (core : CoreId) (b : Fin 64)
  -- steps of the command processor and the floor allocators
  | quantumBoundary (part : PartId)
  | taskDispatch (part : PartId)
  | fabricLoadEnd (part : PartId) (graph : Nat)
  | graphReady (part : PartId) (graph : Nat)
  | graphComplete (part : PartId) (graph : Nat)
  | launch (part : PartId) (q : Fin 512)
  | nop (part : PartId) (q : Fin 512)
  | pageSetPlace (core : CoreId) (h : Hnd)
  | pageSetMove (core : CoreId) (h : Hnd)
  | pageClear (die : DieId) (page : Fin 256)
  -- further steps of fabric blocks, dies and checkpoints
  | opStep (die : DieId)
  | diePark (die : DieId)
  | dieGate (die : DieId)
  | dieWakeDone (die : DieId)
  | checkpointDone (badUnits : List Nat) (headerError : Bool)
  | loopContextAdvance (core : CoreId) (h : Hnd)
  -- host and peer messages
  | write (m : Msg)
  | readReq (m : Msg)
  | doorbell (m : Msg)
  | ack (m : Msg)
  | nak (m : Msg)
  | syncReq (m : Msg)
  | syncResp (m : Msg)
  | load (m : Msg)
  | firmwareLoad (image : List Byte)
  | mode (m : Msg)
  | pcreate (m : Msg)
  | preset (m : Msg)
  | pdestroy (m : Msg)
  | qdesc (m : Msg)
  | flip (m : Msg)
  | faultAnswer (m : Msg)
  | taskResume (m : Msg)
  | ctxTeardown (m : Msg)
  | link (m : Msg)
  | macsecKey (m : Msg)
  | wdlimit (m : Msg)
  | devReadResp (m : Msg)
  | flushDone (m : Msg)
  | peerWrite (port : Fin 8) (m : Msg)
  | peerReadReq (port : Fin 8) (m : Msg)
  | peerReadResp (port : Fin 8) (m : Msg)
  | reduce (port : Fin 8) (m : Msg)
  | ackTimeout (part : BitVec 8) (chan : BitVec 12)
  | retransmitTimeout (part : BitVec 8) (chan : BitVec 12)
  -- die links, device reset, command-processor take-over
  | linkRetrainStart (die : Fin 16) (m : Fin 24)
  | linkRetrainDone (die : Fin 16) (m : Fin 24)
  | linkRetrainTimeout (die : Fin 16) (m : Fin 24)
  | deviceReset
  | cpMachineCheck
  | takeoverTimeout
  | cproleTakeClear
  | kickClear (part : PartId) (q : Fin 512)
  -- power, clusters, checkpoint, errors
  | registerWrite (off : BitVec 16) (v : Word)
  | dieOnline (die : DieId)
  | dieDrain (die : DieId)
  | dieGateRequest (die : DieId)
  | opselWrite (die : DieId) (p : BitVec 3)
  | powerFloorStep (slower : Bool)
  | thermalFloorStep (die : DieId) (slower : Bool)
  | thermalFault (die : DieId)
  | thermalCutoff
  | hbmSelfRefresh (part : PartId)
  | clusterRetain (die : DieId) (k : ClusterId)
  | clusterOff (die : DieId) (k : ClusterId)
  | clusterWake (die : DieId) (k : ClusterId)
  | clusterSaveStart (die : DieId) (k : ClusterId)
  | clusterSaveDone (die : DieId) (k : ClusterId)
  | clusterRailOffDone (die : DieId) (k : ClusterId)
  | clusterRampDone (die : DieId) (k : ClusterId)
  | clusterRestoreDone (die : DieId) (k : ClusterId)
  | checkpointSave (pmask : BitVec 12)
  | checkpointRestore (pmask : BitVec 12)
  | errorCorrected (unit part : BitVec 8) (addr : Word)
  | linePoisoned (unit part : BitVec 8) (addr : Word)
  | uncontainedError (unit part : BitVec 8)
  | scrub
  | mainSupplyRemoved
  | frameDropped (f : EthFrame)
  | messageRefused (type : BitVec 8) (m : Msg)
  | controlRefused (m : Msg)
  | flitCrcError (die : Fin 16) (m : Fin 24)
  | auxiliarySupplyRemoved
  deriving DecidableEq, Repr

end Sys2Proof
end

