-- ==== Sys2Proof/WellFormed.lean ====
section
/-!
DEFINITION. Which terms of Instr stand for an instruction the manual gives a meaning: the field checks that do not
depend on the machine's state (R123, R156 to R161, R193 to R207, R244, R283). A control-core word or schedule word
whose fields break one of them is refused by the decoder; device steps have no field to check.
-/

namespace Sys2Proof

/-- Loads are plain or acquire (R123, R177). -/
def MemOp.wfLoad (m : MemOp) : Bool := m.ord == .plain || m.ord == .acq

/-- Stores are plain or release (R123, R177). -/
def MemOp.wfStore (m : MemOp) : Bool := m.ord == .plain || m.ord == .rel

/-- WORD is 0 to 29 (R156). -/
def CodeRef.wf (t : CodeRef) : Bool := decide (t.word.toNat < 30)

/-- RM = STOCH is illegal in binary32 arithmetic (R192). -/
def VCtl.wfIeee (f : VCtl) : Bool := f.rm != .stoch

/-- A conversion target that fits a lane (R201, R257). -/
def Tag.wfTarget (t : Tag) : Bool := t != 0 && t != 4 && t != 14 && t != 15

/-- The field rules of the stream configuration word that need no register (R205, R207). STG with MATB = 0 is refused like a
reserved field: DESIGN CHOICE, R207 gives STG a meaning for MATB alone and does not say (log 70). -/
def StreamCfg.wf (s : StreamCfg) (c : DReg) (rep : BitVec 32) (wtag : Tag) : Bool :=
  rep != 0
  && !(s.tr != .none && s.gath)
  && !(s.write && (s.tr != .none || s.gath || s.mxs || s.wid || s.rsym))
  && !(s.matb && (s.write || s.gath))
  && (s.matb || s.stg == 0)
  && (s.wid || wtag == 0)
  && !(s.wid && wtag == 0)
  && (s.gath || c == 0)

/-- A source is an in port. -/
def QSrc.isPort : QSrc → Bool
  | .inp _ => true
  | _ => false

/-- A source is a cell register. -/
def QSrc.isCell : QSrc → Bool
  | .cell _ => true
  | _ => false

/-- XOFF is not the reserved code, and is 0 unless S1 is a cell register (R237). -/
def wfXoff (xoff : BitVec 5) (s1 : QSrc) : Bool := xoff != 16 && (xoff == 0 || s1.isCell)

/-- EP is 00 where no source is a port (R244). -/
def wfEp (ep : Ep) (ports : Bool) : Bool := ports || ep == .absorb

/-- Field rules of one-source words. -/
def QOp1.wf (o : QOp1) : Bool := wfXoff o.xoff o.s1 && wfEp o.ep o.s1.isPort

/-- Field rules of two-source words. -/
def QOp2.wf (o : QOp2) : Bool := wfXoff o.xoff o.s1 && wfEp o.ep (o.s1.isPort || o.s2.isPort)

/-- Field rules of three-source words. -/
def QOp3.wf (o : QOp3) : Bool :=
  wfXoff o.xoff o.s1 && wfEp o.ep (o.s1.isPort || o.s2.isPort || o.s3.isPort)

/-- Field rules of the column shifts. -/
def wfShift (o : QOp1) : QAmount → Bool
  | .src s2 => wfXoff o.xoff o.s1 && wfEp o.ep (o.s1.isPort || s2.isPort)
  | .imm _ => o.wf

/-- Float codes of QREDL round, integer codes have XF = 0 (R264). -/
def RedOp.wfRm (op : RedOp) (rm : Rm) : Bool :=
  match op with
  | .fadd | .fmax => rm != .stoch
  | _ => rm == .rne

/-- The destination and field rules of the five QMOV forms (R256). -/
def MovForm.wf (f : MovForm) (dst : QDst) (ep : Ep) : Bool :=
  match f with
  | .move s1 x => wfXoff x s1 && wfEp ep s1.isPort
  | .lo _ => ep == .absorb
  | .mid _ | .hi _ => ep == .absorb && (match dst with | .cell _ => true | _ => false)
  | .tag s1 x _ => wfXoff x s1 && wfEp ep s1.isPort

/-- The instruction meets every field rule that does not depend on the machine's state. -/
def Instr.wf : Instr → Bool
  | .ldb _ m | .ldh _ m | .ldw _ m | .ldd _ m | .ldbu _ m | .ldhu _ m | .ldwu _ m | .ldv _ m => m.wfLoad
  | .stb _ m | .sth _ m | .stw _ m | .std _ m | .stv _ m => m.wfStore
  | .fence kind _ => kind != 0
  | .bez _ t | .bnz _ t | .bltz _ t | .bgez _ t | .jmp t | .call t => t.wf
  | .vadd _ _ _ f | .vsub _ _ _ f | .vmul _ _ _ f | .vfma _ _ _ f | .vfms _ _ _ f | .vmin _ _ _ f
  | .vmax _ _ _ f | .vdiv _ _ _ f | .vabs _ _ f | .vneg _ _ f | .vsqrt _ _ f | .vrcp _ _ f | .vrsq _ _ f => f.wfIeee
  | .vflags _ flag _ _ => decide (flag.toNat < 5)
  | .vcvt _ _ t _ _ _ _ => Tag.wfTarget t
  | .sbind _ _ c cfg rep wtag => cfg.wf c rep wtag
  | .fqry _ _ item => decide (item.toNat ≤ 10)
  | .tlbinv b all scope => scope != .sys && (!all || b == .w 0)
  | .qadd o _ | .qsub o _ | .qmul o _ => o.wf
  | .qmac o _ => o.wf
  | .qand o | .qor o | .qxor o | .qmin o _ | .qmax o _ | .qcmp o _ | .qfmin o | .qfmax o => o.wf
  | .qshl o n | .qshr o n | .qsra o n => wfShift o n
  | .qsel o => o.wf
  | .qfadd o rm | .qfmul o rm => o.wf && rm != .stoch
  | .qfma o rm => o.wf && rm != .stoch
  | .qcvt o t rm _ _ _ => o.wf && Tag.wfTarget t && rm != .stoch
  | .qsend _ _ s1 _ e x ep => wfXoff x s1 && wfEp ep s1.isPort && (!e || s1 == .zero)
  | .qlane _ _ _ x _ => x != 16
  | .qredl _ _ s1 op rm ep => wfEp ep s1.isPort && op.wfRm rm
  | .qmov _ dst f ep => f.wf dst ep
  | .qtstep _ p _ _ na _ _ => decide (p.val + na.toNat ≤ 3)
  | .qiter _ _ item => decide (item.toNat ≤ 4)
  | _ => true

end Sys2Proof
end

