-- ==== Sys2Proof/Decode.lean ====
section
/-!
DEFINITION. The decoder of control-core words (R152 to R161, R203) and of schedule words (R234 to R241, R244, R283),
total and rejecting by name, and the encoders written from the same encoding tables. Every rejection of a fetched
control-core instruction raises ILLEGAL_OP (R161); every rejection of a schedule word makes FLOAD raise ILLEGAL_OP.
-/

namespace Sys2Proof

/-- Why a word is not an instruction. -/
inductive Reject where
  /-- fewer words than the format needs -/
  | truncated
  /-- a major opcode or column operation that R160 or R241 does not list -/
  | unassignedMajor
  /-- an FN, COND or SIZE value not listed under its major -/
  | unassignedFn
  /-- a register specifier R153 or R235 reserves -/
  | reservedSpecifier
  /-- a reserved code in a field -/
  | reservedCode
  /-- a nonzero field that the entry leaves unused (R159, R234) -/
  | unusedField
  /-- a combination of fields the entry calls illegal -/
  | illegalFields
  deriving DecidableEq, Repr

/-- Continue only when the condition holds. -/
def ensure (b : Bool) (r : Reject) : Except Reject Unit := if b then .ok () else .error r

/-! ### Codes of the small fields -/

/-- Specifier of an integer register (R153). -/
def XReg.code : XReg → BitVec 6
  | .w i => BitVec.ofNat 6 i.val
  | .g i => BitVec.ofNat 6 (32 + i.val)

/-- The integer register of a specifier (R153). -/
def xreg (s : BitVec 6) : Except Reject XReg :=
  if h : s.toNat < 32 then .ok (.w ⟨s.toNat, h⟩)
  else if h2 : s.toNat - 32 < 16 then .ok (.g ⟨s.toNat - 32, h2⟩)
  else .error .reservedSpecifier

/-- Specifier of a vector register (R153). -/
def vcode (v : VReg) : BitVec 6 := BitVec.ofNat 6 v.val
/-- The vector register of a specifier. -/
def vreg (s : BitVec 6) : Except Reject VReg :=
  if h : s.toNat < 32 then .ok ⟨s.toNat, h⟩ else .error .reservedSpecifier

/-- Specifier of a predicate register (R153). -/
def pcode (p : PReg) : BitVec 6 := BitVec.ofNat 6 (48 + p.val)
/-- The predicate register of a specifier. -/
def preg (s : BitVec 6) : Except Reject PReg :=
  if s.toNat < 48 then .error .reservedSpecifier
  else if h : s.toNat - 48 < 8 then .ok ⟨s.toNat - 48, h⟩ else .error .reservedSpecifier

/-- Specifier of a descriptor (R153). -/
def dcode (d : DReg) : BitVec 6 := BitVec.ofNat 6 d.val
/-- The descriptor of a specifier. -/
def dreg (s : BitVec 6) : Except Reject DReg :=
  if h : s.toNat < 16 then .ok ⟨s.toNat, h⟩ else .error .reservedSpecifier

/-- Port-generator number in A[1:0] (R203). -/
def gcode (g : Gen) : BitVec 6 := BitVec.ofNat 6 g.val
/-- The port generator of an A field. -/
def genOf (s : BitVec 6) : Except Reject Gen :=
  if h : s.toNat < 4 then .ok ⟨s.toNat, h⟩ else .error .unusedField

/-- Block handle in A[2:0] (R203). -/
def hcode (h : Hnd) : BitVec 6 := BitVec.ofNat 6 h.val
/-- The handle of an A field. -/
def hndOf (s : BitVec 6) : Except Reject Hnd :=
  if h : s.toNat < 8 then .ok ⟨s.toNat, h⟩ else .error .unusedField

/-- Order code (R123). -/
def Order.code : Order → BitVec 2
  | .plain => 0 | .acq => 1 | .rel => 2 | .acqRel => 3
/-- Order of a code. -/
def orderOf (b : BitVec 2) : Order :=
  if b == 0 then .plain else if b == 1 then .acq else if b == 2 then .rel else .acqRel

/-- Scope code (R123). -/
def Scope.code : Scope → BitVec 3
  | .core => 0 | .clu => 1 | .die => 2 | .dev => 3 | .sys => 4
/-- Scope of a code. -/
def scopeOf (b : BitVec 3) : Except Reject Scope :=
  if b == 0 then .ok .core else if b == 1 then .ok .clu else if b == 2 then .ok .die
  else if b == 3 then .ok .dev else if b == 4 then .ok .sys else .error .reservedCode

/-- Rounding code (R80). -/
def Rm.code : Rm → BitVec 3
  | .rne => 0 | .rtz => 1 | .rup => 2 | .rdn => 3 | .rna => 4 | .stoch => 5
/-- Rounding of a code. -/
def rmOf (b : BitVec 3) : Except Reject Rm :=
  if b == 0 then .ok .rne else if b == 1 then .ok .rtz else if b == 2 then .ok .rup
  else if b == 3 then .ok .rdn else if b == 4 then .ok .rna else if b == 5 then .ok .stoch
  else .error .reservedCode

/-- Overflow policy code (R83). -/
def Ovf.code : Ovf → BitVec 2
  | .sat => 0 | .inf => 1 | .nan => 2 | .trap => 3
/-- Overflow policy of a code. -/
def ovfOf (b : BitVec 2) : Ovf :=
  if b == 0 then .sat else if b == 1 then .inf else if b == 2 then .nan else .trap

/-- Size code (R155). -/
def Size.code : Size → BitVec 2
  | .b1 => 0 | .b2 => 1 | .b4 => 2 | .b8 => 3
/-- Size of a code. -/
def sizeOf2 (b : BitVec 2) : Size :=
  if b == 0 then .b1 else if b == 1 then .b2 else if b == 2 then .b4 else .b8

/-- Saturation code (R196, R252). -/
def Sat.code : Sat → BitVec 2
  | .wrap => 0 | .signed => 1 | .unsigned => 2
/-- Saturation of a code. -/
def satOf (b : BitVec 2) : Except Reject Sat :=
  if b == 0 then .ok .wrap else if b == 1 then .ok .signed else if b == 2 then .ok .unsigned
  else .error .reservedCode

/-- Transpose code (R204, R207). -/
def Transp.code : Transp → BitVec 2
  | .none => 0 | .t8 => 1 | .t16 => 2
/-- Transpose of a code. -/
def transpOf (b : BitVec 2) : Except Reject Transp :=
  if b == 0 then .ok .none else if b == 1 then .ok .t8 else if b == 2 then .ok .t16
  else .error .reservedCode

/-- C field of EXTS and EXTZ (R174). -/
def ExtWidth.code : ExtWidth → BitVec 6
  | .w8 => 0 | .w16 => 1 | .w32 => 2
/-- Width of a C field. -/
def extOf (c : BitVec 6) : Except Reject ExtWidth :=
  if c == 0 then .ok .w8 else if c == 1 then .ok .w16 else if c == 2 then .ok .w32
  else if c == 3 then .error .reservedCode else .error .unusedField

/-- One bit as a field. -/
def bit (b : Bool) : BitVec 1 := BitVec.ofBool b

/-! ### Word 0 -/

/-- The five fields of word 0 (R152). -/
structure Word0 where
  maj : BitVec 7
  a : BitVec 6
  b : BitVec 6
  c : BitVec 6
  fn : BitVec 7
  deriving DecidableEq, Repr

/-- Word 0 from its fields (R152). -/
def Word0.pack (f : Word0) : Half := f.maj ++ f.a ++ f.b ++ f.c ++ f.fn

/-- The fields of word 0 (R152). -/
def Word0.of (w : Half) : Word0 :=
  ⟨w.extractLsb' 25 7, w.extractLsb' 19 6, w.extractLsb' 13 6, w.extractLsb' 7 6, w.extractLsb' 0 7⟩

/-- Word 0 from numbers for MAJ and FN. -/
def w0 (maj : Nat) (a b c : BitVec 6) (fn : Nat) : Half :=
  Word0.pack ⟨BitVec.ofNat 7 maj, a, b, c, BitVec.ofNat 7 fn⟩

/-- Words of an instruction by its format (R150, R154, R158): CR and CB one, CI, CM and CV two, CS three or four. -/
def lengthOf (f : Word0) : Nat :=
  match f.maj.toNat with
  | 0x00 | 0x01 | 0x02 | 0x37 | 0x38 | 0x39 | 0x3A | 0x78 | 0x7C | 0x7D => 1
  | 0x10 | 0x11 | 0x20 | 0x21 | 0x22 | 0x23 | 0x24 | 0x30 | 0x31 | 0x32 | 0x33 | 0x34 | 0x35 | 0x3B => 2
  | 0x40 | 0x41 | 0x42 | 0x43 | 0x44 | 0x60 | 0x61 => 2
  | 0x25 | 0x70 | 0x71 | 0x72 => if f.fn.getLsbD 6 then 4 else 3
  | _ => 0

/-! ### CR format -/

/-- Three integer registers. -/
def dec3 (mk : XReg → XReg → XReg → Instr) (f : Word0) : Except Reject Instr := do
  let a ← xreg f.a
  let b ← xreg f.b
  let c ← xreg f.c
  .ok (mk a b c)

/-- Two integer registers, C zero. -/
def dec2 (mk : XReg → XReg → Instr) (f : Word0) : Except Reject Instr := do
  let a ← xreg f.a
  let b ← xreg f.b
  ensure (f.c == 0) .unusedField
  .ok (mk a b)

/-- EXTS and EXTZ. -/
def decExt (mk : XReg → XReg → ExtWidth → Instr) (f : Word0) : Except Reject Instr := do
  let a ← xreg f.a
  let b ← xreg f.b
  let n ← extOf f.c
  .ok (mk a b n)

/-- Major 0x00 (R160). -/
def decMaj00 (f : Word0) : Except Reject Instr :=
  match f.fn.toNat with
  | 0x00 => dec3 .add f
  | 0x01 => dec3 .sub f
  | 0x02 => dec3 .mul f
  | 0x03 => dec3 .mulhs f
  | 0x04 => dec3 .mulhu f
  | 0x05 => dec3 .divs f
  | 0x06 => dec3 .divu f
  | 0x07 => dec3 .rems f
  | 0x08 => dec3 .remu f
  | 0x09 => dec3 .min f
  | 0x0A => dec3 .max f
  | 0x0B => dec3 .minu f
  | 0x0C => dec3 .maxu f
  | _ => .error .unassignedFn

/-- Major 0x01. -/
def decMaj01 (f : Word0) : Except Reject Instr :=
  match f.fn.toNat with
  | 0x00 => dec3 .and f
  | 0x01 => dec3 .or f
  | 0x02 => dec3 .xor f
  | 0x03 => dec3 .andn f
  | 0x04 => dec3 .shl f
  | 0x05 => dec3 .shr f
  | 0x06 => dec3 .sra f
  | 0x07 => dec3 .rol f
  | _ => .error .unassignedFn

/-- Major 0x02. -/
def decMaj02 (f : Word0) : Except Reject Instr :=
  match f.fn.toNat with
  | 0x00 => dec3 .seq f
  | 0x01 => dec3 .slt f
  | 0x02 => dec3 .sltu f
  | 0x03 => dec3 .sel f
  | 0x04 => dec2 .clz f
  | 0x05 => dec2 .ctz f
  | 0x06 => dec2 .popc f
  | 0x07 => dec2 .mov f
  | 0x08 => decExt .exts f
  | 0x09 => decExt .extz f
  | _ => .error .unassignedFn

/-! ### CI format -/

/-- Destination, source, 32-bit immediate. -/
def decImm (mk : XReg → XReg → BitVec 32 → Instr) (f : Word0) (w1 : Half) : Except Reject Instr := do
  let a ← xreg f.a
  let b ← xreg f.b
  ensure (f.c == 0) .unusedField
  .ok (mk a b w1)

/-- Shift by an immediate amount: imm[31:6] must be zero (R175). -/
def decShi (mk : XReg → XReg → BitVec 6 → Instr) (f : Word0) (w1 : Half) : Except Reject Instr := do
  let a ← xreg f.a
  let b ← xreg f.b
  ensure (f.c == 0) .unusedField
  ensure (w1.extractLsb' 6 26 == 0) .illegalFields
  .ok (mk a b (w1.extractLsb' 0 6))

/-- LIMM and LIMMH: B must be 0. -/
def decLimm (mk : XReg → BitVec 32 → Instr) (f : Word0) (w1 : Half) : Except Reject Instr := do
  let a ← xreg f.a
  ensure (f.b == 0) .unusedField
  ensure (f.c == 0) .unusedField
  .ok (mk a w1)

/-- Major 0x10. -/
def decMaj10 (f : Word0) (w1 : Half) : Except Reject Instr :=
  match f.fn.toNat with
  | 0x00 => decImm .addi f w1
  | 0x01 => decImm .andi f w1
  | 0x02 => decImm .ori f w1
  | 0x03 => decImm .xori f w1
  | 0x04 => decShi .shli f w1
  | 0x05 => decShi .shri f w1
  | 0x06 => decShi .srai f w1
  | 0x07 => decShi .roli f w1
  | 0x08 => decLimm .limm f w1
  | 0x09 => decLimm .limmh f w1
  | _ => .error .unassignedFn

/-! ### CM format -/

/-- FN of CM format: scope, order, size (R155). -/
def cmFn (s : Scope) (o : Order) (z : Size) : BitVec 7 := s.code ++ o.code ++ z.code

/-- LEA: ORD and SCOPE zero (R176). -/
def decLea (f : Word0) (w1 : Half) : Except Reject Instr := do
  let a ← xreg f.a
  let b ← xreg f.b
  let c ← xreg f.c
  ensure (f.fn.extractLsb' 2 5 == 0) .unusedField
  .ok (.lea a b c (sizeOf2 (f.fn.extractLsb' 0 2)) w1)

/-- The memory operand of a load or store. -/
def decMem (f : Word0) (w1 : Half) : Except Reject MemOp := do
  let b ← xreg f.b
  let c ← xreg f.c
  let s ← scopeOf (f.fn.extractLsb' 4 3)
  .ok ⟨b, c, orderOf (f.fn.extractLsb' 2 2), s, w1⟩

/-- A load: order plain or acquire (R123). -/
def decLoad (mk : XReg → MemOp → Instr) (f : Word0) (w1 : Half) : Except Reject Instr := do
  let a ← xreg f.a
  let m ← decMem f w1
  ensure m.wfLoad .illegalFields
  .ok (mk a m)

/-- A store: order plain or release (R123). -/
def decStore (mk : XReg → MemOp → Instr) (f : Word0) (w1 : Half) : Except Reject Instr := do
  let a ← xreg f.a
  let m ← decMem f w1
  ensure m.wfStore .illegalFields
  .ok (mk a m)

/-- Majors 0x20 to 0x22: the mnemonic follows from SIZE (R160). -/
def decMaj20 (f : Word0) (w1 : Half) : Except Reject Instr :=
  match sizeOf2 (f.fn.extractLsb' 0 2) with
  | .b1 => decLoad .ldb f w1
  | .b2 => decLoad .ldh f w1
  | .b4 => decLoad .ldw f w1
  | .b8 => decLoad .ldd f w1

/-- Major 0x21. -/
def decMaj21 (f : Word0) (w1 : Half) : Except Reject Instr :=
  match sizeOf2 (f.fn.extractLsb' 0 2) with
  | .b1 => decLoad .ldbu f w1
  | .b2 => decLoad .ldhu f w1
  | .b4 => decLoad .ldwu f w1
  | .b8 => .error .unassignedFn

/-- Major 0x22. -/
def decMaj22 (f : Word0) (w1 : Half) : Except Reject Instr :=
  match sizeOf2 (f.fn.extractLsb' 0 2) with
  | .b1 => decStore .stb f w1
  | .b2 => decStore .sth f w1
  | .b4 => decStore .stw f w1
  | .b8 => decStore .std f w1

/-- LDV: SIZE must be 10. -/
def decLdv (f : Word0) (w1 : Half) : Except Reject Instr := do
  ensure (f.fn.extractLsb' 0 2 == 2) .unassignedFn
  let a ← vreg f.a
  let m ← decMem f w1
  ensure m.wfLoad .illegalFields
  .ok (.ldv a m)

/-- STV: SIZE must be 10. -/
def decStv (f : Word0) (w1 : Half) : Except Reject Instr := do
  ensure (f.fn.extractLsb' 0 2 == 2) .unassignedFn
  let a ← vreg f.a
  let m ← decMem f w1
  ensure m.wfStore .illegalFields
  .ok (.stv a m)

/-- FN of an atomic: scope, order, variant, size (R155, R179). -/
def atFn (s : Scope) (o : Order) (v wide : Bool) : BitVec 7 := s.code ++ o.code ++ bit v ++ bit wide

/-- An atomic; FN[1] chooses between the two mnemonics of the major. -/
def decAtomic (mk0 mk1 : XReg → AtOp → Instr) (f : Word0) (w1 : Half) : Except Reject Instr := do
  let a ← xreg f.a
  let b ← xreg f.b
  let c ← xreg f.c
  let s ← scopeOf (f.fn.extractLsb' 4 3)
  .ok ((if f.fn.getLsbD 1 then mk1 else mk0) a ⟨f.fn.getLsbD 0, b, c, orderOf (f.fn.extractLsb' 2 2), s, w1⟩)

/-- WAITA: SIZE 11, ORD 00, C 32 (R181). -/
def decWaita (f : Word0) (w1 : Half) : Except Reject Instr := do
  ensure (f.fn.extractLsb' 0 4 == 3) .unassignedFn
  let a ← xreg f.a
  let b ← xreg f.b
  ensure (f.c == 32) .unusedField
  let s ← scopeOf (f.fn.extractLsb' 4 3)
  .ok (.waita a b s w1)

/-! ### Fences and control flow -/

/-- Major 0x37: FENCE and CBAR (R182, R183). -/
def decMaj37 (f : Word0) : Except Reject Instr :=
  match f.fn.toNat with
  | 0x00 => do
    ensure (f.a == 0) .unusedField
    ensure (f.b.extractLsb' 3 3 == 0) .unusedField
    ensure (f.c.extractLsb' 4 2 == 0) .unusedField
    let s ← scopeOf (f.b.extractLsb' 0 3)
    ensure (f.c.extractLsb' 0 4 != 0) .illegalFields
    .ok (.fence (f.c.extractLsb' 0 4) s)
  | 0x01 => do
    ensure (f.a == 0 && f.b == 0 && f.c == 0) .unusedField
    .ok .cbar
  | _ => .error .unassignedFn

/-- Word 0 of CB format: MAJ, A, COND, LINE DELTA, WORD (R156). -/
def cb (maj : Nat) (a : BitVec 6) (cond : BitVec 3) (t : CodeRef) : Half :=
  BitVec.ofNat 7 maj ++ a ++ cond ++ t.delta ++ t.word

/-- The target fields of a CB word. -/
def cbTarget (w : Half) : Except Reject CodeRef := do
  let t : CodeRef := ⟨w.extractLsb' 5 11, w.extractLsb' 0 5⟩
  ensure t.wf .illegalFields
  .ok t

/-- A conditional branch. -/
def decBr (mk : XReg → CodeRef → Instr) (f : Word0) (w : Half) : Except Reject Instr := do
  let a ← xreg f.a
  let t ← cbTarget w
  .ok (mk a t)

/-- Major 0x38 (R156, R184). -/
def decMaj38 (f : Word0) (w : Half) : Except Reject Instr :=
  match (w.extractLsb' 16 3).toNat with
  | 0 => decBr .bez f w
  | 1 => decBr .bnz f w
  | 2 => decBr .bltz f w
  | 3 => decBr .bgez f w
  | 4 => do
    ensure (f.a == 0) .unusedField
    let t ← cbTarget w
    .ok (.jmp t)
  | _ => .error .reservedCode

/-- Major 0x39: CALL, COND 100 and A 0 (R156). -/
def decMaj39 (f : Word0) (w : Half) : Except Reject Instr := do
  ensure (w.extractLsb' 16 3 == 4) .reservedCode
  ensure (f.a == 0) .unusedField
  let t ← cbTarget w
  .ok (.call t)

/-- One source register B, A and C zero. -/
def decB (mk : XReg → Instr) (f : Word0) : Except Reject Instr := do
  ensure (f.a == 0 && f.c == 0) .unusedField
  let b ← xreg f.b
  .ok (mk b)

/-- An instruction with no operand field. -/
def decNone (i : Instr) (f : Word0) : Except Reject Instr := do
  ensure (f.a == 0 && f.b == 0 && f.c == 0) .unusedField
  .ok i

/-- Major 0x3A: JR, CALLR, RET. -/
def decMaj3A (f : Word0) : Except Reject Instr :=
  match f.fn.toNat with
  | 0x00 => decB .jr f
  | 0x01 => decB .callr f
  | 0x02 => decNone .ret f
  | _ => .error .unassignedFn

/-- Major 0x3B: TRAP and END (R188, R189). -/
def decMaj3B (f : Word0) (w1 : Half) : Except Reject Instr :=
  match f.fn.toNat with
  | 0x00 => decNone (.trap w1) f
  | 0x01 => decNone (.endTask w1) f
  | _ => .error .unassignedFn

/-! ### CV format -/

/-- CV word 1 (R157). -/
def cv (pred : PReg) (sf : Bool) (ov : BitVec 2) (tf : BitVec 6) (rm : BitVec 3) (extra : BitVec 17) : Half :=
  BitVec.ofNat 3 pred.val ++ bit sf ++ ov ++ tf ++ rm ++ extra

/-- PRED of CV word 1. -/
def cvPred (w : Half) : PReg := ⟨(w.extractLsb' 29 3).toNat, (w.extractLsb' 29 3).isLt⟩
/-- SF of CV word 1. -/
def cvSf (w : Half) : Bool := w.getLsbD 28
/-- OV of CV word 1. -/
def cvOv (w : Half) : BitVec 2 := w.extractLsb' 26 2
/-- TF of CV word 1. -/
def cvTf (w : Half) : BitVec 6 := w.extractLsb' 20 6
/-- RM of CV word 1. -/
def cvRm (w : Half) : BitVec 3 := w.extractLsb' 17 3
/-- EXTRA of CV word 1. -/
def cvX (w : Half) : BitVec 17 := w.extractLsb' 0 17

/-- The fields of CV word 1 that an entry leaves unused are zero (R159, R190). -/
def cvUnused (w : Half) (pred sf ov tf rm : Bool) (extra : Nat) : Except Reject Unit := do
  ensure (pred || (cvPred w).val == 0) .unusedField
  ensure (sf || !cvSf w) .unusedField
  ensure (ov || cvOv w == 0) .unusedField
  ensure (tf || cvTf w == 0) .unusedField
  ensure (rm || cvRm w == 0) .unusedField
  ensure ((cvX w).toNat < 2 ^ extra) .unusedField

/-- PRED, SF and RM. -/
def decCtl (w1 : Half) : Except Reject VCtl := do
  let rm ← rmOf (cvRm w1)
  .ok ⟨cvPred w1, cvSf w1, rm⟩

/-- Binary32 arithmetic with two sources. -/
def decF3 (mk : VReg → VReg → VReg → VCtl → Instr) (f : Word0) (w1 : Half) : Except Reject Instr := do
  let a ← vreg f.a
  let b ← vreg f.b
  let c ← vreg f.c
  cvUnused w1 true true false false true 0
  let k ← decCtl w1
  ensure k.wfIeee .illegalFields
  .ok (mk a b c k)

/-- Binary32 arithmetic with one source. -/
def decF2 (mk : VReg → VReg → VCtl → Instr) (f : Word0) (w1 : Half) : Except Reject Instr := do
  let a ← vreg f.a
  let b ← vreg f.b
  ensure (f.c == 0) .unusedField
  cvUnused w1 true true false false true 0
  let k ← decCtl w1
  ensure k.wfIeee .illegalFields
  .ok (mk a b k)

/-- Major 0x40 (R192). -/
def decMaj40 (f : Word0) (w1 : Half) : Except Reject Instr :=
  match f.fn.toNat with
  | 0x00 => decF3 .vadd f w1
  | 0x01 => decF3 .vsub f w1
  | 0x02 => decF3 .vmul f w1
  | 0x03 => decF3 .vfma f w1
  | 0x04 => decF3 .vfms f w1
  | 0x05 => decF3 .vmin f w1
  | 0x06 => decF3 .vmax f w1
  | 0x07 => decF2 .vabs f w1
  | 0x08 => decF2 .vneg f w1
  | 0x09 => decF3 .vdiv f w1
  | 0x0A => decF2 .vsqrt f w1
  | 0x0B => decF2 .vrcp f w1
  | 0x0C => decF2 .vrsq f w1
  | _ => .error .unassignedFn

/-- Vector compare (R193). -/
def decCmp (mk : PReg → VReg → VReg → PReg → Bool → Bool → Instr) (f : Word0) (w1 : Half) : Except Reject Instr := do
  let a ← preg f.a
  let b ← vreg f.b
  let c ← vreg f.c
  cvUnused w1 true true false false false 1
  .ok (mk a b c (cvPred w1) (cvSf w1) (w1.getLsbD 0))

/-- Three vector registers under a predicate. -/
def decP3 (mk : VReg → VReg → VReg → PReg → Instr) (f : Word0) (w1 : Half) : Except Reject Instr := do
  let a ← vreg f.a
  let b ← vreg f.b
  let c ← vreg f.c
  cvUnused w1 true false false false false 0
  .ok (mk a b c (cvPred w1))

/-- Vector shift: amount in vC or in EXTRA[4:0] (R195). -/
def decVsh (mk : VReg → VReg → VAmount → PReg → Instr) (f : Word0) (w1 : Half) : Except Reject Instr := do
  let a ← vreg f.a
  let b ← vreg f.b
  cvUnused w1 true false false false false 17
  if w1.getLsbD 16 then do
    ensure (f.c == 0) .unusedField
    ensure ((cvX w1).extractLsb' 5 11 == 0) .unusedField
    .ok (mk a b (.imm (w1.extractLsb' 0 5)) (cvPred w1))
  else do
    let c ← vreg f.c
    ensure (cvX w1 == 0) .unusedField
    .ok (mk a b (.reg c) (cvPred w1))

/-- Major 0x41. -/
def decMaj41 (f : Word0) (w1 : Half) : Except Reject Instr :=
  match f.fn.toNat with
  | 0x00 => decCmp .vcmpeq f w1
  | 0x01 => decCmp .vcmplt f w1
  | 0x02 => decCmp .vcmple f w1
  | 0x03 => decP3 .vsel f w1
  | 0x04 => decP3 .vand f w1
  | 0x05 => decP3 .vor f w1
  | 0x06 => decP3 .vxor f w1
  | 0x07 => decVsh .vshl f w1
  | 0x08 => decVsh .vshr f w1
  | 0x09 => decVsh .vsra f w1
  | _ => .error .unassignedFn

/-- Vector integer arithmetic (R196). -/
def decVi (mk : VReg → VReg → VReg → Sat → PReg → Instr) (f : Word0) (w1 : Half) : Except Reject Instr := do
  let a ← vreg f.a
  let b ← vreg f.b
  let c ← vreg f.c
  cvUnused w1 true false false false false 2
  let s ← satOf (w1.extractLsb' 0 2)
  .ok (mk a b c s (cvPred w1))

/-- Major 0x42. -/
def decMaj42 (f : Word0) (w1 : Half) : Except Reject Instr :=
  match f.fn.toNat with
  | 0x00 => decVi .viadd f w1
  | 0x01 => decVi .visub f w1
  | 0x02 => decVi .vimul f w1
  | _ => .error .unassignedFn

/-- VREDADD and VREDMAX; their cross-field rules depend on the tag of vB (R198). -/
def decRed (mk : VReg → VReg → VCtl → BitVec 2 → Instr) (f : Word0) (w1 : Half) : Except Reject Instr := do
  let a ← vreg f.a
  let b ← vreg f.b
  ensure (f.c == 0) .unusedField
  cvUnused w1 true true false false true 2
  let k ← decCtl w1
  .ok (mk a b k (w1.extractLsb' 0 2))

/-- Major 0x43 (R197, R198). -/
def decMaj43 (f : Word0) (w1 : Half) : Except Reject Instr :=
  match f.fn.toNat with
  | 0x00 => decP3 .vperm f w1
  | 0x01 => decRed .vredadd f w1
  | 0x02 => decRed .vredmax f w1
  | 0x03 => do
    let a ← vreg f.a
    let b ← vreg f.b
    ensure (f.c == 0) .unusedField
    cvUnused w1 true false false false false 4
    .ok (.vbcast a b (w1.extractLsb' 0 4) (cvPred w1))
  | 0x04 => do
    let a ← vreg f.a
    let b ← vreg f.b
    ensure (f.c == 0) .unusedField
    cvUnused w1 true false false false false 0
    .ok (.vmov a b (cvPred w1))
  | 0x05 => do
    let a ← vreg f.a
    let b ← xreg f.b
    ensure (f.c == 0) .unusedField
    cvUnused w1 false false false false false 4
    .ok (.vins a b (w1.extractLsb' 0 4))
  | 0x06 => do
    let a ← xreg f.a
    let b ← vreg f.b
    ensure (f.c == 0) .unusedField
    cvUnused w1 false false false false false 5
    .ok (.vext a b (w1.getLsbD 4) (w1.extractLsb' 0 4))
  | _ => .error .unassignedFn

/-- Major 0x44: VTAG and VFLAGS (R199, R200). -/
def decMaj44 (f : Word0) (w1 : Half) : Except Reject Instr :=
  match f.fn.toNat with
  | 0x00 => do
    let a ← vreg f.a
    let b ← vreg f.b
    ensure (f.c == 0) .unusedField
    cvUnused w1 false false false true false 0
    .ok (.vtag a b (cvTf w1))
  | 0x01 => do
    let a ← xreg f.a
    ensure (f.b == 0 && f.c == 0) .unusedField
    cvUnused w1 true false false false false 4
    ensure ((w1.extractLsb' 0 3).toNat < 5) .illegalFields
    .ok (.vflags a (w1.extractLsb' 0 3) (w1.getLsbD 3) (cvPred w1))
  | _ => .error .unassignedFn

/-- Major 0x60: VCVT (R201). -/
def decMaj60 (f : Word0) (w1 : Half) : Except Reject Instr :=
  match f.fn.toNat with
  | 0x00 => do
    let a ← vreg f.a
    let b ← vreg f.b
    ensure (f.c == 0) .unusedField
    cvUnused w1 true true true true true 6
    let k ← decCtl w1
    ensure (Tag.wfTarget (cvTf w1)) .illegalFields
    .ok (.vcvt a b (cvTf w1) k (ovfOf (cvOv w1)) (w1.extractLsb' 3 3) (w1.extractLsb' 0 3))
  | _ => .error .unassignedFn

/-- Major 0x61: VRNG (R202). -/
def decMaj61 (f : Word0) (w1 : Half) : Except Reject Instr :=
  match f.fn.toNat with
  | 0x00 => do
    let a ← vreg f.a
    ensure (f.b == 0 && f.c == 0) .unusedField
    cvUnused w1 true false false false false 0
    .ok (.vrng a (cvPred w1))
  | _ => .error .unassignedFn

/-! ### CS format (R203) -/

/-- Major 0x25: LDT. -/
def decMaj25 (f : Word0) (w1 w2 : Half) : Except Reject Instr :=
  match f.fn.toNat with
  | 0x00 => do
    let a ← dreg f.a
    let b ← dreg f.b
    ensure (f.c == 0 && w1.extractLsb' 7 25 == 0 && w1.extractLsb' 2 2 == 0 && w2 == 0) .unusedField
    let s ← scopeOf (w1.extractLsb' 4 3)
    let t ← transpOf (w1.extractLsb' 0 2)
    .ok (.ldt a b s t)
  | _ => .error .unassignedFn

/-- The stream configuration word as bits (R207). -/
def StreamCfg.code (s : StreamCfg) : Half :=
  (0 : BitVec 12) ++ bit s.write ++ s.scope.code ++ s.tr.code ++ bit s.gath ++ bit s.mxs ++ bit s.wid ++ bit s.rsym
    ++ bit s.matb ++ s.stg ++ (0 : BitVec 7)

/-- The stream configuration word from bits (R207). -/
def cfgOf (w : Half) : Except Reject StreamCfg := do
  ensure (w.extractLsb' 20 12 == 0 && w.extractLsb' 0 7 == 0) .unusedField
  let s ← scopeOf (w.extractLsb' 16 3)
  let t ← transpOf (w.extractLsb' 14 2)
  .ok ⟨w.getLsbD 19, s, t, w.getLsbD 13, w.getLsbD 12, w.getLsbD 11, w.getLsbD 10, w.getLsbD 9, w.extractLsb' 7 2⟩

/-- Major 0x70: SBIND, SGATE, SWAIT. -/
def decMaj70 (f : Word0) (w1 w2 w3 : Half) : Except Reject Instr :=
  match f.fn.toNat with
  | 0x40 => do
    let g ← genOf f.a
    let b ← dreg f.b
    let c ← dreg f.c
    let k ← cfgOf w1
    ensure (w3.extractLsb' 6 26 == 0) .unusedField
    ensure (k.wf c w2 (w3.extractLsb' 0 6)) .illegalFields
    .ok (.sbind g b c k w2 (w3.extractLsb' 0 6))
  | 0x01 => do
    let g ← genOf f.a
    let b ← preg f.b
    ensure (f.c == 0 && w2 == 0) .unusedField
    .ok (.sgate g b w1)
  | 0x02 => do
    let g ← genOf f.a
    ensure (f.b == 0 && f.c == 0 && w1.extractLsb' 3 29 == 0 && w2 == 0) .unusedField
    let s ← scopeOf (w1.extractLsb' 0 3)
    .ok (.swait g s)
  | _ => .error .unassignedFn

/-- Major 0x71: block commands. -/
def decMaj71 (f : Word0) (w1 w2 : Half) : Except Reject Instr :=
  match f.fn.toNat with
  | 0x00 => do
    let h ← hndOf f.a
    ensure (f.b == 0 && f.c == 0 && w1.extractLsb' 16 16 == 0 && w2 == 0) .unusedField
    .ok (.fload h (w1.extractLsb' 0 16))
  | 0x01 => do
    let h ← hndOf f.a
    ensure (f.b == 0 && f.c == 0 && w1 == 0 && w2 == 0) .unusedField
    .ok (.fstart h)
  | 0x02 => do
    ensure (f.a == 0 && f.b == 0 && f.c == 0 && w1.extractLsb' 3 29 == 0 && w2 == 0) .unusedField
    let s ← scopeOf (w1.extractLsb' 0 3)
    .ok (.fbar s)
  | 0x03 => do
    ensure (f.a == 0 && f.b == 0 && f.c == 0 && w1.extractLsb' 11 21 == 0 && w2 == 0) .unusedField
    let s ← scopeOf (w1.extractLsb' 8 3)
    .ok (.fwait s (w1.extractLsb' 0 8))
  | 0x04 => do
    let h ← hndOf f.a
    ensure (f.b == 0 && f.c == 0 && w1 == 0 && w2 == 0) .unusedField
    .ok (.frestart h)
  | 0x05 => do
    let a ← xreg f.a
    ensure (f.b == 0 && f.c == 0 && w1.extractLsb' 12 20 == 0 && w1.extractLsb' 3 5 == 0 && w2 == 0) .unusedField
    let h ← hndOf ((w1.extractLsb' 0 3).zeroExtend 6)
    ensure ((w1.extractLsb' 8 4).toNat ≤ 10) .reservedCode
    .ok (.fqry a h (w1.extractLsb' 8 4))
  | _ => .error .unassignedFn

/-- BINIT, BEXPECT, BWAIT. -/
def decBar (mk : XReg → XReg → BitVec 32 → Scope → Instr) (f : Word0) (w1 w2 : Half) : Except Reject Instr := do
  ensure (f.a == 0 && w2.extractLsb' 3 29 == 0) .unusedField
  let b ← xreg f.b
  let c ← xreg f.c
  let s ← scopeOf (w2.extractLsb' 0 3)
  .ok (mk b c w1 s)

/-- Major 0x72: copies and barrier objects. -/
def decMaj72 (f : Word0) (w1 w2 w3 : Half) : Except Reject Instr :=
  match f.fn.toNat with
  | 0x40 => do
    let a ← xreg f.a
    let b ← xreg f.b
    let c ← xreg f.c
    ensure (w1.extractLsb' 4 28 == 0 && w2.extractLsb' 12 20 == 0) .unusedField
    let s ← scopeOf (w1.extractLsb' 1 3)
    let e ← xreg (w2.extractLsb' 0 6)
    if w1.getLsbD 0 then do
      let v ← xreg (w2.extractLsb' 6 6)
      .ok (.acopy a b c e (some v) s w3)
    else do
      ensure (w2.extractLsb' 6 6 == 0) .unusedField
      .ok (.acopy a b c e none s w3)
  | 0x01 => decBar .binit f w1 w2
  | 0x02 => decBar .bexpect f w1 w2
  | 0x03 => decBar .bwait f w1 w2
  | _ => .error .unassignedFn

/-! ### Rows, control registers, system -/

/-- Major 0x78. -/
def decMaj78 (f : Word0) : Except Reject Instr :=
  match f.fn.toNat with
  | 0x00 => dec2 .rowopen f
  | 0x01 => dec2 .rowholdKeep f
  | 0x02 => dec2 .rowholdDrop f
  | 0x03 => dec2 .rowrel f
  | 0x04 => dec2 .rowqry f
  | _ => .error .unassignedFn

/-- Major 0x7C: the register number is B:C (R160, R219). -/
def decMaj7C (f : Word0) : Except Reject Instr :=
  match f.fn.toNat with
  | 0x00 => do
    let a ← xreg f.a
    .ok (.crd a (f.b ++ f.c))
  | 0x01 => do
    let a ← xreg f.a
    .ok (.cwr a (f.b ++ f.c))
  | _ => .error .unassignedFn

/-- Major 0x7D. -/
def decMaj7D (f : Word0) : Except Reject Instr :=
  match f.fn.toNat with
  | 0x00 => decNone .rett f
  | 0x01 => dec2 .rqrd f
  | 0x02 => decB .rqinj f
  | 0x03 => do
    ensure (f.a == 0 && f.c.extractLsb' 4 2 == 0) .unusedField
    let b ← xreg f.b
    let s ← scopeOf (f.c.extractLsb' 0 3)
    ensure (s != .sys) .reservedCode
    ensure (!f.c.getLsbD 3 || b == .w 0) .unusedField
    .ok (.tlbinv b (f.c.getLsbD 3) s)
  | 0x04 => decB .idle f
  | 0x05 => decNone .brk f
  | _ => .error .unassignedFn

/-- A control-core instruction from its words, the later ones zero where the format has fewer (R160, R161). -/
def decodeWords (x w1 w2 w3 : Half) : Except Reject Instr :=
  let f := Word0.of x
  match f.maj.toNat with
  | 0x00 => decMaj00 f
  | 0x01 => decMaj01 f
  | 0x02 => decMaj02 f
  | 0x10 => decMaj10 f w1
  | 0x11 => decLea f w1
  | 0x20 => decMaj20 f w1
  | 0x21 => decMaj21 f w1
  | 0x22 => decMaj22 f w1
  | 0x23 => decLdv f w1
  | 0x24 => decStv f w1
  | 0x25 => decMaj25 f w1 w2
  | 0x30 => decAtomic .aadd .axchg f w1
  | 0x31 => decAtomic .aand .aor f w1
  | 0x32 => decAtomic .axor .acas f w1
  | 0x33 => decAtomic .amin .aminu f w1
  | 0x34 => decAtomic .amax .amaxu f w1
  | 0x35 => decWaita f w1
  | 0x37 => decMaj37 f
  | 0x38 => decMaj38 f x
  | 0x39 => decMaj39 f x
  | 0x3A => decMaj3A f
  | 0x3B => decMaj3B f w1
  | 0x40 => decMaj40 f w1
  | 0x41 => decMaj41 f w1
  | 0x42 => decMaj42 f w1
  | 0x43 => decMaj43 f w1
  | 0x44 => decMaj44 f w1
  | 0x60 => decMaj60 f w1
  | 0x61 => decMaj61 f w1
  | 0x70 => decMaj70 f w1 w2 w3
  | 0x71 => decMaj71 f w1 w2
  | 0x72 => decMaj72 f w1 w2 w3
  | 0x78 => decMaj78 f
  | 0x7C => decMaj7C f
  | 0x7D => decMaj7D f
  | _ => .error .unassignedMajor

/-- A word from four bytes, the lowest first (R3). -/
def word32 (b0 b1 b2 b3 : Byte) : Half := b3 ++ b2 ++ b1 ++ b0

/-- The bytes of a word, the lowest first (R3). -/
def bytes32 (w : Half) : List Byte :=
  [w.extractLsb' 0 8, w.extractLsb' 8 8, w.extractLsb' 16 8, w.extractLsb' 24 8]

/-- Whole words at the front of a byte list, at most n. -/
def takeWords : Nat → List Byte → List Half
  | n + 1, b0 :: b1 :: b2 :: b3 :: rest => word32 b0 b1 b2 b3 :: takeWords n rest
  | _, _ => []

/-- Decode the instruction at the front of a byte list, and give the bytes after it. -/
def decode (bs : List Byte) : Except Reject (Instr × List Byte) :=
  match takeWords 4 bs with
  | [] => .error .truncated
  | x :: ws =>
    let n := lengthOf (Word0.of x)
    if n == 0 then .error .unassignedMajor
    else if ws.length + 1 < n then .error .truncated
    else
      match decodeWords x (if n ≥ 2 then ws.getD 0 0 else 0) (if n ≥ 3 then ws.getD 1 0 else 0)
          (if n ≥ 4 then ws.getD 2 0 else 0) with
      | .ok i => .ok (i, bs.drop (4 * n))
      | .error r => .error r

/-! ### Encoders of the control-core instructions -/

/-- Two-word memory form. -/
def encMem (maj : Nat) (a : BitVec 6) (m : MemOp) (z : Size) : List Half :=
  [Word0.pack ⟨BitVec.ofNat 7 maj, a, m.base.code, m.index.code, cmFn m.scope m.ord z⟩, m.disp]

/-- Two-word atomic form. -/
def encAtomic (maj : Nat) (v : Bool) (a : XReg) (o : AtOp) : List Half :=
  [Word0.pack ⟨BitVec.ofNat 7 maj, a.code, o.base.code, o.src.code, atFn o.scope o.ord v o.wide⟩, o.disp]

/-- Two-word binary32 form. -/
def encF (maj fn : Nat) (a b c : BitVec 6) (f : VCtl) (extra : BitVec 17) : List Half :=
  [w0 maj a b c fn, cv f.pred f.sf 0 0 f.rm.code extra]

/-- Two-word vector form with a predicate only. -/
def encP (maj fn : Nat) (a b c : BitVec 6) (p : PReg) (extra : BitVec 17) : List Half :=
  [w0 maj a b c fn, cv p false 0 0 0 extra]

/-- Vector shift forms. -/
def encVsh (fn : Nat) (a b : VReg) (n : VAmount) (p : PReg) : List Half :=
  match n with
  | .reg c => encP 0x41 fn (vcode a) (vcode b) (vcode c) p 0
  | .imm k => encP 0x41 fn (vcode a) (vcode b) 0 p ((1 : BitVec 1) ++ (0 : BitVec 11) ++ k)

/-- Immediate shift: the amount in imm[5:0]. -/
def encShi (fn : Nat) (a b : XReg) (n : BitVec 6) : List Half :=
  [w0 0x10 a.code b.code 0 fn, (0 : BitVec 26) ++ n]

/-- The words of a control-core instruction (R152 to R160, R203); none for a column operation or a device step. -/
def encode : Instr → List Half
  | .add a b c => [w0 0x00 a.code b.code c.code 0x00]
  | .sub a b c => [w0 0x00 a.code b.code c.code 0x01]
  | .mul a b c => [w0 0x00 a.code b.code c.code 0x02]
  | .mulhs a b c => [w0 0x00 a.code b.code c.code 0x03]
  | .mulhu a b c => [w0 0x00 a.code b.code c.code 0x04]
  | .divs a b c => [w0 0x00 a.code b.code c.code 0x05]
  | .divu a b c => [w0 0x00 a.code b.code c.code 0x06]
  | .rems a b c => [w0 0x00 a.code b.code c.code 0x07]
  | .remu a b c => [w0 0x00 a.code b.code c.code 0x08]
  | .min a b c => [w0 0x00 a.code b.code c.code 0x09]
  | .max a b c => [w0 0x00 a.code b.code c.code 0x0A]
  | .minu a b c => [w0 0x00 a.code b.code c.code 0x0B]
  | .maxu a b c => [w0 0x00 a.code b.code c.code 0x0C]
  | .and a b c => [w0 0x01 a.code b.code c.code 0x00]
  | .or a b c => [w0 0x01 a.code b.code c.code 0x01]
  | .xor a b c => [w0 0x01 a.code b.code c.code 0x02]
  | .andn a b c => [w0 0x01 a.code b.code c.code 0x03]
  | .shl a b c => [w0 0x01 a.code b.code c.code 0x04]
  | .shr a b c => [w0 0x01 a.code b.code c.code 0x05]
  | .sra a b c => [w0 0x01 a.code b.code c.code 0x06]
  | .rol a b c => [w0 0x01 a.code b.code c.code 0x07]
  | .seq a b c => [w0 0x02 a.code b.code c.code 0x00]
  | .slt a b c => [w0 0x02 a.code b.code c.code 0x01]
  | .sltu a b c => [w0 0x02 a.code b.code c.code 0x02]
  | .sel a b c => [w0 0x02 a.code b.code c.code 0x03]
  | .clz a b => [w0 0x02 a.code b.code 0 0x04]
  | .ctz a b => [w0 0x02 a.code b.code 0 0x05]
  | .popc a b => [w0 0x02 a.code b.code 0 0x06]
  | .mov a b => [w0 0x02 a.code b.code 0 0x07]
  | .exts a b n => [w0 0x02 a.code b.code n.code 0x08]
  | .extz a b n => [w0 0x02 a.code b.code n.code 0x09]
  | .addi a b i => [w0 0x10 a.code b.code 0 0x00, i]
  | .andi a b i => [w0 0x10 a.code b.code 0 0x01, i]
  | .ori a b i => [w0 0x10 a.code b.code 0 0x02, i]
  | .xori a b i => [w0 0x10 a.code b.code 0 0x03, i]
  | .shli a b n => encShi 0x04 a b n
  | .shri a b n => encShi 0x05 a b n
  | .srai a b n => encShi 0x06 a b n
  | .roli a b n => encShi 0x07 a b n
  | .limm a i => [w0 0x10 a.code 0 0 0x08, i]
  | .limmh a i => [w0 0x10 a.code 0 0 0x09, i]
  | .lea a b c z d => [Word0.pack ⟨0x11, a.code, b.code, c.code, cmFn .core .plain z⟩, d]
  | .ldb a m => encMem 0x20 a.code m .b1
  | .ldh a m => encMem 0x20 a.code m .b2
  | .ldw a m => encMem 0x20 a.code m .b4
  | .ldd a m => encMem 0x20 a.code m .b8
  | .ldbu a m => encMem 0x21 a.code m .b1
  | .ldhu a m => encMem 0x21 a.code m .b2
  | .ldwu a m => encMem 0x21 a.code m .b4
  | .stb a m => encMem 0x22 a.code m .b1
  | .sth a m => encMem 0x22 a.code m .b2
  | .stw a m => encMem 0x22 a.code m .b4
  | .std a m => encMem 0x22 a.code m .b8
  | .ldv a m => encMem 0x23 (vcode a) m .b4
  | .stv a m => encMem 0x24 (vcode a) m .b4
  | .aadd a o => encAtomic 0x30 false a o
  | .axchg a o => encAtomic 0x30 true a o
  | .aand a o => encAtomic 0x31 false a o
  | .aor a o => encAtomic 0x31 true a o
  | .axor a o => encAtomic 0x32 false a o
  | .acas a o => encAtomic 0x32 true a o
  | .amin a o => encAtomic 0x33 false a o
  | .aminu a o => encAtomic 0x33 true a o
  | .amax a o => encAtomic 0x34 false a o
  | .amaxu a o => encAtomic 0x34 true a o
  | .waita a b s d => [Word0.pack ⟨0x35, a.code, b.code, 32, cmFn s .plain .b8⟩, d]
  | .fence k s => [w0 0x37 0 ((0 : BitVec 3) ++ s.code) ((0 : BitVec 2) ++ k) 0x00]
  | .cbar => [w0 0x37 0 0 0 0x01]
  | .bez a t => [cb 0x38 a.code 0 t]
  | .bnz a t => [cb 0x38 a.code 1 t]
  | .bltz a t => [cb 0x38 a.code 2 t]
  | .bgez a t => [cb 0x38 a.code 3 t]
  | .jmp t => [cb 0x38 0 4 t]
  | .call t => [cb 0x39 0 4 t]
  | .jr b => [w0 0x3A 0 b.code 0 0x00]
  | .callr b => [w0 0x3A 0 b.code 0 0x01]
  | .ret => [w0 0x3A 0 0 0 0x02]
  | .trap c => [w0 0x3B 0 0 0 0x00, c]
  | .endTask n => [w0 0x3B 0 0 0 0x01, n]
  | .vadd a b c f => encF 0x40 0x00 (vcode a) (vcode b) (vcode c) f 0
  | .vsub a b c f => encF 0x40 0x01 (vcode a) (vcode b) (vcode c) f 0
  | .vmul a b c f => encF 0x40 0x02 (vcode a) (vcode b) (vcode c) f 0
  | .vfma a b c f => encF 0x40 0x03 (vcode a) (vcode b) (vcode c) f 0
  | .vfms a b c f => encF 0x40 0x04 (vcode a) (vcode b) (vcode c) f 0
  | .vmin a b c f => encF 0x40 0x05 (vcode a) (vcode b) (vcode c) f 0
  | .vmax a b c f => encF 0x40 0x06 (vcode a) (vcode b) (vcode c) f 0
  | .vabs a b f => encF 0x40 0x07 (vcode a) (vcode b) 0 f 0
  | .vneg a b f => encF 0x40 0x08 (vcode a) (vcode b) 0 f 0
  | .vdiv a b c f => encF 0x40 0x09 (vcode a) (vcode b) (vcode c) f 0
  | .vsqrt a b f => encF 0x40 0x0A (vcode a) (vcode b) 0 f 0
  | .vrcp a b f => encF 0x40 0x0B (vcode a) (vcode b) 0 f 0
  | .vrsq a b f => encF 0x40 0x0C (vcode a) (vcode b) 0 f 0
  | .vcmpeq a b c p sf u => [w0 0x41 (pcode a) (vcode b) (vcode c) 0x00, cv p sf 0 0 0 ((0 : BitVec 16) ++ bit u)]
  | .vcmplt a b c p sf u => [w0 0x41 (pcode a) (vcode b) (vcode c) 0x01, cv p sf 0 0 0 ((0 : BitVec 16) ++ bit u)]
  | .vcmple a b c p sf u => [w0 0x41 (pcode a) (vcode b) (vcode c) 0x02, cv p sf 0 0 0 ((0 : BitVec 16) ++ bit u)]
  | .vsel a b c p => encP 0x41 0x03 (vcode a) (vcode b) (vcode c) p 0
  | .vand a b c p => encP 0x41 0x04 (vcode a) (vcode b) (vcode c) p 0
  | .vor a b c p => encP 0x41 0x05 (vcode a) (vcode b) (vcode c) p 0
  | .vxor a b c p => encP 0x41 0x06 (vcode a) (vcode b) (vcode c) p 0
  | .vshl a b n p => encVsh 0x07 a b n p
  | .vshr a b n p => encVsh 0x08 a b n p
  | .vsra a b n p => encVsh 0x09 a b n p
  | .viadd a b c s p => encP 0x42 0x00 (vcode a) (vcode b) (vcode c) p ((0 : BitVec 15) ++ s.code)
  | .visub a b c s p => encP 0x42 0x01 (vcode a) (vcode b) (vcode c) p ((0 : BitVec 15) ++ s.code)
  | .vimul a b c s p => encP 0x42 0x02 (vcode a) (vcode b) (vcode c) p ((0 : BitVec 15) ++ s.code)
  | .vperm a b c p => encP 0x43 0x00 (vcode a) (vcode b) (vcode c) p 0
  | .vredadd a b f s => encF 0x43 0x01 (vcode a) (vcode b) 0 f ((0 : BitVec 15) ++ s)
  | .vredmax a b f s => encF 0x43 0x02 (vcode a) (vcode b) 0 f ((0 : BitVec 15) ++ s)
  | .vbcast a b k p => encP 0x43 0x03 (vcode a) (vcode b) 0 p ((0 : BitVec 13) ++ k)
  | .vmov a b p => encP 0x43 0x04 (vcode a) (vcode b) 0 p 0
  | .vins a b k => encP 0x43 0x05 (vcode a) b.code 0 0 ((0 : BitVec 13) ++ k)
  | .vext a b z k => encP 0x43 0x06 a.code (vcode b) 0 0 ((0 : BitVec 12) ++ bit z ++ k)
  | .vtag a b t => [w0 0x44 (vcode a) (vcode b) 0 0x00, cv 0 false 0 t 0 0]
  | .vflags a k c p => encP 0x44 0x01 a.code 0 0 p ((0 : BitVec 13) ++ bit c ++ k)
  | .vcvt a b t f ov d s =>
    [w0 0x60 (vcode a) (vcode b) 0 0x00, cv f.pred f.sf ov.code t f.rm.code ((0 : BitVec 11) ++ d ++ s)]
  | .vrng a p => encP 0x61 0x00 (vcode a) 0 0 p 0
  | .ldt a b s t =>
    [w0 0x25 (dcode a) (dcode b) 0 0x00, (0 : BitVec 25) ++ s.code ++ (0 : BitVec 2) ++ t.code, 0]
  | .sbind g b c k r t => [w0 0x70 (gcode g) (dcode b) (dcode c) 0x40, k.code, r, (0 : BitVec 26) ++ t]
  | .sgate g b st => [w0 0x70 (gcode g) (pcode b) 0 0x01, st, 0]
  | .swait g s => [w0 0x70 (gcode g) 0 0 0x02, (0 : BitVec 29) ++ s.code, 0]
  | .fload h i => [w0 0x71 (hcode h) 0 0 0x00, (0 : BitVec 16) ++ i, 0]
  | .fstart h => [w0 0x71 (hcode h) 0 0 0x01, 0, 0]
  | .fbar s => [w0 0x71 0 0 0 0x02, (0 : BitVec 29) ++ s.code, 0]
  | .fwait s m => [w0 0x71 0 0 0 0x03, (0 : BitVec 21) ++ s.code ++ m, 0]
  | .frestart h => [w0 0x71 (hcode h) 0 0 0x04, 0, 0]
  | .fqry a h i => [w0 0x71 a.code 0 0 0x05, (0 : BitVec 20) ++ i ++ (0 : BitVec 2) ++ hcode h, 0]
  | .acopy a b c e f s d =>
    match f with
    | some v =>
      [w0 0x72 a.code b.code c.code 0x40, (0 : BitVec 28) ++ s.code ++ bit true, (0 : BitVec 20) ++ v.code ++ e.code, d]
    | none =>
      [w0 0x72 a.code b.code c.code 0x40, (0 : BitVec 28) ++ s.code ++ bit false, (0 : BitVec 26) ++ e.code, d]
  | .binit b c d s => [w0 0x72 0 b.code c.code 0x01, d, (0 : BitVec 29) ++ s.code]
  | .bexpect b c d s => [w0 0x72 0 b.code c.code 0x02, d, (0 : BitVec 29) ++ s.code]
  | .bwait b c d s => [w0 0x72 0 b.code c.code 0x03, d, (0 : BitVec 29) ++ s.code]
  | .rowopen a b => [w0 0x78 a.code b.code 0 0x00]
  | .rowholdKeep a b => [w0 0x78 a.code b.code 0 0x01]
  | .rowholdDrop a b => [w0 0x78 a.code b.code 0 0x02]
  | .rowrel a b => [w0 0x78 a.code b.code 0 0x03]
  | .rowqry a b => [w0 0x78 a.code b.code 0 0x04]
  | .crd a n => [w0 0x7C a.code (n.extractLsb' 6 6) (n.extractLsb' 0 6) 0x00]
  | .cwr a n => [w0 0x7C a.code (n.extractLsb' 6 6) (n.extractLsb' 0 6) 0x01]
  | .rett => [w0 0x7D 0 0 0 0x00]
  | .rqrd a b => [w0 0x7D a.code b.code 0 0x01]
  | .rqinj b => [w0 0x7D 0 b.code 0 0x02]
  | .tlbinv b all s => [w0 0x7D 0 b.code ((0 : BitVec 2) ++ bit all ++ s.code) 0x03]
  | .idle b => [w0 0x7D 0 b.code 0 0x04]
  | .brk => [w0 0x7D 0 0 0 0x05]
  | _ => []

/-- The instruction is one of the 143 control-core instructions. -/
def Instr.isCore (i : Instr) : Bool := !(encode i).isEmpty

/-! ### Schedule words -/

/-- The fields of a schedule word (R234). -/
structure QWord where
  op : BitVec 8
  dly : BitVec 4
  dst : BitVec 6
  s1 : BitVec 6
  s2 : BitVec 6
  s3 : BitVec 6
  imm : BitVec 12
  xoff : BitVec 5
  xs : BitVec 3
  ep : BitVec 2
  rp : BitVec 1
  xf : BitVec 5
  deriving DecidableEq, Repr

/-- A schedule word from its fields (R234, R237). -/
def QWord.pack (q : QWord) : Word :=
  q.op ++ q.dly ++ q.dst ++ q.s1 ++ q.s2 ++ q.s3 ++ q.imm ++ q.xoff ++ q.xs ++ q.ep ++ q.rp ++ q.xf

/-- The fields of a schedule word. -/
def QWord.of (w : Word) : QWord :=
  ⟨w.extractLsb' 56 8, w.extractLsb' 52 4, w.extractLsb' 46 6, w.extractLsb' 40 6, w.extractLsb' 34 6,
   w.extractLsb' 28 6, w.extractLsb' 16 12, w.extractLsb' 11 5, w.extractLsb' 8 3, w.extractLsb' 6 2,
   w.extractLsb' 5 1, w.extractLsb' 0 5⟩

/-- Source specifier (R235). -/
def QSrc.code : QSrc → BitVec 6
  | .cell i => BitVec.ofNat 6 i.val
  | .inp p => BitVec.ofNat 6 (16 + p.val)
  | .zero => 32
/-- The source of a specifier. -/
def qsrc (s : BitVec 6) : Except Reject QSrc :=
  if h : s.toNat < 16 then .ok (.cell ⟨s.toNat, h⟩)
  else if h2 : s.toNat - 16 < 8 then .ok (.inp ⟨s.toNat - 16, h2⟩)
  else if s == 32 then .ok .zero else .error .reservedSpecifier

/-- Destination specifier (R235). -/
def QDst.code : QDst → BitVec 6
  | .cell i => BitVec.ofNat 6 i.val
  | .out p => BitVec.ofNat 6 (24 + p.val)
  | .none => 32
/-- The destination of a specifier. -/
def qdst (s : BitVec 6) : Except Reject QDst :=
  if h : s.toNat < 16 then .ok (.cell ⟨s.toNat, h⟩)
  else if s.toNat < 24 then .error .reservedSpecifier
  else if h2 : s.toNat - 24 < 8 then .ok (.out ⟨s.toNat - 24, h2⟩)
  else if s == 32 then .ok .none else .error .reservedSpecifier

/-- An in port named by S1. -/
def qin (s : BitVec 6) : Except Reject (Fin 8) :=
  if s.toNat < 16 then .error .reservedSpecifier
  else if h : s.toNat - 16 < 8 then .ok ⟨s.toNat - 16, h⟩ else .error .reservedSpecifier
/-- An out port named by DST. -/
def qout (s : BitVec 6) : Except Reject (Fin 8) :=
  if s.toNat < 24 then .error .reservedSpecifier
  else if h : s.toNat - 24 < 8 then .ok ⟨s.toNat - 24, h⟩ else .error .reservedSpecifier
/-- A cell register. -/
def qcell (s : BitVec 6) : Except Reject (Fin 16) :=
  if h : s.toNat < 16 then .ok ⟨s.toNat, h⟩ else .error .reservedSpecifier
/-- A cell register or 32. -/
def qcellOpt (s : BitVec 6) : Except Reject (Option (Fin 16)) :=
  if h : s.toNat < 16 then .ok (some ⟨s.toNat, h⟩)
  else if s == 32 then .ok none else .error .reservedSpecifier
/-- Code of a cell register or none. -/
def optCode : Option (Fin 16) → BitVec 6
  | some i => BitVec.ofNat 6 i.val
  | none => 32

/-- Empty policy code (R49). -/
def Ep.code : Ep → BitVec 2
  | .absorb => 0 | .forward => 1 | .replace => 2
/-- Empty policy of a code; 11 is reserved. -/
def epOf (b : BitVec 2) : Except Reject Ep :=
  if b == 0 then .ok .absorb else if b == 1 then .ok .forward else if b == 2 then .ok .replace
  else .error .reservedCode

/-- COND code (R254). -/
def QCond.code : QCond → BitVec 5
  | .eq => 0 | .ne => 1 | .lt => 2 | .le => 3 | .ltu => 4 | .leu => 5
  | .feq => 8 | .fne => 9 | .flt => 10 | .fle => 11
/-- Condition of a code. -/
def condOf (b : BitVec 5) : Except Reject QCond :=
  if b == 0 then .ok .eq else if b == 1 then .ok .ne else if b == 2 then .ok .lt else if b == 3 then .ok .le
  else if b == 4 then .ok .ltu else if b == 5 then .ok .leu else if b == 8 then .ok .feq
  else if b == 9 then .ok .fne else if b == 10 then .ok .flt else if b == 11 then .ok .fle
  else .error .reservedCode

/-- XS code of QREDL (R264). -/
def RedOp.code : RedOp → BitVec 3
  | .add => 0 | .max => 1 | .min => 2 | .fadd => 3 | .fmax => 4
/-- Reduction of a code. -/
def redOf (b : BitVec 3) : Except Reject RedOp :=
  if b == 0 then .ok .add else if b == 1 then .ok .max else if b == 2 then .ok .min
  else if b == 3 then .ok .fadd else if b == 4 then .ok .fmax else .error .reservedCode

/-- Bits of a schedule word that an operation leaves unused are zero: the flags name the fields it uses. -/
def qUnused (q : QWord) (dst s1 s2 s3 imm xoff xs ep xf : Bool) : Except Reject Unit := do
  ensure (dst || q.dst == 0) .unusedField
  ensure (s1 || q.s1 == 0) .unusedField
  ensure (s2 || q.s2 == 0) .unusedField
  ensure (s3 || q.s3 == 0) .unusedField
  ensure (imm || q.imm == 0) .unusedField
  ensure (xoff || q.xoff == 0) .unusedField
  ensure (xs || q.xs == 0) .unusedField
  ensure (ep || q.ep == 0) .unusedField
  ensure (xf || q.xf == 0) .unusedField

/-- DLY and RP. -/
def QWord.head (q : QWord) : QHead := ⟨q.dly, q.rp == 1⟩

/-- The one-source operands. -/
def dq1 (q : QWord) : Except Reject QOp1 := do
  let d ← qdst q.dst
  let s1 ← qsrc q.s1
  let e ← epOf q.ep
  .ok ⟨q.head, d, s1, q.xoff, e⟩
/-- The two-source operands. -/
def dq2 (q : QWord) : Except Reject QOp2 := do
  let d ← qdst q.dst
  let s1 ← qsrc q.s1
  let s2 ← qsrc q.s2
  let e ← epOf q.ep
  .ok ⟨q.head, d, s1, s2, q.xoff, e⟩
/-- The three-source operands. -/
def dq3 (q : QWord) : Except Reject QOp3 := do
  let d ← qdst q.dst
  let s1 ← qsrc q.s1
  let s2 ← qsrc q.s2
  let s3 ← qsrc q.s3
  let e ← epOf q.ep
  .ok ⟨q.head, d, s1, s2, s3, q.xoff, e⟩

/-- Answer the instruction if its fields are well formed. -/
def checked (i : Instr) : Except Reject Instr := do
  ensure i.wf .illegalFields
  .ok i

/-- Two sources and SAT. -/
def dqSat (mk : QOp2 → Sat → Instr) (q : QWord) : Except Reject Instr := do
  qUnused q true true true false false true false true true
  ensure (q.xf.extractLsb' 2 3 == 0) .unusedField
  let o ← dq2 q
  let s ← satOf (q.xf.extractLsb' 0 2)
  checked (mk o s)
/-- Two sources, no modifier. -/
def dqPlain (mk : QOp2 → Instr) (q : QWord) : Except Reject Instr := do
  qUnused q true true true false false true false true false
  let o ← dq2 q
  checked (mk o)
/-- Two sources and U. -/
def dqU (mk : QOp2 → Bool → Instr) (q : QWord) : Except Reject Instr := do
  qUnused q true true true false false true false true true
  ensure (q.xf.extractLsb' 1 4 == 0) .unusedField
  let o ← dq2 q
  checked (mk o (q.xf.getLsbD 0))
/-- Two sources and RM. -/
def dqRm (mk : QOp2 → Rm → Instr) (q : QWord) : Except Reject Instr := do
  qUnused q true true true false false true false true true
  ensure (q.xf.extractLsb' 3 2 == 0) .unusedField
  let o ← dq2 q
  let rm ← rmOf (q.xf.extractLsb' 0 3)
  checked (mk o rm)
/-- Shifts: S2 is 32 when the amount is immediate (R252). -/
def dqShift (mk : QOp1 → QAmount → Instr) (q : QWord) : Except Reject Instr := do
  qUnused q true true true false true true false true true
  ensure (q.xf.extractLsb' 1 4 == 0) .unusedField
  let o ← dq1 q
  if q.xf.getLsbD 0 then do
    ensure (q.s2 == 32 && q.imm.extractLsb' 5 7 == 0) .unusedField
    checked (mk o (.imm (q.imm.extractLsb' 0 5)))
  else do
    ensure (q.imm == 0) .unusedField
    let s2 ← qsrc q.s2
    checked (mk o (.src s2))
/-- QCVT (R244, R257). -/
def dqCvt (q : QWord) : Except Reject Instr := do
  qUnused q true true false false true true false true true
  let o ← dq1 q
  let rm ← rmOf (q.imm.extractLsb' 6 3)
  checked (.qcvt o (q.imm.extractLsb' 0 6) rm (ovfOf (q.xf.extractLsb' 3 2)) (q.imm.extractLsb' 9 3)
    (q.xf.extractLsb' 0 3))
/-- QMOV forms (R256). -/
def dqMov (q : QWord) : Except Reject Instr := do
  qUnused q true true false false true true false true true
  let d ← qdst q.dst
  let e ← epOf q.ep
  match q.xf.toNat with
  | 0 => do
    ensure (q.imm == 0) .unusedField
    let s1 ← qsrc q.s1
    checked (.qmov q.head d (.move s1 q.xoff) e)
  | 1 => do
    ensure (q.s1 == 32 && q.xoff == 0) .unusedField
    checked (.qmov q.head d (.lo q.imm) e)
  | 2 => do
    ensure (q.s1 == 32 && q.xoff == 0) .unusedField
    checked (.qmov q.head d (.mid q.imm) e)
  | 3 => do
    ensure (q.s1 == 32 && q.xoff == 0 && q.imm.extractLsb' 8 4 == 0) .unusedField
    checked (.qmov q.head d (.hi (q.imm.extractLsb' 0 8)) e)
  | 4 => do
    ensure (q.imm.extractLsb' 6 6 == 0) .unusedField
    let s1 ← qsrc q.s1
    checked (.qmov q.head d (.tag s1 q.xoff (q.imm.extractLsb' 0 6)) e)
  | _ => .error .reservedCode
/-- QRECV (R258). -/
def dqRecv (q : QWord) : Except Reject Instr := do
  qUnused q true true false false true false false true false
  ensure (q.imm.extractLsb' 1 11 == 0) .unusedField
  let d ← qcellOpt q.dst
  let p ← qin q.s1
  let e ← epOf q.ep
  checked (.qrecv q.head d p (q.imm.getLsbD 0) e)
/-- QSEND (R259). -/
def dqSend (q : QWord) : Except Reject Instr := do
  qUnused q true true false true true true false true false
  ensure (q.imm.extractLsb' 1 11 == 0) .unusedField
  let p ← qout q.dst
  let s1 ← qsrc q.s1
  let g ← qcellOpt q.s3
  let e ← epOf q.ep
  checked (.qsend q.head p s1 g (q.imm.getLsbD 0) q.xoff e)
/-- QLANE (R262). -/
def dqLane (q : QWord) : Except Reject Instr := do
  qUnused q true true false false false true true false false
  ensure (q.xs.extractLsb' 1 2 == 0) .unusedField
  let d ← qdst q.dst
  let c ← qcell q.s1
  checked (.qlane q.head d c q.xoff (q.xs.getLsbD 0))
/-- QBCAST (R263). -/
def dqBcast (q : QWord) : Except Reject Instr := do
  qUnused q true true false false true false false false false
  ensure (q.imm.extractLsb' 4 8 == 0) .unusedField
  let d ← qdst q.dst
  let c ← qcell q.s1
  checked (.qbcast q.head d c (q.imm.extractLsb' 0 4))
/-- QREDL (R264). -/
def dqRedl (q : QWord) : Except Reject Instr := do
  qUnused q true true false false false false true true true
  ensure (q.xf.extractLsb' 3 2 == 0) .unusedField
  let d ← qdst q.dst
  let s1 ← qsrc q.s1
  let op ← redOf q.xs
  let rm ← rmOf (q.xf.extractLsb' 0 3)
  let e ← epOf q.ep
  checked (.qredl q.head d s1 op rm e)
/-- QTSTEP (R267). -/
def dqTstep (q : QWord) : Except Reject Instr := do
  qUnused q true true false false true false false false true
  ensure (q.dst == 32 && q.imm.extractLsb' 11 1 == 0 && q.xf.extractLsb' 2 3 == 0) .unusedField
  let p ← qin q.s1
  if h : p.val < 4 then
    checked (.qtstep q.head ⟨p.val, h⟩ (q.imm.extractLsb' 0 4) (q.imm.extractLsb' 4 5) (q.imm.extractLsb' 9 2)
      (q.xf.getLsbD 0) (q.xf.getLsbD 1))
  else .error .reservedSpecifier
/-- QDRAIN (R270). -/
def dqDrain (q : QWord) : Except Reject Instr := do
  qUnused q true false false false true false false false true
  ensure (q.imm.extractLsb' 9 1 == 0 && q.xf.extractLsb' 4 1 == 0) .unusedField
  let p ← qout q.dst
  let rm ← rmOf (q.xf.extractLsb' 0 3)
  checked (.qdrain q.head p (q.imm.extractLsb' 0 4) (q.imm.extractLsb' 4 5) (ovfOf (q.imm.extractLsb' 10 2)) rm
    (q.xf.getLsbD 3))
/-- QSCALE (R269). -/
def dqScale (q : QWord) : Except Reject Instr := do
  qUnused q true true false false true false false false true
  ensure (q.dst == 32 && q.xf.extractLsb' 1 4 == 0) .unusedField
  if q.xf.getLsbD 0 then do
    ensure (q.s1 == 32 && q.imm.extractLsb' 3 9 == 0) .unusedField
    checked (.qscale q.head (.tensor (q.imm.extractLsb' 0 3)))
  else do
    ensure (q.imm == 0) .unusedField
    let s1 ← qsrc q.s1
    checked (.qscale q.head (.lane s1))
/-- QITER (R261). -/
def dqIter (q : QWord) : Except Reject Instr := do
  qUnused q true false false false true false false false false
  ensure (q.imm.extractLsb' 3 9 == 0) .unusedField
  let d ← qdst q.dst
  checked (.qiter q.head d (q.imm.extractLsb' 0 3))
/-- QEMPTY (R260). -/
def dqEmpty (q : QWord) : Except Reject Instr := do
  qUnused q true true false false true false false false false
  ensure (q.imm.extractLsb' 1 11 == 0) .unusedField
  let d ← qcellOpt q.dst
  let p ← qin q.s1
  checked (.qempty q.head d p (q.imm.getLsbD 0))
/-- QMAC. -/
def dqMac (q : QWord) : Except Reject Instr := do
  qUnused q true true true true false true false true true
  ensure (q.xf.extractLsb' 2 3 == 0) .unusedField
  let o ← dq3 q
  let s ← satOf (q.xf.extractLsb' 0 2)
  checked (.qmac o s)
/-- QSEL. -/
def dqSel (q : QWord) : Except Reject Instr := do
  qUnused q true true true true false true false true false
  let o ← dq3 q
  checked (.qsel o)
/-- QFMA. -/
def dqFma (q : QWord) : Except Reject Instr := do
  qUnused q true true true true false true false true true
  ensure (q.xf.extractLsb' 3 2 == 0) .unusedField
  let o ← dq3 q
  let rm ← rmOf (q.xf.extractLsb' 0 3)
  checked (.qfma o rm)
/-- QCMP. -/
def dqCmp (q : QWord) : Except Reject Instr := do
  qUnused q true true true false false true false true true
  let o ← dq2 q
  let c ← condOf q.xf
  checked (.qcmp o c)
/-- QRSYM: S1 is in0 (R283). -/
def dqRsym (q : QWord) : Except Reject Instr := do
  qUnused q false true false false false false false false false
  ensure (q.s1 == 16) .reservedSpecifier
  checked (.qrsym q.head)
/-- QRLOAD (R283). -/
def dqRload (q : QWord) : Except Reject Instr := do
  qUnused q false true false false true false false false false
  ensure (q.imm.extractLsb' 10 2 == 0) .unusedField
  let p ← qin q.s1
  checked (.qrload q.head p (q.imm.extractLsb' 0 10))
/-- QRDRAIN (R283). -/
def dqRdrain (q : QWord) : Except Reject Instr := do
  qUnused q true false false false true false false false true
  ensure (q.xf.extractLsb' 3 2 == 0) .unusedField
  let p ← qout q.dst
  let rm ← rmOf (q.xf.extractLsb' 0 3)
  checked (.qrdrain q.head p (q.imm.extractLsb' 0 10) (ovfOf (q.imm.extractLsb' 10 2)) rm)

/-- The column operation of a schedule word (R241, R244, R283). -/
def decodeColumn (w : Word) : Except Reject Instr :=
  let q := QWord.of w
  match q.op.toNat with
  | 0x00 => do
    qUnused q false false false false false false false false false
    checked (.qnop q.head)
  | 0x01 => dqSat .qadd q
  | 0x02 => dqSat .qsub q
  | 0x03 => dqSat .qmul q
  | 0x04 => dqMac q
  | 0x05 => dqPlain .qand q
  | 0x06 => dqPlain .qor q
  | 0x07 => dqPlain .qxor q
  | 0x08 => dqShift .qshl q
  | 0x09 => dqShift .qshr q
  | 0x0A => dqShift .qsra q
  | 0x0B => dqU .qmin q
  | 0x0C => dqU .qmax q
  | 0x0D => dqCmp q
  | 0x0E => dqSel q
  | 0x10 => dqRm .qfadd q
  | 0x11 => dqRm .qfmul q
  | 0x12 => dqFma q
  | 0x13 => dqPlain .qfmin q
  | 0x14 => dqPlain .qfmax q
  | 0x15 => dqCvt q
  | 0x20 => dqRecv q
  | 0x21 => dqSend q
  | 0x22 => dqLane q
  | 0x23 => dqBcast q
  | 0x24 => dqRedl q
  | 0x25 => dqMov q
  | 0x30 => dqTstep q
  | 0x31 => dqDrain q
  | 0x32 => dqScale q
  | 0x38 => dqRsym q
  | 0x39 => dqRload q
  | 0x3A => dqRdrain q
  | 0x3C => dqIter q
  | 0x3D => dqEmpty q
  | _ => .error .unassignedMajor

/-- Schedule word of a head and an operation with every other field zero. -/
def qw (op : Nat) (h : QHead) : QWord := ⟨BitVec.ofNat 8 op, h.dly, 0, 0, 0, 0, 0, 0, 0, 0, bit h.rp, 0⟩

/-- One-source fields. -/
def eq1 (op : Nat) (o : QOp1) : QWord :=
  { qw op o.head with dst := o.dst.code, s1 := o.s1.code, xoff := o.xoff, ep := o.ep.code }
/-- Two-source fields. -/
def eq2 (op : Nat) (o : QOp2) : QWord :=
  { qw op o.head with dst := o.dst.code, s1 := o.s1.code, s2 := o.s2.code, xoff := o.xoff, ep := o.ep.code }
/-- Three-source fields. -/
def eq3 (op : Nat) (o : QOp3) : QWord :=
  { qw op o.head with
    dst := o.dst.code, s1 := o.s1.code, s2 := o.s2.code, s3 := o.s3.code, xoff := o.xoff, ep := o.ep.code }
/-- SAT in XF[1:0]. -/
def xfSat (s : Sat) : BitVec 5 := (0 : BitVec 3) ++ s.code
/-- RM in XF[2:0]. -/
def xfRm (r : Rm) : BitVec 5 := (0 : BitVec 2) ++ r.code
/-- A flag in XF[0]. -/
def xfBit (b : Bool) : BitVec 5 := (0 : BitVec 4) ++ bit b
/-- A flag in IMM[0]. -/
def immBit (b : Bool) : BitVec 12 := (0 : BitVec 11) ++ bit b
/-- Shift fields. -/
def eqShift (op : Nat) (o : QOp1) (n : QAmount) : QWord :=
  match n with
  | .src s2 => { eq1 op o with s2 := s2.code }
  | .imm k => { eq1 op o with s2 := 32, imm := (0 : BitVec 7) ++ k, xf := 1 }

/-- The schedule word of a column operation (R234, R244, R283); the word of a QNOP for anything else. -/
def encodeColumn : Instr → QWord
  | .qnop h => qw 0x00 h
  | .qadd o s => { eq2 0x01 o with xf := xfSat s }
  | .qsub o s => { eq2 0x02 o with xf := xfSat s }
  | .qmul o s => { eq2 0x03 o with xf := xfSat s }
  | .qmac o s => { eq3 0x04 o with xf := xfSat s }
  | .qand o => eq2 0x05 o
  | .qor o => eq2 0x06 o
  | .qxor o => eq2 0x07 o
  | .qshl o n => eqShift 0x08 o n
  | .qshr o n => eqShift 0x09 o n
  | .qsra o n => eqShift 0x0A o n
  | .qmin o u => { eq2 0x0B o with xf := xfBit u }
  | .qmax o u => { eq2 0x0C o with xf := xfBit u }
  | .qcmp o c => { eq2 0x0D o with xf := c.code }
  | .qsel o => eq3 0x0E o
  | .qfadd o r => { eq2 0x10 o with xf := xfRm r }
  | .qfmul o r => { eq2 0x11 o with xf := xfRm r }
  | .qfma o r => { eq3 0x12 o with xf := xfRm r }
  | .qfmin o => eq2 0x13 o
  | .qfmax o => eq2 0x14 o
  | .qcvt o t r ov d s => { eq1 0x15 o with imm := d ++ r.code ++ t, xf := ov.code ++ s }
  | .qrecv h d p k e =>
    { qw 0x20 h with dst := optCode d, s1 := QSrc.code (.inp p), imm := immBit k, ep := e.code }
  | .qsend h p s1 g e x ep =>
    { qw 0x21 h with
      dst := QDst.code (.out p), s1 := s1.code, s3 := optCode g, imm := immBit e, xoff := x, ep := ep.code }
  | .qlane h d c x z =>
    { qw 0x22 h with dst := d.code, s1 := QSrc.code (.cell c), xoff := x, xs := (0 : BitVec 2) ++ bit z }
  | .qbcast h d c j => { qw 0x23 h with dst := d.code, s1 := QSrc.code (.cell c), imm := (0 : BitVec 8) ++ j }
  | .qredl h d s1 op r e =>
    { qw 0x24 h with dst := d.code, s1 := s1.code, xs := op.code, ep := e.code, xf := xfRm r }
  | .qmov h d f e =>
    match f with
    | .move s1 x => { qw 0x25 h with dst := d.code, s1 := s1.code, xoff := x, ep := e.code }
    | .lo i => { qw 0x25 h with dst := d.code, s1 := 32, imm := i, ep := e.code, xf := 1 }
    | .mid i => { qw 0x25 h with dst := d.code, s1 := 32, imm := i, ep := e.code, xf := 2 }
    | .hi i => { qw 0x25 h with dst := d.code, s1 := 32, imm := (0 : BitVec 4) ++ i, ep := e.code, xf := 3 }
    | .tag s1 x t =>
      { qw 0x25 h with dst := d.code, s1 := s1.code, imm := (0 : BitVec 6) ++ t, xoff := x, ep := e.code, xf := 4 }
  | .qtstep h p r g n lb za =>
    { qw 0x30 h with
      dst := 32, s1 := BitVec.ofNat 6 (16 + p.val), imm := (0 : BitVec 1) ++ n ++ g ++ r,
      xf := (0 : BitVec 3) ++ bit za ++ bit lb }
  | .qdrain h p n0 g ov r pk =>
    { qw 0x31 h with
      dst := QDst.code (.out p), imm := ov.code ++ (0 : BitVec 1) ++ g ++ n0, xf := (0 : BitVec 1) ++ bit pk ++ r.code }
  | .qscale h f =>
    match f with
    | .lane s1 => { qw 0x32 h with dst := 32, s1 := s1.code }
    | .tensor p => { qw 0x32 h with dst := 32, s1 := 32, imm := (0 : BitVec 9) ++ p, xf := 1 }
  | .qiter h d i => { qw 0x3C h with dst := d.code, imm := (0 : BitVec 9) ++ i }
  | .qempty h d p c => { qw 0x3D h with dst := optCode d, s1 := QSrc.code (.inp p), imm := immBit c }
  | .qrsym h => { qw 0x38 h with s1 := 16 }
  | .qrload h p e0 => { qw 0x39 h with s1 := QSrc.code (.inp p), imm := (0 : BitVec 2) ++ e0 }
  | .qrdrain h p e0 ov r => { qw 0x3A h with dst := QDst.code (.out p), imm := ov.code ++ e0, xf := xfRm r }
  | _ => qw 0x00 ⟨0, false⟩

/-- The instruction is one of the 35 column operations. -/
def Instr.isColumn : Instr → Bool
  | .qnop _ | .qadd _ _ | .qsub _ _ | .qmul _ _ | .qmac _ _ | .qand _ | .qor _ | .qxor _ | .qshl _ _ | .qshr _ _
  | .qsra _ _ | .qmin _ _ | .qmax _ _ | .qcmp _ _ | .qsel _ | .qfadd _ _ | .qfmul _ _ | .qfma _ _ | .qfmin _
  | .qfmax _ | .qcvt _ _ _ _ _ _ | .qrecv _ _ _ _ _ | .qsend _ _ _ _ _ _ _ | .qlane _ _ _ _ _ | .qbcast _ _ _ _
  | .qredl _ _ _ _ _ _ | .qmov _ _ _ _ | .qtstep _ _ _ _ _ _ _ | .qdrain _ _ _ _ _ _ _ | .qscale _ _ | .qiter _ _ _
  | .qempty _ _ _ _ | .qrsym _ | .qrload _ _ _ | .qrdrain _ _ _ _ _ => true
  | _ => false

/-! ### The word the host asks about -/

/-- The 16 bytes of an instruction whose bits are w and whose bits from nbits up are zero: word 0 is bits 31 to 0. -/
def tableBytes (nbits w : Nat) : List Byte :=
  (List.range 16).map fun k => BitVec.ofNat 8 ((w % 2 ^ nbits) / 256 ^ k)

/-- What the decoder reads from those bits. -/
def decodeTableWord (nbits w : Nat) : Option Instr :=
  match decode (tableBytes nbits w) with
  | .ok (i, _) => some i
  | .error _ => none

end Sys2Proof
end

