-- ==== Sys2Proof/Config.lean ====
section
/-!
DEFINITION. What one AD-7820 fixes (counts of units, the operating-point table) and the FREE VALUES: opaque
constants for what the manual leaves open. Nothing can be proved about the value of an opaque constant.
-/

namespace Sys2Proof.Config

/-- Compute dies of the package (R7). -/
def dies : Nat := 12
/-- Control cores of one compute die (R8). -/
def coresPerDie : Nat := 32
/-- Control cores of the package, the two command-processor cores not counted (R8). -/
def computeCores : Nat := 384
/-- Core id of the first command-processor core; the second has the next id (R338). -/
def cpCore : Nat := 384
/-- Bytes of a core scratchpad (R92). -/
def spadBytes : Nat := 4194304
/-- Pages along one side of a floor (R46). -/
def floorSide : Nat := 16
/-- Tokens of one lane a receive queue holds (R52), and the unstored tokens a write stream holds (R250). -/
def queueDepth : Nat := 32
/-- Copy slots of one core (R109). -/
def copySlots : Nat := 512
/-- Unfinished instructions a core may have issued (R169). -/
def maxInFlight : Nat := 8
/-- Stream entries of the port scoreboard (R337). -/
def streamEntries : Nat := 32
/-- Unanswered fault records a partition holds (R386). -/
def faultRecords : Nat := 4096
/-- Bytes of the configuration store (R224). -/
def configStoreBytes : Nat := 33554432
/-- Records of the journal ring (R339). -/
def journalRecords : Nat := 2048

/-- One operating point: rail millivolts and arithmetic clock in MHz (R403). -/
structure OpPoint where
  millivolt : Nat
  megahertz : Nat
  deriving DecidableEq, Repr

/-- OP0 to OP7 (R403). -/
def opPoints : List OpPoint :=
  [⟨850, 2400⟩, ⟨800, 2100⟩, ⟨750, 1800⟩, ⟨700, 1500⟩, ⟨640, 1200⟩, ⟨580, 960⟩, ⟨520, 700⟩, ⟨460, 420⟩]

/-! ### Free values -/

/-- Which of the steps that could come next does come next, where no rule fixes it (log 4). -/
opaque choose : Nat → Nat
/-- A byte the manual calls unspecified (R109, R110; log 7). -/
opaque freeByte : Nat → Byte
/-- A word the manual leaves open (log 7). -/
opaque freeWord : Nat → Word
/-- Top of the stack the loader allocates for a task on a core (R294; log 6). -/
opaque stackTop : Nat → Nat → Word
/-- Whether the translation of a Sornen function, given as its bytes in the SORNEN section, fits NLINES (R311; log 33). -/
opaque sornenFits : List Byte → Bool
/-- Doublewords of the stack frame that a Sornen function's translation allocates: code handle, function (R306; log 33). -/
opaque sornenFrame : Nat → Nat → Nat
/-- Which of a die's usable modules carries the traffic of a 64-byte line, as a number to divide by their count (R377;
log 65). -/
opaque route : Nat → Nat → Nat
/-- Base of the thread-local bytes the loader allocates (R294; log 6). -/
opaque tlsBase : Nat → Nat → Word
/-- Base of the spill area the loader allocates; its low three bits are cleared where it is used (R147; log 6). -/
opaque spillBase : Nat → Nat → Word
/-- Trim of a die's regulator, as a number to divide by 41 and put 20 below (R403; log 20). -/
opaque railTrim : Nat → Nat
/-- The new value a PLACE record carries: core, the task placed there if any, the quota reserved or returned (R339, R395;
log 69). -/
opaque placeWord : Nat → Option Nat → Nat → Word
/-- Physical base of a partition's save region, which CONTROL_DONE of PCREATE reports (R400; log 12). -/
opaque saveRegion : Nat → Nat
/-- Partition-physical address the host reads a partition's status table at (R358; log 37). -/
opaque statusTable : Nat → Nat
/-- Partition-physical address the host reads and writes a partition's completion counters at (R326; log 37). -/
opaque counterTable : Nat → Nat
/-- Partition-physical address of its queue barrier objects (R326; log 37). -/
opaque barrierTable : Nat → Nat
/-- A tenant's AES-256 key, drawn from the switch die's random source (R390; log 8). -/
opaque tenantKey : Nat → BitVec 256
/-- A byte of the keystream of AES-256 in counter mode: key, write generation of the line, physical loft address of the byte,
whose 16-byte block is the counter's low half (R100; log 8). -/
opaque keystream : BitVec 256 → Nat → Nat → Byte
/-- XMSS-SHAKE256_10_256 verification: public key, message, signature (R391; log 9). -/
opaque xmssVerifies : List Byte → List Byte → List Byte → Bool
/-- The 32-byte hash of the public key in the switch die's fuses (R391; log 9). -/
opaque fusedKeyHash : BitVec 256
/-- The bytes of the firmware image the module is shipped with (R391; log 9). -/
opaque shippedImage : List Byte
/-- Whether the ICV of a frame is right under a MACsec key: key, association and packet number, datagram, ICV (R361, R362;
log 37). -/
opaque icvValid : List Byte → Nat → Nat → List Byte → List Byte → Bool
/-- Whether a module is disabled by fuse: die, module (R377; log 10). -/
opaque linkFused : Nat → Nat → Bool
/-- Target of a reduction's drain: a tag, a rounding mode and an overflow policy as numbers (R371; log 48). -/
opaque reduceTarget : Nat → Nat × Nat × Nat
/-- SHAKE256 digest of 256 bits (R393; log 9). -/
opaque shake256 : List Byte → BitVec 256
/-- The 2 820-byte identity signature over a statement (R393; log 9). -/
opaque identitySignature : List Byte → Nat → List Byte
/-- Serial number and identity public key of the device (R393; log 9). -/
opaque identityBytes : Nat → Byte
/-- The security version fused as the minimum (R391; log 9). -/
opaque fusedSvn : Nat
/-- Whether a control core is fused off at manufacture (R370; log 10). -/
opaque coreFused : Nat → Bool
/-- Compute tiles of a die that can be used (R370; log 10). -/
opaque usableTiles : Nat → Nat
/-- Whether a die's unit is fused off at manufacture: die, feature bit (R370; log 10). -/
opaque fusedOff : Nat → Nat → Bool

end Sys2Proof.Config
end

