-- ==== Sys2Proof/Machine/Sparse.lean ====
section
/-!
DEFINITION. Sparse tables as lists of (key, value) pairs with a default for unlisted keys. A lookup takes the first
entry of its key, so that reading after writing needs no assumption on the list; writing keeps rising keys rising.
-/

namespace Sys2Proof.Machine

/-- A table from numbers to values; keys not listed hold a default the reader names. -/
abbrev Sparse (α : Type) := List (Nat × α)

/-- The value at a key, or the default. -/
def Sparse.get {α : Type} (d : α) : Sparse α → Nat → α
  | [], _ => d
  | (a, x) :: t, k => if a = k then x else Sparse.get d t k

/-- The value at a key, if one is listed. -/
def Sparse.find {α : Type} : Sparse α → Nat → Option α
  | [], _ => none
  | (a, x) :: t, k => if a = k then some x else Sparse.find t k

/-- Put a value at a key, in rising key order. -/
def Sparse.set {α : Type} : Sparse α → Nat → α → Sparse α
  | [], k, v => [(k, v)]
  | (a, x) :: t, k, v =>
    if a = k then (k, v) :: t
    else if k < a then (k, v) :: (a, x) :: t
    else (a, x) :: Sparse.set t k v

/-- Remove a key. -/
def Sparse.erase {α : Type} : Sparse α → Nat → Sparse α
  | [], _ => []
  | (a, x) :: t, k => if a = k then Sparse.erase t k else (a, x) :: Sparse.erase t k

/-- Remove every key in a range of n keys from k up. -/
def Sparse.eraseRange {α : Type} : Sparse α → Nat → Nat → Sparse α
  | [], _, _ => []
  | (a, x) :: t, k, n =>
    if k ≤ a && a < k + n then Sparse.eraseRange t k n else (a, x) :: Sparse.eraseRange t k n

/-- Write a value, listing nothing where it equals the default: the canonical form. -/
def Sparse.put {α : Type} [DecidableEq α] (d : α) (m : Sparse α) (k : Nat) (v : α) : Sparse α :=
  if v = d then m.erase k else m.set k v

/-- Keys rise strictly. -/
def Sparse.rising {α : Type} : Sparse α → Bool
  | [] => true
  | [_] => true
  | (a, _) :: (b, y) :: t => decide (a < b) && Sparse.rising ((b, y) :: t)

/-- The canonical form: keys rise strictly and no entry holds the default. -/
def Sparse.canonical {α : Type} [DecidableEq α] (d : α) (m : Sparse α) : Bool :=
  m.rising && m.all (fun e => decide (e.2 ≠ d))

end Sys2Proof.Machine
end

