-- ==== Sys2Proof/Machine/Float.lean ====
section
/-!
DEFINITION. Number formats and exact arithmetic (R59 to R90): format registers and tags, decoding an element to its
exact value, one rounding under the modes and overflow policies, binary32 arithmetic, the tun accumulator and its
drain, and the counter generator G. Values are exact: a sign, a natural significand and a power of two.
-/

namespace Sys2Proof.Machine

/-! ### Exact values -/

/-- An exact value, or a special one: over stands for a tun overflow code (R71). -/
inductive Val where
  | nan (signalling : Bool)
  | inf (neg : Bool)
  | beyond (neg : Bool)
  | fin (neg : Bool) (m : Nat) (e : Int)
  deriving DecidableEq, Repr

/-- m x 2^e compared with n x 2^f. -/
def magLt (m : Nat) (e : Int) (n : Nat) (f : Int) : Bool :=
  if e ≥ f then decide (m * 2 ^ (e - f).toNat < n) else decide (m < n * 2 ^ (f - e).toNat)

/-- The integer significand of a signed value at exponent f, exact when f is at most its own exponent. -/
def Val.intAt (neg : Bool) (m : Nat) (e f : Int) : Int :=
  let n : Int := (m * 2 ^ (e - f).toNat : Nat)
  if neg then -n else n

/-! ### Formats -/

/-- What the fields of R61, or a row of R60, say of a format with values. -/
inductive Fmt where
  /-- n x 2^unit, n of w bits (integer class) -/
  | int (signed : Bool) (w : Nat) (unit : Int)
  /-- sign, exponent width, significand width, bias, SPC, SUB (float class) -/
  | flt (sgn : Bool) (exw sgw : Nat) (bias : Int) (spc : BitVec 2) (sub : Bool)
  /-- FT13 (scale class) -/
  | e8m0
  deriving DecidableEq, Repr

/-- FP32 (R60). -/
def Fmt.fp32 : Fmt := .flt true 8 23 127 0 true

/-- Classes of tags (R64); invalid: a programmable register whose contents R62 refuses. -/
inductive TagClass where
  | raw | integer | float | scale | accumulator | invalid
  deriving DecidableEq, Repr

/-- The contents of a programmable format register are valid (R62). -/
def ftValid (r : Half) : Bool :=
  let sgn := (r.extractLsb' 23 1).toNat
  let exw := (r.extractLsb' 20 3).toNat
  let sgw := (r.extractLsb' 17 3).toNat
  let spc := r.extractLsb' 15 2
  let sub := r.getLsbD 14
  let bsk := r.extractLsb' 12 2
  let w := sgn + exw + sgw
  w != 0 && decide (w ≤ 8) && spc != 3 && bsk != 3 && r.extractLsb' 0 12 == 0
    && !(exw == 0 && (spc != 2 || sub)) && !(spc == 0 && decide (exw < 2))

/-- The format of a programmable register (R61, R63). -/
def ftDecode (r : Half) : Fmt :=
  let sgn := r.getLsbD 23
  let exw := (r.extractLsb' 20 3).toNat
  let sgw := (r.extractLsb' 17 3).toNat
  let bias := (r.extractLsb' 24 8).toInt
  if exw = 0 then .int sgn ((if sgn then 1 else 0) + sgw) (-bias)
  else .flt sgn exw sgw bias (r.extractLsb' 15 2) (r.getLsbD 14)

/-- What CRD reads from a fixed format register (R59). -/
def ftFixed (n : Nat) : Half :=
  match n with
  | 1 => 0x008F0000
  | 8 => 0x07C6C000
  | 9 => 0x0FD44000
  | 10 => 0x01A74000
  | 11 => 0x03B54000
  | 12 => 0x01A34000
  | _ => 0

/-- A format register: the fixed value, or the programmable contents (R59). -/
def ftRead (ft : Sparse Half) (n : Nat) : Half := if n < 16 then ftFixed n else Sparse.get 0 ft n

/-- The format a tag names, when it has values: none for raw, tun and invalid registers (R60, R63). -/
def fmtOf (ft : Sparse Half) (t : Tag) : Option Fmt :=
  match t.toNat with
  | 0 => none
  | 1 => some (.int true 8 0)
  | 2 => some (.int true 16 0)
  | 3 => some (.int true 32 0)
  | 4 => some (.int true 64 0)
  | 5 => some .fp32
  | 6 => some (.flt true 5 10 15 0 true)
  | 7 => some (.flt true 8 7 127 0 true)
  | 8 => some (.flt true 4 3 7 1 true)
  | 9 => some (.flt true 5 2 15 0 true)
  | 10 => some (.flt true 2 3 1 2 true)
  | 11 => some (.flt true 3 2 3 2 true)
  | 12 => some (.flt true 2 1 1 2 true)
  | 13 => some .e8m0
  | 14 => none
  | 15 => none
  | n => let r := Sparse.get 0 ft n; if ftValid r then some (ftDecode r) else none

/-- The class of a tag (R64). -/
def classOf (ft : Sparse Half) (t : Tag) : TagClass :=
  if t == 0 then .raw
  else if t == 14 || t == 15 then .accumulator
  else match fmtOf ft t with
    | none => .invalid
    | some (.int _ _ _) => .integer
    | some (.flt _ _ _ _ _ _) => .float
    | some .e8m0 => .scale

/-- Block-scale kind of a tag: 0 none, 1 MX, 2 per tensor; fixed formats have none (R60, R61). -/
def bskOf (ft : Sparse Half) (t : Tag) : BitVec 2 :=
  if t.toNat < 16 then 0 else (Sparse.get 0 ft t.toNat).extractLsb' 12 2

/-- Element width of a format in bits. -/
def Fmt.width : Fmt → Nat
  | .int _ w _ => w
  | .flt sgn exw sgw _ _ _ => (if sgn then 1 else 0) + exw + sgw
  | .e8m0 => 8

/-- Container of an element of w bits (R101). -/
def containerOfWidth (w : Nat) : Nat :=
  if w ≤ 4 then 4 else if w ≤ 8 then 8 else if w ≤ 16 then 16 else if w ≤ 32 then 32 else 64

/-- Container of a tag's elements in bits: raw 32, tun-64 64, tun-128 128 (R101). -/
def containerOf (ft : Sparse Half) (t : Tag) : Nat :=
  match t.toNat with
  | 0 => 32
  | 14 => 64
  | 15 => 128
  | _ => match fmtOf ft t with
    | some f => containerOfWidth f.width
    | none => 32

/-- The format has infinities: IEEE-like specials (R60, R63). -/
def Fmt.hasInf : Fmt → Bool
  | .flt _ _ _ _ spc _ => spc == 0
  | _ => false

/-- The format has a NaN (R63, R86). -/
def Fmt.hasNan : Fmt → Bool
  | .flt _ _ sgw _ spc _ => (spc == 0 && sgw != 0) || spc == 1
  | .e8m0 => true
  | _ => false

/-- The format has a sign bit. -/
def Fmt.signed : Fmt → Bool
  | .int s _ _ => s
  | .flt s _ _ _ _ _ => s
  | .e8m0 => false

/-- Sign, exponent and significand fields as an encoding. -/
def packFlt (sgn : Bool) (exw sgw : Nat) (neg : Bool) (e m : Nat) : Nat :=
  (if sgn && neg then 2 ^ (exw + sgw) else 0) + e * 2 ^ sgw + m

/-- Exponent and significand fields of the largest finite value (R60, R63). -/
def fltMax (exw sgw : Nat) (spc : BitVec 2) : Nat × Nat :=
  if spc == 0 then (2 ^ exw - 2, 2 ^ sgw - 1)
  else if spc == 1 then (if sgw = 0 then (2 ^ exw - 2, 0) else (2 ^ exw - 1, 2 ^ sgw - 2))
  else (2 ^ exw - 1, 2 ^ sgw - 1)

/-- Significand and exponent of the magnitude that fields e and m stand for (R63). -/
def fltMag (sgw : Nat) (bias : Int) (sub : Bool) (e m : Nat) : Nat × Int :=
  if e = 0 then (if sub then m else 0, 1 - bias - sgw)
  else (2 ^ sgw + m, (e : Int) - bias - sgw)

/-- The canonical NaN (R86); 0 where the format has none (R84). -/
def Fmt.nanCode : Fmt → Nat
  | .flt sgn exw sgw _ spc _ =>
    if spc == 0 then (if sgw = 0 then 0 else packFlt sgn exw sgw false (2 ^ exw - 1) (2 ^ (sgw - 1)))
    else if spc == 1 then packFlt sgn exw sgw false (2 ^ exw - 1) (2 ^ sgw - 1)
    else 0
  | .e8m0 => 0xFF
  | .int _ _ _ => 0

/-- Infinity of a sign. -/
def Fmt.infCode (f : Fmt) (neg : Bool) : Nat :=
  match f with
  | .flt sgn exw sgw _ _ _ => packFlt sgn exw sgw neg (2 ^ exw - 1) 0
  | _ => 0

/-- An integer as w bits of two's complement. -/
def intCode (w : Nat) (n : Int) : Nat := (n % (2 ^ w : Nat)).toNat

/-- The result of policy SAT on overflow (R83, R84). -/
def Fmt.satCode (f : Fmt) (neg : Bool) : Nat :=
  match f with
  | .int true w _ => if neg then 2 ^ (w - 1) else 2 ^ (w - 1) - 1
  | .int false w _ => if neg then 0 else 2 ^ w - 1
  | .flt sgn exw sgw _ spc _ =>
    if neg && !sgn then 0 else packFlt sgn exw sgw neg (fltMax exw sgw spc).1 (fltMax exw sgw spc).2
  | .e8m0 => if neg then 0 else 0xFE

/-- The result of an overflow under a policy (R83, R84); TRAP is handled by the caller. -/
def Fmt.overCode (f : Fmt) (ov : Ovf) (neg : Bool) : Nat :=
  match f with
  | .int _ _ _ => f.satCode neg
  | .e8m0 => if ov == .inf || ov == .nan then 0xFF else f.satCode neg
  | .flt sgn _ _ _ _ _ =>
    if neg && !sgn then (if (ov == .inf || ov == .nan) && f.hasNan then f.nanCode else 0)
    else match ov with
      | .inf => if f.hasInf then f.infCode neg else if f.hasNan then f.nanCode else f.satCode neg
      | .nan => if f.hasNan then f.nanCode else f.satCode neg
      | _ => f.satCode neg

/-- The exact value of an element's bits (R60, R63). -/
def Fmt.decode (f : Fmt) (bits : Nat) : Val :=
  match f with
  | .int s w u =>
    let b := bits % 2 ^ w
    if s && decide (2 ^ (w - 1) ≤ b) then .fin true (2 ^ w - b) u else .fin false b u
  | .flt sgn exw sgw bias spc sub =>
    let m := bits % 2 ^ sgw
    let e := bits / 2 ^ sgw % 2 ^ exw
    let neg := sgn && decide (bits / 2 ^ (sgw + exw) % 2 = 1)
    if spc == 0 && e == 2 ^ exw - 1 then
      (if m = 0 then .inf neg else .nan (decide (m < 2 ^ (sgw - 1))))
    else if spc == 1 && e == 2 ^ exw - 1 && m == 2 ^ sgw - 1 then .nan false
    else .fin neg (fltMag sgw bias sub e m).1 (fltMag sgw bias sub e m).2
  | .e8m0 => if bits % 256 = 255 then .nan false else .fin false 1 ((bits % 256 : Nat) - 127)

/-! ### Rounding -/

/-- Bits of a positive number. -/
def bitLen (m : Nat) : Nat := if m = 0 then 0 else Nat.log2 m + 1

/-- Significand and remainder at exponent q: m x 2^e = (j + r / d) x 2^q with r < d (d a power of two). -/
def splitAt (m : Nat) (e q : Int) : Nat × Nat × Nat :=
  if e ≥ q then (m * 2 ^ (e - q).toNat, 0, 1)
  else let d := 2 ^ (q - e).toNat; (m / d, m % d, d)

/-- Whether the magnitude j + r/d is rounded up to j + 1 (R80, R81); odd says that j's encoding is odd. -/
def roundsUp (rm : Rm) (neg odd : Bool) (r d : Nat) (draw : Half) : Bool :=
  if r = 0 then false
  else match rm with
    | .rne => decide (2 * r > d) || (decide (2 * r = d) && odd)
    | .rtz => false
    | .rup => !neg
    | .rdn => neg
    | .rna => decide (2 * r ≥ d)
    | .stoch => decide (r * 2 ^ 32 / d + draw.toNat ≥ 2 ^ 32)

/-- Round a magnitude to the grid 2^q: the integer at q, and whether it was exact. -/
def roundGrid (rm : Rm) (neg : Bool) (odd : Nat → Bool) (m : Nat) (e q : Int) (draw : Half) : Nat × Bool :=
  let (j, r, d) := splitAt m e q
  (if roundsUp rm neg (odd j) r d draw then j + 1 else j, r == 0)

/-- A conversion's outcome: the encoding, flags IX UF OF DZ NV from bit 4 down, and whether it overflowed (R83). -/
structure Conv where
  bits : Nat
  flags : BitVec 5
  ovf : Bool
  deriving DecidableEq, Repr

/-- Invalid operation. -/
def flNV : BitVec 5 := 1
/-- Division by zero. -/
def flDZ : BitVec 5 := 2
/-- Overflow. -/
def flOF : BitVec 5 := 4
/-- Underflow. -/
def flUF : BitVec 5 := 8
/-- Inexact. -/
def flIX : BitVec 5 := 16

/-- A rounded magnitude of a float format: j at exponent q, its exactness, and whether it is tiny after rounding with
an unbounded exponent (R80, R85, R89). A result that SUB = 0 flushes is (0, false). -/
structure Rounded where
  j : Nat
  q : Int
  exact : Bool
  tiny : Bool
  deriving DecidableEq, Repr

/-- Round m x 2^e, m nonzero, to sgw + 1 significant bits, on the subnormal grid below it when SUB = 1 (R80, R85). -/
def roundFlt (sgw : Nat) (bias : Int) (sub : Bool) (rm : Rm) (neg : Bool) (m : Nat) (e : Int) (draw : Half) : Rounded :=
  let qu := e + (bitLen m : Int) - (sgw + 1 : Nat)
  let qs := 1 - bias - sgw
  let odd := fun (q : Int) (j : Nat) => if sgw = 0 && j == 1 then decide ((q + bias) % 2 = 1) else decide (j % 2 = 1)
  let (ju, xu) := roundGrid rm neg (odd qu) m e qu draw
  let tiny := magLt ju qu (2 ^ sgw) qs
  if sub && decide (qu < qs) then
    let (j, x) := roundGrid rm neg (odd qs) m e qs draw
    ⟨j, qs, x, tiny⟩
  else if tiny && !sub then ⟨0, qs, false, true⟩
  else ⟨ju, qu, xu, tiny⟩

/-- Fields of a rounded magnitude: a carry out of the significand moves the exponent (R61). -/
def Rounded.fields (r : Rounded) (sgw : Nat) (bias : Int) : Nat × Nat :=
  if r.j = 0 then (0, 0)
  else
    let (j, q) := if 2 ^ (sgw + 1) ≤ r.j then (r.j / 2, r.q + 1) else (r.j, r.q)
    if j < 2 ^ sgw then (0, j) else ((q + bias + sgw).toNat, j - 2 ^ sgw)

/-- Flags of a rounded float result that did not overflow (R89). -/
def Rounded.flags (r : Rounded) : BitVec 5 :=
  (if r.exact then 0 else flIX) ||| (if r.tiny && !r.exact then flUF else 0)

/-- The rounded magnitude exceeds the largest finite value (R83). -/
def Rounded.exceeds (r : Rounded) (exw sgw : Nat) (bias : Int) (spc : BitVec 2) (sub : Bool) : Bool :=
  let mx := fltMag sgw bias sub (fltMax exw sgw spc).1 (fltMax exw sgw spc).2
  magLt mx.1 mx.2 r.j r.q

/-- Convert(x, F, RM, OV, draw): R80 to R86, with the flags of R89. -/
def convert (x : Val) (f : Fmt) (rm : Rm) (ov : Ovf) (draw : Half) : Conv :=
  let tooBig (neg : Bool) : Conv := ⟨f.overCode ov neg, flOF ||| flIX, true⟩
  match x with
  | .nan sig =>
    if f.hasNan then ⟨f.nanCode, if sig then flNV else 0, false⟩ else ⟨0, flNV, ov == .trap⟩
  | .inf neg => if f.hasInf && (f.signed || !neg) then ⟨f.infCode neg, 0, false⟩ else tooBig neg
  | .beyond neg => tooBig neg
  | .fin neg m e =>
    match f with
    | .int s w u =>
      if m = 0 then ⟨0, 0, false⟩
      else if neg && !s then tooBig true
      else
        let (j, ex) := roundGrid rm neg (fun j => decide (j % 2 = 1)) m e u draw
        let lim := if s then (if neg then 2 ^ (w - 1) else 2 ^ (w - 1) - 1) else 2 ^ w - 1
        if j > lim then tooBig neg
        else ⟨intCode w (if neg then -(j : Int) else j), if ex then 0 else flIX, false⟩
    | .flt sgn exw sgw bias spc sub =>
      if m = 0 then ⟨packFlt sgn exw sgw neg 0 0, 0, false⟩
      else if neg && !sgn then tooBig true
      else
        let r := roundFlt sgw bias sub rm neg m e draw
        if r.exceeds exw sgw bias spc sub then tooBig neg
        else ⟨packFlt sgn exw sgw neg (r.fields sgw bias).1 (r.fields sgw bias).2, r.flags, false⟩
    | .e8m0 =>
      if m = 0 || neg then tooBig true
      else
        let qu := e + (bitLen m : Int) - 1
        let (ju, xu) := roundGrid rm false (fun j => if j == 1 then decide ((qu + 127) % 2 = 1) else false) m e qu draw
        let k := if ju = 2 then qu + 1 else qu
        if k < -127 then ⟨0, flUF ||| flIX, false⟩
        else if k > 127 then tooBig false
        else ⟨(k + 127).toNat, if xu then 0 else flIX, false⟩

/-! ### Binary32 arithmetic -/

/-- The canonical binary32 NaN. -/
def f32Nan : Half := 0x7FC00000

/-- The exact value of a binary32. -/
def f32 (x : Half) : Val := Fmt.fp32.decode x.toNat

/-- Overflow of binary32 arithmetic gives infinity or the largest finite value by the direction (R192). -/
def f32Over (rm : Rm) (neg : Bool) : Half :=
  let toInf := match rm with
    | .rtz => false
    | .rup => !neg
    | .rdn => neg
    | _ => true
  BitVec.ofNat 32 (if toInf then Fmt.fp32.infCode neg else Fmt.fp32.satCode neg)

/-- Round an exact value to binary32 under an IEEE mode (R192), with its flags. -/
def toF32 (rm : Rm) (x : Val) : Half × BitVec 5 :=
  match x with
  | .nan sig => (f32Nan, if sig then flNV else 0)
  | .inf neg => (BitVec.ofNat 32 (Fmt.fp32.infCode neg), 0)
  | .beyond neg => (f32Over rm neg, flOF ||| flIX)
  | .fin neg m e =>
    if m = 0 then (BitVec.ofNat 32 (packFlt true 8 23 neg 0 0), 0)
    else
      let r := roundFlt 23 127 true rm neg m e 0
      if r.exceeds 8 23 127 0 true then (f32Over rm neg, flOF ||| flIX)
      else (BitVec.ofNat 32 (packFlt true 8 23 neg (r.fields 23 127).1 (r.fields 23 127).2), r.flags)

/-- Signalling NaN. -/
def Val.isSig : Val → Bool
  | .nan s => s
  | _ => false

/-- Any NaN. -/
def Val.isNan : Val → Bool
  | .nan _ => true
  | _ => false

/-- A zero of either sign. -/
def Val.isZero : Val → Bool
  | .fin _ m _ => m == 0
  | _ => false

/-- An infinity. -/
def Val.isInf : Val → Bool
  | .inf _ => true
  | _ => false

/-- The sign of a number. -/
def Val.sign : Val → Bool
  | .fin n _ _ => n
  | .inf n => n
  | .beyond n => n
  | .nan _ => false

/-- Negation. -/
def Val.neg : Val → Val
  | .fin n m e => .fin (!n) m e
  | .inf n => .inf (!n)
  | .beyond n => .beyond (!n)
  | .nan s => .nan s

/-- Exact sum with the IEEE sign of a zero sum, and its invalid flag: infinity - infinity. -/
def Val.add (rm : Rm) : Val → Val → Val × BitVec 5
  | .nan _, _ => (.nan false, 0)
  | _, .nan _ => (.nan false, 0)
  | .inf a, .inf b => if a == b then (.inf a, 0) else (.nan false, flNV)
  | .inf a, _ => (.inf a, 0)
  | _, .inf b => (.inf b, 0)
  | .beyond a, _ => (.beyond a, 0)
  | _, .beyond b => (.beyond b, 0)
  | .fin na ma ea, .fin nb mb eb =>
    let q := min ea eb
    let n := Val.intAt na ma ea q + Val.intAt nb mb eb q
    if n = 0 then
      (.fin (if ma = 0 && mb = 0 && na == nb then na else rm == .rdn) 0 q, 0)
    else (.fin (decide (n < 0)) n.natAbs q, 0)

/-- Exact product, and its invalid flag: 0 x infinity. -/
def Val.mul : Val → Val → Val × BitVec 5
  | .nan _, _ => (.nan false, 0)
  | _, .nan _ => (.nan false, 0)
  | .inf a, y => if y.isZero then (.nan false, flNV) else (.inf (a != y.sign), 0)
  | x, .inf b => if x.isZero then (.nan false, flNV) else (.inf (x.sign != b), 0)
  | .beyond a, y => (.beyond (a != y.sign), 0)
  | x, .beyond b => (.beyond (x.sign != b), 0)
  | .fin na ma ea, .fin nb mb eb => (.fin (na != nb) (ma * mb) (ea + eb), 0)

/-- Invalid for a signalling operand (R89). -/
def sigFlag (xs : List Val) : BitVec 5 := if xs.any Val.isSig then flNV else 0

/-- Round a result and join its flags to those met before. -/
def finish (rm : Rm) (r : Val × BitVec 5) (fl : BitVec 5) : Half × BitVec 5 :=
  let (v, f) := toF32 rm r.1
  (v, f ||| r.2 ||| fl)

/-- B + C (R192). -/
def f32Add (rm : Rm) (b c : Half) : Half × BitVec 5 :=
  finish rm (Val.add rm (f32 b) (f32 c)) (sigFlag [f32 b, f32 c])

/-- B - C. -/
def f32Sub (rm : Rm) (b c : Half) : Half × BitVec 5 :=
  finish rm (Val.add rm (f32 b) (f32 c).neg) (sigFlag [f32 b, f32 c])

/-- B x C. -/
def f32Mul (rm : Rm) (b c : Half) : Half × BitVec 5 :=
  finish rm (Val.mul (f32 b) (f32 c)) (sigFlag [f32 b, f32 c])

/-- B x C + A, or A - B x C when neg, rounded once. -/
def f32Fma (rm : Rm) (neg : Bool) (a b c : Half) : Half × BitVec 5 :=
  let p := Val.mul (f32 b) (f32 c)
  let s := Val.add rm (if neg then p.1.neg else p.1) (f32 a)
  finish rm s (p.2 ||| sigFlag [f32 a, f32 b, f32 c])

/-- Bits of the square root of n below 2^(2k), by trial from the top bit. -/
def isqrtAux : Nat → Nat → Nat → Nat
  | 0, _, r => r
  | k + 1, n, r => let t := r + 2 ^ k; isqrtAux k n (if t * t ≤ n then t else r)

/-- Floor of the square root. -/
def isqrt (n : Nat) : Nat := isqrtAux (bitLen n / 2 + 1) n 0

/-- A magnitude whose dropped tail is marked in one extra low bit. -/
def sticky (neg : Bool) (q : Nat) (rest : Bool) (e : Int) : Val := .fin neg (2 * q + (if rest then 1 else 0)) (e - 1)

/-- B / C (R192). -/
def f32Div (rm : Rm) (b c : Half) : Half × BitVec 5 :=
  let x := f32 b
  let y := f32 c
  let s := sigFlag [x, y]
  let n := x.sign != y.sign
  match x, y with
  | .nan _, _ => (f32Nan, s)
  | _, .nan _ => (f32Nan, s)
  | .inf _, .inf _ => (f32Nan, flNV)
  | .inf _, _ => toF32 rm (.inf n)
  | _, .inf _ => toF32 rm (.fin n 0 0)
  | .fin _ m1 e1, .fin _ m2 e2 =>
    if m2 = 0 then (if m1 = 0 then (f32Nan, flNV) else ((toF32 rm (.inf n)).1, flDZ))
    else if m1 = 0 then toF32 rm (.fin n 0 0)
    else
      let num := m1 * 2 ^ 80
      toF32 rm (sticky n (num / m2) (num % m2 != 0) (e1 - e2 - 80))
  | _, _ => (f32Nan, flNV)

/-- Square root of B. -/
def f32Sqrt (rm : Rm) (b : Half) : Half × BitVec 5 :=
  match f32 b with
  | .nan s => (f32Nan, if s then flNV else 0)
  | .inf true => (f32Nan, flNV)
  | .inf false => toF32 rm (.inf false)
  | .beyond _ => (f32Nan, flNV)
  | .fin n m e =>
    if m = 0 then toF32 rm (.fin n 0 0)
    else if n then (f32Nan, flNV)
    else
      let m1 := if e % 2 = 0 then m else 2 * m
      let e1 := if e % 2 = 0 then e else e - 1
      let y := m1 * 2 ^ 80
      let r := isqrt y
      toF32 rm (sticky false r (r * r != y) (e1 / 2 - 40))

/-- 1 / B, correctly rounded. -/
def f32Rcp (rm : Rm) (b : Half) : Half × BitVec 5 := f32Div rm 0x3F800000 b

/-- 1 / square root of B (R192). -/
def f32Rsq (rm : Rm) (b : Half) : Half × BitVec 5 :=
  match f32 b with
  | .nan s => (f32Nan, if s then flNV else 0)
  | .inf true => (f32Nan, flNV)
  | .inf false => toF32 rm (.fin false 0 0)
  | .beyond _ => (f32Nan, flNV)
  | .fin n m e =>
    if m = 0 then ((toF32 rm (.inf n)).1, flDZ)
    else if n then (f32Nan, flNV)
    else
      let m1 := if e % 2 = 0 then m else 2 * m
      let e1 := if e % 2 = 0 then e else e - 1
      let y := 2 ^ 140
      let r := isqrt (y / m1)
      toF32 rm (sticky false r (r * r * m1 != y) (-(e1 / 2) - 70))

/-- Order of two numbers that are not NaN: less than, +0 and -0 equal. -/
def Val.lt : Val → Val → Bool
  | .inf a, .inf b => a && !b
  | .inf a, _ => a
  | _, .inf b => !b
  | .fin na ma ea, .fin nb mb eb =>
    let q := min ea eb
    decide (Val.intAt na ma ea q < Val.intAt nb mb eb q)
  | _, _ => false

/-- Equality of two numbers that are not NaN. -/
def Val.eqv (x y : Val) : Bool := !Val.lt x y && !Val.lt y x

/-- IEEE minimum: NaN if either is NaN; -0 is less than +0 (R192). -/
def f32Min (b c : Half) : Half × BitVec 5 :=
  let x := f32 b
  let y := f32 c
  if x.isNan || y.isNan then (f32Nan, sigFlag [x, y])
  else if Val.lt x y then (b, 0)
  else if Val.lt y x then (c, 0)
  else (if x.sign then b else c, 0)

/-- IEEE maximum, likewise. -/
def f32Max (b c : Half) : Half × BitVec 5 :=
  let x := f32 b
  let y := f32 c
  if x.isNan || y.isNan then (f32Nan, sigFlag [x, y])
  else if Val.lt x y then (c, 0)
  else if Val.lt y x then (b, 0)
  else (if x.sign then c else b, 0)

/-- B with sign 0 (R192). -/
def f32Abs (b : Half) : Half × BitVec 5 :=
  if (f32 b).isNan then (f32Nan, sigFlag [f32 b]) else (b &&& 0x7FFFFFFF, 0)

/-- B with sign inverted. -/
def f32Neg (b : Half) : Half × BitVec 5 :=
  if (f32 b).isNan then (f32Nan, sigFlag [f32 b]) else (b ^^^ 0x80000000, 0)

/-! ### Tun-128 -/

/-- A tun-128 accumulator (R70); v: SIG holds a special code. started: ANCHOR has been set (R74, R75). folds counts
the folds of R76. -/
structure Tun where
  anchor : Int
  l : Bool
  v : Bool
  sig : Int
  folds : Nat
  started : Bool
  deriving DecidableEq, Repr

/-- The starting state of R74 and R75. -/
def Tun.start : Tun := ⟨0, false, false, 0, 0, false⟩

/-- A term that enters an accumulator: exact P x 2^q, or a special (R76). -/
inductive Term where
  | fin (p : Int) (q : Int)
  | beyond (neg : Bool)
  | inf (neg : Bool)
  | nan
  deriving DecidableEq, Repr

/-- Clamp to the range of ANCHOR. -/
def clampAnchor (a : Int) : Int := if a < -512 then -512 else if a > 511 then 511 else a

/-- The special a code of SIG stands for; any other pattern acts as NaN (R71). -/
def specialOf (sig : Int) : Term :=
  if sig = 0 then .beyond false else if sig = 1 then .beyond true else if sig = 2 then .inf false
  else if sig = 3 then .inf true else .nan

/-- SIG code of a special (R71). -/
def specialCode : Term → Int
  | .beyond false => 0
  | .beyond true => 1
  | .inf false => 2
  | .inf true => 3
  | _ => 4

/-- The table of R71: accumulator, incoming term, result; fin stands for a finite value. -/
def specialCombine : Term → Term → Term
  | .nan, _ => .nan
  | _, .nan => .nan
  | .inf a, .inf b => if a == b then .inf a else .nan
  | .inf a, _ => .inf a
  | .beyond _, .inf b => .inf b
  | .beyond a, .beyond b => if a == b then .beyond a else .nan
  | .beyond a, .fin _ _ => .beyond a
  | .fin _ _, t => t

/-- Re-anchor upward until the sum fits 116 bits (R76): the sum, the anchor, whether a set bit was dropped, and whether
the anchor ran out. -/
def reanchor : Nat → Int → Int → Bool → Int × Int × Bool × Bool
  | 0, x, a, d => (x, a, d, false)
  | k + 1, x, a, d =>
    if x < -(2 ^ 115) || x > 2 ^ 115 - 1 then
      if a = 511 then (x, a, d, true)
      else reanchor k (x / 2) (a + 1) (d || decide (x % 2 = 1))
    else (x, a, d, false)

/-- TunAccumulate of R76. -/
def Tun.acc (t : Tun) (term : Term) : Tun :=
  let special (r : Term) : Tun := { t with v := true, sig := specialCode r }
  match t.v, term with
  | true, _ => special (specialCombine (specialOf t.sig) term)
  | false, .beyond n => special (.beyond n)
  | false, .inf n => special (.inf n)
  | false, .nan => special .nan
  | false, .fin p q =>
    if p = 0 then t
    else
      let low := decide (q < t.anchor)
      let d : Int := ((2 : Nat) ^ (t.anchor - q).toNat : Nat)
      let p2 := if low then p / d else p
      let folded := low && decide (p2 * d ≠ p)
      let x := t.sig + p2 * ((2 : Nat) ^ ((if low then t.anchor else q) - t.anchor).toNat : Nat)
      let t1 : Tun := if folded then { t with l := true, folds := t.folds + 1 } else t
      let (y, a, drop, out) := reanchor (bitLen x.natAbs + 1) x t.anchor false
      if out then { t1 with anchor := a, v := true, sig := if x > 0 then 0 else 1 }
      else if drop && !folded then { t1 with anchor := a, sig := y, l := true, folds := t1.folds + 1 }
      else { t1 with anchor := a, sig := y }

/-- A tun value as the term it enters another accumulator with (R76). -/
def Tun.asTerm (t : Tun) : Term := if t.v then specialOf t.sig else .fin t.sig t.anchor

/-- Add a tun value into another, its L flag ORed in (R76). -/
def Tun.addTun (t u : Tun) : Tun :=
  let t0 := if t.started then t else { t with anchor := u.anchor, started := true }
  let r := t0.acc u.asTerm
  { r with l := r.l || u.l }

/-- The 128 bits of R70. -/
def Tun.toBits (t : Tun) : BitVec 128 :=
  BitVec.ofInt 10 t.anchor ++ BitVec.ofBool t.l ++ BitVec.ofBool t.v ++ BitVec.ofInt 116 t.sig

/-- A tun value read from 128 bits (R70, R71). -/
def Tun.ofBits (b : BitVec 128) : Tun :=
  let v := b.getLsbD 116
  let s := b.extractLsb' 0 116
  ⟨(b.extractLsb' 118 10).toInt, b.getLsbD 117, v, if v then s.toNat else s.toInt, 0, true⟩

/-- The exact value of a drain before conversion (R79); a zero sum is +0. -/
def Tun.value (t : Tun) (sA sB : Val) : Val :=
  if t.v then
    match specialOf t.sig with
    | .beyond n => .beyond n
    | .inf n => .inf n
    | _ => .nan false
  else
    let x := (Val.mul (Val.mul (.fin (decide (t.sig < 0)) t.sig.natAbs t.anchor) sA).1 sB).1
    match x with
    | .fin n m e => .fin (n && m != 0) m e
    | y => y

/-- TunDrain of R79, the value stage converted under the target's rules. -/
def tunDrain (t : Tun) (f : Fmt) (rm : Rm) (ov : Ovf) (draw : Half) (sA sB : Val) : Conv :=
  convert (t.value sA sB) f rm ov draw

/-- Least-bit weight of a format's elements (R73). -/
def Fmt.leastBit : Fmt → Int
  | .int _ _ u => u
  | .flt _ _ sgw bias _ _ => 1 - bias - sgw
  | .e8m0 => 0

/-- A format counts for fixed anchoring: EXW at most 5, or integer class (R74). -/
def Fmt.fixedAnchor : Fmt → Bool
  | .int _ _ _ => true
  | .flt _ exw _ _ _ _ => decide (exw ≤ 5)
  | .e8m0 => false

/-- The exact product of two elements as a term at weight q, with infinity x 0 a NaN (R71, R73). -/
def prodTerm (x y : Val) (q : Int) : Term :=
  match (Val.mul x y).1 with
  | .nan _ => .nan
  | .inf n => .inf n
  | .beyond n => .beyond n
  | .fin n m e => .fin (Val.intAt n m e q) q

/-! ### Counter generator (R90) -/

/-- Left rotation of a 32-bit word. -/
def rotl32 (x : Half) (n : Nat) : Half := x.rotateLeft n

/-- One round without the key additions. -/
def gRound (ab : Half × Half) : Half × Half :=
  let a := ab.1 + ab.2
  let b := rotl32 ab.2 7 ^^^ a
  (rotl32 a 16, b)

/-- G(K, C) (R90). -/
def gen (key : Word) (ctr : BitVec 128) : Half :=
  let k0 := key.extractLsb' 0 32
  let k1 := key.extractLsb' 32 32
  let s0 : Half × Half :=
    (ctr.extractLsb' 0 32 ^^^ ctr.extractLsb' 64 32 ^^^ k0, ctr.extractLsb' 32 32 ^^^ ctr.extractLsb' 96 32 ^^^ k1)
  let s3 := gRound (gRound (gRound s0))
  let s6 := gRound (gRound (gRound (s3.1 + k1, s3.2 + k0)))
  s6.1 ^^^ s6.2

end Sys2Proof.Machine
end

