-- ==== Sys2Proof/Machine/BlockData.lean ====
section
/-!
DEFINITION. The fabric of a task as plain data: tokens and streams of its port generators (R48, R206, R248), block
programs as FLOAD reads them (R224 to R236), loop contexts (R11), blocks with what their words have in flight (R246,
R268), restart copies (R238, R239), and the handles that hold them (R210).
-/

namespace Sys2Proof.Machine

/-- How a gathered token stands to a row whose index is out of range (R207): it holds nothing of one, it is the first token of
one, or a later one. -/
inductive RowTok where
  | good | first | rest
  deriving DecidableEq, Repr

/-- A token (R48, R248): up to 128 bits, its tag, whether it is empty; the codes of the MX scales of its elements where
the stream splits scales (R54), the stage its matrix B stream names plus one, whether a symbol stream sent it, and how it
stands to a row whose index is out of range. -/
structure Token where
  val : BitVec 128
  tag : Tag
  empty : Bool
  mx : List Byte
  matb : Nat
  rsym : Bool
  row : RowTok
  /-- it carries the mark of a poisoned line (R423, R427) -/
  poison : Bool
  deriving DecidableEq, Repr

/-- A lane's word in the fabric: compute tile, column, word index in the column, pipeline stage, lane, lane-0 issue
time, initiation number and index vector of its iteration (R215, R236, R261). rel: cycles since the word issued in the
lane, for a QTSTEP in progress (R268). -/
structure LaneWord where
  tile : Nat
  col : Nat
  widx : Nat
  stage : Nat
  lane : Nat
  t0 : Nat
  init : Nat
  iv : List Nat
  rel : Nat
  deriving DecidableEq, Repr

/-- A fabric trap: cause, word, and TINFO of the trap it becomes (R251, R342). -/
structure FabTrap where
  cause : Nat
  info : Word
  pos : LaneWord
  deriving DecidableEq, Repr

/-- A fault a stream has met: cause and TINFO; asked: the driver has not answered it yet; for a write stream the block,
by its serial number, and the word that sent the token (R249, R350, R429); page: the 512 KiB granule of the fault record the
driver is asked with (R386). -/
structure StreamFault where
  cause : Nat
  info : Word
  asked : Bool
  blk : Nat
  pos : Option LaneWord
  page : Nat
  deriving DecidableEq, Repr

/-- The fault stands for a lost die link, and for no page (R357, R377). -/
def StreamFault.isCut (f : StreamFault) : Bool := f.page == 2 ^ 64

/-- A stream bound to a port generator (R205 to R209). pos: per lane, tokens delivered by a read stream or stored by a
write stream; taken: per lane, tokens a read stream's words have consumed. -/
structure Stream where
  cfg : StreamCfg
  tile : BitVec 128
  idx : BitVec 128
  rep : Nat
  wtag : Tag
  /-- format registers at SBIND (R65) -/
  fts : Sparse Half
  /-- elements from gateFrom on are masked where their bit of the gate is clear (R208) -/
  gate : Mask
  gateFrom : Nat
  order : Nat
  /-- bits of a token, fixed by the port of the first block that uses the stream; 0: not yet -/
  tokBits : Nat
  pos : Sparse Nat
  taken : Sparse Nat
  /-- sidecar lines held, by place (R107) -/
  lines : Sparse (BitVec 1024)
  fault : Option StreamFault
  wait : BitVec 4
  /-- bytes of the 4 KiB block being packed, its index in the page image, and bytes gathered (R108) -/
  packBlk : Option Nat
  packed : List Byte
  /-- tag of a DEV_READ_REQ that is out, and the bytes it brought (R138) -/
  msg : Nat
  got : List Byte
  /-- places in the direct window that the token being read has reached (R115) -/
  rows : List Nat
  /-- a byte of the block being packed carries the mark of a poisoned line (R427) -/
  packBad : Bool
  deriving DecidableEq, Repr

/-- A token sent to a write stream and not yet stored, with the block, by its serial number, and the word that sent it;
pk: the word packs (R270). -/
structure SentTok where
  tok : Token
  blk : Nat
  pos : LaneWord
  pk : Bool
  deriving DecidableEq, Repr

/-- A port generator (R206): its streams, the running one first; per lane, tokens delivered and not taken, and tokens
sent and not stored (R249, R250, R430). -/
structure Gen where
  streams : List Stream
  rx : Sparse (List Token)
  wx : Sparse (List SentTok)
  deriving DecidableEq, Repr

/-- A generator at reset. -/
def Gen.reset : Gen := ⟨[], [], []⟩

/-! ### Block programs -/

/-- A schedule word with its iteration time (R236). -/
structure Sched where
  t : Nat
  op : Instr
  rp : Bool
  deriving DecidableEq, Repr

/-- A function column of a compute tile: its fusing control word and its words (R228, R233). -/
structure ColProg where
  tile : Nat
  col : Nat
  fcw : Half
  words : List Sched
  deriving DecidableEq, Repr

/-- Endpoint of a stream entry (R229). -/
structure Endp where
  kind : Nat
  idx : Nat
  port : Nat
  deriving DecidableEq, Repr

/-- A stream entry (R230). -/
structure StreamEnt where
  src : Endp
  dst : Endp
  slot : Nat
  width : Nat
  nhop : Nat
  route : Word
  deriving DecidableEq, Repr

/-- A block image as its words say (R224 to R233). -/
structure Prog where
  pw : Nat
  ph : Nat
  ii : Nat
  sc : Nat
  modes : Word
  trips : List Word
  nsrc : Word
  streams : List StreamEnt
  bufs : List Word
  cols : List ColProg
  deriving DecidableEq, Repr

/-- Mode of a compute tile: 0 unused, 1 stream, 2 matrix, 3 rule (R226). -/
def Prog.mode (p : Prog) (tile : Nat) : Nat := p.modes.toNat / 4 ^ tile % 4

/-- Compute tiles of the page set. -/
def Prog.tiles (p : Prog) : Nat := 2 * (p.pw + 1) * (p.ph + 1)

/-- A buffer binding as FSTART fixes it (R232): scratch tile, offset of row 0, rows, elements of a row, bytes from row
to row, tag, and the SCALE of its descriptor (R145), 1.0 without one (R269). -/
structure Buf where
  stile : Nat
  base : Nat
  rows : Nat
  cols : Nat
  stride : Nat
  tag : Tag
  scale : Half
  deriving DecidableEq, Repr

/-! ### Blocks -/

/-- A loop context (R11), with the number of initiations started and the initiation number of each stage (R261). -/
structure LoopCtx where
  slot : Nat
  ii : Nat
  sc : Nat
  trip : List Nat
  idx : List Nat
  more : Bool
  sv : BitVec 16
  ihist : List (List Nat)
  inits : Nat
  ihnum : List Nat
  deriving DecidableEq, Repr

/-- The loop context of a block that has not started: trip counts as given (R11). -/
def LoopCtx.start (ii sc : Nat) (trip : List Nat) : LoopCtx :=
  ⟨0, ii, sc, trip, [0, 0, 0, 0], trip.all (· != 0), 0, List.replicate 16 [0, 0, 0, 0], 0, List.replicate 16 0⟩

/-- A QTSTEP in progress (R267, R268): its word; per lane and repeat the A tokens taken (key 16 x lane + repeat); per
lane the latched B tokens; per lane and repeat the weight scale (0: none, else code + 1). -/
structure Job where
  word : LaneWord
  port : Nat
  rep : Nat
  gb : Nat
  na : Nat
  lb : Bool
  za : Bool
  interval : Nat
  a : Sparse (List Token)
  b : Sparse (List Token)
  sc : Sparse Nat
  deriving DecidableEq, Repr

/-- What a word has still to do, at the end of a cycle (R246): write a cell register under a mask, with the mark of poisoned
data (R427), send a token, write an
entry of a rule file, set an entry's FIN and OVF, or take a header in, which clears the marks of what it will write. -/
inductive Pend where
  | cell (cyc lane key : Nat) (v mask : Half) (tag : Tag) (bad : Bool)
  | send (cyc port : Nat) (tok : Token) (pk : Bool) (pos : LaneWord)
  | rule (cyc tile lane k : Nat) (v : Word)
  | final (cyc tile lane k : Nat) (ovf : Bool)
  | header (cyc tile lane n : Nat) (hd : List Half)
  deriving DecidableEq, Repr

/-- Parse state of a rule engine's lane (R281, R284): the words of the header, the stream position, and the record
being summed. -/
structure Parse where
  pos : Nat
  group : Nat
  hdr : List Half
  /-- entry of the record at hand: rule id, or NRULES plus row -/
  next : Nat
  /-- symbols of the record still to come -/
  left : Nat
  /-- LEVEL of the last rule, and the first rule of that level -/
  lastLevel : Nat
  levelFrom : Nat
  sum : Int
  ovf : Bool
  deriving DecidableEq, Repr

/-- EXPECT_HEADER (R284). -/
def Parse.start : Parse := ⟨0, 0, [], 0, 0, 0, 0, 0, false⟩

/-- A lane's share of a restart copy (R238): cells by key, accumulators, queues, positions, what is in flight. -/
structure LaneCopy where
  lane : Nat
  cells : Sparse (Half × Tag)
  acc : Sparse Tun
  rx : Sparse (List (Nat × Token))
  bpos : Sparse Nat
  drained : Sparse Nat
  pend : List Pend
  parse : Sparse Parse
  finG : Sparse Nat
  latch : Sparse (List Token)
  marks : Sparse (Bool × Bool)
  /-- of each generator: its number, its streams with their positions in this lane, the tokens delivered, and how many
  tokens each stream's lane has accepted -/
  gens : Sparse (List Stream × List Token × Nat)
  deriving DecidableEq, Repr

/-- A restart copy: its cycle, the loop context, the words and QTSTEPs in progress, and the lanes copied so far. -/
structure RestartCopy where
  cyc : Nat
  lc : LoopCtx
  hist : List LaneWord
  jobs : List Job
  lanes : List LaneCopy
  deriving DecidableEq, Repr

/-- States of a block in a handle (R210). -/
inductive BlkSt where
  | loaded | armed | running | frozen | draining
  deriving DecidableEq, Repr

/-- A block of a handle. -/
structure Block where
  /-- its number among the blocks, streams and copies of its core -/
  serial : Nat
  index : Nat
  prog : Prog
  st : BlkSt
  /-- its planes hold it (R56) -/
  ready : Bool
  /-- phase of R134, and FSTART order -/
  phase : Nat
  n : Nat
  lc : LoopCtx
  /-- lane-0 cycles since the first word -/
  cyc : Nat
  /-- the lanes act from this cycle plus their number on (R239) -/
  resume : Nat
  fts : Sparse Half
  cb : BitVec 128
  key : Word
  bufs : List Buf
  drained : Sparse Nat
  /-- receive queues fed by links, loop-back and bindings: key (tile x 8 + port) x 16 + lane, with the cycle from which
  each token is readable (R249) -/
  rx : Sparse (List (Nat × Token))
  /-- tokens delivered or stored per binding stream and lane: key stream x 16 + lane -/
  bpos : Sparse Nat
  acc : Sparse Tun
  jobs : List Job
  hist : List LaneWord
  pend : List Pend
  /-- running reductions of QREDL words in progress (R264): key ((issue time mod 32) x 32 + tile) x 6 + column -/
  red : Sparse Half
  copies : List RestartCopy
  trap : Option FabTrap
  /-- the trap has been delivered to the task -/
  told : Bool
  refill : Bool
  parse : Sparse Parse
  finG : Sparse Nat
  /-- the block is a LOOP strip of a Sornen function: its initiations are the strip's iterations (R312) -/
  held : Bool
  deriving DecidableEq, Repr

/-- A placed page set: origin, width and height in pages, and edge slots granted, 16 inward then 16 outward (R333,
R334). -/
structure PageSet where
  x0 : Nat
  y0 : Nat
  w : Nat
  h : Nat
  claims : BitVec 32
  deriving DecidableEq, Repr

/-- A handle (R210): its page set, current and next block, cell registers (key ((tile x 6 + stage) x 16 + lane) x 16 +
register), B latches (key tile x 16 + lane), and of rule engines FIN and OVF of rule-file entries (key (tile x 16 +
lane) x 1024 + entry) and the four words of the latest header parsed (key tile x 16 + lane; R281). tainted: cell registers, by
key, and compute tiles, 2^20 plus number, that hold the mark of a poisoned line with their data (R423, R427). -/
structure Handle where
  pset : Option PageSet
  cur : Option Block
  next : Option Block
  cells : Sparse (Half × Tag)
  latch : Sparse (List Token)
  marks : Sparse (Bool × Bool)
  heads : Sparse (List Half)
  tainted : List Nat
  deriving DecidableEq, Repr

/-- A handle at reset. -/
def Handle.reset : Handle := ⟨none, none, none, [], [], [], [], []⟩

/-- What is still to do in a fabric cycle in progress: the cycle of a block (the current one of handle h of a core, or
the next one) begins, a lane's word, or the end of the block's cycle. -/
inductive Due where
  | begin (core h : Nat) (nxt : Bool)
  | word (core h : Nat) (nxt : Bool) (w : LaneWord) (op : Instr)
  | close (core h : Nat) (nxt : Bool)
  deriving DecidableEq, Repr

/-- A block's cycle in progress: its loop context before it, the handle and generators before its words, and the traps
met (R251), each with whether the driver has still to answer its fault. -/
structure Work where
  pre : LoopCtx
  h : Handle
  gens : Sparse Gen
  traps : List (FabTrap × Bool)
  deriving DecidableEq, Repr

end Sys2Proof.Machine
end

