-- ==== Sys2Proof/Machine/Context.lean ====
section
/-!
DEFINITION. One register bank of a control core: everything R142 to R147 and the trap rules R344 to R359 give a
context, as plain data, with its value at reset.
-/

namespace Sys2Proof.Machine

/-- A vector register: sixteen lanes and a format tag (R142). -/
structure VecReg where
  lanes : Lanes
  tag : Tag
  deriving DecidableEq, Repr

/-- Sixteen zero lanes. -/
def zeroLanes : Lanes := Vector.ofFn fun _ => 0

/-- A vector register at reset: zero under FT0 (R142). -/
def VecReg.zero : VecReg := ⟨zeroLanes, 0⟩

/-- The fields of TCAUSE that the frame keeps, and TPC, TTGT, TINFO, TWP (R345, R346). -/
structure Frame where
  cause : BitVec 8
  dxfer : BitVec 2
  async : Bool
  dslot : Bool
  fab : Bool
  handle : BitVec 3
  copy : Bool
  tpc : Word
  ttgt : Word
  tinfo : Word
  twp : Word
  deriving DecidableEq, Repr

/-- The frame at reset (R346; log 3). -/
def Frame.zero : Frame := ⟨0, 0, false, false, false, 0, false, 0, 0, 0, 0⟩

/-- The window move a transfer makes when control reaches its target (R162, R346). -/
inductive Move where
  | none | call | ret
  deriving DecidableEq, Repr

/-- A transfer whose delay slot has not completed: where it goes if taken, the move due (R162), and whether RETT set it
up from the trap frame (R220). -/
structure Xfer where
  target : Word
  taken : Bool
  move : Move
  rett : Bool
  deriving DecidableEq, Repr

/-- What a trap records (R342, R347). -/
structure TrapArg where
  cause : Nat
  info : Word
  tpc : Nat
  async : Bool
  fab : Bool
  handle : BitVec 3
  copy : Bool
  driver : Bool
  dslot : Bool
  ttgt : Nat
  dxfer : Move
  deriving DecidableEq, Repr

/-- The variable-latency integer operations (R172, R173). -/
inductive IntKind where
  | mul | mulhs | mulhu | divs | divu | rems | remu
  deriving DecidableEq, Repr

/-- The ten atomic operations (R179). -/
inductive AtKind where
  | add | xchg | and | or | xor | cas | min | minu | max | maxu
  deriving DecidableEq, Repr

/-- What an issued, unfinished instruction still has to do. -/
inductive PendOp where
  /-- write the result of a multiplication or division of OPB and OPC -/
  | int (k : IntKind) (dst : XReg)
  /-- write a computed value to an integer register -/
  | toX (dst : XReg) (v : Word)
  /-- write the active lanes of a vector register, its tag, and set sticky flags -/
  | vec (dst : VReg) (lanes : Lanes) (mask : Mask) (tag : Tag) (flags : BitVec 80)
  /-- write the low word of OPB into one lane -/
  | ins (dst : VReg) (k : BitVec 4)
  /-- write a predicate register and set sticky flags -/
  | pred (dst : PReg) (m : Mask) (flags : BitVec 80)
  /-- read flags of VSTAT into an integer register and clear them if asked -/
  | flags (dst : XReg) (flag : BitVec 3) (clr : Bool) (mask : Mask)
  /-- load n bytes, extended with the sign or with zeros -/
  | load (n : Nat) (signed : Bool) (dst : XReg)
  /-- load sixteen lanes -/
  | ldv (dst : VReg)
  /-- store the low n bytes of OPA -/
  | store (n : Nat)
  /-- store sixteen lanes -/
  | stv (v : Lanes)
  /-- an atomic on n bytes: operand OPC, expected value OPA -/
  | atomic (k : AtKind) (n : Nat) (dst : XReg)
  /-- copy a tile between descriptors -/
  | ldt (dst src : DReg) (td ts : BitVec 128) (tr : Transp)
  /-- open a row -/
  | rowOpen (dst : XReg)
  /-- a fence with its KIND -/
  | fence (kind : BitVec 4)
  deriving DecidableEq, Repr

/-- A run of bytes an instruction accesses: its place, its length and whether it is written. -/
structure Span where
  place : Nat
  n : Nat
  wr : Bool
  deriving DecidableEq, Repr

/-- An issued, unfinished instruction, or an entry of the replay queue (R169, R348). The first fields are the
doublewords of R348; spans are the bytes its addresses were translated to at issue. seq: its place in program order, and
hand: it was issued in trap state, so that captured instructions of the task execute again after it (R349). msg: the tag
of the message it sent to the host, 0 for none (R138). -/
structure Entry where
  op : PendOp
  pc : Nat
  words : List Half
  cause : BitVec 8
  opa : Word
  opb : Word
  opc : Word
  addr : Word
  wpe : Nat
  ord : Order
  scope : Scope
  spans : List Span
  seq : Nat
  hand : Bool
  msg : Nat
  /-- bytes read so far, span after span -/
  got : List Byte
  deriving DecidableEq, Repr

/-- An asynchronous trap that is held until it can be taken (R344, R350, R360). -/
structure Async where
  cause : BitVec 8
  fab : Bool
  handle : BitVec 3
  copy : Bool
  info : Word
  /-- the trap is delivered to the driver whatever its cause (R351) -/
  driver : Bool
  deriving DecidableEq, Repr

/-- The task that owns a bank (R16 to R24, R294, R297). -/
structure Task where
  /-- partition, context and code object of the task -/
  part : Nat
  ctx : Nat
  code : Nat
  /-- index in the task table -/
  index : Nat
  /-- reserved pages and needed features -/
  quota : Nat
  fset : BitVec 32
  /-- the graph, its fabric load and queue -/
  graph : Nat
  load : Nat
  queue : Nat
  /-- priority of its queue, 0 highest -/
  prio : Nat
  /-- the task is a member of a cluster -/
  clustered : Bool
  /-- order of dispatch, and the quantum in which it was dispatched -/
  serial : Nat
  since : Nat
  /-- age of a pre-empted task (R328, R332) -/
  age : Nat
  deriving DecidableEq, Repr

/-- Where a task stands at a barrier of its cluster (R183): not arrived, arrived, or the barrier has completed and its
CBAR has still to complete. -/
inductive Arrival where
  | no | yes | released
  deriving DecidableEq, Repr

/-- Where a LOOP strip that is placed on the fabric stands (R312): it runs on the core; its streams are being bound; its block
is to be loaded, to be started, runs, or is awaited. -/
inductive FabStep where
  | core
  | bind (k : Nat)
  | load | start | run | wait
  deriving DecidableEq, Repr

/-- A Sornen function being run (R306 to R312): its index in the code object and the code lines that stand for it, the
strip and the operation that come next, whether the function is returning, whether the load of the operation has issued,
the values of earlier operations and the SETs executed in the strip, of a LOOP strip the iteration and their number, and
how far the call has come. -/
structure Strip where
  fn : Nat
  first : Nat
  nlines : Nat
  strip : Nat
  op : Nat
  leaving : Bool
  issued : Bool
  vals : Sparse Word
  sets : Sparse Word
  i : Nat
  n : Nat
  /-- the code offset a trap recorded for the operation -/
  tpc : Nat
  /-- a LOOP strip of the fabric was reached while a stream of its generators ran: what it moves is undefined (R312) -/
  wild : Bool
  /-- 0: at the call; else one more than the doublewords of the frame stored so far (R306) -/
  frame : Nat
  /-- placement of the LOOP strip at hand, the number of its first stream, and whether its iteration has passed its port -/
  fab : FabStep
  order : Nat
  fed : Bool
  deriving DecidableEq, Repr

/-- A register bank. -/
structure Context where
  task : Option Task
  stopped : Bool
  /-- code offset of the instruction at issue (R148, R168) -/
  pc : Nat
  xfer : Option Xfer
  /-- wait reason shown by the instruction at issue (R356) -/
  wait : BitVec 4
  /-- the model's own: a waiting instruction tries again (R26, R426) -/
  retry : Bool
  /-- the model's own: the instruction at issue has been checked at this boundary and raises no trap (R344) -/
  atBound : Bool
  /-- what a page walk for the instruction at issue ended in: cause, address, TINFO (R343, R383, R428) -/
  walkTrap : Option (Nat × Nat × Word)
  /-- a synchronous trap that has been found and still waits for a spill of its trap entry (R162, R344, R347) -/
  owed : Option TrapArg
  /-- a fill of the window from a host-bias page: the tag of its DEV_READ_REQ, and the bytes that
  have come (R138, R143) -/
  fillMsg : Nat
  fillData : List Byte
  /-- the command processor performs RETT on the task's behalf (R351) -/
  resuming : Bool
  /-- IDLE is in force, with its nanoseconds (R222) -/
  idle : Option (BitVec 32)
  /-- the Sornen function that runs, and the one a trap has interrupted (R310) -/
  strip : Option Strip
  stripHeld : Option Strip
  ring : Sparse Word
  wp : Nat
  lo : Nat
  g : Sparse Word
  v : Sparse VecReg
  p : Sparse Mask
  d : Sparse (BitVec 128)
  rkbase : Word
  rklimit : Word
  vstat : BitVec 80
  gkey : Word
  gctr : BitVec 128
  ft : Sparse Half
  frame : Frame
  trapst : Bool
  cause2 : BitVec 8
  tvec : Word
  tsave0 : Word
  tsave1 : Word
  rqsel : BitVec 3
  trsel : BitVec 5
  rq : List Entry
  /-- the model's own: place in program order of the next instruction issued -/
  issued : Nat
  fly : List Entry
  susp : List Entry
  asyncs : List Async
  wdcnt : BitVec 32
  wdlim : BitVec 32
  /-- the remote-access bit of a cluster member (R21) -/
  remote : Bool
  /-- arrived at the cluster's current barrier (R183) -/
  arrived : Arrival
  /-- FBAR phases opened by the task (R134) -/
  phase : Nat
  /-- block handles and port generators (R206, R210) -/
  hs : Sparse Handle
  gens : Sparse Gen
  deriving DecidableEq, Repr

/-- Word 0 of line 0 (R148): where a bank without a task points (log 3). -/
def resetPc : Nat := 8

/-- A bank at reset and at task start: registers as R142, R146 and R345 give them, the rest by log 3. -/
def Context.reset : Context where
  task := none
  stopped := false
  pc := resetPc
  xfer := none
  wait := 0
  retry := false
  atBound := false
  walkTrap := none
  owed := none
  fillMsg := 0
  fillData := []
  resuming := false
  idle := none
  strip := none
  stripHeld := none
  ring := []
  wp := 0
  lo := 0
  g := []
  v := []
  p := []
  d := []
  rkbase := 0
  rklimit := 0
  vstat := 0
  gkey := 0
  gctr := 0
  ft := []
  frame := Frame.zero
  trapst := false
  cause2 := 0
  tvec := 0
  tsave0 := 0
  tsave1 := 0
  rqsel := 0
  trsel := 0
  rq := []
  issued := 0
  fly := []
  susp := []
  asyncs := []
  wdcnt := 0
  wdlim := 1000000
  remote := false
  arrived := .no
  phase := 0
  hs := []
  gens := []

/-! ### Registers -/

/-- Ring entry of window register i when w0 stands at logical position wp (R143). -/
def ringIndex (wp i : Nat) : Nat := (wp + i) % 256

/-- X(s): an integer register; g0 reads as zero (R144, R168). -/
def Context.x (c : Context) : XReg → Word
  | .w i => Sparse.get 0 c.ring (ringIndex c.wp i.val)
  | .g i => if i = 0 then 0 else Sparse.get 0 c.g i.val

/-- X(s) := v in the window at logical position wp; writes to g0 are discarded (R144, R168, R349). -/
def Context.setXAt (c : Context) (wp : Nat) (r : XReg) (v : Word) : Context :=
  match r with
  | .w i => { c with ring := c.ring.set (ringIndex wp i.val) v }
  | .g i => if i = 0 then c else { c with g := c.g.set i.val v }

/-- X(s) := v in the current window. -/
def Context.setX (c : Context) (r : XReg) (v : Word) : Context := c.setXAt c.wp r v

/-- V(s) (R190). -/
def Context.vec (c : Context) (r : VReg) : VecReg := Sparse.get VecReg.zero c.v r.val

/-- Write a whole vector register. -/
def Context.setVec (c : Context) (r : VReg) (x : VecReg) : Context := { c with v := c.v.set r.val x }

/-- A predicate register; p0 reads as 0xFFFF (R144). -/
def Context.pred (c : Context) (r : PReg) : Mask := if r = 0 then 0xFFFF else Sparse.get 0 c.p r.val

/-- Write a predicate register; writes to p0 are discarded (R144). -/
def Context.setPred (c : Context) (r : PReg) (m : Mask) : Context :=
  if r = 0 then c else { c with p := c.p.set r.val m }

/-- A tile descriptor (R145). -/
def Context.desc (c : Context) (r : DReg) : BitVec 128 := Sparse.get 0 c.d r.val

/-- Write a tile descriptor. -/
def Context.setDesc (c : Context) (r : DReg) (x : BitVec 128) : Context := { c with d := c.d.set r.val x }

/-- A task chain owns the context. -/
def Context.isChain (c : Context) (chain : Nat) : Bool :=
  match c.task with
  | some t => t.serial == chain
  | none => false

/-- A handle of the task (R210). -/
def Context.handle (c : Context) (h : Nat) : Handle := Sparse.get Handle.reset c.hs h

/-- Put a handle. -/
def Context.setHandle (c : Context) (h : Nat) (x : Handle) : Context := { c with hs := c.hs.set h x }

/-- A port generator of the task (R206). -/
def Context.gen (c : Context) (g : Nat) : Gen := Sparse.get Gen.reset c.gens g

/-- Put a port generator. -/
def Context.setGen (c : Context) (g : Nat) (x : Gen) : Context := { c with gens := c.gens.set g x }

end Sys2Proof.Machine
end

