-- ==== Sys2Proof/Machine/Parts.lean ====
section
/-!
DEFINITION. The units around the control cores as plain data: GHT channels and messages, the error log, compute dies
and their clusters, and the other units the later chapters give.
-/

namespace Sys2Proof.Machine

/-! ### Host link (R363 to R368, R374) -/

/-- A message the device has emitted (R363): seq and ack are the numbers of its header; port: where it left, a peer port 0 to 7
or the host port, 8. -/
structure OutMsg where
  type : BitVec 8
  part : Nat
  chan : Nat
  seq : BitVec 48
  ack : BitVec 48
  arg : BitVec 96
  payload : List Byte
  /-- the model's own: number by which an unfinished access knows its message; 0 for none -/
  tag : Nat
  port : Nat
  deriving DecidableEq, Repr

/-- One channel (R368): E of the host-to-device space, the next number of the device-to-host space, the messages not
yet acknowledged, those that wait while 1 024 are unacknowledged, the fragments of a LOAD (R365), and the number last
acknowledged. -/
structure Chan where
  expect : BitVec 48
  next : BitVec 48
  unacked : List OutMsg
  queued : List OutMsg
  frag : List Byte
  told : BitVec 48
  deriving DecidableEq, Repr

/-- A channel of a new partition (R368). -/
def Chan.reset : Chan := ⟨0, 0, [], [], [], 0⟩

/-! ### Error log (R424) -/

/-- An entry of the error log; seen: it has been read. -/
structure ErrEntry where
  addr : Word
  count : Nat
  qt : Word
  part : BitVec 8
  unit : BitVec 8
  sev : BitVec 2
  seen : Bool
  deriving DecidableEq, Repr

/-- An entry at reset. -/
def ErrEntry.zero : ErrEntry := ⟨0, 0, 0, 0, 0, 0, true⟩

/-! ### Compute dies (R407 to R415) -/

/-- States of a die (R410). -/
inductive DieSt where
  | online | draining | parked | gated | waking
  deriving DecidableEq, Repr

/-- States of a cluster (R413, R414): PEND is shown beside ON. -/
inductive ClSt where
  | on | pend | saving | clkgated | railgated | ramping | restoring
  deriving DecidableEq, Repr

/-- A cluster's handshake (R413): request, refusal, whether a wake is under way, and a request held during a wake. -/
structure Cluster where
  req : BitVec 2
  st : ClSt
  reason : BitVec 8
  refused : Bool
  saved : Bool
  railoff : Bool
  wake : Bool
  held : Option (BitVec 2)
  deriving DecidableEq, Repr

/-- A cluster at reset (R413). -/
def Cluster.reset : Cluster := ⟨0, .on, 0, false, false, false, false, none⟩

/-- An image in the checkpoint region (R417): mode and die grants it was saved under, QTIME, and of each partition the
HBM4 bytes by storage address and the poisoned lines. -/
structure CkImage where
  mode : BitVec 2
  grants : Sparse (BitVec 12)
  qtime : Word
  cells : List (Nat × Byte)
  poison : List Nat
  deriving DecidableEq, Repr

/-- Owner of a page: the task chain, its core and handle (R333); dirty: freed and not yet cleared. -/
inductive Page where
  | free
  | owned (chain core h : Nat)
  | dirty
  deriving DecidableEq, Repr

/-- An FLOAD that waits for the floor allocator (R333, R335): core, task chain and handle, the size of its page set, and the
origin of the rectangle it will take once compaction has freed it. -/
structure FloorWait where
  core : Nat
  chain : Nat
  h : Nat
  w : Nat
  ht : Nat
  target : Option (Nat × Nat)
  deriving DecidableEq, Repr

/-- A page set on the move (R336): core, task chain and handle, and the origin it goes to. -/
structure SetMove where
  core : Nat
  chain : Nat
  h : Nat
  x : Nat
  y : Nat
  deriving DecidableEq, Repr

/-- A compute die: power (R407 to R410), clusters (R413), page owners (R333), the FLOADs that wait for its allocator in the
order they reached it (R341), and the moves in progress (R336). -/
structure Die where
  st : DieSt
  req : BitVec 2
  autowake : Bool
  opsel : BitVec 3
  opcur : BitVec 3
  thermFloor : BitVec 3
  powFloor : BitVec 3
  clusters : Sparse Cluster
  pages : Sparse Page
  waits : List FloorWait
  moves : List SetMove
  deriving DecidableEq, Repr

/-- A die at reset (R407). -/
def Die.reset : Die := ⟨.online, 0, true, 7, 7, 0, 0, [], [], [], []⟩

/-! ### Copies (R109 to R113) -/

/-- What a copy in a slot does: it moves bytes; it has met a fault whose record the driver has not answered (R112); it
is saved with its pre-empted context (R113). -/
inductive CopySt where
  | moving | faulted | saved
  deriving DecidableEq, Repr

/-- A copy in flight: the task chain that issued it with its partition, context and graph, its virtual addresses and
count, the signal value (none: a credit), the place of the completion word, its scope, the resume offset, and its order
among the engines of the core (R337). fault: what a page walk for it ended in, cause and TINFO; msg and got: the tag of
the message it sent to the host and the bytes that have come (R138); missed: the address it needs a page walk for; reads
and kept: places of the source that it has read, and what the places it has written held before (R109). -/
structure Copy where
  owner : Nat
  part : Nat
  ctx : Nat
  clustered : Bool
  graph : Nat
  load : Nat
  src : Word
  dst : Word
  n : Nat
  signal : Option Word
  word : Nat
  scope : Scope
  off : Nat
  st : CopySt
  order : Nat
  fault : Option (Nat × Word)
  msg : Nat
  got : List Byte
  missed : Word
  reads : List Nat
  kept : Sparse Byte
  deriving DecidableEq, Repr

/-! ### Code objects (R292 to R305) -/

/-- A task-table entry (R294). -/
structure TaskEnt where
  fset : Nat
  stack : Nat
  tls : Nat
  rksz : Nat
  first : Nat
  last : Nat
  entry : Nat
  quota : Nat
  deriving DecidableEq, Repr

/-- An operation of a Sornen strip (R308): SOP, operand fields A, B, P as encoded, PM, LSGN, LSZ and IMM. -/
structure SornenOp where
  sop : Nat
  a : Nat
  b : Nat
  p : Nat
  pm : Nat
  lsgn : Bool
  lsz : Nat
  imm : BitVec 32
  deriving DecidableEq, Repr

/-- A Sornen strip (R308). -/
structure SornenStrip where
  loop : Bool
  w32 : Bool
  next : Nat
  smask : BitVec 24
  nst : Nat
  ops : List SornenOp
  deriving DecidableEq, Repr

/-- A Sornen function (R307): first code line, number of lines, whether its LOOP strips are placed on the fabric (FAB, and
in an accepted object the conditions of R312), and its strips. -/
structure SornenFun where
  first : Nat
  nlines : Nat
  fab : Bool
  strips : List SornenStrip
  deriving DecidableEq, Repr

/-- A code object that has been accepted: its context, the lines loaded into instruction buffers, its task table,
clusters and formats, its block images with the fill target of each stream (R304), the bytes its images take of the
configuration store (R224), its Sornen functions (R307), and the other contexts it was loaded for. -/
structure Code where
  ctx : Nat
  text : List Byte
  tasks : List TaskEnt
  clusters : List (List Nat)
  formats : List (Nat × Half)
  blocks : List (Prog × Sparse Nat)
  bytes : Nat
  sornen : List SornenFun
  others : List Nat
  deriving DecidableEq, Repr

/-! ### Bias flips (R139, R375) -/

/-- Where a flip stands: accesses in flight still perform, the host writes back, or it waits for another flip of the
same page. -/
inductive FlipSt where
  | queued | flipping | flushing
  deriving DecidableEq, Repr

/-- A bias flip: its partition, the page and its size, whether it goes to host bias, the SEQ of its request, and the
tag of its FLUSH message. -/
structure Flip where
  part : Nat
  page : Nat
  size : Nat
  host : Bool
  seq : BitVec 48
  st : FlipSt
  msg : Nat
  deriving DecidableEq, Repr

/-! ### Die links (R377, R378) -/

/-- States of a module's link (R377). -/
inductive LinkMode where
  | active | retrain | failed | disabled
  deriving DecidableEq, Repr

/-- A LINK request that is being applied or waits for a retrain to end: its SEQ, the width and rate it asks for (code 3:
unchanged), and what is still to do: 0 the width, 1 the rate (R378). -/
structure LinkReq where
  seq : BitVec 48
  width : BitVec 2
  rate : BitVec 2
  step : Nat
  deriving DecidableEq, Repr

/-- A UCIe module's link: its state, its width and rate as LINK codes them, the request whose retrain runs, and the
requests that wait. -/
structure LinkSt where
  mode : LinkMode
  width : BitVec 2
  rate : BitVec 2
  cur : Option LinkReq
  waiting : List LinkReq
  deriving DecidableEq, Repr

/-- A module after training: full width, 32 GT/s. -/
def LinkSt.reset : LinkSt := ⟨.active, 0, 0, none, []⟩

/-! ### Firmware images (R391, R392) -/

/-- A firmware image as the flash holds it: the one the module is shipped with, or bytes written since. -/
inductive Image where
  | shipped
  | bytes (bs : List Byte)
  deriving DecidableEq, Repr

/-! ### Reductions (R371) -/

/-- A reduction of a reduction unit: the ports its contributions came by, its accumulators, whether the root's final
contribution has come, and what the drain of the accumulators gave. -/
structure Reduction where
  ports : BitVec 8
  acc : List Tun
  final : Bool
  out : List (BitVec 128)
  deriving DecidableEq, Repr

/-! ### Command processor (R322 to R330, R338) -/

/-- States of a queue (R323). -/
inductive QueueSt where
  | disabled | active | headWait | error | draining
  deriving DecidableEq, Repr

/-- A queue descriptor (R322) and its KICK bit (R338). -/
structure Queue where
  base : Word
  wr : BitVec 32
  rd : BitVec 32
  logsz : BitVec 5
  weight : BitVec 4
  prio : BitVec 2
  st : QueueSt
  kick : Bool
  deriving DecidableEq, Repr

/-- A queue at reset (R322). -/
def Queue.reset : Queue := ⟨0, 0, 0, 0, 0, 0, .disabled, false⟩

/-- States of a graph (R327). -/
inductive GraphSt where
  | waiting | ready | running | completing | done | discarded
  deriving DecidableEq, Repr

/-- Where the dispatch of one fabric-load entry stands: not dispatched, with its age (R328); dispatched, by the serial
number of its task chain; or ended. -/
inductive EntSt where
  | waiting (age : Nat)
  | running (serial : Nat)
  | ended
  deriving DecidableEq, Repr

/-- An entry of a fabric-load record (R324). -/
structure LoadEnt where
  task : Nat
  clu : Nat
  dies : BitVec 12
  args : List Word
  st : EntSt
  deriving DecidableEq, Repr

/-- A graph (R324, R327). -/
structure Graph where
  part : Nat
  queue : Nat
  gtag : BitVec 16
  code : Nat
  ckind : BitVec 2
  cidx : Nat
  cval : Word
  wkind : BitVec 2
  widx : Nat
  wval : Word
  loads : List (List LoadEnt)
  st : GraphSt
  k : Nat
  deriving DecidableEq, Repr

/-- Role of a command-processor core (R338, R396). -/
inductive Role where
  | out | active | standby
  deriving DecidableEq, Repr

end Sys2Proof.Machine
end

