-- ==== Sys2Proof/Machine/State.lean ====
section
/-!
DEFINITION. The state of the whole device as plain data, its faults and refusals, and the state after reset.
-/

namespace Sys2Proof.Machine

/-- Why a step has no next state. -/
inductive Fault where
  /-- raised by step when the module has no main power, or every rail is cut, and no device step is due (R419, R422):
  nothing can run until a device reset; safe -/
  | poweredOff
  deriving DecidableEq, Repr

/-- Why an instruction has no meaning. -/
inductive Refusal where
  /-- raised by exec for an instruction not modelled yet: safe -/
  | notModelled (mnemonic : String)
  deriving DecidableEq, Repr

/-- A control core: its active and second register banks (R16, R352), whether the second bank holds a context filled
for a pre-emption not yet taken, a pre-emption request and a running swap, which of its 64 scratchpad banks still hold
another context's contents, which of those an access has waited for, the owners of the banks' contents (chain serial plus
one, 0 for the active task's), and a spill of the second bank still to do (R354). -/
structure Core where
  bank : Context
  other : Context
  incoming : Bool
  preq : Bool
  swapping : Bool
  foreign : BitVec 64
  wanted : BitVec 64
  owners : Sparse Nat
  spilling : Bool
  /-- copy slots (R109); they belong to the core, whatever task issued the copy -/
  copies : Sparse Copy
  /-- order of the next stream or copy (R337) -/
  engines : Nat
  deriving DecidableEq, Repr

/-- A core at reset. -/
def Core.reset : Core := ⟨Context.reset, Context.reset, false, false, false, 0, 0, [], false, [], 0⟩

/-- A cached translation (R385): partition, context, virtual base and size of the page, its leaf entry, and the
64-byte lines of the table entries it came from (R384). -/
structure TlbEntry where
  part : Nat
  ctx : Nat
  va : Nat
  size : Nat
  leaf : BitVec 128
  lines : List Nat
  deriving DecidableEq, Repr

/-- Who needs a page walk (R386); a generator with the serial number of its task chain. -/
inductive Agent where
  | instr (core : Nat)
  | gen (core g chain lane : Nat)
  | copy (core slot : Nat)
  deriving DecidableEq, Repr

/-- The right an access needs (R383), coded as ACCESS of R386. -/
inductive AccKind where
  | load | store | atomic | sidecar
  deriving DecidableEq, Repr

/-- A pending page walk: one per context and page, with the agents that wait for it (R385). -/
structure Walk where
  part : Nat
  ctx : Nat
  va : Nat
  kind : AccKind
  agents : List Agent
  deriving DecidableEq, Repr

/-- An unanswered fault record (R386). -/
structure FaultRec where
  recno : Nat
  va : Nat
  ctx : Nat
  kind : AccKind
  reason : Nat
  agents : List Agent
  deriving DecidableEq, Repr

/-- A partition: the dies, stacks and ports it was granted, its direct-window sets (R369, R370, R388), its fault
records, and the number of the next one (R386). -/
structure Part where
  live : Bool
  dies : BitVec 12
  ports : BitVec 8
  hsets : Nat
  records : List FaultRec
  recno : Nat
  /-- a take-over holds back COMPLETION and LOAD_DONE messages, listed with their channels (R374, R396) -/
  holding : Bool
  heldMsgs : List OutMsg
  /-- EPOCH and QTIME of the command processor (R338) -/
  epoch : BitVec 8
  qtime : Word
  /-- a partition fault has struck it (R373) -/
  failed : Bool
  /-- a PRESET or PDESTROY runs: the SEQ of its request, and whether it destroys (R372) -/
  resetting : Option (BitVec 48 × Bool)
  /-- the selector has still to look for tasks to dispatch (R329), and whose turn it is at each priority: the queue and
  how many of its tasks have been dispatched in the turn -/
  select : Bool
  /-- cores whose tasks have ended since the command processor last looked (R339, R399) -/
  freed : List Nat
  turns : Sparse (Nat × Nat)
  /-- feature masks of its dies (R370) -/
  masks : Sparse (BitVec 8)
  deriving DecidableEq, Repr

/-- A partition that does not exist. -/
def Part.none : Part := ⟨false, 0, 0, 0, [], 0, false, [], 0, 0, false, Option.none, false, [], [], []⟩

/-- What the device keeps of a context (R140, R359): whether it exists, FSTR and REV of MMCTL, and the watchdog limit
of its tasks; and the compatibility mask of its code objects (R299), none before the first. -/
structure CtxInfo where
  live : Bool
  compat : Option (BitVec 2)
  fstr : Bool
  rev : BitVec 3
  wdlim : BitVec 32
  deriving DecidableEq, Repr

/-- A context before any code object is loaded into it: REV reads 2 (log 3). -/
def CtxInfo.none : CtxInfo := ⟨false, Option.none, false, 2, 1000000⟩

/-- States of a row slot (R115). -/
inductive RowSt where
  | free | opened | keep | drop
  deriving DecidableEq, Repr

/-- A row slot: its state, the task chain that owns it, the row (place divided by 1024), the sequence number, and
whether it is closed and reserved to an owner that is switched out (R115, R118). -/
structure RowSlot where
  st : RowSt
  owner : Nat
  row : Nat
  seq : BitVec 16
  reserved : Bool
  deriving DecidableEq, Repr

/-- A free slot (R115); the first sequence number is log 3. -/
def RowSlot.free : RowSlot := ⟨.free, 0, 0, 0, false⟩

/-- What comes with time alone: the next change of a cluster on its way (R414), the end of a take-over's 10 ms (R397), the
timers of a channel (R368), the end of a module's retraining, good or bad (R378), the end of a partition's reset (R372) and of
the writing of the flash (R392), readings of the monitors (R421), host messages that nothing holds any more (R375, R377, R417), and what the module's power
and heat bring (R409, R422). -/
inductive Timed where
  | cluster (die k : Nat)
  | takeover
  | ack (part chan : Nat)
  | resend (part chan : Nat)
  | retrained (die m : Nat)
  | retrainFailed (die m : Nat)
  | resetDone (part : Nat)
  | flashWritten
  | monitor
  | release
  | powerFloor (slow : Bool)
  | thermalFloor (die : Nat) (slow : Bool)
  | overheat (die : Nat)
  | cutoff
  deriving DecidableEq, Repr

/-- One step of the agenda: a control core issues, a device step, a bias flip goes on (R139), a CONTROL message that has
waited for a take-over runs (R399), or time does something. -/
inductive Action where
  | core (c : Nat)
  | event (i : Instr)
  | flip
  | control
  | timed (t : Timed)
  deriving DecidableEq, Repr

/-- The whole device. -/
structure State where
  /-- the model's own: the core whose instruction exec runs -/
  cur : Nat
  /-- the model's own: inputs and steps that come next -/
  agenda : List Action
  /-- the model's own: counter the free values are applied to -/
  turn : Nat
  /-- control cores (R8, R338) -/
  cores : Sparse Core
  /-- contexts whose bank has been spilled to the save region, by core (R332, R354) -/
  saved : Sparse (List Context)
  /-- scratchpad banks of switched-out task chains, by serial number, that lie in the save region (R354) -/
  spads : Sparse (BitVec 64)
  /-- memory, scratchpads, scratch tiles, instruction buffers, by storage address -/
  mem : List Host.Cell
  /-- write generation of loft lines (R100) -/
  loftGen : Sparse Nat
  /-- key a loft line was last written under, as the number of its draw plus 1; 0: none since it was cleared (R100) -/
  loftKey : Sparse Nat
  /-- storage lines marked poisoned (R423) -/
  poison : List Nat
  /-- slice map of each die: key 512 x die + slice (R99) -/
  sliceMap : Sparse Nat
  tlb : List TlbEntry
  walks : List Walk
  parts : Sparse Part
  /-- contexts: key 65536 x partition + context -/
  ctxs : Sparse CtxInfo
  /-- row slots: key 256 x stack + 4 x pseudo-channel + slot (R114) -/
  rows : Sparse RowSlot
  /-- GHT channels: key 4096 x partition + channel; peer link p has key 2^20 + p -/
  chans : Sparse Chan
  /-- every message the device has sent, oldest first -/
  sent : List OutMsg
  /-- messages and frames dropped and counted (R361, R363) -/
  dropped : Nat
  /-- error log (R424): next entry, entries overwritten unread, the entries -/
  errHead : BitVec 8
  errLost : Nat
  errLog : Sparse ErrEntry
  /-- compute dies -/
  dies : Sparse Die
  /-- context-creation mode (R369): 0 package, 1 half, 2 die -/
  mode : BitVec 2
  /-- MODPWR (R409) -/
  modLimit : BitVec 16
  modMeas : BitVec 16
  /-- CKCTL, CKSTAT and the image (R416 to R418) -/
  ckMask : BitVec 12
  ckState : BitVec 3
  ckReason : BitVec 8
  ckMoved : BitVec 32
  ckImage : Option CkImage
  /-- TEMP: readings and highest readings; VOLT; PROC (R421) -/
  temp : Sparse (BitVec 16)
  maxTemp : Sparse (BitVec 16)
  volt : Sparse (BitVec 16)
  proc : Sparse (BitVec 20)
  /-- main and auxiliary supplies (R419), and whether the rails are cut (R422) -/
  mainOn : Bool
  auxOn : Bool
  railsCut : Bool
  /-- partitions whose HBM4 is in self-refresh (R411) -/
  selfRefresh : BitVec 12
  /-- queue descriptors (R322): key 512 x partition + queue -/
  queues : Sparse Queue
  /-- graphs by number, and the next number (R327) -/
  graphs : Sparse Graph
  graphNo : Nat
  /-- completion counters: key 4096 x partition + index; queue barrier objects: key 256 x partition + index (R326) -/
  counters : Sparse Word
  barriers : Sparse (BitVec 128)
  /-- accepted code objects: key 65536 x partition + code handle (R292) -/
  codes : Sparse Code
  /-- bias flips in progress (R139), and host messages that name a page being flipped, with whether they write (R375) -/
  flips : List Flip
  heldHost : List (Bool × Msg)
  /-- CONTROL messages accepted during a take-over, executed after it, with their operation (R399) -/
  heldCtl : List (Nat × Msg)
  /-- tenant keys held: key 256 x partition + tenant, value the number of the draw (R390) -/
  keys : Sparse Nat
  /-- UCIe modules: key 24 x die + module, dies 12 to 15 the memory dies (R377, R378) -/
  links : Sparse LinkSt
  /-- MACsec keys: key (4 x port + association number) x 2 + direction (R362, R367) -/
  macsec : Sparse (List Byte)
  /-- UDP destination port of each port, where it is not 27 218 (R361; log 37) -/
  udp : Sparse (BitVec 16)
  /-- reductions in progress, by number (R371) -/
  reds : Sparse Reduction
  /-- the firmware image in flash, the one that runs, and whether the device is in recovery (R391, R392) -/
  flash : Image
  firmware : Image
  recovery : Bool
  /-- the accepted image that is being written to flash (R392) -/
  flashing : Option (List Byte)
  /-- the lowest packet number not yet accepted under a receive key: key 4 x port + association number (R362) -/
  macPn : Sparse Nat
  /-- next index of the identity key (R393) -/
  xmss : Nat
  /-- fabric cycle in progress: what is still to do, and the state to go back to on a trap (R251) -/
  due : List Due
  work : Option Work
  /-- roles and TAKE bits of the two command-processor cores (R338): key 0 and 1 -/
  roles : Sparse Role
  take : Sparse Bool
  /-- JBASE, JHEAD, JTAIL (R338); JBASE as the boot leaves it (R394) -/
  jbase : Word
  jhead : BitVec 11
  jtail : BitVec 11
  deriving DecidableEq, Repr

/-- The device after reset. -/
def State.reset : State where
  cur := 0
  agenda := []
  turn := 0
  cores := []
  saved := []
  spads := []
  mem := []
  loftGen := []
  loftKey := []
  poison := []
  sliceMap := []
  tlb := []
  walks := []
  parts := []
  ctxs := []
  rows := []
  chans := []
  sent := []
  dropped := 0
  errHead := 0
  errLost := 0
  errLog := []
  dies := []
  mode := 0
  modLimit := 0
  modMeas := 0
  ckMask := 0
  ckState := 0
  ckReason := 0
  ckMoved := 0
  ckImage := none
  temp := []
  maxTemp := []
  volt := []
  proc := []
  mainOn := true
  auxOn := true
  railsCut := false
  selfRefresh := 0
  queues := []
  graphs := []
  graphNo := 0
  counters := []
  barriers := []
  codes := []
  flips := []
  heldHost := []
  heldCtl := []
  keys := []
  links := []
  macsec := []
  udp := []
  reds := []
  flash := .shipped
  firmware := .shipped
  recovery := false
  flashing := none
  macPn := []
  xmss := 0
  due := []
  work := none
  roles := [(0, .active), (1, .standby)]
  take := []
  jbase := 0x200100000
  jhead := 0
  jtail := 0

/-! ### Cores and banks -/

/-- A control core. -/
def State.core (s : State) (c : Nat) : Core := Sparse.get Core.reset s.cores c

/-- Put a control core. -/
def State.setCore (s : State) (c : Nat) (k : Core) : State := { s with cores := s.cores.set c k }

/-- The active bank of a core. -/
def State.bank (s : State) (c : Nat) : Context := (s.core c).bank

/-- Put the active bank of a core. -/
def State.setBank (s : State) (c : Nat) (x : Context) : State := s.setCore c { s.core c with bank := x }

/-- The active bank of the core exec runs on. -/
def State.ctx (s : State) : Context := s.bank s.cur

/-- Put the active bank of the core exec runs on. -/
def State.setCtx (s : State) (x : Context) : State := s.setBank s.cur x

/-- Change the active bank of the core exec runs on. -/
def State.mapCtx (s : State) (f : Context → Context) : State := s.setCtx (f s.ctx)

/-- A partition. -/
def State.part (s : State) (p : Nat) : Part := Sparse.get Part.none s.parts p

/-- Put a partition. -/
def State.setPart (s : State) (p : Nat) (x : Part) : State := { s with parts := s.parts.set p x }

/-- A context of a partition. -/
def State.ctxInfo (s : State) (p x : Nat) : CtxInfo := Sparse.get CtxInfo.none s.ctxs (65536 * p + x)

/-- Put a context of a partition. -/
def State.setCtxInfo (s : State) (p x : Nat) (c : CtxInfo) : State := { s with ctxs := s.ctxs.set (65536 * p + x) c }

/-- A compute die. -/
def State.die (s : State) (d : Nat) : Die := Sparse.get Die.reset s.dies d

/-- Put a compute die. -/
def State.setDie (s : State) (d : Nat) (x : Die) : State := { s with dies := s.dies.set d x }

/-- A queue of a partition. -/
def State.queue (s : State) (p q : Nat) : Queue := Sparse.get Queue.reset s.queues (512 * p + q)

/-- Put a queue of a partition. -/
def State.setQueue (s : State) (p q : Nat) (x : Queue) : State := { s with queues := s.queues.set (512 * p + q) x }

/-- A fresh argument for a free value, and the state that has used it. -/
def State.fresh (s : State) : Nat × State := (s.turn, { s with turn := s.turn + 1 })

end Sys2Proof.Machine
end

