-- ==== Sys2Proof/Machine/Memory.lean ====
section
/-!
DEFINITION. Memory: places and storage addresses, reading and writing bytes with everything a write brings about,
the windows of a context's address space (R93), page walks (R381 to R384), the access checks (R121) and row slots
(R114 to R118). A place is a partition-physical address of R379, the interleaved windows numbered apart for every
partition by adding 2^48 times the partition.
-/

namespace Sys2Proof.Machine

/-! ### Places -/

/-- Place of a partition-physical address: HBM4 and LPDDR6 are each partition's own, the other windows name dies and
stacks of the package (R379). -/
def placeOf (part pa : Nat) : Nat := if pa < 0x030000000000 then part * 2 ^ 48 + pa else pa

/-- Place of byte off of the scratchpad of core c (R379); the two command-processor cores follow die 11. -/
def spadPlace (c off : Nat) : Nat := 0x050000000000 + (c / 32) * 2 ^ 27 + (c % 32) * 2 ^ 22 + off

/-- Storage address of byte off of scratch tile t of a die (R92); not reachable by addresses. -/
def tilePlace (die t off : Nat) : Nat := 0x060000000000 + die * 2 ^ 26 + t * 2 ^ 17 + off

/-- Storage address of byte off of a core's instruction buffer (R148); not reachable by addresses. -/
def codePlace (c off : Nat) : Nat := 0x070000000000 + c * 2 ^ 18 + off

/-- Place of byte off of the loft of a die (R379). -/
def loftPlace (die off : Nat) : Nat := 0x030000000000 + die * 2 ^ 30 + off

/-- Storage address of byte off of a partition's save region, in the device-reserved LPDDR6 (R354, R400, R419). -/
def savePlace (part off : Nat) : Nat := part * 2 ^ 48 + 0x0A0000000000 + off

/-- The place lies in a loft, reached under a tenant's key or not. -/
def isLoft (p : Nat) : Bool := decide (0x030000000000 ≤ p % 2 ^ 48) && decide (p % 2 ^ 48 < 0x030300000000)

/-- Place of a loft byte as a tenant of a partition reaches it: the key its page-table entry names is part of the place
(R100). -/
def keyedPlace (part tenant pa : Nat) : Nat := (16 + 256 * part + tenant) * 2 ^ 48 + pa

/-- Place of a partition-physical address under a leaf: a loft page names a key (R100). -/
def leafPlace (part tenant pa : Nat) : Nat := if isLoft pa then keyedPlace part tenant pa else placeOf part pa

/-- Number in the key store, 256 x partition + tenant, of the key a place is reached under; none for other places and for
agents that translate nothing. -/
def placeKey (p : Nat) : Option Nat := if isLoft p && decide (16 ≤ p / 2 ^ 48) then some (p / 2 ^ 48 - 16) else none

/-- A loft place without its key. -/
def bare (p : Nat) : Nat := if isLoft p then p % 2 ^ 48 else p

/-- The place lies in the HBM4 direct window. -/
def isDirect (p : Nat) : Bool := decide (0x040000000000 ≤ p) && decide (p < 0x04C000000000)

/-- The place lies in a core scratchpad. -/
def isSpad (p : Nat) : Bool := decide (0x050000000000 ≤ p) && decide (p < 0x050068000000)

/-- Core whose scratchpad holds the place. -/
def spadCore (p : Nat) : Nat := (p - 0x050000000000) / 2 ^ 27 * 32 + (p - 0x050000000000) / 2 ^ 22 % 32

/-- Where the byte at a place is stored: the slice map redirects the slices of each loft (R99). -/
def State.storage (s : State) (p : Nat) : Nat :=
  if isLoft p then
    let o := p % 2 ^ 48 - 0x030000000000
    let die := o / 2 ^ 30
    let slice := o / 2 ^ 21 % 512
    loftPlace die (Sparse.get slice s.sliceMap (512 * die + slice) * 2 ^ 21 + o % 2 ^ 21)
  else p

/-! ### Reading and writing bytes -/

/-- What a byte that nothing has written reads as (log 2). -/
def unlisted : Byte := 0

/-- The canonical form of memory (keys rising, no entry equal to what an unlisted byte reads as). -/
def Memory.wf (m : List Host.Cell) : Bool := Sparse.canonical unlisted m

/-- A byte by storage address. -/
def memByte (m : List Host.Cell) (a : Nat) : Byte := Sparse.get unlisted m a

/-- Write one byte by storage address, keeping the canonical form. -/
def memPut (m : List Host.Cell) (a : Nat) (b : Byte) : List Host.Cell := Sparse.put unlisted m a b

/-- Draw of the key a place is reached under (R390). -/
def State.drawOf (s : State) (p : Nat) : Option Nat :=
  match placeKey p with
  | some k => Sparse.find s.keys k
  | none => none

/-- The line at a storage address of a loft was last written under another key than that of a draw. -/
def State.foreignLine (s : State) (d a : Nat) : Bool :=
  Sparse.get 0 s.loftKey (a / 64) != 0 && Sparse.get 0 s.loftKey (a / 64) != d + 1

/-- What decryption of a loft byte under the key of a draw makes of it, beside what the key it was written under gives: the
two keystreams (R100; log 8). -/
def State.mask (s : State) (d a : Nat) : Byte :=
  if s.foreignLine d a then
    let g := Sparse.get 0 s.loftGen (a / 64)
    Config.keystream (Config.tenantKey (Sparse.get 0 s.loftKey (a / 64) - 1)) g a
      ^^^ Config.keystream (Config.tenantKey d) g a
  else 0

/-- The byte at a storage address as an agent reaches it: memory holds a loft line as it reads under the key it was last
written under, and another key decrypts it to other bytes (R100). -/
def State.readUnder (s : State) (draw : Option Nat) (a : Nat) : Byte :=
  match draw with
  | some d => memByte s.mem a ^^^ s.mask d a
  | none => memByte s.mem a

/-- The byte at a place. -/
def State.byteAt (s : State) (p : Nat) : Byte := s.readUnder (s.drawOf p) (s.storage p)

/-- n bytes at a place as a number, the first byte lowest (R3). -/
def State.natAt (s : State) : Nat → Nat → Nat
  | _, 0 => 0
  | p, n + 1 => (s.byteAt p).toNat + 256 * s.natAt (p + 1) n

/-- The k-th byte of a number. -/
def byteOf (v k : Nat) : Byte := BitVec.ofNat 8 (v / 256 ^ k)

/-- The n low bytes of a number, the first byte lowest (R3). -/
def bytesOf (v n : Nat) : List Byte := (List.range n).map (byteOf v)

/-- Write bytes at a place, one after another: the memory alone. -/
def State.putBytes (s : State) : Nat → List Byte → State
  | _, [] => s
  | p, b :: bs => State.putBytes { s with mem := memPut s.mem (s.storage p) b } (p + 1) bs

/-- The 64-byte lines that n bytes at p touch. -/
def linesOf (p n : Nat) : List Nat :=
  if n = 0 then [] else (List.range ((p + n - 1) / 64 - p / 64 + 1)).map fun k => p / 64 + k

/-- A line is written whole by n bytes at p. -/
def wholeLine (p n l : Nat) : Bool := decide (p ≤ 64 * l) && decide (64 * l + 64 ≤ p + n)

/-- Loft lines about to be written by an agent with a key: each is read and merged under that key, and is its own from then on
(R100). -/
def State.rekey (s : State) : List Nat → State
  | [] => s
  | l :: ls =>
    match s.drawOf (64 * l) with
    | none => s.rekey ls
    | some d =>
      let a := s.storage (64 * l)
      let m := if s.foreignLine d a then
        (List.range 64).foldl (fun m k => memPut m (a + k) (s.readUnder (some d) (a + k))) s.mem else s.mem
      State.rekey { s with mem := m, loftKey := Sparse.set s.loftKey (a / 64) (d + 1) } ls

/-- One more write to each loft line (R100). -/
def State.bumpGen (s : State) (ls : List Nat) : State :=
  let line (l : Nat) : Nat := s.storage (64 * l) / 64
  let up (g : Sparse Nat) (l : Nat) : Sparse Nat :=
    if isLoft (64 * l) then Sparse.set g (line l) (Sparse.get 0 g (line l) + 1) else g
  { s with loftGen := ls.foldl up s.loftGen }

/-- Waking an idle core: IDLE ends at a store to its scratchpad, a completion or an asynchronous trap (R222). -/
def Context.wake (c : Context) : Context := if c.idle.isSome then { c with idle := none, wait := 0 } else c

/-- Wake the active bank of a core. -/
def State.wakeCore (s : State) (c : Nat) : State :=
  if (s.bank c).idle.isSome then s.setBank c (s.bank c).wake else s

/-- A bank's task runs in a context. -/
def Context.inCtx (c : Context) (part ctx : Nat) : Bool :=
  match c.task with
  | some t => t.part == part && t.ctx == ctx
  | none => false

/-- Generators of a bank drop the sidecar lines at some places (R107). -/
def Context.dropLinesAt (c : Context) (hit : Nat → Bool) : Context :=
  { c with gens := c.gens.map fun e => (e.1, { e.2 with streams := e.2.streams.map fun x =>
      { x with lines := x.lines.filter fun l => !hit l.1 } }) }

/-- Generators of a bank drop their sidecar lines (R107). -/
def Context.dropLines (c : Context) : Context := c.dropLinesAt fun _ => true

/-- A sidecar line at a place is that of a stretch a translation covers (R106). -/
def TlbEntry.lineOf (e : TlbEntry) (p : Nat) : Bool :=
  let base := placeOf e.part ((e.leaf.extractLsb' 87 41).toNat * 128)
  decide (base ≤ p) && decide (p < base + 128 * (e.size / 2 ^ 19))

/-- The sidecar lines of the stretches that some translations covered, in the contexts they belonged to. -/
def Context.staleLines (c : Context) (gone : List TlbEntry) : Context :=
  c.dropLinesAt fun p => gone.any fun e => c.inCtx e.part e.ctx && e.lineOf p

/-- Cached translations go, and with them the sidecar lines that generators hold of their pages (R107, R384). -/
def State.dropTlb (s : State) (stale : TlbEntry → Bool) : State :=
  let gone := s.tlb.filter stale
  let f (c : Context) : Context := c.staleLines gone
  let s1 := { s with tlb := s.tlb.filter fun e => !stale e }
  if gone.isEmpty then s1
  else
    { s1 with cores := s1.cores.map fun e => (e.1, { e.2 with bank := f e.2.bank, other := f e.2.other }),
              saved := s1.saved.map fun e => (e.1, e.2.map f) }

/-- The page set of a task chain's handle is being moved (R336). -/
def State.setMoving (s : State) (core chain h : Nat) : Bool :=
  (s.die (core / 32)).moves.any fun m => m.core == core && m.chain == chain && m.h == h

/-- The contexts of a core: active, second, spilled. -/
def State.contexts (s : State) (core : Nat) : List Context :=
  (s.core core).bank :: (s.core core).other :: Sparse.get [] s.saved core

/-- Everything a store brings about when it performs: cached translations from a written table line go first (R384),
loft lines come under the writer's key, the bytes change, loft generations rise (R100), a line written whole loses its poison mark (R427), and a store to a
core's scratchpad ends its IDLE (R222). -/
def State.write (s : State) (p : Nat) (bs : List Byte) : State :=
  let ls := linesOf p bs.length
  let stale (e : TlbEntry) : Bool := e.lines.any fun l => (linesOf (bare p) bs.length).contains l
  let cleared (l : Nat) : Bool := ls.any fun k => wholeLine p bs.length k && s.storage (64 * k) / 64 == l
  let s1 := s.dropTlb stale
  let s2 := ((s1.rekey ls).putBytes p bs).bumpGen ls
  let s3 := { s2 with poison := s2.poison.filter fun l => !cleared l }
  if isSpad p then s3.wakeCore (spadCore p) else s3

/-- Write the n low bytes of a number. -/
def State.writeNat (s : State) (p v n : Nat) : State := s.write p (bytesOf v n)

/-- A line of n bytes at a place is marked poisoned (R423). -/
def State.poisoned (s : State) (p n : Nat) : Bool :=
  (linesOf p n).any fun l => s.poison.contains (s.storage (64 * l) / 64)

/-- Mark the storage lines of n bytes at a place poisoned. -/
def State.markPoison (s : State) (p n : Nat) : State :=
  let add (ps : List Nat) (l : Nat) : List Nat :=
    let k := s.storage (64 * l) / 64
    if ps.contains k then ps else ps ++ [k]
  { s with poison := (linesOf p n).foldl add s.poison }

/-- Bytes just stored carry the mark of a poisoned line, or do not (R427). -/
def State.markIf (s : State) (bad : Bool) (p n : Nat) : State := if bad then s.markPoison p n else s

/-! ### Partitions and population -/

/-- Number of ones. -/
def popCount (n w : Nat) : Nat := ((List.range w).filter fun k => n / 2 ^ k % 2 = 1).length

/-- Stacks of a partition: stack Hn comes with die n (R28, R369). -/
def Part.stacks (p : Part) : Nat := popCount p.dies.toNat 12

/-- The partition holds compute die n. -/
def Part.hasDie (p : Part) (n : Nat) : Bool := p.dies.getLsbD n

/-- An address of R379 that memory stands behind: granted and populated (R379, R388); 48 GB of HBM4 a stack, a GB being
10^9 bytes (R5, R92). -/
def Part.populated (p : Part) (pa : Nat) : Bool :=
  if pa < 0x010000000000 then decide (pa < p.stacks * (48 * 10 ^ 9 - p.hsets * 64 * 2 ^ 24))
  else if pa < 0x030000000000 then decide (pa - 0x010000000000 < p.stacks * 4 * 18 * 2 ^ 30)
  else if isLoft pa then p.hasDie ((pa - 0x030000000000) / 2 ^ 30)
  else if isDirect pa then
    let o := pa - 0x040000000000
    p.hasDie (o / 2 ^ 36) && decide (o / 2 ^ 30 % 64 < 64) && decide (o % 2 ^ 30 / 2 ^ 24 < p.hsets)
  else if isSpad pa then p.hasDie ((pa - 0x050000000000) / 2 ^ 27)
  else false

/-! ### Page walks -/

/-- Fields of a page-table entry (R382). -/
def pteV (e : BitVec 128) : Bool := e.getLsbD 64
/-- LEAF -/
def pteLeaf (e : BitVec 128) : Bool := e.getLsbD 65
/-- R -/
def pteR (e : BitVec 128) : Bool := e.getLsbD 66
/-- W -/
def pteW (e : BitVec 128) : Bool := e.getLsbD 67
/-- BIAS -/
def pteBias (e : BitVec 128) : Bool := e.getLsbD 68
/-- HOLD -/
def pteHold (e : BitVec 128) : Bool := e.getLsbD 69
/-- KIND -/
def pteKind (e : BitVec 128) : BitVec 2 := e.extractLsb' 70 2
/-- CLASS -/
def pteClass (e : BitVec 128) : BitVec 2 := e.extractLsb' 72 2
/-- KEY -/
def pteKey (e : BitVec 128) : BitVec 8 := e.extractLsb' 76 8
/-- ADDR as an address -/
def pteAddr (e : BitVec 128) : Nat := (e.extractLsb' 7 41).toNat * 128
/-- SCBASE as an address -/
def pteSc (e : BitVec 128) : Nat := (e.extractLsb' 87 41).toNat * 128

/-- Reserved bits of an entry are zero. -/
def pteReserved (e : BitVec 128) : Bool :=
  e.extractLsb' 84 3 == 0 && e.extractLsb' 74 2 == 0 && e.extractLsb' 48 16 == 0 && e.extractLsb' 0 7 == 0

/-- Outcome of a page walk. -/
inductive WalkRes where
  /-- the leaf, the page's virtual base and size, the lines of the entries read -/
  | leaf (e : BitVec 128) (va size : Nat) (lines : List Nat)
  /-- V = 0 at some level (R383) -/
  | invalid
  /-- an entry R383 forbids -/
  | prot
  /-- a table line is poisoned (R428): the line's place -/
  | poison (p : Nat)
  deriving DecidableEq, Repr

/-- The rules of R383 for a leaf of a page size in a context of a tenant. -/
def leafOk (p : Part) (tenant : BitVec 8) (e : BitVec 128) (size : Nat) : Bool :=
  let a := pteAddr e
  let k := pteKind e
  pteReserved e && a % size == 0 && p.populated a
    && (if isLoft a then k == 0 && !pteHold e && !pteBias e && pteKey e == tenant
        else if isSpad a then size == 2 ^ 19 && k == 0 && !pteHold e && !pteBias e && pteKey e == 0
        else pteKey e == 0)
    && (if k == 0 then pteClass e == 0 && pteSc e == 0 else pteSc e != 0 && !pteBias e)
    && (k != 3 || pteClass e == 3)
    && (!pteHold e || (size == 2 ^ 24 && isDirect a && !pteBias e))

/-- Index of a virtual address at a level, the entries of the level's tables, and the size a leaf maps (R381). -/
def levelIndex (level va : Nat) : Nat :=
  match level with
  | 3 => va / 2 ^ 39 % 512
  | 2 => va / 2 ^ 30 % 512
  | 1 => va / 2 ^ 24 % 64
  | _ => va / 2 ^ 19 % 32

/-- Bytes of a table of a level. -/
def tableSize (level : Nat) : Nat :=
  match level with
  | 3 => 8192
  | 2 => 8192
  | 1 => 1024
  | _ => 512

/-- Bytes a leaf of a level maps. -/
def leafSize (level : Nat) : Nat :=
  match level with
  | 2 => 2 ^ 30
  | 1 => 2 ^ 24
  | _ => 2 ^ 19

/-- Walk from a table of a level down (R381, R383, R384): fuel is the level plus one. -/
def State.walkFrom (s : State) (part : Nat) (tenant : BitVec 8) (va : Nat) :
    Nat → Nat → List Nat → WalkRes
  | 0, _, _ => .invalid
  | level + 1, table, lines =>
    let p := s.part part
    if !(table % tableSize level == 0 && p.populated table) then .prot
    else
      let pl := placeOf part (table + 16 * levelIndex level va)
      if s.poisoned pl 16 then .poison pl
      else
        let e : BitVec 128 := BitVec.ofNat 128 (s.natAt pl 16)
        let ls := lines ++ [pl / 64]
        if !pteV e then .invalid
        else if pteLeaf e then
          if level == 3 then .prot
          else if leafOk p tenant e (leafSize level) then .leaf e (va / leafSize level * leafSize level) (leafSize level) ls
          else .prot
        else if level == 0 then .prot
        else if e &&& ~~~((((0x1FFFFFFFFFF : BitVec 41).zeroExtend 128) <<< 7) ||| ((1 : BitVec 128) <<< 64)) != 0 then .prot
        else s.walkFrom part tenant va level (pteAddr e) ls

/-- The context table entry of a context (R380). -/
def State.ctxEntry (s : State) (part ctx : Nat) : Nat := s.natAt (placeOf part (64 * ctx)) 8

/-- TENANT of a context (R380). -/
def State.tenantOf (s : State) (part ctx : Nat) : BitVec 8 := BitVec.ofNat 8 (s.ctxEntry part ctx / 2 ^ 56)

/-- Draw of the key of a task's tenant, under which the hybrid-bond path of its blocks decrypts (R100, R390). -/
def State.tenantDraw (s : State) (t : Task) : Option Nat := Sparse.find s.keys (256 * t.part + (s.tenantOf t.part t.ctx).toNat)

/-- The whole walk of a virtual address in a context: the context table's entry is the first it reads (R380, R381,
R384). -/
def State.walk (s : State) (part ctx va : Nat) : WalkRes :=
  let pl := placeOf part (64 * ctx)
  let e := s.ctxEntry part ctx
  if s.poisoned pl 8 then .poison pl
  else if e % 2 = 0 then .invalid
  else s.walkFrom part (s.tenantOf part ctx) va 4 (e / 2 ^ 13 % 2 ^ 35 * 2 ^ 13) [pl / 64]

/-- The cached translation that covers a virtual address (R385). -/
def State.cached (s : State) (part ctx va : Nat) : Option TlbEntry :=
  s.tlb.find? fun e => e.part == part && e.ctx == ctx && decide (e.va ≤ va) && decide (va < e.va + e.size)

/-! ### Row slots -/

/-- Stack and pseudo-channel of a direct-window place, as 64 x stack + channel. -/
def rowChan (p : Nat) : Nat := (p - 0x040000000000) / 2 ^ 36 * 64 + (p - 0x040000000000) / 2 ^ 30 % 64

/-- A row slot. -/
def State.rowSlot (s : State) (chan k : Nat) : RowSlot := Sparse.get RowSlot.free s.rows (4 * chan + k)

/-- Put a row slot. -/
def State.setRowSlot (s : State) (chan k : Nat) (r : RowSlot) : State := { s with rows := s.rows.set (4 * chan + k) r }

/-- A slot holds an open row: in use and not closed for a switched-out owner. -/
def RowSlot.live (r : RowSlot) : Bool := r.st != .free && !r.reserved

/-- Two rows lie in one subarray (R114): rows are numbered by place / 1024. -/
def sameSub (a b : Nat) : Bool := a / 512 == b / 512

/-- Written back and freed: the handle goes stale when the slot is next allocated (R115). -/
def RowSlot.freed (r : RowSlot) : RowSlot := { r with st := .free, reserved := false }

/-- What row slots do to an access by a task chain to a holdable place: conflict with a row the task itself holds
(R117), a wait for a row another task holds (R115), or neither. -/
inductive RowChk where
  | clear | conflict | held
  deriving DecidableEq, Repr

/-- The row rules for an access (R115, R117). -/
def State.rowCheck (s : State) (owner p : Nat) : RowChk :=
  let slots := (List.range 4).map fun k => s.rowSlot (rowChan p) k
  let clash := slots.filter fun r => r.live && sameSub r.row (p / 1024) && r.row != p / 1024 && r.st != .opened
  if clash.any fun r => r.owner == owner then .conflict
  else if clash.isEmpty then .clear
  else .held

/-- The OPEN rows of the subarray that an access to another row closes (R115, R117). -/
def State.rowYield (s : State) (p : Nat) : State :=
  (List.range 4).foldl (fun s k =>
    let r := s.rowSlot (rowChan p) k
    if r.live && r.st == .opened && sameSub r.row (p / 1024) && r.row != p / 1024 then
      s.setRowSlot (rowChan p) k r.freed else s) s

/-- The OPEN rows that an access of n bytes from a place closes. -/
def State.yieldRun (s : State) (p n : Nat) : State :=
  if isDirect p && n != 0 then (List.range ((p + n - 1) / 1024 - p / 1024 + 1)).foldl (fun s k => s.rowYield ((p / 1024 + k) * 1024)) s
  else s

/-! ### Access checks -/

/-- Outcome of checking an access before it leaves issue (R121, R170). -/
inductive Chk where
  /-- the access may go to this place -/
  | ok (place : Nat)
  /-- a trap of the cause with TINFO -/
  | trap (cause : Nat) (info : Word)
  /-- the instruction waits with a reason of R356 -/
  | wait (code : Nat)
  /-- it waits with RACKING for the exchange of the scratchpad bank that holds this place (R354) -/
  | away (place : Nat)
  /-- a page walk of this address is needed -/
  | miss (va : Nat)
  deriving DecidableEq, Repr

/-- Trap causes (R342). -/
def cIllegal : Nat := 1
/-- BAD_TARGET -/
def cBadTarget : Nat := 2
/-- MISALIGNED -/
def cMisaligned : Nat := 3
/-- TRANSLATION -/
def cTranslation : Nat := 4
/-- PROTECTION -/
def cProtection : Nat := 5
/-- TIMING -/
def cTiming : Nat := 6
/-- FORMAT_TAG -/
def cFormatTag : Nat := 7
/-- CONVERT_OVERFLOW -/
def cConvert : Nat := 8
/-- DIV_ZERO -/
def cDivZero : Nat := 9
/-- RULE_DEPTH -/
def cRuleDepth : Nat := 10
/-- RULE_ORDER -/
def cRuleOrder : Nat := 11
/-- RULE_OVERFLOW -/
def cRuleOverflow : Nat := 12
/-- PACK_OVERRUN -/
def cPackOverrun : Nat := 13
/-- ALIAS_KIND -/
def cAliasKind : Nat := 14
/-- ROW_CONFLICT -/
def cRowConflict : Nat := 15
/-- CLUSTER_EXIT -/
def cClusterExit : Nat := 16
/-- WINDOW_SPILL -/
def cWindowSpill : Nat := 17
/-- MACHINE_CHECK -/
def cMachineCheck : Nat := 18
/-- WATCHDOG -/
def cWatchdog : Nat := 19
/-- SYSCALL -/
def cSyscall : Nat := 20
/-- BREAK -/
def cBreak : Nat := 21

/-- Wait reasons (R356). -/
def wPortEmpty : Nat := 1
/-- PORT_FULL -/
def wPortFull : Nat := 2
/-- BARRIER -/
def wBarrier : Nat := 3
/-- SIGNAL -/
def wSignal : Nat := 4
/-- RACKING -/
def wRacking : Nat := 5
/-- ROW_HELD -/
def wRowHeld : Nat := 6
/-- LINK_RETRAIN -/
def wLinkRetrain : Nat := 7
/-- PEER_SWITCHED_OUT -/
def wPeerOut : Nat := 8
/-- PEER_FAULT -/
def wPeerFault : Nat := 9
/-- TRANSLATION -/
def wTranslation : Nat := 10
/-- NO_CAPABLE_PAGE -/
def wNoPage : Nat := 11
/-- CLUSTER_BARRIER -/
def wCluster : Nat := 12
/-- BIAS_FLIP -/
def wBiasFlip : Nat := 13
/-- COPY_SLOTS -/
def wCopySlots : Nat := 14
/-- POWER_WAKE -/
def wPowerWake : Nat := 15

/-- Row of the window table an address lies in (R93), the cluster window's four slots apart. -/
inductive Window where
  | own | member (m : Nat) | reserved | translated | unmapped
  deriving DecidableEq, Repr

/-- The window of an address (R93). -/
def windowOf (a : Nat) : Window :=
  if a < 0x400000 then .own
  else if a < 0x1400000 then .member ((a - 0x400000) / 0x400000)
  else if a < 0x100000000 then .reserved
  else if a < 0x1000000000000 then .translated
  else .unmapped

/-- A bank of a core's scratchpad still holds another context's contents (R354); bank a[11:6] (R95). -/
def State.bankForeign (s : State) (c off : Nat) : Bool := (s.core c).foreign.getLsbD (off / 64 % 64)

/-- The cluster group of a core: its first core. -/
def groupBase (c : Nat) : Nat := c / 4 * 4

/-- Core m of the group runs a live member of the cluster of a task on core c (R20): the chain that stands m places after
the cluster's first. -/
def State.member (s : State) (c : Nat) (t : Task) (m : Nat) : Bool :=
  t.clustered && (s.bank (groupBase c + m)).isChain (t.serial - c % 4 + m)

/-- A place in the scratchpad of core c, or a wait for the exchange of the bank (R354). -/
def State.spadChk (s : State) (c off : Nat) : Chk :=
  if s.bankForeign c off then .away (spadPlace c off) else .ok (spadPlace c off)

/-- An access has waited for the bank of a scratchpad place: the racking engine exchanges it (R354). -/
def State.touch (s : State) (p : Nat) : State :=
  let k := s.core (spadCore p)
  s.setCore (spadCore p) { k with wanted := k.wanted ||| ((1 : BitVec 64) <<< (p % 2 ^ 22 / 64 % 64)) }

/-- Rights of a leaf for an access (R383). -/
def rightsOk (e : BitVec 128) : AccKind → Bool
  | .load => pteR e
  | .sidecar => pteR e
  | .store => pteW e
  | .atomic => pteR e && pteW e

/-- Mark of a place that lies with the host: host-bias accesses travel as messages (R138). -/
def hostMark : Nat := 2 ^ 62

/-- A page of a partition is being flipped: new accesses to it wait (R139). -/
def State.flipping (s : State) (part pa : Nat) : Bool :=
  s.flips.any fun f => f.part == part && f.st != .queued && decide (f.page ≤ pa) && decide (pa < f.page + f.size)

/-- Unit of R424 that holds a place: the compute die of lofts, scratchpads and tiles; the memory die next to the stack
or channel of main memory (R28). -/
def State.unitOf (s : State) (p : Nat) : BitVec 8 :=
  let pa := p % 2 ^ 48
  let part := p / 2 ^ 48
  let units := (List.range 12).filter fun n => (s.part part).hasDie n
  if pa < 0x010000000000 then BitVec.ofNat 8 (16 + units.getD (pa / 4096 % units.length) 0 / 3)
  else if pa < 0x030000000000 then
    BitVec.ofNat 8 (16 + units.getD ((pa - 0x010000000000) / 4096 % (4 * units.length) / 4) 0 / 3)
  else if isLoft pa then BitVec.ofNat 8 ((pa - 0x030000000000) / 2 ^ 30)
  else if isDirect pa then BitVec.ofNat 8 (16 + (pa - 0x040000000000) / 2 ^ 36 / 3)
  else BitVec.ofNat 8 (pa % 2 ^ 40 / 2 ^ 27 % 12)

/-! ### Die links (R377) -/

/-- A die has a module: 12 of a compute die, 24 of a memory die. -/
def moduleOk (die m : Nat) : Bool := decide (die < 16) && decide (m < if die < 12 then 12 else 24)

/-- A module's link: DISABLED from the start where a fuse says so (R377). -/
def State.linkAt (s : State) (die m : Nat) : LinkSt :=
  match Sparse.find s.links (24 * die + m) with
  | some x => x
  | none => if Config.linkFused die m then { LinkSt.reset with mode := .disabled } else LinkSt.reset

/-- The module of a die that carries a line's traffic is retraining: the modules that are ACTIVE or RETRAIN share a die's
traffic, in a way the spec leaves open (log 65). -/
def State.linkHeld (s : State) (die line : Nat) : Bool :=
  let ms := (List.range 24).filter fun m =>
    moduleOk die m && ((s.linkAt die m).mode == .active || (s.linkAt die m).mode == .retrain)
  match ms[Config.route die line % ms.length]? with
  | some m => (s.linkAt die m).mode == .retrain
  | none => false

/-- The die behind whose links a place lies: a compute die, 12 to 15 a memory die, 16 for the switch die and the host. -/
def State.farDie (s : State) (p : Nat) : Nat :=
  let u := (s.unitOf p).toNat
  if hostMark ≤ p then 16 else if u < 12 then u else u - 4

/-- The link of a place's die that carries its line is retraining (R377). -/
def State.farHeld (s : State) (p : Nat) : Bool :=
  let far := s.farDie p
  !s.links.isEmpty && decide (far < 16) && s.linkHeld far (bare p / 64)

/-- A die link on the path from a core to a place is retraining (R356, R377): that of the core's die, and that of the die
that holds the place. The host port and the command-processor cores are on the switch die. -/
def State.pathHeld (s : State) (core p : Nat) : Bool :=
  let far := s.farDie p
  let near := core / 32
  !s.links.isEmpty && near != far
    && ((decide (near < 12) && s.linkHeld near (bare p / 64)) || (decide (far < 16) && s.linkHeld far (bare p / 64)))

/-- An access that may go to its place waits while a link on the path retrains. -/
def State.linkChk (s : State) (core : Nat) (r : Chk) : Chk :=
  match r with
  | .ok p => if s.pathHeld core p then .wait wLinkRetrain else r
  | _ => r

/-- The place of a partition-physical address under a leaf that grants the access: bias flips (R139), atomics on
host-bias pages (R127), apertures (R93), row slots (R117). -/
def State.leafRest (s : State) (t : Task) (a pa : Nat) (e : BitVec 128) (kind : AccKind) : Chk :=
  if s.flipping t.part pa then .wait wBiasFlip
  else if pteBias e then
    if kind == .atomic then .trap cProtection (BitVec.ofNat 64 a) else .ok (hostMark + t.part * 2 ^ 48 + pa)
  else if isSpad pa then
    match (s.bank (spadCore pa)).task with
    | some u =>
      if u.part == t.part && u.ctx == t.ctx then s.spadChk (spadCore pa) (pa % 2 ^ 22)
      else .trap cProtection (BitVec.ofNat 64 a)
    | none => .trap cProtection (BitVec.ofNat 64 a)
  else if pteHold e then
    match s.rowCheck t.serial pa with
    | .clear => .ok pa
    | .conflict => .trap cRowConflict (BitVec.ofNat 64 a)
    | .held => .wait wRowHeld
  else .ok (leafPlace t.part (pteKey e).toNat pa)

/-- The place of an address under a leaf of its page, with the rules for an instruction's access: rights (R383),
compressed pages (R103), and the rest. -/
def State.leafChk (s : State) (t : Task) (a : Nat) (e : BitVec 128) (va : Nat) (kind : AccKind) : Chk :=
  if !rightsOk e kind || pteKind e != 0 then .trap cProtection (BitVec.ofNat 64 a)
  else s.leafRest t a (pteAddr e + (a - va)) e kind

/-- The place of an aligned access inside one window and page, by the window of its address (R93). -/
def State.placeChk (s : State) (c : Nat) (t : Task) (a : Nat) (kind : AccKind) : Chk :=
  match windowOf a with
  | .own => s.spadChk c a
  | .member m =>
    if !s.member c t m then .trap cProtection (BitVec.ofNat 64 a)
    else s.spadChk (groupBase c + m) (a % 0x400000)
  | .reserved => .trap cTranslation (BitVec.ofNat 64 a)
  | .unmapped => .trap cTranslation (BitVec.ofNat 64 a)
  | .translated =>
    match s.cached t.part t.ctx a with
    | none => .miss a
    | some e => s.linkChk c (s.leafChk t a e.leaf e.va kind)

/-- Place of offset off of the firmware windows of a partition's command processor (R394). -/
def fwPlace (part off : Nat) : Nat := part * 2 ^ 48 + 0x080000000000 + off

/-- The place is a firmware window. -/
def isFw (p : Nat) : Bool := decide (p < hostMark) && decide (0x080000000000 ≤ p % 2 ^ 48)

/-- The place is a power or health register (R406). -/
def isReg (p : Nat) : Bool :=
  isFw p && decide (0x080000300000 ≤ p % 2 ^ 48) && decide (p % 2 ^ 48 < 0x080000310000)

/-- A translated access of a command-processor core in the firmware context (R394, R406; log 21): queue descriptors,
the status table, the power and health registers, and the one journal and standby cursor of the device. -/
def State.fwChk (s : State) (c part a n : Nat) (kind : AccKind) : Chk :=
  let active := Sparse.get Role.out s.roles (c - Config.cpCore) == .active
  let j := s.jbase.toNat
  let bad := Chk.trap cProtection (BitVec.ofNat 64 a)
  if 0x200000000 ≤ a && a < 0x200004000 then
    if kind == .load || (kind == .store && active && decide (16 ≤ a % 32) && decide (a % 32 + n ≤ 20)) then
      .ok (fwPlace part (a - 0x200000000))
    else bad
  else if 0x200200000 ≤ a && a < 0x200204000 then
    if kind == .load then .ok (fwPlace part (a - 0x200000000)) else bad
  else if 0x200300000 ≤ a && a < 0x200310000 then
    if kind != .atomic && n == 8 then .ok (fwPlace part (a - 0x200000000)) else bad
  else if j ≤ a && a < j + 0x10000 then
    if kind == .load || active then .ok (fwPlace 0 (0x100000 + (a - j))) else bad
  else if j + 0x10000 ≤ a && a < j + 0x10008 then .ok (fwPlace 0 (0x100000 + (a - j)))
  else .trap cTranslation (BitVec.ofNat 64 a)

/-- No byte of an access lies in a reserved or unmapped range; if one does, TRANSLATION comes before PROTECTION
(R93, R121). -/
def rangeTranslates (a n : Nat) : Bool :=
  (match windowOf a with | .reserved => false | .unmapped => false | _ => true)
    && (match windowOf (a + n - 1) with | .reserved => false | .unmapped => false | _ => true)

/-- CheckAccess of R129 for an access of n bytes whose units of u bytes must be aligned (R121, R178): MISALIGNED (PROTECTION for a
command-processor core in the space of R406), then
TRANSLATION and PROTECTION, then ROW_CONFLICT. The place answered is that of the first unit. -/
def State.checkAccess (s : State) (c : Nat) (t : Task) (a : Word) (n u : Nat) (kind : AccKind) : Chk :=
  let x := a.toNat
  if x % u != 0 then
    (if Config.cpCore ≤ c && 0x200300000 ≤ x && x < 0x200310000 then .trap cProtection a else .trap cMisaligned a)
  else if !rangeTranslates x n then .trap cTranslation a
  else if windowOf x != windowOf (x + n - 1) then .trap cProtection a
  else if Config.cpCore ≤ c && windowOf x == .translated then s.fwChk c t.part x n kind
  else s.placeChk c t x kind

end Sys2Proof.Machine
end

