-- ==== Sys2Proof/Machine/Link.lean ====
section
/-!
DEFINITION. What the device sends and records: GHT messages with their sequence numbers (R363, R368, R374), events
(R365), the status word of a core (R358), and the error log (R424).
-/

namespace Sys2Proof.Machine

/-! ### Emission -/

/-- Key of a channel of a partition. -/
def chanKey (part chan : Nat) : Nat := 4096 * part + chan

/-- Key of the channel of a peer link (R371). -/
def peerKey (port : Nat) : Nat := 2 ^ 20 + port

/-- Control channel (R364). -/
def ctlChan : Nat := 0xFFF
/-- Memory channel (R364). -/
def memChan : Nat := 0xFFE

/-- A channel. -/
def State.chan (s : State) (k : Nat) : Chan := Sparse.get Chan.reset s.chans k

/-- Put a channel. -/
def State.setChan (s : State) (k : Nat) (c : Chan) : State := { s with chans := s.chans.set k c }

/-- Message types (R365). -/
def mtRead : BitVec 8 := 0x03
/-- COMPLETION -/
def mtCompletion : BitVec 8 := 0x05
/-- ACK -/
def mtAck : BitVec 8 := 0x06
/-- NAK -/
def mtNak : BitVec 8 := 0x07
/-- SYNC_REQ -/
def mtSyncReq : BitVec 8 := 0x08
/-- SYNC_RESP -/
def mtSyncResp : BitVec 8 := 0x09
/-- LOAD_DONE -/
def mtLoadDone : BitVec 8 := 0x0B
/-- CONTROL_DONE -/
def mtControlDone : BitVec 8 := 0x0D
/-- EVENT -/
def mtEvent : BitVec 8 := 0x0E
/-- DEV_READ_REQ -/
def mtDevRead : BitVec 8 := 0x10
/-- DEV_WRITE -/
def mtDevWrite : BitVec 8 := 0x12
/-- FLUSH -/
def mtFlush : BitVec 8 := 0x13

/-- The port of a channel: a peer's, or the host port. -/
def portOf (k : Nat) : Nat := if 2 ^ 20 ≤ k then k - 2 ^ 20 else 8

/-- Send a message that has no sequence number: SEQ is 0 (R363). Like every message it acknowledges what has been accepted. -/
def State.sendPlain (s : State) (k part chan : Nat) (type : BitVec 8) (arg : BitVec 96) (payload : List Byte) : State :=
  let c := s.chan k
  { s.setChan k { c with told := c.expect } with sent := s.sent ++ [⟨type, part, chan, 0, c.expect, arg, payload, 0, portOf k⟩] }

/-- Send a sequenced message, or queue it while 1 024 are unacknowledged (R368). -/
def State.sendSeq (s : State) (k part chan : Nat) (type : BitVec 8) (arg : BitVec 96) (payload : List Byte)
    (tag : Nat) : State :=
  let c := s.chan k
  let m : OutMsg := ⟨type, part, chan, c.next, c.expect, arg, payload, tag, portOf k⟩
  if c.unacked.length < 1024 && c.queued.isEmpty then
    let s1 := s.setChan k { c with next := c.next + 1, unacked := c.unacked ++ [m], told := c.expect }
    { s1 with sent := s1.sent ++ [m] }
  else s.setChan k { c with queued := c.queued ++ [m] }

/-- Emit a message on a channel of a partition. After a take-over, COMPLETION and LOAD_DONE messages are held back
until the host has answered (R374, R396). -/
def State.emit (s : State) (part chan : Nat) (type : BitVec 8) (arg : BitVec 96) (payload : List Byte) : State :=
  let p := s.part part
  if p.holding && (type == mtCompletion || type == mtLoadDone) then
    s.setPart part { p with heldMsgs := p.heldMsgs ++ [⟨type, part, chan, 0, 0, arg, payload, 0, 8⟩] }
  else s.sendSeq (chanKey part chan) part chan type arg payload 0

/-- Send a message of the memory channel on behalf of an unfinished access (R138, R365); answer the number the access
knows it by. -/
def State.sendMem (s : State) (part : Nat) (type : BitVec 8) (arg : BitVec 96) (payload : List Byte) : State × Nat :=
  let tag := s.turn + 1
  ({ s with turn := tag }.sendSeq (chanKey part memChan) part memChan type arg payload tag, tag)

/-- EVENT of a kind on the control channel of a partition (R365). -/
def State.event (s : State) (part kind : Nat) (record : List Byte) : State :=
  s.emit part ctlChan mtEvent (BitVec.ofNat 96 kind) record

/-- Send queued messages while fewer than 1 024 are unacknowledged (R368): fuel bounds the queue. -/
def State.flushChan (s : State) (k : Nat) : Nat → State
  | 0 => s
  | n + 1 =>
    let c := s.chan k
    match c.queued with
    | [] => s
    | m :: ms =>
      if c.unacked.length < 1024 then
        let m' : OutMsg := { m with seq := c.next, ack := c.expect }
        let s1 := s.setChan k { c with next := c.next + 1, unacked := c.unacked ++ [m'], queued := ms, told := c.expect }
        State.flushChan { s1 with sent := s1.sent ++ [m'] } k n
      else s

/-- a is before b, modulo 2^48 (R368). -/
def seqBefore (a b : BitVec 48) : Bool := decide (1 ≤ (b - a).toNat) && decide ((b - a).toNat ≤ 2 ^ 47 - 1)

/-- Every number below n has been accepted by the other side (R363, R368). -/
def State.acked (s : State) (k : Nat) (n : BitVec 48) : State :=
  let c := s.chan k
  let left := c.unacked.filter fun m => !seqBefore m.seq n
  (s.setChan k { c with unacked := left }).flushChan k c.queued.length

/-- The message an unfinished access sent is acknowledged (R368). -/
def State.answered (s : State) (part tag : Nat) : Bool :=
  let c := s.chan (chanKey part memChan)
  !(c.unacked.any fun m => m.tag == tag) && !(c.queued.any fun m => m.tag == tag)

/-- Send the unacknowledged messages again, oldest first (R368, R374). -/
def State.retransmit (s : State) (k : Nat) : State :=
  let c := s.chan k
  if c.unacked.isEmpty then s
  else { s.setChan k { c with told := c.expect } with sent := s.sent ++ c.unacked.map fun m => { m with ack := c.expect } }

/-! ### The state of a core as the driver sees it -/

/-- TCAUSE as it reads (R346): RQCNT is the live count of the queue, TRAPST the state of the core. -/
def Context.tcause (c : Context) : Word :=
  BitVec.ofNat 64 (c.frame.cause.toNat + c.frame.dxfer.toNat * 2 ^ 8 + c.trapst.toNat * 2 ^ 11
    + c.frame.async.toNat * 2 ^ 12 + c.frame.dslot.toNat * 2 ^ 13 + c.frame.fab.toNat * 2 ^ 14
    + c.frame.handle.toNat * 2 ^ 15 + c.frame.copy.toNat * 2 ^ 19 + c.rq.length * 2 ^ 20)

/-- The status word of a core (R358). SWOUT shows beside BUSY = 0 only once the save record is complete (R400). -/
def State.statusWord (s : State) (c : Nat) : Nat :=
  let k := s.core c
  let b := k.bank
  let swout := (k.other.task.isSome && !k.incoming && (b.task.isSome || !k.spilling)).toNat * 2 ^ 7
  match b.task with
  | none => 0xFFFF * 2 ^ 48 + swout
  | some t =>
    t.index % 2 ^ 16 * 2 ^ 48 + t.ctx % 2 ^ 16 * 2 ^ 32 + b.cause2.toNat * 2 ^ 24 + b.frame.cause.toNat * 2 ^ 16
      + swout + b.stopped.toNat * 2 ^ 6 + b.trapst.toNat * 2 ^ 5 + 2 ^ 4 + b.wait.toNat

/-- The record of EVENT kind 3 (R432). -/
def State.stopRecord (s : State) (c : Nat) : List Byte :=
  let b := s.bank c
  bytesOf (s.statusWord c) 8 ++ [BitVec.ofNat 8 (c / 32), BitVec.ofNat 8 (c % 32)] ++ bytesOf 0 6
    ++ bytesOf b.tcause.toNat 8 ++ bytesOf b.frame.tpc.toNat 8 ++ bytesOf b.frame.ttgt.toNat 8
    ++ bytesOf b.frame.tinfo.toNat 8 ++ bytesOf b.frame.twp.toNat 8

/-- Partition of a core's active task. -/
def State.partOf (s : State) (c : Nat) : Nat :=
  match (s.bank c).task with
  | some t => t.part
  | none => 0

/-! ### Error log -/

/-- An entry of the error log. -/
def State.errEntry (s : State) (j : Nat) : ErrEntry := Sparse.get ErrEntry.zero s.errLog j

/-- Whether a corrected error merges with an earlier one at its address: those within 1 s do (R424); when the earlier
one occurred is not part of the state, so the answer is a free value. -/
def State.mergeAt (s : State) (part : BitVec 8) (addr : Word) : Option Nat :=
  ((List.range 256).find? fun j => (s.errEntry j).sev == 1 && (s.errEntry j).part == part && (s.errEntry j).addr == addr).filter
    fun _ => Config.choose s.turn % 2 == 1

/-- Put an error into the log at ERRHEAD (R424). -/
def State.logError (s : State) (sev : BitVec 2) (unit : BitVec 8) (part : BitVec 8) (addr : Word) : State :=
  match (if sev == 1 then s.mergeAt part addr else none) with
  | some j =>
    let e := s.errEntry j
    { s with errLog := s.errLog.set j { e with count := e.count + 1 }, turn := s.turn + 1 }
  | none =>
    let j := s.errHead.toNat
    let old := s.errEntry j
    let e : ErrEntry := ⟨addr, 1, (s.part part.toNat).qtime, part, unit, sev, false⟩
    { s with errLog := s.errLog.set j e, errHead := s.errHead + 1,
             errLost := if old.sev != 0 && !old.seen then s.errLost + 1 else s.errLost, turn := s.turn + 1 }

/-- Partition-physical address of a place (R379, R424). -/
def paOf (p : Nat) : Word := BitVec.ofNat 64 (p % 2 ^ 48)

/-- Log the use of a poisoned line (R423, R424). -/
def State.logPoison (s : State) (part p : Nat) : State :=
  s.logError 2 (s.unitOf p) (BitVec.ofNat 8 part) (paOf (p / 64 * 64))

end Sys2Proof.Machine
end

