-- ==== Sys2Proof/Machine/Ops.lean ====
section
/-!
DEFINITION. The operations every instruction is built from: fetching and code lines (R148 to R151), the window ring
(R143), taking a trap (R347, R351), issue and retirement with the delay slot (R162, R169, R170, R344).
-/

namespace Sys2Proof.Machine

/-! ### Code lines -/

/-- The header of line l of a core's instruction buffer (R148). -/
def State.lineHeader (s : State) (c l : Nat) : Nat := s.natAt (codePlace c (128 * l)) 8

/-- The word at a code offset. -/
def State.codeWord (s : State) (c off : Nat) : Half := BitVec.ofNat 32 (s.natAt (codePlace c off) 4)

/-- KIND of a line header. -/
def hdrKind (h : Nat) : Nat := h / 2 ^ 60 % 16

/-- START bit of word i. -/
def hdrStart (h i : Nat) : Bool := h / 2 ^ i % 2 == 1

/-- TGT bit of word i. -/
def hdrTgt (h i : Nat) : Bool := h / 2 ^ (30 + i) % 2 == 1

/-- Word index of a code offset in its line; none for an offset that is no word (R148). -/
def wordIndex (off : Nat) : Option Nat :=
  let o := off % 128
  if 8 ≤ o && o % 4 == 0 then some ((o - 8) / 4) else none

/-- Words i to 29 are padding: zero, with clear start and target bits (R150). -/
def paddingFrom (h : Nat) (w : Nat → Half) (i : Nat) : Bool :=
  (List.range 30).all fun j => decide (j < i) || (w j == 0 && !hdrStart h j && !hdrTgt h j)

/-- Words of the instruction that starts at word i: the length its format fixes (R150); a word of no assigned major has
no length and runs to the next start bit. -/
def instrWords (h : Nat) (w : Nat → Half) (i : Nat) : Nat :=
  match lengthOf (Word0.of (w i)) with
  | 0 => (((List.range 30).find? fun j => decide (i < j) && hdrStart h j).getD 30) - i
  | n => n

/-- START agrees with the instruction lengths from word i on (R150). -/
def startsAgree (h : Nat) (w : Nat → Half) : Nat → Nat → Bool
  | 0, _ => true
  | fuel + 1, i =>
    let n := instrWords h w i
    hdrStart h i && decide (i + n ≤ 30)
      && ((List.range n).all fun k => k == 0 || !hdrStart h (i + k))
      && (i + n == 30 || (if hdrStart h (i + n) then startsAgree h w fuel (i + n) else paddingFrom h w (i + n)))

/-- A line may be fetched (R149, R150). -/
def lineOk (h : Nat) (w : Nat → Half) : Bool :=
  (hdrKind h == 1 || hdrKind h == 2) && startsAgree h w 30 0
    && ((List.range 30).all fun i => !hdrTgt h i || hdrStart h i)

/-- Line l of a core may be fetched. -/
def State.lineGood (s : State) (c l : Nat) : Bool :=
  lineOk (s.lineHeader c l) fun i => s.codeWord c (128 * l + 8 + 4 * i)

/-- Outcome of a fetch. -/
inductive Fetched where
  | ok (i : Instr)
  /-- ILLEGAL_OP with word 0 of the instruction -/
  | illegal (word : Word)
  deriving DecidableEq, Repr

/-- The instruction at a code offset (R148 to R150, R161). Beyond the buffer there is no word 0: TINFO is a free
value. -/
def State.fetch (s : State) (c pc : Nat) : Fetched :=
  match (if pc < 0x40000 then wordIndex pc else none) with
  | none => .illegal (Config.freeWord s.turn)
  | some i =>
    let w := s.codeWord c pc
    if s.lineGood c (pc / 128) && hdrStart (s.lineHeader c (pc / 128)) i then
      match decodeWords w (s.codeWord c (pc + 4)) (s.codeWord c (pc + 8)) (s.codeWord c (pc + 12)) with
      | .ok x => .ok x
      | .error _ => .illegal (w.zeroExtend 64)
    else .illegal (w.zeroExtend 64)

/-- NEXT: the code offset after an instruction of n words at pc (R150, R168). -/
def State.nextPc (s : State) (c pc n : Nat) : Nat :=
  let i := (pc % 128 - 8) / 4 + n
  if i < 30 && hdrStart (s.lineHeader c (pc / 128)) i then pc + 4 * n else (pc / 128 + 1) * 128 + 8

/-- The two form rules of R151 for a code offset. -/
def targetForm (t : Word) : Bool := decide (t.toNat < 0x40000) && (wordIndex t.toNat).isSome

/-- A transfer may arrive at t: its form is right and its target bit is set (R151). -/
def State.targetOk (s : State) (c : Nat) (t : Word) : Bool :=
  targetForm t && (match wordIndex t.toNat with
    | some i => hdrTgt (s.lineHeader c (t.toNat / 128)) i
    | none => false)

/-- t is word 0 of an entry line (R149). -/
def State.entryLine (s : State) (c : Nat) (t : Word) : Bool :=
  decide (t.toNat < 0x40000) && t.toNat % 128 == 8 && hdrKind (s.lineHeader c (t.toNat / 128)) == 2

/-- A resume address RETT accepts: form and start bit (R151). -/
def State.resumeOk (s : State) (c : Nat) (t : Word) : Bool :=
  targetForm t && (match wordIndex t.toNat with
    | some i => hdrStart (s.lineHeader c (t.toNat / 128)) i
    | none => false)

/-! ### Registers an instruction waits for (R169) -/

/-- Scoreboard key of an integer register seen from a window; g0 is no register. -/
def keyX (wp : Nat) : XReg → List Nat
  | .w i => [ringIndex wp i.val]
  | .g i => if i = 0 then [] else [256 + i.val]
/-- Key of a vector register. -/
def keyV (v : VReg) : List Nat := [512 + v.val]
/-- Key of a predicate register; p0 is no register. -/
def keyP (p : PReg) : List Nat := if p = 0 then [] else [1024 + p.val]
/-- Key of the sticky flags. -/
def keyFlags : Nat := 2000
/-- Key of the tile engine: descriptors read by an unfinished LDT. -/
def keyD (d : DReg) : List Nat := [1040 + d.val]

/-- Destination registers of an unfinished instruction. -/
def Entry.dests (e : Entry) : List Nat :=
  match e.op with
  | .int _ d | .toX d _ | .flags d _ _ _ | .load _ _ d | .atomic _ _ d | .rowOpen d => keyX e.wpe d
  | .vec d _ _ _ _ | .ins d _ | .ldv d => keyV d
  | .pred d _ _ => keyP d
  | .ldt d r _ _ _ => [1040 + d.val, 1040 + r.val]
  | .store _ | .stv _ | .fence _ => []

/-- The entry only marks a fence. -/
def Entry.isFence (e : Entry) : Bool := match e.op with | .fence _ => true | _ => false

/-- The entry reads memory (R124). -/
def Entry.isLoad (e : Entry) : Bool :=
  match e.op with | .load .. | .ldv _ | .atomic .. | .ldt .. => true | _ => false

/-- The entry writes memory (R124). -/
def Entry.isStore (e : Entry) : Bool :=
  match e.op with | .store _ | .stv _ | .atomic .. | .ldt .. => true | _ => false

/-- The entry is an issued store or atomic, which no trap captures (R348). -/
def Entry.stays (e : Entry) : Bool :=
  match e.op with | .store _ | .stv _ | .atomic .. | .fence _ => true | _ => false

/-- Instructions issued and unfinished (R169). -/
def Context.unfinished (c : Context) : Nat := (c.fly.filter fun e => !e.isFence).length

/-- VCVT with OV = TRAP: later instructions do not issue before it completes (R191). -/
def Entry.holdsIssue (e : Entry) : Bool :=
  match e.words with
  | a :: b :: _ =>
    match decodeWords a b 0 0 with
    | .ok (.vcvt _ _ _ _ ov _ _) => ov == .trap
    | _ => false
  | _ => false

/-- A register named is the destination of an unfinished instruction, eight are unfinished (R169), or one holds the
issue of later instructions (R191). -/
def Context.hazard (c : Context) (keys : List Nat) : Bool :=
  decide (Config.maxInFlight ≤ c.unfinished) || (keys.any fun k => c.fly.any fun e => e.dests.contains k)
    || c.fly.any Entry.holdsIssue

/-! ### Order of performing (R120, R124, R126, R141) -/

/-- Two runs of bytes share a byte. -/
def Span.meets (a b : Span) : Bool := decide (a.place < b.place + b.n) && decide (b.place < a.place + a.n)

/-- Two instructions touch a common byte, at least one of them a write or both reads (R124). -/
def Entry.overlaps (a b : Entry) : Bool := a.spans.any fun x => b.spans.any fun y => x.meets y

/-- A fence of a mask stands between an earlier and a later access (R126). -/
def fenceBits (kind : BitVec 4) (a b : Entry) : Bool :=
  (kind.getLsbD 0 && a.isLoad && b.isLoad) || (kind.getLsbD 1 && a.isLoad && b.isStore)
    || (kind.getLsbD 2 && a.isStore && b.isLoad) || (kind.getLsbD 3 && a.isStore && b.isStore)

/-- The order has an acquire half. -/
def ordAcq : Order → Bool
  | .acq | .acqRel => true
  | _ => false

/-- The order has a release half. -/
def ordRel : Order → Bool
  | .rel | .acqRel => true
  | _ => false

/-- A plain store before a load of the same bytes: the load takes the store's bytes (R122). Not from a power or health
register: the space is uncached, and reads what the register makes of a write (R406). -/
def Entry.forwards (a b : Entry) : Bool :=
  !(b.spans.any fun x => isReg x.place) && (match a.op with | .store _ | .stv _ => true | _ => false) && (match b.op with | .load .. | .ldv _ => true | _ => false)

/-- R124 orders a before b, a being earlier, with fences of the listed kinds between them. -/
def Entry.before (fstr : Bool) (a b : Entry) (kinds : List (BitVec 4)) : Bool :=
  (a.isLoad || a.isStore) && (b.isLoad || b.isStore)
    && (fstr || (a.overlaps b && !a.forwards b) || (a.isLoad && ordAcq a.ord) || (b.isStore && ordRel b.ord)
        || kinds.any fun k => fenceBits k a b)

/-- Some entry of a list of earlier entries must perform before b. -/
def blockedBy (fstr : Bool) (b : Entry) : List Entry → Bool
  | [] => false
  | a :: rest =>
    a.before fstr b (rest.filterMap fun e => match e.op with | .fence k => some k | _ => none)
      || blockedBy fstr b rest

/-- a stands before b in program order. A captured instruction of the task executes again after what its handler has
issued (R349). -/
def Entry.ahead (a b : Entry) : Bool := decide (a.seq < b.seq) && (a.hand || !b.hand)

/-- An entry in its place in program order among others. -/
def Entry.placeIn (e : Entry) : List Entry → List Entry
  | [] => [e]
  | x :: xs => if e.ahead x then e :: x :: xs else x :: e.placeIn xs

/-- Entries, oldest first, in their places among others. -/
def placeAll (es into : List Entry) : List Entry := es.foldl (fun into e => e.placeIn into) into

/-- Captured instructions that stand before an entry in program order. -/
def Context.captured (c : Context) (b : Entry) : List Entry := (c.rq ++ c.susp).filter fun a => a.ahead b

/-- The entry stands after a captured instruction. -/
def Context.holds (c : Context) (b : Entry) : Bool := !(c.captured b).isEmpty

/-- b may perform after the given earlier entries and the captured instructions that stand before it. -/
def Context.mayPerform (c : Context) (fstr : Bool) (b : Entry) (earlier : List Entry) : Bool :=
  !blockedBy fstr b (placeAll (c.captured b) earlier)

/-- Fences with nothing left before them are done. -/
def Context.trim (c : Context) : List Entry → List Entry
  | [] => []
  | e :: rest => if e.isFence && !c.holds e then c.trim rest else e :: rest

/-! ### The window ring (R143) -/

/-- What keeps the racking engine from a group. -/
inductive RackStop where
  /-- the spill area does not reach there, or has no mapping: the address -/
  | fail (a : Word)
  /-- a wait with a reason of R356 -/
  | wait (code : Nat)
  /-- the scratchpad bank of a place must be exchanged first (R354) -/
  | away (p : Nat)
  /-- a poisoned table line: its partition-physical address (R428) -/
  | poison (pa : Word)
  deriving DecidableEq, Repr

/-- Outcome of moving one group of 24 registers. -/
inductive RackRes where
  | ok (s : State)
  /-- the group must wait, with a reason of R356 -/
  | wait (s : State) (code : Nat)
  /-- the spill area does not reach there, or has no mapping: the address -/
  | fail (a : Word)
  /-- poisoned bytes would be read: their place -/
  | poison (p : Nat)

/-- The place of one 8-byte access of the racking engine; a missing translation is walked for at once and makes no
fault record (R387). -/
def State.rackPlace (s : State) (core : Nat) (t : Task) (a : Word) (kind : AccKind) : Chk :=
  match s.checkAccess core t a 8 8 kind with
  | .miss va =>
    match s.walk t.part t.ctx va with
    | .leaf e base _ _ => s.leafChk t a.toNat e base kind
    | .poison p => .trap cMachineCheck (paOf p)
    | .invalid => .trap cTranslation a
    | .prot => .trap cProtection a
  | r => r

/-- Places of a group's addresses, or the first that fails. -/
def State.rackPlaces (s : State) (core : Nat) (t : Task) (limit : Word) (kind : AccKind) :
    List Word → Except RackStop (List Nat)
  | [] => .ok []
  | a :: as =>
    if limit.toNat ≤ a.toNat then .error (.fail a)
    else
      match s.rackPlace core t a kind with
      | .ok p =>
        match s.rackPlaces core t limit kind as with
        | .ok ps => .ok (p :: ps)
        | .error e => .error e
      | .wait code => .error (.wait code)
      | .away p => .error (.away p)
      | .trap cause i => if cause = cMachineCheck then .error (.poison i) else .error (.fail a)
      | .miss _ => .error (.fail a)

/-- Logical positions of a group as a list of registers to store, oldest first. -/
def Context.group (c : Context) (pos : Nat) : List Word :=
  (List.range 24).map fun k => Sparse.get 0 c.ring ((pos + k) % 256)

/-- Put 24 values at a logical position. -/
def Context.putGroup (c : Context) (pos : Nat) (vs : List Word) : Context :=
  let put (r : Sparse Word) (k : Nat) : Sparse Word := r.set ((pos + k) % 256) (vs.getD k 0)
  { c with ring := (List.range 24).foldl put c.ring }

/-- The runs of neighbouring host bytes among the 8-byte places of a group: place and length of each (R138). -/
def hostRuns (ps : List Nat) : List (Nat × Nat) :=
  ps.foldl (fun rs p =>
    if p < hostMark then rs
    else
      match rs.getLast? with
      | some r => if r.1 + r.2 == p then rs.dropLast ++ [(r.1, r.2 + 8)] else rs ++ [(p, 8)]
      | none => [(p, 8)]) []

/-- The run that has still to be asked for once k bytes have come. -/
def nextRun : List (Nat × Nat) → Nat → Option (Nat × Nat)
  | [], _ => none
  | r :: rs, k => if k < r.2 then some r else nextRun rs (k - r.2)

/-- Write the group to its places; what lies with the host travels as a DEV_WRITE for each run (R138). -/
def State.spillTo (s : State) (part : Nat) (ps : List Nat) (vs : List Word) : State :=
  let s1 := (ps.zip vs).foldl (fun s e => if hostMark ≤ e.1 then s else s.writeNat e.1 e.2.toNat 8) s
  let far := (ps.zip vs).filter fun e => decide (hostMark ≤ e.1)
  let bytes := far.flatMap fun e => bytesOf e.2.toNat 8
  ((hostRuns ps).foldl (fun (x : State × List Byte) r =>
    (x.1.emit part memChan mtDevWrite (BitVec.ofNat 96 (r.1 % 2 ^ 48)) (x.2.take r.2), x.2.drop r.2)) (s1, bytes)).1

/-- Values of the group from its places, those of the host from the bytes that have come. -/
def State.fillFrom (s : State) : List Nat → List Byte → List Word
  | [], _ => []
  | p :: ps, got =>
    if hostMark ≤ p then
      BitVec.ofNat 64 ((List.range 8).foldl (fun v j => v + (got.getD j 0).toNat * 256 ^ j) 0) :: s.fillFrom ps (got.drop 8)
    else BitVec.ofNat 64 (s.natAt p 8) :: s.fillFrom ps got

/-- Logical position of the window register an unfinished instruction will write. -/
def Entry.destPos (e : Entry) : Option Nat :=
  match e.op with
  | .int _ (.w i) | .toX (.w i) _ | .flags (.w i) _ _ _ | .load _ _ (.w i) | .atomic _ _ (.w i) | .rowOpen (.w i) =>
    some (e.wpe + i.val)
  | _ => none

/-- An instruction of a list will write a register of the group at a logical position. -/
def destIn (es : List Entry) (pos : Nat) : Bool :=
  es.any fun e => match e.destPos with | some n => decide (pos ≤ n) && decide (n < pos + 24) | none => false

/-- An access of a cluster member to another member's scratchpad sets the bits of all live members (R21). -/
def State.markRemote (s : State) (core : Nat) (t : Task) (a : Nat) : State :=
  match windowOf a with
  | .member m =>
    if t.clustered && groupBase core + m != core then
      (List.range 4).foldl (fun s k =>
        let j := groupBase core + k
        if s.member core t k then s.setBank j { s.bank j with remote := true } else s) s
    else s
  | _ => s

/-- The access of the racking engine as an access of the task, after all it has issued (R130). -/
def Context.rackEntry (c : Context) (spill : Bool) (ps : List Nat) : Entry :=
  { op := if spill then .store 8 else .load 8 false (.g 0), pc := c.pc, words := [], cause := 0, opa := 0, opb := 0, opc := 0,
    addr := 0, wpe := c.wp, ord := .plain, scope := .core, spans := ps.map fun p => ⟨p, 8, spill⟩, seq := c.issued,
    hand := c.trapst, msg := 0, got := [] }

/-- Move one group of 24 registers between the ring and the spill area (R143, R130). The engine waits for the instructions
of a list that R124 orders before its access or that touch its bytes, and a spill for results its registers still await. -/
def State.rackGroup (s : State) (core : Nat) (t : Task) (spill : Bool) (earlier : List Entry) : RackRes :=
  let c := s.bank core
  let pos := if spill then c.lo else c.lo - 24
  let addrs := (List.range 24).map fun k => c.rkbase + BitVec.ofNat 64 (8 * (pos + k))
  match s.rackPlaces core t c.rklimit (if spill then .store else .load) addrs with
  | .error (.fail a) => .fail a
  | .error (.poison i) => .poison i.toNat
  | .error (.wait code) => .wait s code
  | .error (.away p) => .wait (s.touch p) wRacking
  | .ok ps =>
    let e := c.rackEntry spill ps
    let s0 := addrs.foldl (fun s a => s.markRemote core t a.toNat) s
    if (spill && destIn c.fly pos) || (earlier.any fun a => a.overlaps e)
        || !c.mayPerform ((s.ctxInfo t.part t.ctx).fstr) e earlier then .wait s wRacking
    else if spill then
      let s1 := s0.spillTo t.part ps (c.group pos)
      .ok (s1.setBank core { s1.bank core with lo := c.lo + 24 })
    else
      match nextRun (hostRuns ps) c.fillData.length with
      | some r =>
        if c.fillMsg = 0 then
          let m := s.sendMem t.part mtDevRead (BitVec.ofNat 96 (r.1 % 2 ^ 48 + r.2 * 2 ^ 64)) []
          .wait (m.1.setBank core { m.1.bank core with fillMsg := m.2 }) wRacking
        else .wait s wRacking
      | none =>
        match ps.find? fun p => decide (p < hostMark) && s.poisoned p 8 with
        | some p => .poison (paOf (p / 64 * 64)).toNat
        | none =>
          let c1 := (s0.bank core).putGroup pos (s.fillFrom ps c.fillData)
          .ok (s0.setBank core { c1 with lo := c.lo - 24, fillMsg := 0, fillData := [] })

/-- Spill groups until a window at wp fits the ring: WP + 32 - LO <= 256 (R143). -/
def State.spillUntil (s : State) (core : Nat) (t : Task) (wp : Nat) (earlier : List Entry) : Nat → RackRes
  | 0 => .ok s
  | fuel + 1 =>
    if wp + 32 - (s.bank core).lo ≤ 256 then .ok s
    else
      match s.rackGroup core t true earlier with
      | .ok s1 => s1.spillUntil core t wp earlier fuel
      | r => r

/-! ### Traps (R342 to R351) -/

/-- DXFER code of a window move (R346). -/
def Move.code : Move → BitVec 2
  | .none => 0
  | .call => 1
  | .ret => 2

/-- Window move of a DXFER code; 11 is never stored (R346). -/
def moveOf (b : BitVec 2) : Move := if b == 1 then .call else if b == 2 then .ret else .none

/-- Capture every unfinished instruction other than a store or atomic, oldest first (R347, R348): the captured entries
and those that stay. -/
def captureFly (fly : List Entry) : List Entry × List Entry :=
  ((fly.filter fun e => !e.stays).map fun e => { e with msg := 0, got := [] }, fly.filter Entry.stays)

/-- The task stops: it issues nothing and the driver is told (R351, R432). -/
def State.stopTask (s : State) (core : Nat) : State :=
  let s1 := s.setBank core { s.bank core with stopped := true, wait := 0, retry := false, idle := none, atBound := false, resuming := false }
  s1.event (s1.partOf core) 3 (s1.stopRecord core)

/-- The frame of a trap, from the last one (R346, R347). -/
def TrapArg.frame (a : TrapArg) (last : Frame) (twp : Nat) : Frame :=
  { cause := BitVec.ofNat 8 a.cause, dxfer := if a.dslot then a.dxfer.code else 0, async := a.async, dslot := a.dslot,
    fab := a.fab, handle := a.handle, copy := a.copy, tpc := BitVec.ofNat 64 (a.tpc % 2 ^ 18),
    ttgt := if a.dslot then BitVec.ofNat 64 a.ttgt else last.ttgt, tinfo := a.info, twp := BitVec.ofNat 64 twp }

/-- TVEC.EN (R346). -/
def Context.handlerOn (c : Context) : Bool := c.tvec.getLsbD 63

/-- TVEC.ENTRY (R346). -/
def Context.handlerEntry (c : Context) : Word := c.tvec &&& 0x3FFFF

/-- Causes that always go to the driver (R342). -/
def driverCause (cause : Nat) : Bool := cause == cMachineCheck || cause == cWatchdog

/-- A code offset among the lines that stand for a Sornen function: which of them stands for an operation is not stated
(R307; log 33). -/
def Strip.place (x : Strip) (turn : Nat) : Nat :=
  128 * (x.first + Config.choose turn % max 1 x.nlines) + 8 + 4 * (Config.choose (turn + 1) % 30)

/-- Taking a trap (R347): captured entries, frame, window and entry point, or a stop. A window move that must wait for a
scratchpad bank or a row leaves a synchronous trap owed; one that meets a poisoned line is a trap entry that fails, and the
error is logged (R347, R428; log 73), and only a MACHINE_CHECK comes before it then (R344). A MACHINE_CHECK of a command-processor core stops no task: it
waits for the take-over (R351, R396). -/
def State.takeTrap (s : State) (core : Nat) (t : Task) (a : TrapArg) : State :=
  let c := s.bank core
  if Config.cpCore ≤ core && a.cause == cMachineCheck then
    let m : Async := ⟨BitVec.ofNat 8 cMachineCheck, false, 0, false, a.info, true⟩
    if c.asyncs.contains m then s else s.setBank core { c with asyncs := c.asyncs ++ [m] }
  else if c.trapst then
    (s.setBank core { c with cause2 := BitVec.ofNat 8 a.cause, xfer := none, owed := none }).stopTask core
  else
    let cap := captureFly c.fly
    let held := c.strip.map fun x => { x with tpc := x.place s.turn }
    let arg := match held with | some x => { a with tpc := x.tpc } | none => a
    let framed (b : Context) : Context :=
      let b1 : Context :=
        { b with rq := b.rq ++ cap.1, frame := arg.frame c.frame c.wp, xfer := none, wait := 0, retry := false,
                 owed := if a.async then b.owed else none, idle := none, atBound := false, walkTrap := none, cause2 := 0, strip := none, stripHeld := held,
                 fillMsg := 0, fillData := [] }
      { b1 with fly := b1.trim cap.2 }
    if a.driver || driverCause a.cause || !c.handlerOn || !s.entryLine core c.handlerEntry then
      (s.setBank core (framed c)).stopTask core
    else
      match s.spillUntil core t (c.wp + 48) cap.2 11 with
      | .ok s1 =>
        let b := framed (s1.bank core)
        s1.setBank core { b with trapst := true, wp := b.wp + 48, pc := b.handlerEntry.toNat }
      | .wait s1 code =>
        let b := s1.bank core
        s1.setBank core { b with wait := BitVec.ofNat 4 code, retry := false, owed := if a.async then b.owed else some a }
      | .poison p => ((s.logPoison t.part p).setBank core { framed c with trapst := true }).stopTask core
      | _ => (s.setBank core { framed c with trapst := true }).stopTask core

/-- A synchronous trap of the instruction at issue, resuming at tpc; in a delay slot the transfer is recorded (R162,
R347). nx is the code offset after the instruction. -/
def State.syncTrap (s : State) (core : Nat) (t : Task) (cause : Nat) (info : Word) (tpc nx : Nat) : State :=
  let x := (s.bank core).xfer
  let ttgt : Nat := match x with | some y => if y.taken then y.target.toNat else nx | none => 0
  let mv : Move := match x with | some y => y.move | none => .none
  s.takeTrap core t ⟨cause, info, tpc, false, false, 0, false, false, x.isSome, ttgt, mv⟩

/-! ### Issue and retirement -/

/-- What the checks and effect of an instruction at issue come to. -/
inductive Res where
  /-- its effect is made; the program goes on at NEXT -/
  | done (s : State)
  /-- its effect is made; a transfer stands until the delay slot completes -/
  | jump (s : State) (x : Xfer)
  /-- everything is done, the program counter included; urgent: ahead of asynchronous events (END, R344) -/
  | final (s : State) (urgent : Bool)
  /-- a synchronous trap that resumes at the instruction -/
  | trap (s : State) (cause : Nat) (info : Word)
  /-- a synchronous trap that resumes at NEXT -/
  | trapNext (cause : Nat) (info : Word)
  /-- it waits with a reason of R356 -/
  | wait (s : State) (code : Nat)
  /-- it waits for an unfinished instruction, reason NONE (R169) -/
  | stall

/-- Instructions a delay slot may not hold (R162). -/
def noSlot : Instr → Bool
  | .bez .. | .bnz .. | .bltz .. | .bgez .. | .jmp _ | .call _ | .jr _ | .callr _ | .ret | .rett | .trap _ | .endTask _ => true
  | _ => false

/-- Word 0 of an instruction, as ILLEGAL_OP records it (R342). -/
def word0 (i : Instr) : Word := ((encode i).headD 0).zeroExtend 64

/-- Words of an instruction. -/
def words (i : Instr) : Nat := (encode i).length

/-- A boundary at which asynchronous events are taken: not between a transfer and its slot (R344). -/
def Context.boundary (c : Context) : Bool := c.xfer.isNone

/-- An asynchronous trap that may be taken now (R344, R360). -/
def Context.asyncDue (c : Context) : Bool := c.boundary && !c.trapst && !c.asyncs.isEmpty

/-- A MACHINE_CHECK is among the asynchronous traps that may be taken now. -/
def Context.checkDue (c : Context) : Bool := c.asyncDue && c.asyncs.any fun a => a.cause.toNat == cMachineCheck

/-- An asynchronous trap or a pre-emption comes before the next instruction issues (R344). -/
def State.interrupted (s : State) (core : Nat) : Bool :=
  (s.bank core).asyncDue || ((s.core core).preq && (s.bank core).boundary)

/-- The core has power: its die is neither gated nor waking (R410, R411), and its cluster is neither gated nor on its way
(R414). -/
def State.powered (s : State) (core : Nat) : Bool :=
  let d := s.die (core / 32)
  let k := Sparse.get Cluster.reset d.clusters (core % 32 / 4)
  decide (Config.computeCores ≤ core) || (!(d.st == .gated || d.st == .waking) && (k.st == .on || k.st == .pend))

/-- A live member of the cluster of a core's task is not resident: its context stands in a second bank or in a save
record, or its bank is being exchanged (R19). -/
def State.apart (s : State) (core : Nat) : Bool :=
  match (s.bank core).task with
  | none => false
  | some t => t.clustered && (List.range 4).any fun j =>
      let k := s.core (groupBase core + j)
      let mate := t.serial - core % 4 + j
      k.other.isChain mate || (k.swapping && k.bank.isChain mate)
        || (Sparse.get [] s.saved (groupBase core + j)).any fun c => c.isChain mate

/-- A task on a core issues: it is not stopped, waiting or being exchanged, the core has power, and every live member of
its cluster is resident (R19). -/
def State.issuing (s : State) (core : Nat) : Bool :=
  let b := s.bank core
  !b.stopped && (b.wait == 0 || b.retry) && !(s.core core).swapping && s.powered core && !s.apart core

/-- The instruction has issued: the watchdog count returns to 0 (R359) and control passes on, through a completed delay
slot to the target of its transfer (R151, R162, R186, R187). A target of RETT that fails stops the task as a trap in trap
state does, with the frame as it was (R220, R360; log 60). -/
def State.retire (s : State) (core : Nat) (t : Task) (nx : Nat) : State :=
  let c := { s.bank core with wdcnt := 0, wait := 0, retry := false, atBound := false, walkTrap := none }
  match c.xfer with
  | none => s.setBank core { c with pc := nx }
  | some x =>
    let c1 := { c with xfer := none, pc := nx }
    if !x.taken then s.setBank core c1
    else if s.targetOk core x.target && (x.move != .call || s.entryLine core x.target) then
      let c2 : Context :=
        match x.move with
        | .none => c1
        | .call => { c1 with wp := c1.wp + 24 }.setXAt (c1.wp + 24) (.w 8) (BitVec.ofNat 64 nx)
        | .ret => { c1 with wp := c1.wp - 24 }
      s.setBank core { c2 with pc := x.target.toNat }
    else if x.rett then (s.setBank core { c1 with trapst := true }).syncTrap core t cBadTarget x.target nx nx
    else (s.setBank core c1).syncTrap core t cBadTarget x.target nx nx

/-- A transfer has issued: its delay slot is next (R162). -/
def State.retireJump (s : State) (core : Nat) (nx : Nat) (x : Xfer) : State :=
  s.setBank core { s.bank core with wdcnt := 0, wait := 0, retry := false, atBound := false, walkTrap := none, pc := nx, xfer := some x }

/-- The instruction at issue was checked and does not trap, but an asynchronous event comes first (R344). -/
def State.markBound (s : State) (core : Nat) : State := s.setBank core { s.bank core with atBound := true }

/-- The instruction at issue waits with a reason of R356. NONE, a wait for the scoreboard, resets the watchdog count
(R359). -/
def State.showWait (s : State) (core code : Nat) : State :=
  let b := s.bank core
  s.setBank core { b with wait := BitVec.ofNat 4 code, retry := false, wdcnt := if code = 0 then 0 else b.wdcnt }

/-- Carry out the outcome of an instruction's checks and effect (R344). -/
def State.settle (s : State) (core : Nat) (t : Task) (i : Instr) (r : Res) : State :=
  let pc := (s.bank core).pc
  let nx := s.nextPc core pc (words i)
  match r with
  | .trap s1 cause info => s1.syncTrap core t cause info pc nx
  | .trapNext cause info => s.syncTrap core t cause info nx nx
  | .wait s1 code => s1.showWait core code
  | .stall => if s.interrupted core then s.markBound core else s.showWait core 0
  | .final s1 true => s1
  | .final s1 false => if s.interrupted core then s.markBound core else s1
  | .done s1 => if s.interrupted core then s.markBound core else s1.retire core t nx
  | .jump s1 x => if s.interrupted core then s.markBound core else s1.retireJump core nx x

/-- The callee's window does not fit the ring (R186). -/
def Context.callRacks (c : Context) : Bool := decide (256 < c.wp + 24 + 32 - c.lo)

/-- The caller's window is not in the ring (R187). -/
def Context.retRacks (c : Context) : Bool := decide (c.wp - 24 < c.lo)

/-- The window move due after the slot at issue needs a spill, a fill, or neither (R143, R220). -/
def Context.slotRacks (c : Context) : Option Bool :=
  match c.xfer with
  | some x =>
    if !x.taken then none
    else
      match x.move with
      | .none => none
      | .call => if c.callRacks then some true else none
      | .ret => if c.retRacks then some false else none
  | none => none

/-- Scoreboard key of the callee's w8, which a call writes as control reaches its target (R186). -/
def keyCallee (c : Context) : List Nat := [ringIndex c.wp 32]

/-- Registers the instruction at issue needs free: in the slot of a call, the callee's w8 with its own (R162, R169). -/
def Context.slotKeys (c : Context) (keys : List Nat) : List Nat :=
  match c.xfer with
  | some x => if x.move == .call then keyCallee c ++ keys else keys
  | none => keys

/-- The trap whose entry has waited and is taken before the instruction at issue (R344, R347); not while the command
processor performs RETT for a task that a MACHINE_CHECK stopped before it. -/
def Context.due (c : Context) : Option TrapArg := if c.resuming then none else c.owed

/-- Issue an instruction on core cur: nothing happens where the core issues nothing, or where the instruction has been
checked at this boundary and an asynchronous event comes first (R25, R344); ILLEGAL_OP checks come first
(R161, R162, R168); then the instruction waits for the racking engine and the registers it names (R143, R169); then its
own checks and effect. -/
def issue (i : Instr) (keys : Context → List Nat) (body : State → Task → Res) (s : State) : State :=
  let c := s.ctx
  match c.task with
  | none => s
  | some t =>
    if !s.issuing s.cur || (c.atBound && s.interrupted s.cur) then s
    else if c.checkDue then s.markBound s.cur
    else
      match c.due with
      | some a => s.takeTrap s.cur t a
      | none =>
        if !i.wf || (c.xfer.isSome && noSlot i) then s.settle s.cur t i (.trap s cIllegal (word0 i))
        else if c.slotRacks.isSome then s.settle s.cur t i (.wait s wRacking)
        else if c.hazard (c.slotKeys (keys c)) then s.settle s.cur t i .stall
        else s.settle s.cur t i (body s t)

/-- NEXT of a word that is no instruction: as the start bits of its line have it (R150, R162). -/
def State.nextAny (s : State) (c pc : Nat) : Nat :=
  match wordIndex pc with
  | none => pc
  | some i => s.nextPc c pc (instrWords (s.lineHeader c (pc / 128)) (fun k => s.codeWord c (pc / 128 * 128 + 8 + 4 * k)) i)

/-- ILLEGAL_OP of a word that is no instruction (R161). -/
def State.fetchTrap (s : State) (core : Nat) (word : Word) : State :=
  match (s.bank core).task with
  | none => s
  | some t =>
    if !s.issuing core then s
    else if (s.bank core).checkDue then s.markBound core
    else
      match (s.bank core).due with
      | some a => s.takeTrap core t a
      | none => s.syncTrap core t cIllegal word (s.bank core).pc (s.nextAny core (s.bank core).pc)

/-! ### Memory accesses at issue -/

/-- Ask for the page walk of an address on behalf of an agent: all misses of one context on one page share one walk
(R385). -/
def State.needWalk (s : State) (part ctx va : Nat) (kind : AccKind) (g : Agent) : State :=
  let page := va / 2 ^ 19
  if s.walks.any fun w => w.part == part && w.ctx == ctx && w.va / 2 ^ 19 == page then
    { s with walks := s.walks.map fun w =>
        if w.part == part && w.ctx == ctx && w.va / 2 ^ 19 == page && !w.agents.contains g then
          { w with agents := w.agents ++ [g] } else w }
  else { s with walks := s.walks ++ [⟨part, ctx, va, kind, [g]⟩] }

/-- The checks of an access of the instruction at issue, ending in a place or in an outcome of issue (R121, R170,
R343). -/
def State.place (s : State) (t : Task) (a : Word) (n u : Nat) (kind : AccKind) (k : State → Nat → Res) : Res :=
  match s.checkAccess s.cur t a n u kind with
  | .trap cause info => .trap s cause info
  | .wait code => .wait s code
  | .away p => .wait (s.touch p) wRacking
  | .miss va =>
    match s.ctx.walkTrap with
    | some (cause, v, info) =>
      if v / 2 ^ 19 == va / 2 ^ 19 then .trap s cause (if cause == cMachineCheck then info else a)
      else .wait (s.needWalk t.part t.ctx va kind (.instr s.cur)) wTranslation
    | none => .wait (s.needWalk t.part t.ctx va kind (.instr s.cur)) wTranslation
  | .ok p => k (s.markRemote s.cur t a.toNat) p

/-- An earlier own store that has not performed covers the whole of a line: it will clear the line's mark (R427). -/
def coversLine (earlier : List Entry) (l : Nat) : Bool :=
  earlier.any fun e => e.isStore && e.spans.any fun x => x.wr && decide (x.place ≤ 64 * l) && decide (64 * l + 64 ≤ x.place + x.n)

/-- A poisoned line that an access after the given earlier entries would use: its place (R122, R423). -/
def State.poisonPast (s : State) (earlier : List Entry) (xs : List Span) : Option Nat :=
  let lines := xs.flatMap fun x => if x.place < hostMark then linesOf x.place x.n else []
  (lines.find? fun l => s.poisoned (64 * l) 1 && !coversLine earlier l).map (64 * ·)

/-- A load or atomic that would use poisoned bytes raises MACHINE_CHECK (R423). -/
def State.clean (s : State) (t : Task) (xs : List Span) (k : State → Res) : Res :=
  match s.poisonPast s.ctx.fly xs with
  | some p => .trap (s.logPoison t.part p) cMachineCheck (paOf p)
  | none => k s

/-- Checks of an access of n bytes in one page, poison included. -/
def State.access (s : State) (t : Task) (a : Word) (n u : Nat) (kind : AccKind) (k : State → Nat → Res) : Res :=
  s.place t a n u kind fun s1 p =>
    if kind == .load || kind == .atomic then s1.clean t [⟨p, n, false⟩] fun s2 => k s2 p else k s1 p

/-- Rank of an outcome of a check in the order of R121. -/
def Chk.rank : Chk → Nat
  | .trap c _ => if c = cTranslation then 0 else if c = cRowConflict then 3 else 2
  | .miss _ => 1
  | .wait _ => 4
  | .away _ => 4
  | .ok _ => 5

/-- Checks of the sixteen lanes of LDV or STV as one access (R178). The 64 bytes may lie on two pages: of the outcomes of
both, the one whose check comes first counts (R121), and a trap records the address of the access (R342). -/
def State.access16 (s : State) (t : Task) (a : Word) (kind : AccKind) (k : State → List Span → Res) : Res :=
  let wr := kind == .store
  let one (r : Res) : Res := match r with
    | .trap s1 cause info => .trap s1 cause (if cause == cMachineCheck then info else a)
    | r => r
  if (s.checkAccess s.cur t (a + 60) 4 4 kind).rank < (s.checkAccess s.cur t a 64 4 kind).rank then
    one (s.place t (a + 60) 4 4 kind fun _ _ => .stall)
  else
    one (s.place t a 64 4 kind fun s1 p => s1.place t (a + 60) 4 4 kind fun s2 q =>
      let m := 0x80000 - a.toNat % 0x80000
      let xs : List Span := if q == p + 60 then [⟨p, 64, wr⟩] else [⟨p, m, wr⟩, ⟨q + m - 60, 64 - m, wr⟩]
      if wr then k s2 xs else s2.clean t xs fun s3 => k s3 xs)

/-- The entry of the instruction at issue, with its operands and bytes. -/
def Context.entry (c : Context) (i : Instr) (op : PendOp) (opa opb opc addr : Word) (ord : Order) (scope : Scope)
    (spans : List Span) : Entry :=
  { op := op, pc := c.pc, words := encode i, cause := 0, opa := opa, opb := opb, opc := opc, addr := addr, wpe := c.wp,
    ord := ord, scope := scope, spans := spans, seq := c.issued, hand := c.trapst, msg := 0, got := [] }

/-- The instruction joins those issued and unfinished (R169). -/
def State.launch (s : State) (e : Entry) : State :=
  let c := s.ctx
  s.setCtx { c with fly := c.fly ++ [e], issued := c.issued + 1 }

end Sys2Proof.Machine
end

