-- ==== Sys2Proof/Machine/Operands.lean ====
section
/-!
DEFINITION. Operand forms: immediates, effective addresses, branch targets, and the arithmetic of integer registers.
-/

namespace Sys2Proof.Machine

/-- Outcome of an instruction. -/
abbrev Out := Host.Outcome State Fault Refusal

/-- sext(imm, 32) (R168). -/
def sext32 (imm : BitVec 32) : Word := imm.signExtend 64

/-- zext(imm, 32) (R168). -/
def zext32 (imm : BitVec 32) : Word := imm.zeroExtend 64

/-- Effective address of a load or store of n bytes (R155, R177). -/
def Context.ea (c : Context) (m : MemOp) (n : Nat) : Word := c.x m.base + c.x m.index * BitVec.ofNat 64 n + sext32 m.disp

/-- Effective address without an index (R179, R181, R217). -/
def Context.eaDisp (c : Context) (base : XReg) (disp : BitVec 32) : Word := c.x base + sext32 disp

/-- 2^SIZE (R155). -/
def sizeBytes : Size → Nat
  | .b1 => 1
  | .b2 => 2
  | .b4 => 4
  | .b8 => 8

/-- Target of a CB-format instruction at pc (R156): line (L + LINE DELTA) mod 2048, word WORD. -/
def cbDest (pc : Nat) (t : CodeRef) : Word :=
  BitVec.ofNat 64 ((((pc / 128 : Nat) + t.delta.toInt) % 2048).toNat * 128 + 8 + 4 * t.word.toNat)

/-- s64(x) as an integer (R168). -/
def s64 (x : Word) : Int := x.toInt

/-! ### Integer arithmetic (R172 to R174) -/

/-- Bits [127:64] of the signed product. -/
def mulHighS (b c : Word) : Word := BitVec.ofInt 64 (b.toInt * c.toInt / (2 ^ 64 : Nat))
/-- Bits [127:64] of the unsigned product. -/
def mulHighU (b c : Word) : Word := BitVec.ofNat 64 (b.toNat * c.toNat / 2 ^ 64)
/-- Signed quotient truncated towards zero; -2^63 / -1 wraps to -2^63 (R173). -/
def divS (b c : Word) : Word := BitVec.ofInt 64 (b.toInt.tdiv c.toInt)
/-- Signed remainder with the sign of the dividend (R173). -/
def remS (b c : Word) : Word := BitVec.ofInt 64 (b.toInt.tmod c.toInt)
/-- Unsigned quotient (R173). -/
def divU (b c : Word) : Word := BitVec.ofNat 64 (b.toNat / c.toNat)
/-- Unsigned remainder (R173). -/
def remU (b c : Word) : Word := BitVec.ofNat 64 (b.toNat % c.toNat)

/-- Result of a variable-latency integer operation. -/
def intResult (k : IntKind) (b c : Word) : Word :=
  match k with
  | .mul => b * c
  | .mulhs => mulHighS b c
  | .mulhu => mulHighU b c
  | .divs => divS b c
  | .divu => divU b c
  | .rems => remS b c
  | .remu => remU b c

/-- The operation divides. -/
def IntKind.divides : IntKind → Bool
  | .divs | .divu | .rems | .remu => true
  | _ => false

/-- Shift amount [5:0]. -/
def amount (c : Word) : Nat := c.toNat % 64

/-- Rotation to the left. -/
def rolBy (b : Word) (n : Nat) : Word := b.rotateLeft n

/-- 1 or 0. -/
def flag01 (b : Bool) : Word := if b then 1 else 0

/-- Leading zero bits, 0 to 64 (R174). -/
def countLead (b : Word) : Word := BitVec.ofNat 64 (((List.range 64).find? fun k => b.getLsbD (63 - k)).getD 64)

/-- Trailing zero bits, 0 to 64 (R174). -/
def countTrail (b : Word) : Word := BitVec.ofNat 64 (((List.range 64).find? fun k => b.getLsbD k).getD 64)

/-- One bits (R174). -/
def countOnes (b : Word) : Word := BitVec.ofNat 64 (((List.range 64).filter fun k => b.getLsbD k).length)

/-- Sign extension from 8, 16 or 32 bits (R174). -/
def signExt (n : ExtWidth) (b : Word) : Word :=
  match n with
  | .w8 => (b.truncate 8).signExtend 64
  | .w16 => (b.truncate 16).signExtend 64
  | .w32 => (b.truncate 32).signExtend 64

/-- Zero extension from 8, 16 or 32 bits (R174). -/
def zeroExt (n : ExtWidth) (b : Word) : Word :=
  match n with
  | .w8 => (b.truncate 8).zeroExtend 64
  | .w16 => (b.truncate 16).zeroExtend 64
  | .w32 => (b.truncate 32).zeroExtend 64

/-- The low n bytes of a number as a register, extended with its sign or with zeros (R168, R177). -/
def loadExt (n : Nat) (signed : Bool) (v : Nat) : Word :=
  let u := v % 256 ^ n
  if signed && decide (256 ^ n / 2 ≤ u) then BitVec.ofNat 64 (u + (2 ^ 64 - 256 ^ n)) else BitVec.ofNat 64 u

/-! ### Shapes of instructions -/

/-- Registers an instruction names, as scoreboard keys. -/
def keysOf (rs : List XReg) (c : Context) : List Nat := rs.flatMap (keyX c.wp)

/-- An instruction of one cycle that writes X(a) from the registers of its context. -/
def writeX (i : Instr) (names : List XReg) (a : XReg) (f : Context → Word) (s : State) : Out :=
  .next (issue i (keysOf names) (fun s _ => .done (s.mapCtx fun c => c.setX a (f c))) s)

/-- X(a) := f X(b) X(c) (R172, R174). -/
def op3 (i : Instr) (a b c : XReg) (f : Word → Word → Word) (s : State) : Out :=
  writeX i [a, b, c] a (fun k => f (k.x b) (k.x c)) s

/-- X(a) := f X(b) (R174, R175). -/
def op2 (i : Instr) (a b : XReg) (f : Word → Word) (s : State) : Out :=
  writeX i [a, b] a (fun k => f (k.x b)) s

/-- A multiplication or division (R172, R173): DIV_ZERO at issue, the result when it completes. -/
def opLong (i : Instr) (k : IntKind) (a b c : XReg) (s : State) : Out :=
  .next (issue i (keysOf [a, b, c]) (fun s _ =>
    let x := s.ctx
    if k.divides && x.x c == 0 then .trap s cDivZero 0
    else .done (s.launch (x.entry i (.int k a) 0 (x.x b) (x.x c) 0 .plain .core []))) s)

end Sys2Proof.Machine
end

