-- ==== Sys2Proof/Machine/Power.lean ====
section
/-!
DEFINITION. The power and health registers (R406 to R424) and the steps they rule: operating points, dies, clusters,
checkpoints and monitors.
-/

namespace Sys2Proof.Machine

/-! ### Dies (R407 to R411) -/

/-- STATE code of DIEPWR (R407). -/
def dieCode : DieSt → Nat
  | .online => 0
  | .draining => 1
  | .parked => 2
  | .gated => 3
  | .waking => 4

/-- The slower of two operating points (R408). -/
def slower (a b : BitVec 3) : BitVec 3 := if a.toNat < b.toNat then b else a

/-- A floor holds OPCUR above OPSEL (R407). -/
def Die.throttled (d : Die) : Bool :=
  decide (d.opsel.toNat < (slower d.thermFloor d.powFloor).toNat) && decide (d.opsel.toNat < d.opcur.toNat)

/-- DIEPWR as it reads (R407). -/
def Die.reg (d : Die) : Nat :=
  d.throttled.toNat * 2 ^ 20 + d.autowake.toNat * 2 ^ 16 + d.req.toNat * 2 ^ 12 + dieCode d.st * 2 ^ 8
    + d.opcur.toNat * 2 ^ 4 + d.opsel.toNat

/-- The transition a request makes at once (R410). -/
def dieNext (st : DieSt) (req : BitVec 2) : DieSt :=
  match st with
  | .online => if req == 1 || req == 2 then .draining else .online
  | .draining => if req == 0 then .online else .draining
  | .parked => if req == 0 then .online else .parked
  | .gated => if req == 0 then .waking else .gated
  | .waking => .waking

/-- A write of REQ; 11 is ignored (R407). -/
def Die.request (d : Die) (req : BitVec 2) : Die :=
  if req == 3 then d else { d with req := req, st := dieNext d.st req }

/-- A write of DIEPWR (R407). -/
def Die.writeReg (d : Die) (v : Word) : Die :=
  { d.request (v.extractLsb' 12 2) with opsel := v.extractLsb' 0 3, autowake := v.getLsbD 16 }

/-- Tasks of a die's cores, those in save records included. -/
def State.dieTasks (s : State) (d : Nat) : List Task :=
  ((List.range 32).flatMap fun k => s.contexts (32 * d + k)).filterMap fun c => c.task

/-- No core of a die holds a task or context in either bank, or a racking transfer; no page, quota, copy or row slot of a
task, one in a save record included, is left on it (R411). -/
def State.dieEmpty (s : State) (d : Nat) : Bool :=
  ((List.range 32).all fun k =>
    let c := s.core (32 * d + k)
    c.bank.task.isNone && c.other.task.isNone && !c.spilling && c.copies.isEmpty)
    && ((s.die d).pages.all fun e => e.2 == .free || e.2 == .dirty)
    && ((s.dieTasks d).all fun t => t.quota == 0 && s.rows.all fun e => e.2.st == .free || e.2.owner != t.serial)

/-! ### Clusters (R413 to R415) -/

/-- Cluster k of die d. -/
def State.cluster (s : State) (d k : Nat) : Cluster := Sparse.get Cluster.reset (s.die d).clusters k

/-- Put cluster k of die d. -/
def State.setCluster (s : State) (d k : Nat) (c : Cluster) : State :=
  s.setDie d { s.die d with clusters := (s.die d).clusters.set k c }

/-- CLPSTAT as it reads (R413): CLKGATED until the ramp of the rail has ended. -/
def Cluster.stat (c : Cluster) : Nat :=
  let st : Nat := match c.st with
    | .on => 0 | .pend => 0 | .saving => 1 | .clkgated => 2 | .railgated => 3 | .ramping => 4 | .restoring => 5
  let clkoff := match c.st with
    | .clkgated | .railgated | .ramping | .restoring => true
    | _ => false
  c.reason.toNat * 2 ^ 8 + c.refused.toNat * 2 ^ 7 + c.railoff.toNat * 2 ^ 6 + clkoff.toNat * 2 ^ 5
    + c.saved.toNat * 2 ^ 4 + (c.st == .pend).toNat * 2 ^ 3 + st

/-- A checkpoint command runs for the partition that holds the die (R413, R417). -/
def State.ckBusy (s : State) (d : Nat) : Bool :=
  (s.ckState == 1 || s.ckState == 2)
    && (List.range 12).any fun p => s.ckMask.getLsbD p && (s.part p).live && (s.part p).hasDie d

/-- A request of CLPCTL (R413 to R415). -/
def State.clusterReq (s : State) (d k : Nat) (req : BitVec 2) : State :=
  let c := s.cluster d k
  let refuse (n : BitVec 8) : State := s.setCluster d k { c with refused := true, reason := n }
  if c.st == .ramping || c.st == .restoring then s.setCluster d k { c with held := some req }
  else if req == 0 then s.setCluster d k { c with req := 0 }
  else if req == 3 then refuse 1
  else if (s.die d).st == .gated || (s.die d).st == .waking then refuse 2
  else if s.ckBusy d then refuse 3
  else s.setCluster d k { c with req := req, refused := false, st := if c.st == .on then .pend else c.st }

/-- The cluster is back in operation; a request written meanwhile is applied (R414, R415). -/
def State.clusterOn (s : State) (d k : Nat) : State :=
  let c := s.cluster d k
  let s1 := s.setCluster d k { c with st := .on, saved := false, railoff := false, wake := false, held := none }
  match c.held with
  | some r => s1.clusterReq d k r
  | none => s1

/-- A write of 1 to CLWAKE (R413 to R415). -/
def State.clusterWakeUp (s : State) (d k : Nat) : State :=
  let c := { s.cluster d k with req := 0 }
  let s1 := s.setCluster d k c
  match c.st with
  | .on => s1
  | .pend => s1.clusterOn d k
  | .saving => s1.setCluster d k { c with wake := true }
  | .clkgated => s1.clusterOn d k
  | .railgated => s1.setCluster d k { c with st := .ramping, wake := true }
  | .ramping => s1
  | .restoring => s1

/-- No core of the cluster holds a task in its active bank, and no racking transfer is pending (R414). -/
def State.clusterQuiet (s : State) (d k : Nat) : Bool :=
  (List.range 4).all fun j =>
    let c := s.core (32 * d + 4 * k + j)
    c.bank.task.isNone && !c.spilling && !c.swapping

/-- The cluster takes part in dispatch (R414). -/
def State.clusterUsable (s : State) (d k : Nat) : Bool := (s.cluster d k).st == .on

/-! ### Checkpoint (R416 to R418) -/

/-- CKSTAT as it reads. -/
def State.ckStat (s : State) : Nat := s.ckMoved.toNat * 2 ^ 32 + s.ckReason.toNat * 2 ^ 8 + s.ckState.toNat

/-- All queues of a partition are DISABLED and it has no graph other than DONE or DISCARDED (R417). -/
def State.partIdle (s : State) (p : Nat) : Bool :=
  ((List.range 512).all fun q => (s.queue p q).st == .disabled)
    && s.graphs.all fun g => g.2.part != p || g.2.st == .done || g.2.st == .discarded

/-- Partitions of a mask that exist. -/
def State.ckParts (s : State) (m : BitVec 12) : List Nat :=
  (List.range 12).filter fun p => m.getLsbD p && (s.part p).live

/-- The image was saved under the present mode and grants (R418). -/
def State.ckMatches (s : State) (i : CkImage) (m : BitVec 12) : Bool :=
  i.mode == s.mode && (s.ckParts m).all fun p => i.grants.find p == some (s.part p).dies

/-- A CKCTL command (R416 to R418); one that comes while another runs is ignored (log 20). -/
def State.ckCommand (s : State) (m : BitVec 12) (cmd : BitVec 2) : State :=
  let idle := (s.ckParts m).all s.partIdle
  let refuse (r : BitVec 8) : State := { s with ckState := 4, ckReason := r }
  if s.ckState == 1 || s.ckState == 2 then s
  else if cmd == 1 then
    if idle then { s with ckState := 1, ckReason := 0, ckMoved := 0 } else refuse 1
  else if cmd == 2 then
    match s.ckImage with
    | none => refuse 3
    | some i =>
      if !s.ckMatches i m then refuse 2
      else if idle then { s with ckState := 2, ckReason := 0, ckMoved := 0 }
      else refuse 1
  else s

/-- A write of CKCTL (R416). -/
def State.writeCkctl (s : State) (v : Word) : State :=
  let m : BitVec 12 := v.extractLsb' 32 12
  let busy := s.ckState == 1 || s.ckState == 2
  let s1 := if busy then s else { s with ckMask := m }
  s1.ckCommand s1.ckMask (v.extractLsb' 0 2)

/-- Storage addresses of a partition's HBM4: its interleaved space and its direct window. -/
def State.isHbm (s : State) (p a : Nat) : Bool :=
  (a / 2 ^ 48 == p && decide (a % 2 ^ 48 < 0x010000000000))
    || (isDirect a && (s.part p).hasDie ((a - 0x040000000000) / 2 ^ 36))

/-- GiB of HBM4 of the partitions of a mask, 48 GB for each stack (R5, R92, R416). -/
def State.ckSize (s : State) (m : BitVec 12) : Nat :=
  ((s.ckParts m).map fun p => 48 * 10 ^ 9 * (s.part p).stacks).sum / 2 ^ 30

/-- SAVE finishes: the image of the named partitions (R417). -/
def State.ckSaved (s : State) : State :=
  let ps := s.ckParts s.ckMask
  let mine (a : Nat) : Bool := ps.any fun p => s.isHbm p a
  let image : CkImage :=
    { mode := s.mode, grants := ps.map fun p => (p, (s.part p).dies), qtime := (s.part (ps.headD 0)).qtime,
      cells := s.mem.filter fun e => mine e.1, poison := s.poison.filter fun l => mine (64 * l) }
  { s with ckState := 3, ckMoved := BitVec.ofNat 32 (s.ckSize s.ckMask), ckImage := some image }

/-- Write cells into memory. -/
def mergeCells : List Host.Cell → List Host.Cell → List Host.Cell
  | [], ys => ys
  | x :: xs, ys => mergeCells xs (memPut ys x.1 x.2)

/-- Every line of a 1 MiB unit is poisoned and logged (R418). A unit is numbered 2^26 x partition + address / 2^20 (log 20). -/
def State.spoilUnit (s : State) (u : Nat) : State :=
  let p := u / 2 ^ 26
  let a := u % 2 ^ 26 * 2 ^ 20
  (List.range (2 ^ 14)).foldl (fun s k =>
    s.logError 2 (s.unitOf (placeOf p (a + 64 * k))) (BitVec.ofNat 8 p) (BitVec.ofNat 64 (a + 64 * k)))
    (s.markPoison (placeOf p a) (2 ^ 20))

/-- RESTORE finishes: HBM4 of the named partitions as saved, every line of a unit whose CRC failed poisoned and logged
(R418). -/
def State.ckRestored (s : State) (i : CkImage) (bad : List Nat) : State :=
  let ps := s.ckParts s.ckMask
  let mine (a : Nat) : Bool := ps.any fun p => s.isHbm p a
  let kept := s.mem.filter fun e => !mine e.1
  let back := i.cells.filter fun e => mine e.1
  let poison := (s.poison.filter fun l => !mine (64 * l)) ++ i.poison.filter fun l => mine (64 * l)
  let stale (e : TlbEntry) : Bool := e.lines.any fun l => mine (64 * l)
  let s1 := { s.dropTlb stale with
    ckState := 3, ckMoved := BitVec.ofNat 32 (s.ckSize s.ckMask), mem := mergeCells back kept, poison := poison }
  bad.foldl State.spoilUnit s1

/-! ### The register map (R406) -/

/-- Die and cluster of a cluster register's offset within its block. -/
def clIndex (off base : Nat) : Nat × Nat := ((off - base) / 8 / 8, (off - base) / 8 % 8)

/-- One 8-byte register; unlisted offsets read as zero (R406). -/
def State.regRead (s : State) (off : Nat) : Word :=
  if off % 8 != 0 then 0
  else if off < 0x60 then BitVec.ofNat 64 (s.die (off / 8)).reg
  else if off == 0x60 then (s.modLimit.zeroExtend 64 <<< 32) ||| s.modMeas.zeroExtend 64
  else if 0x100 ≤ off && off < 0x400 then (s.cluster (clIndex off 0x100).1 (clIndex off 0x100).2).req.zeroExtend 64
  else if 0x400 ≤ off && off < 0x700 then BitVec.ofNat 64 (s.cluster (clIndex off 0x400).1 (clIndex off 0x400).2).stat
  else if 0x800 ≤ off && off < 0xB00 then
    flag01 (s.cluster (clIndex off 0x800).1 (clIndex off 0x800).2).wake
  else if off == 0x1000 then s.ckMask.zeroExtend 64 <<< 32
  else if off == 0x1008 then BitVec.ofNat 64 s.ckStat
  else if 0x1100 ≤ off && off < 0x1280 then
    ((Sparse.get 0 s.maxTemp ((off - 0x1100) / 8)).zeroExtend 64 <<< 16) ||| (Sparse.get 0 s.temp ((off - 0x1100) / 8)).zeroExtend 64
  else if 0x1280 ≤ off && off < 0x13A0 then (Sparse.get 0 s.volt ((off - 0x1280) / 8)).zeroExtend 64
  else if 0x13A0 ≤ off && off < 0x1460 then (Sparse.get 0 s.proc ((off - 0x13A0) / 8)).zeroExtend 64
  else if off == 0x2000 then BitVec.ofNat 64 (s.errHead.toNat + s.errLost % 2 ^ 32 * 2 ^ 32)
  else if 0x2100 ≤ off && off < 0x4100 then
    let e := s.errEntry ((off - 0x2100) / 32)
    match (off - 0x2100) / 8 % 4 with
    | 0 => BitVec.ofNat 64 (e.part.toNat * 2 ^ 16 + e.unit.toNat * 2 ^ 8 + e.sev.toNat)
    | 1 => e.qt
    | 2 => BitVec.ofNat 64 e.count
    | _ => e.addr
  else 0

/-- An entry of the error log has been read (R424). -/
def State.regSeen (s : State) (off : Nat) : State :=
  if 0x2100 ≤ off && off < 0x4100 then
    let j := (off - 0x2100) / 32
    { s with errLog := s.errLog.set j { s.errEntry j with seen := true } }
  else s

/-- A write of one register when it performs (R406); read-only bits and unlisted offsets ignore it. -/
def State.regWrite (s : State) (off : Nat) (v : Word) : State :=
  if off % 8 != 0 then s
  else if off < 0x60 then s.setDie (off / 8) ((s.die (off / 8)).writeReg v)
  else if off == 0x60 then { s with modLimit := v.extractLsb' 32 16 }
  else if 0x100 ≤ off && off < 0x400 then s.clusterReq (clIndex off 0x100).1 (clIndex off 0x100).2 (v.extractLsb' 0 2)
  else if 0x800 ≤ off && off < 0xB00 then
    if v.getLsbD 0 then s.clusterWakeUp (clIndex off 0x800).1 (clIndex off 0x800).2 else s
  else if off == 0x1000 then s.writeCkctl v
  else if 0x1100 ≤ off && off < 0x1280 then { s with maxTemp := s.maxTemp.set ((off - 0x1100) / 8) 0 }
  else s

/-! ### Steps -/

/-- REGISTER_WRITE: a write of a power or health register performs (R406). -/
def execRegisterWrite (off : BitVec 16) (v : Word) (s : State) : Out := .next (s.regWrite off.toNat v)

/-- DIE_ONLINE: REQ 00 (R410). -/
def execDieOnline (die : DieId) (s : State) : Out := .next (s.setDie die.val ((s.die die.val).request 0))

/-- DIE_DRAIN: REQ 01 (R410). -/
def execDieDrain (die : DieId) (s : State) : Out := .next (s.setDie die.val ((s.die die.val).request 1))

/-- DIE_GATE_REQUEST: REQ 10 (R410). -/
def execDieGateRequest (die : DieId) (s : State) : Out := .next (s.setDie die.val ((s.die die.val).request 2))

/-- OPSEL_WRITE: the operating point requested (R408). -/
def execOpselWrite (die : DieId) (p : BitVec 3) (s : State) : Out :=
  .next (s.setDie die.val { s.die die.val with opsel := p })

/-- One point towards a target (R408). -/
def stepTo (cur target : BitVec 3) : BitVec 3 :=
  if cur.toNat < target.toNat then cur + 1 else if target.toNat < cur.toNat then cur - 1 else cur

/-- The supply voltage of a die's logic rail at a point, with the trim of -20 to +20 mV its regulator has chosen from the die's
process monitors (R403); the trim is a free value. -/
def railMillivolt (die : Nat) (p : BitVec 3) : BitVec 16 :=
  BitVec.ofNat 16 ((Config.opPoints.getD p.toNat ⟨0, 0⟩).millivolt + Config.railTrim die % 41 - 20)

/-- VOLT of a die's logic and SRAM rails at its point: the SRAM rail is never below 0.60 V while the die has power (R404, R411). -/
def dieVolts (die : Nat) (d : Die) : BitVec 16 × BitVec 16 :=
  let logic := railMillivolt die d.opcur
  if d.st == .gated then (0, 0) else (logic, if logic.toNat < 600 then 600 else logic)

/-- VOLT of a die shows its rails (R421). -/
def State.showVolts (s : State) (die : Nat) : State :=
  let v := dieVolts die (s.die die)
  { s with volt := (s.volt.set (2 * die) v.1).set (2 * die + 1) v.2 }

/-- OP_STEP: OPCUR moves one point towards the slowest of OPSEL and the floors (R408); VOLT shows the new voltages. -/
def execOpStep (die : DieId) (s : State) : Out :=
  let d := s.die die.val
  let p := stepTo d.opcur (slower d.opsel (slower d.thermFloor d.powFloor))
  .next ((s.setDie die.val { d with opcur := p }).showVolts die.val)

/-- A floor one point slower or faster (R409, R422). -/
def moveFloor (f : BitVec 3) (slow : Bool) : BitVec 3 :=
  if slow then (if f == 7 then f else f + 1) else (if f == 0 then f else f - 1)

/-- The module's input power calls for a slower floor, MEAS above LIMIT, or lets it be faster, MEAS below 95 % of LIMIT or no
limit (R409). -/
def State.powerCalls (s : State) (slow : Bool) : Bool :=
  if slow then s.modLimit != 0 && decide (s.modLimit.toNat < s.modMeas.toNat)
  else s.modLimit == 0 || decide (100 * s.modMeas.toNat < 95 * s.modLimit.toNat)

/-- POWER_FLOOR_STEP: every ONLINE or DRAINING die's power floor moves, as MEAS stands towards LIMIT (R409). -/
def execPowerFloorStep (slow : Bool) (s : State) : Out :=
  let move (s : State) (n : Nat) : State :=
    let d := s.die n
    if d.st == .online || d.st == .draining then s.setDie n { d with powFloor := moveFloor d.powFloor slow } else s
  .next (if s.powerCalls slow then (List.range 12).foldl move s else s)

/-- A sensor's reading, and the highest since MAXT was written (R421). -/
def State.readTemp (s : State) (i : Nat) (t : BitVec 16) : State :=
  let m := Sparse.get 0 s.maxTemp i
  { s with temp := s.temp.set i t, maxTemp := s.maxTemp.set i (if m.slt t then t else m) }

/-- The monitors are read: 48 temperatures, 36 voltages, 24 process rings, the module's power (R409, R421). Temperatures, rings
and power are free values; the switch and memory dies' rails stand at 750 mV (R403, R420). -/
def State.monitor (s : State) : State :=
  let n := s.turn
  let s1 := (List.range 48).foldl (fun s i => s.readTemp i ((Config.freeWord (n + i)).extractLsb' 0 16)) { s with turn := n + 73 }
  let s2 := (List.range 12).foldl (fun s d => s.showVolts d) s1
  { s2 with
    volt := (List.range 12).foldl (fun m k => m.set (24 + k) 750) s2.volt,
    proc := (List.range 24).foldl (fun m k => m.set k ((Config.freeWord (n + 48 + k)).extractLsb' 0 20)) s2.proc,
    modMeas := (Config.freeWord (n + 72)).extractLsb' 0 16 }

/-- Some sensor of a list reads a temperature or more, in 1/16 degree Celsius, signed (R421). -/
def State.hot (s : State) (is : List Nat) (t : Int) : Bool := is.any fun i => decide (t ≤ (Sparse.get 0 s.temp i).toInt)

/-- The sensors of a compute die (R421). -/
def dieSensors (die : Nat) : List Nat := [3 * die, 3 * die + 1, 3 * die + 2]

/-- The die's heat calls for a slower floor, some sensor at 100 degrees or more, or lets it be faster, all below 95 (R422). -/
def State.heatCalls (s : State) (die : Nat) (slow : Bool) : Bool :=
  if slow then s.hot (dieSensors die) (16 * 100) else !s.hot (dieSensors die) (16 * 95)

/-- THERMAL_FLOOR_STEP: the die's thermal floor moves, as its sensors read (R422). -/
def execThermalFloorStep (die : DieId) (slow : Bool) (s : State) : Out :=
  .next (if s.heatCalls die.val slow then
    s.setDie die.val { s.die die.val with thermFloor := moveFloor (s.die die.val).thermFloor slow } else s)

/-- The writing of the flash is broken off: it leaves an image that fails (R392). -/
def State.breakFlash (s : State) : State := if s.flashing.isSome then { s with flash := .bytes [], flashing := none } else s

/-- A sensor reads 125 degrees (R422). -/
def State.meltdown (s : State) : Bool := s.hot (List.range 48) (16 * 125)

/-- THERMAL_CUTOFF: every rail of the module is cut; a device reset is needed (R422). -/
def execThermalCutoff (s : State) : Out := .next (if s.meltdown then { s.breakFlash with railsCut := true } else s)

/-- DIE_PARK: a draining die that is empty (R410). -/
def execDiePark (die : DieId) (s : State) : Out :=
  .next (if (s.die die.val).st == .draining && s.dieEmpty die.val then
    s.setDie die.val { s.die die.val with st := .parked } else s)

/-- Memory of a die's loft, and its write generations, back to zero (R100, R411). -/
def State.clearLoft (s : State) (d : Nat) : State :=
  { s with mem := Sparse.eraseRange s.mem (loftPlace d 0) (2 ^ 30),
           loftGen := Sparse.eraseRange s.loftGen (loftPlace d 0 / 64) (2 ^ 24),
           loftKey := Sparse.eraseRange s.loftKey (loftPlace d 0 / 64) (2 ^ 24),
           poison := s.poison.filter fun l => !(decide (loftPlace d 0 ≤ 64 * l) && decide (64 * l < loftPlace d 0 + 2 ^ 30)) }

/-- A gated die loses its scratchpads, scratch tiles and instruction buffers: they read as never written (R411,
log 2). -/
def State.loseDie (s : State) (d : Nat) : State :=
  let s1 := s.clearLoft d
  let m1 := Sparse.eraseRange s1.mem (spadPlace (32 * d) 0) (2 ^ 27)
  let m2 := Sparse.eraseRange m1 (tilePlace d 0 0) (2 ^ 26)
  { s1 with mem := Sparse.eraseRange m2 (codePlace (32 * d) 0) (2 ^ 23) }

/-- DIE_GATE: power leaves the cores, floor and loft of a parked die whose REQ is 10; clusters' latches are discarded
(R410, R411, R415). -/
def execDieGate (die : DieId) (s : State) : Out :=
  let d := s.die die.val
  .next (if d.st == .parked && d.req == 2 then
    (s.loseDie die.val).setDie die.val { d with st := .gated, clusters := [] } else s)

/-- DIE_WAKE_DONE: rails up and loft cleared; the die is ONLINE and REQ reads 00 (R410, R411). -/
def execDieWakeDone (die : DieId) (s : State) : Out :=
  let d := s.die die.val
  let sleeping (p : Nat) : Bool := s.selfRefresh.getLsbD p && !(s.part p).hasDie die.val
  .next (if d.st == .waking then
    { (s.clearLoft die.val).setDie die.val { d with st := .online, req := 0, clusters := [] } with
      selfRefresh := (List.range 12).foldl (fun m p => if sleeping p then m ||| ((1 : BitVec 12) <<< p) else m) 0 }
    else s)

/-- HBM_SELF_REFRESH: every compute die of the partition is GATED (R411). -/
def execHbmSelfRefresh (part : PartId) (s : State) : Out :=
  let p := s.part part.val
  .next (if p.live && (List.range 12).all fun d => !p.hasDie d || (s.die d).st == .gated then
    { s with selfRefresh := s.selfRefresh ||| ((1 : BitVec 12) <<< part.val) } else s)

/-- CLUSTER_RETAIN: CLPCTL.REQ 01 (R413, R414). -/
def execClusterRetain (die : DieId) (k : ClusterId) (s : State) : Out := .next (s.clusterReq die.val k.val 1)

/-- CLUSTER_OFF: CLPCTL.REQ 10 (R413, R414). -/
def execClusterOff (die : DieId) (k : ClusterId) (s : State) : Out := .next (s.clusterReq die.val k.val 2)

/-- CLUSTER_WAKE: CLWAKE (R413 to R415). -/
def execClusterWake (die : DieId) (k : ClusterId) (s : State) : Out := .next (s.clusterWakeUp die.val k.val)

/-- CLUSTER_SAVE_START: the condition of PEND holds (R414). -/
def execClusterSaveStart (die : DieId) (k : ClusterId) (s : State) : Out :=
  let c := s.cluster die.val k.val
  .next (if c.st == .pend && s.clusterQuiet die.val k.val then s.setCluster die.val k.val { c with st := .saving } else s)

/-- CLUSTER_SAVE_DONE: the latches hold the cores' state and the clocks stop; after a wake during the save the cluster
returns to ON (R414, R415). -/
def execClusterSaveDone (die : DieId) (k : ClusterId) (s : State) : Out :=
  let c := s.cluster die.val k.val
  .next (if c.st != .saving then s
    else if c.wake then s.clusterOn die.val k.val
    else s.setCluster die.val k.val { c with st := .clkgated, saved := true })

/-- CLUSTER_RAIL_OFF_DONE: the logic rail is down (R414). -/
def execClusterRailOffDone (die : DieId) (k : ClusterId) (s : State) : Out :=
  let c := s.cluster die.val k.val
  .next (if c.st == .clkgated && c.req == 2 then
    s.setCluster die.val k.val { c with st := .railgated, railoff := true } else s)

/-- CLUSTER_RAMP_DONE: RAMPING ends and RESTORING begins (R414). -/
def execClusterRampDone (die : DieId) (k : ClusterId) (s : State) : Out :=
  let c := s.cluster die.val k.val
  .next (if c.st == .ramping then
    s.setCluster die.val k.val { c with st := .restoring, railoff := false } else s)

/-- CLUSTER_RESTORE_DONE: the cluster is ON (R414). -/
def execClusterRestoreDone (die : DieId) (k : ClusterId) (s : State) : Out :=
  .next (if (s.cluster die.val k.val).st == .restoring then s.clusterOn die.val k.val else s)

/-- CHECKPOINT_SAVE: CKCTL SAVE for a set of partitions (R416, R417). -/
def execCheckpointSave (pmask : BitVec 12) (s : State) : Out :=
  .next (s.writeCkctl ((pmask.zeroExtend 64 <<< 32) ||| 1))

/-- CHECKPOINT_RESTORE: CKCTL RESTORE for a set of partitions (R416, R418). -/
def execCheckpointRestore (pmask : BitVec 12) (s : State) : Out :=
  .next (s.writeCkctl ((pmask.zeroExtend 64 <<< 32) ||| 2))

/-- CHECKPOINT_DONE: the command that runs ends: a save, a restore with the units whose CRC failed, or a restore whose
header has an uncorrectable error (R417, R418). -/
def execCheckpointDone (badUnits : List Nat) (headerError : Bool) (s : State) : Out :=
  .next (if s.ckState == 1 then s.ckSaved
    else if s.ckState == 2 then
      match s.ckImage with
      | none => { s with ckState := 5, ckReason := 4 }
      | some i => if headerError then { s with ckState := 5, ckReason := 4 } else s.ckRestored i badUnits
    else s)

/-- ERROR_CORRECTED: a corrected error is logged and changes nothing visible (R423, R424). -/
def execErrorCorrected (unit part : BitVec 8) (addr : Word) (s : State) : Out := .next (s.logError 1 unit part addr)

/-- LINE_POISONED: an uncorrectable error marks its line poisoned, and is logged (R423, R424). -/
def execLinePoisoned (unit part : BitVec 8) (addr : Word) (s : State) : Out :=
  .next ((s.markPoison (placeOf part.toNat addr.toNat) 1).logError 2 unit part (addr &&& ~~~63))

/-- SCRUB: a periodic scrub corrects what can be corrected; it clears no mark and changes nothing visible (R423,
R427). -/
def execScrub (s : State) : Out := .next s

/-- MAIN_SUPPLY_REMOVED: the main supply goes; the LPDDR6 and its checkpoint region stay on the auxiliary supply (R417,
R419, R420). -/
def execMainSupplyRemoved (s : State) : Out := .next { s.breakFlash with mainOn := false }

/-- A place in LPDDR6: the mapped part, or the save regions (R419). -/
def isLpddr (p : Nat) : Bool :=
  decide (p < hostMark)
    && ((decide (0x010000000000 ≤ p % 2 ^ 48) && decide (p % 2 ^ 48 < 0x030000000000))
      || (decide (0x0A0000000000 ≤ p % 2 ^ 48) && decide (p % 2 ^ 48 < 0x0A0000000000 + 131072 * Config.computeCores)))

/-- AUXILIARY_SUPPLY_REMOVED: the LPDDR6, which it powers, loses what it holds: the checkpoint image, the mapped part and the
save regions (R417, R419). What was there reads as never written (log 2). -/
def execAuxiliarySupplyRemoved (s : State) : Out :=
  .next { s with auxOn := false, ckImage := none, mem := s.mem.filter fun e => !isLpddr e.1,
                 poison := s.poison.filter fun l => !isLpddr (64 * l) }

end Sys2Proof.Machine
end

