-- ==== Sys2Proof/Machine/Firmware.lean ====
section
/-!
DEFINITION. Reading and writing bytes wherever they lie for a control core: memory, and the windows of the firmware
context that show queue descriptors, the status table and the power registers (R358, R394, R406).
-/

namespace Sys2Proof.Machine

/-- A queue descriptor as its 32 bytes read (R322). -/
def Queue.word (q : Queue) : Nat :=
  let st : Nat := match q.st with
    | .disabled => 0
    | .active => 1
    | .headWait => 2
    | .error => 3
    | .draining => 4
  q.base.toNat * 2 ^ 192 + q.wr.toNat * 2 ^ 160 + q.rd.toNat * 2 ^ 128 + q.logsz.toNat * 2 ^ 16
    + q.weight.toNat * 2 ^ 8 + q.prio.toNat * 2 ^ 6 + st * 2 ^ 3

/-- A block waits for the refill of a generator's stream after FRESTART (R350). -/
def Context.refilling (c : Context) (g : Nat) : Bool :=
  c.hs.any fun e => (e.2.cur.toList ++ e.2.next.toList).any fun b =>
    b.refill && b.prog.streams.any fun y => y.src.kind == 1 && y.src.idx == g

/-- The code of R356 that a generator shows with its running stream: its own wait; PORT_EMPTY while a block waits for its
refill; PORT_FULL while a lane of its write stream can take no token (R249, R250). -/
def Context.genWait (c : Context) (g : Nat) (x : Stream) : Nat :=
  if x.fault.any StreamFault.isCut then wPeerFault
  else if x.wait != 0 then x.wait.toNat
  else if !x.cfg.write && c.refilling g then wPortEmpty
  else if x.cfg.write && (c.gen g).wx.any fun e => decide (Config.queueDepth ≤ e.2.length) then wPortFull
  else 0

/-- The status word of a port generator (R358): task and context of its core's task, its wait reason. -/
def State.genStatus (s : State) (c g : Nat) : Nat :=
  let b := s.bank c
  match b.task with
  | none => 0xFFFF * 2 ^ 48
  | some t =>
    match (b.gen g).streams with
    | [] => t.index % 2 ^ 16 * 2 ^ 48 + t.ctx % 2 ^ 16 * 2 ^ 32
    | x :: _ => t.index % 2 ^ 16 * 2 ^ 48 + t.ctx % 2 ^ 16 * 2 ^ 32 + 2 ^ 4 + b.genWait g x

/-- A doubleword of the status table at an offset (R358). -/
def State.statusAt (s : State) (off : Nat) : Nat :=
  if off < 0x1000 then (if off / 8 < Config.computeCores then s.statusWord (off / 8) else 0)
  else s.genStatus ((off - 0x1000) / 32) ((off - 0x1000) / 8 % 4)

/-- One byte of a firmware window (R394). -/
def State.fwByte (s : State) (p : Nat) : Byte :=
  let part := p / 2 ^ 48
  let off := p % 2 ^ 48 - 0x080000000000
  if off < 0x4000 then byteOf (s.queue part (off / 32)).word (off % 32)
  else if 0x200000 ≤ off && off < 0x204000 then byteOf (s.statusAt ((off - 0x200000) / 8 * 8)) (off % 8)
  else if 0x300000 ≤ off && off < 0x310000 then byteOf (s.regRead ((off - 0x300000) / 8 * 8)).toNat (off % 8)
  else s.byteAt p

/-- The byte at a place as a control core sees it. -/
def State.seenByte (s : State) (p : Nat) : Byte := if isFw p then s.fwByte p else s.byteAt p

/-- n bytes at a place as a control core sees them. -/
def State.seenBytes (s : State) (p n : Nat) : List Byte := (List.range n).map fun k => s.seenByte (p + k)

/-- Bytes as a number, the first lowest (R3). -/
def natOf : List Byte → Nat
  | [] => 0
  | b :: bs => b.toNat + 256 * natOf bs

/-- A store of a control core performs at a place: in the firmware windows the RD field of a descriptor (R322), a power
register (R406), the journal and the cursor (R339); elsewhere memory. -/
def State.perfWrite (s : State) (p : Nat) (bs : List Byte) : State :=
  if isFw p then
    let part := p / 2 ^ 48
    let off := p % 2 ^ 48 - 0x080000000000
    if off < 0x4000 then
      let q := s.queue part (off / 32)
      let old := bytesOf q.rd.toNat 4
      let k := off % 32 - 16
      let new := old.take k ++ bs ++ old.drop (k + bs.length)
      s.setQueue part (off / 32) { q with rd := BitVec.ofNat 32 (natOf new) }
    else if 0x300000 ≤ off && off < 0x310000 then s.regWrite (off - 0x300000) (BitVec.ofNat 64 (natOf bs))
    else s.write p bs
  else s.write p bs

end Sys2Proof.Machine
end

