-- ==== Sys2Proof/Machine/Tiles.lean ====
section
/-!
DEFINITION. Tile descriptors (R145): their fields, the places of their rows, and the tile copy of LDT (R102, R204).
-/

namespace Sys2Proof.Machine

/-! ### Fields of a descriptor (R145) -/

/-- LVL -/
def dLvl (d : BitVec 128) : Nat := (d.extractLsb' 126 2).toNat
/-- TAG -/
def dTag (d : BitVec 128) : Tag := d.extractLsb' 120 6
/-- Rows. -/
def dRows (d : BitVec 128) : Nat := (d.extractLsb' 110 10).toNat + 1
/-- Elements of a row. -/
def dCols (d : BitVec 128) : Nat := (d.extractLsb' 100 10).toNat + 1
/-- Bytes from row to row. -/
def dStride (d : BitVec 128) : Nat := (d.extractLsb' 80 20).toNat * 16
/-- SCALE -/
def dScale (d : BitVec 128) : Half := d.extractLsb' 48 32
/-- BASE -/
def dBase (d : BitVec 128) : Nat := (d.extractLsb' 0 48).toNat
/-- Handle a scratch-tile descriptor names. -/
def dHandle (d : BitVec 128) : Nat := dBase d / 2 ^ 27 % 8
/-- Put the TAG field. -/
def dSetTag (d : BitVec 128) (t : Tag) : BitVec 128 :=
  (d &&& ~~~((0x3F : BitVec 128) <<< 120)) ||| (t.zeroExtend 128 <<< 120)

/-- Bytes of n elements in containers of w bits. -/
def elemBytes (n w : Nat) : Nat := (n * w + 7) / 8

/-- The descriptor breaks R145. -/
def dBad (d : BitVec 128) : Bool := dLvl d == 3 || (dLvl d == 0 && decide (2 ^ 30 ≤ dBase d))

/-! ### Scratch tiles -/

/-- Number of a scratch tile of a page set by its tile coordinates relative to the origin (R226); none for a compute
tile or a tile outside. -/
def PageSet.scratch (p : PageSet) (i j : Nat) : Option Nat :=
  if i < 2 * p.w && j < 2 * p.h && (i + j) % 2 == 1 then some (2 * (j / 2 * p.w + i / 2) + j % 2) else none

/-- Place of byte off of scratch tile n of a page set on a die (R46, R226). -/
def PageSet.tileByte (p : PageSet) (die n off : Nat) : Nat :=
  tilePlace die (2 * (16 * (p.y0 + n / 2 / p.w) + (p.x0 + n / 2 % p.w)) + n % 2) off

/-- Place of row 0 of a scratch-tile descriptor whose rows take nb bytes each: none where R145 raises PROTECTION. -/
def Context.scratchBase (c : Context) (core : Nat) (d : BitVec 128) (nb : Nat) : Option Nat :=
  let b := dBase d
  match (c.handle (dHandle d)).pset with
  | none => none
  | some p =>
    match p.scratch (b / 2 ^ 17 % 32) (b / 2 ^ 22 % 32) with
    | none => none
    | some n =>
      if b % 2 ^ 17 + (dRows d - 1) * dStride d + nb ≤ 131072 then some (p.tileByte (core / 32) n (b % 2 ^ 17)) else none

/-! ### Checks over runs of bytes -/

/-- Split n bytes at a into runs that end at multiples of 1 024: fuel bounds their number. -/
def chunks : Nat → Nat → Nat → List (Nat × Nat)
  | 0, _, _ => []
  | fuel + 1, a, n =>
    if n = 0 then []
    else
      let m := 1024 - a % 1024
      if n ≤ m then [(a, n)] else (a, m) :: chunks fuel (a + m) (n - m)

/-- A run of bytes inside one 1 KiB unit: its place, with every scratchpad bank it lies in at home (R354). -/
def State.runChk (s : State) (c : Nat) (t : Task) (a n : Nat) (kind : AccKind) : Chk :=
  match s.placeChk c t a kind with
  | .ok p =>
    match (if isSpad p then (linesOf p n).find? fun l => s.bankForeign (spadCore p) (64 * l % 2 ^ 22) else none) with
    | some l => .away (64 * l)
    | none => .ok p
  | r => r

/-- The outcome that counts among those of several runs: the first of the lowest rank. -/
def worst : List Chk → Chk
  | [] => .ok 0
  | [x] => x
  | x :: xs => let y := worst xs; if y.rank < x.rank then y else x

/-- The rows of a translated or scratchpad tile as runs of bytes: base, rows, stride, bytes of a row. -/
def rowRuns (base rows stride nb : Nat) : List (Nat × Nat) :=
  (List.range rows).flatMap fun r => chunks (nb / 1024 + 2) (base + r * stride) nb

/-- The address fits the level of its descriptor: level 01 names the scratchpad windows, level 10 translated memory
(log 24). -/
def levelFits (lvl a : Nat) : Bool :=
  match windowOf a with
  | .own => lvl == 1
  | .member _ => lvl == 1
  | .translated => lvl == 2
  | _ => true

/-- Spans of a tile's rows, or what stops it (R93, R145). -/
def State.tileSpans (s : State) (core : Nat) (t : Task) (d : BitVec 128) (nb : Nat) (kind : AccKind) :
    Except Chk (List Span) :=
  let wr := kind == .store
  let b := dBase d
  if dLvl d = 0 then
    match (s.bank core).scratchBase core d nb with
    | none => .error (.trap cProtection (BitVec.ofNat 64 b))
    | some p => .ok ((List.range (dRows d)).map fun r => ⟨p + r * dStride d, nb, wr⟩)
  else
    let runs := rowRuns b (dRows d) (dStride d) nb
    if runs.any fun x => !rangeTranslates x.1 x.2 then .error (.trap cTranslation (BitVec.ofNat 64 b))
    else if runs.any fun x => windowOf x.1 != windowOf b || windowOf (x.1 + x.2 - 1) != windowOf b || !levelFits (dLvl d) x.1 then
      .error (.trap cProtection (BitVec.ofNat 64 b))
    else
      let cs := runs.map fun x => s.runChk core t x.1 x.2 kind
      match worst cs with
      | .ok _ => .ok ((runs.zip cs).filterMap fun rc => match rc.2 with
          | .ok p => some ⟨p, rc.1.2, wr⟩
          | _ => none)
      | r => .error r

/-! ### LDT (R102, R204) -/

/-- Byte ranges of a descriptor's rows; scratch-tile offsets are kept apart from addresses. -/
def tileRanges (d : BitVec 128) (nb : Nat) : List (Nat × Nat) :=
  let b := (if dLvl d = 0 then 2 ^ 62 else 0) + dBase d
  (List.range (dRows d)).map fun r => (b + r * dStride d, nb)

/-- Two lists of ranges share a byte: rows of tiles are compared one by one, not the hulls of the tiles (log 61). -/
def rangesMeet (xs ys : List (Nat × Nat)) : Bool :=
  xs.any fun x => ys.any fun y => decide (x.1 < y.1 + y.2) && decide (y.1 < x.1 + x.2)

/-- The checks of LDT that read descriptors alone (R204), ILLEGAL_OP before FORMAT_TAG (R344). Under an invalid format no
range has a width, so the overlap is not looked at. -/
def ldtCheck (ft : Sparse Half) (da db : BitVec 128) (tr : Transp) : Option (Nat × Word) :=
  let w := containerOf ft (dTag db)
  let valid := classOf ft (dTag db) != .invalid
  if decide (2 ≤ dLvl da) || dBad da || dBad db then some (cIllegal, 0)
  else if (if tr == .none then dRows da != dRows db || dCols da != dCols db
      else dRows da != dCols db || dCols da != dRows db) then some (cIllegal, 0)
  else if tr != .none && (dRows db % 16 != 0 || dCols db % 16 != 0) then some (cIllegal, 0)
  else if valid && rangesMeet (tileRanges db (elemBytes (dCols db) w)) (tileRanges da (elemBytes (dCols da) w)) then
    some (cIllegal, 0)
  else if !valid || (tr == .t8 && w != 8) || (tr == .t16 && w != 16) then some (cFormatTag, (dTag db).zeroExtend 64)
  else none

/-- Value of the bytes of some spans, the first byte lowest. -/
def bitsOf (bs : List Byte) : Nat := bs.foldr (fun b n => b.toNat + 256 * n) 0

/-- Rows of a tile as numbers, from the bytes of its rows one after another. -/
def splitRows (bs : List Byte) (rows nb : Nat) : List Nat :=
  (List.range rows).map fun r => bitsOf ((bs.drop (r * nb)).take nb)

/-- Element j of a row number. -/
def rowElem (row w j : Nat) : Nat := row / 2 ^ (w * j) % 2 ^ w

/-- Rows of the destination of LDT (R102). -/
def ldtRows (src : List Nat) (w rows cols : Nat) (tr : Transp) : List Nat :=
  if tr == .none then src
  else (List.range cols).map fun j =>
    (List.range rows).foldl (fun n i => n + rowElem (src.getD i 0) w j * 2 ^ (w * i)) 0

/-- Write bytes over a list of spans, one run after another. -/
def State.writeSpans (s : State) : List Span → List Byte → State
  | [], _ => s
  | x :: xs, bs => (s.write x.place (bs.take x.n)).writeSpans xs (bs.drop x.n)

/-- Index of each byte of a list of spans: its place. -/
def spanBytes (xs : List Span) : List Nat := xs.flatMap fun x => (List.range x.n).map fun k => x.place + k

/-- Byte of the source an LDT destination byte comes from: row r and byte k of the destination. -/
def ldtFrom (w cols : Nat) (tr : Transp) (r k : Nat) : Nat :=
  if tr == .none then r * elemBytes cols w + k
  else
    let e := w / 8
    (k / e) * elemBytes cols w + r * e + k % e

/-- The rule file of a compute tile has been written by other means than its engine: OVF and FIN clear (R281). -/
def Handle.unmark (h : Handle) (tile : Nat) : Handle := { h with marks := Sparse.eraseRange h.marks (tile * 16384) 16384 }

/-- Write the destination of an LDT from its source bytes; poison marks travel with the bytes (R427). -/
def State.ldtWrite (s : State) (core : Nat) (da db : BitVec 128) (ft : Sparse Half) (tr : Transp)
    (src dst : List Span) (bs : List Byte) : State :=
  let w := containerOf ft (dTag db)
  let nbs := elemBytes (dCols db) w
  let nbd := elemBytes (dCols da) w
  let rows := ldtRows (splitRows bs (dRows db) nbs) w (dRows db) (dCols db) tr
  let from0 := spanBytes src
  let dest := spanBytes dst
  let bad (s0 : State) (q : Nat) : Bool := decide (q < hostMark) && s0.poisoned q 1
  let hit (k : Nat) : Bool := bad s (from0.getD (ldtFrom w (dCols db) tr (k / nbd) (k % nbd)) 0)
  let marks := (List.range dest.length).filter hit
  let bits := dCols da * w
  let old (r : Nat) : Nat := (s.byteAt (dest.getD (r * nbd + nbd - 1) 0)).toNat / 16 * 16
  let row (r : Nat) : Nat :=
    rows.getD r 0 % 2 ^ bits + (if bits % 8 = 4 then old r * 256 ^ (nbd - 1) else 0)
  let s1 := s.writeSpans dst ((List.range (dRows da)).flatMap fun r => bytesOf (row r) nbd)
  let s2 := marks.foldl (fun s k => s.markPoison (dest.getD k 0) 1) s1
  if dLvl da = 0 then
    let b := s2.bank core
    let h := b.handle (dHandle da)
    match h.pset with
    | none => s2
    | some p =>
      match p.scratch (dBase da / 2 ^ 17 % 32) (dBase da / 2 ^ 22 % 32) with
      | none => s2
      | some n => s2.setBank core (b.setHandle (dHandle da) (h.unmark n))
  else s2

/-- The checks of LDT between two descriptors, ending in the runs it reads and writes or in an outcome of issue (R204);
TRANSLATION comes before PROTECTION (R344). -/
def State.ldtAccess (s : State) (t : Task) (da db : BitVec 128) (tr : Transp) (ill : Word) (k : State → List Span → Res) : Res :=
  let c := s.ctx
  let w := containerOf c.ft (dTag db)
  match ldtCheck c.ft da db tr with
  | some (cause, info) => .trap s cause (if cause = cIllegal then ill else info)
  | none =>
    if [da, db].any fun d => dLvl d == 0 && s.setMoving s.cur t.serial (dHandle d) then .wait s wNoPage
    else match s.tileSpans s.cur t db (elemBytes (dCols db) w) .load, s.tileSpans s.cur t da (elemBytes (dCols da) w) .store with
    | .ok xs, .ok ys =>
      let s1 := (if dLvl db = 1 then s.markRemote s.cur t (dBase db) else s)
      let s2 := (if dLvl da = 1 then s1.markRemote s1.cur t (dBase da) else s1)
      k s2 (xs ++ ys)
    | r, q =>
      match (match r with | .error e => worst [e, match q with | .error e => e | .ok _ => .ok 0]
                          | .ok _ => match q with | .error e => e | .ok _ => .ok 0) with
      | .trap cause info => .trap s cause info
      | .wait code => .wait s code
      | .away p => .wait (s.touch p) wRacking
      | .miss va =>
        match c.walkTrap with
        | some (cause, v, info) =>
          if v / 2 ^ 19 == va / 2 ^ 19 then .trap s cause (if cause == cMachineCheck then info else BitVec.ofNat 64 va)
          else .wait (s.needWalk t.part t.ctx va .load (.instr s.cur)) wTranslation
        | none => .wait (s.needWalk t.part t.ctx va .load (.instr s.cur)) wTranslation
      | .ok _ => .stall

/-- LDT (R204). -/
def execLdt (a b : DReg) (scope : Scope) (tr : Transp) (s : State) : Out :=
  let i : Instr := .ldt a b scope tr
  .next (issue i (fun _ => keyD a ++ keyD b) (fun s t =>
    let da := s.ctx.desc a
    let db := s.ctx.desc b
    s.ldtAccess t da db tr (word0 i) fun s1 xs =>
      .done (s1.launch (s1.ctx.entry i (.ldt a b da db tr) 0 0 0 0 .plain scope xs))) s)

end Sys2Proof.Machine
end

