-- ==== Sys2Proof/Machine/Streams.lean ====
section
/-!
DEFINITION. Streams of port generators: the walk of a tile (R205, R207), the port scoreboard (R337), fault records
(R386), places of elements, packed pages (R103 to R108), symbol streams (R279, R280), and the token a read stream
delivers (R54, R208, R248).
-/

namespace Sys2Proof.Machine

/-! ### Fault records (R386) -/

/-- A fault record as its 32 bytes. -/
def FaultRec.bytes (r : FaultRec) : List Byte :=
  let kind : Nat := match r.kind with | .load => 0 | .store => 1 | .atomic => 2 | .sidecar => 3
  let who : Nat × Nat × Nat := match r.agents with
    | .instr c :: _ => (c, 0, 0)
    | .gen c g _ _ :: _ => (c, 1, g)
    | .copy c k :: _ => (c, 2, k)
    | [] => (0, 0, 0)
  let v := r.va % 2 ^ 64 * 2 ^ 192 + r.recno % 2 ^ 32 * 2 ^ 160 + r.ctx % 2 ^ 16 * 2 ^ 144 + who.1 / 32 % 16 * 2 ^ 140
    + who.1 % 32 * 2 ^ 135 + who.2.1 * 2 ^ 132 + who.2.2 % 512 * 2 ^ 123 + kind * 2 ^ 120 + r.reason % 256 * 2 ^ 112
  bytesOf v 32

/-- Agents join the unanswered record of a page, or a new record is made and sent; none while a partition holds 4 096. -/
def State.faultRecord (s : State) (part ctx va : Nat) (kind : AccKind) (reason : Nat) (gs : List Agent) : Option State :=
  let p := s.part part
  let same (r : FaultRec) : Bool := r.ctx == ctx && r.va / 2 ^ 19 == va / 2 ^ 19 && r.reason == reason
  if p.records.any same then
    some (s.setPart part { p with records := p.records.map fun r => if same r then { r with agents := r.agents ++ gs.filter fun g => !r.agents.contains g } else r })
  else if Config.faultRecords ≤ p.records.length then none
  else
    let r : FaultRec := ⟨p.recno, va, ctx, kind, reason, gs⟩
    some ((s.setPart part { p with records := p.records ++ [r], recno := p.recno + 1 }).event part 2 r.bytes)

/-! ### The walk -/

/-- Container of an element in memory. -/
def Stream.memBits (x : Stream) : Nat := containerOf x.fts (dTag x.tile)

/-- Tag of the tokens (R248). -/
def Stream.tag (x : Stream) : Tag := if x.cfg.wid then x.wtag else dTag x.tile

/-- Container of an element in a token. -/
def Stream.cont (x : Stream) : Nat := containerOf x.fts x.tag

/-- Elements of one walk. -/
def Stream.walk (x : Stream) : Nat :=
  (if x.cfg.gath then dRows x.idx * dCols x.idx else dRows x.tile) * dCols x.tile

/-- Elements of the whole stream. -/
def Stream.total (x : Stream) : Nat := x.rep * x.walk

/-- Elements a token carries (R248, R280). -/
def Stream.per (x : Stream) : Nat :=
  if x.cfg.rsym then 4 else if x.tag == 13 then 1 else max 1 (x.tokBits / x.cont)

/-- Tokens an element takes: two for tun-128 (R248). -/
def Stream.span (x : Stream) : Nat := if x.cfg.write && x.tag == 15 then 2 else 1

/-- The container is wider than a token of the given bits can carry (R248). -/
def Stream.tooWide (x : Stream) (bits : Nat) : Bool :=
  !x.cfg.rsym && !(x.span == 2 && bits == 64) && decide (bits < x.cont)

/-- Tokens lane l delivers or takes over the whole stream (R248, R280). -/
def Stream.laneTokens (x : Stream) (l : Nat) : Nat :=
  if x.cfg.rsym then (x.total + 3) / 4
  else x.span * (((x.total + x.per - 1) / x.per + 15 - l) / 16)

/-- First element of token k of lane l. -/
def Stream.firstElem (x : Stream) (l k : Nat) : Nat :=
  if x.cfg.rsym then 4 * k else (16 * (k / x.span) + l) * x.per

/-- Elements of token k of lane l. -/
def Stream.elems (x : Stream) (l k : Nat) : List Nat :=
  (List.range x.per).filterMap fun i => if x.firstElem l k + i < x.total then some (x.firstElem l k + i) else none

/-- Element e is masked off by the gate (R208). -/
def Stream.masked (x : Stream) (e : Nat) : Bool := decide (x.gateFrom ≤ e) && !x.gate.getLsbD (e % 16)

/-- Row (or position in the index tile) and column of an element (R205). -/
def Stream.rowCol (x : Stream) (e : Nat) : Nat × Nat :=
  let p := e % x.walk
  if x.cfg.tr == .none then (p / dCols x.tile, p % dCols x.tile) else (p % dRows x.tile, p / dRows x.tile)

/-- Byte offset and bit in the byte of an element. -/
def Stream.at (x : Stream) (r c : Nat) : Nat × Nat := (r * dStride x.tile + c * x.memBits / 8, c * x.memBits % 8)

/-- Bytes from the base to the end of the tile's last row. -/
def tileSpan (d : BitVec 128) (bits : Nat) : Nat := (dRows d - 1) * dStride d + elemBytes (dCols d) bits

/-- Elements of one lane that a scale byte of the stream covers: the 32 along the reduction dimension that R68 gives one
scale; a stream of B holds 16 elements of each column of a block, half of such a group (R266), and a byte for each
(DESIGN CHOICE, log 76). -/
def Stream.scaleRun (x : Stream) : Nat := if x.cfg.matb then 16 else 32

/-- Number of the scale byte of an element: a lane's elements run along the reduction dimension (R266), so a group is a run
of one lane's elements, and the groups stand in the order the walk reaches them (R68, R207; log 76). -/
def Stream.scaleIndex (x : Stream) (e : Nat) : Nat :=
  let k := e % x.walk / x.per
  16 * ((k / 16 * x.per + e % x.walk % x.per) / x.scaleRun) + k % 16

/-- Scale bytes of one walk. -/
def Stream.scaleBytes (x : Stream) : Nat :=
  16 * ((((x.walk + x.per - 1) / x.per + 15) / 16 * x.per + x.scaleRun - 1) / x.scaleRun)

/-- Token counts of a table of lanes. -/
def laneCount (m : Sparse Nat) (l : Nat) : Nat := Sparse.get 0 m l

/-- The lane has delivered or stored its last token. -/
def Stream.laneDone (x : Stream) (l : Nat) : Bool := decide (x.laneTokens l ≤ laneCount x.pos l)

/-- Every lane has. -/
def Stream.allDone (x : Stream) : Bool := (List.range 16).all x.laneDone

/-- The stream's walk is over (R209): a read stream's tokens are consumed, a write stream's are stored. -/
def Stream.finished (x : Stream) : Bool :=
  x.tokBits != 0 && x.allDone && (if x.cfg.write then x.packed.isEmpty
    else (List.range 16).all fun l => decide (x.laneTokens l ≤ laneCount x.taken l))

/-! ### The port scoreboard (R337) -/

/-- A byte range in 64-byte lines. -/
def lineRange (a n : Nat) : Nat × Nat := (a / 64, (a + n + 63) / 64)

/-- Byte ranges of a descriptor's rows, scratch-tile offsets apart from addresses. -/
def descRange (d : BitVec 128) (n : Nat) : Nat × Nat := lineRange ((if dLvl d = 0 then 2 ^ 62 else 0) + dBase d) n

/-- Line ranges a stream accesses, and whether it writes them. A matrix B stream has no address. -/
def Stream.ranges (x : Stream) : List (Nat × Nat) :=
  if x.cfg.matb then []
  else
    let n := tileSpan x.tile x.memBits + (if x.cfg.mxs then x.scaleBytes else 0)
    descRange x.tile n :: (if x.cfg.gath then [descRange x.idx (tileSpan x.idx 32)] else [])

/-- Two lists of line ranges share a line. -/
def linesMeet (xs ys : List (Nat × Nat)) : Bool :=
  xs.any fun x => ys.any fun y => decide (x.1 < y.2) && decide (y.1 < x.2)

/-- The stream has lost its die link, and its reservations (R377). -/
def Stream.isCut (x : Stream) : Bool := x.fault.any StreamFault.isCut

/-- Entries of the task's scoreboard that are older than a given one: ranges and whether they write. -/
def State.olderEntries (s : State) (core : Nat) (t : Task) (order : Nat) : List (List (Nat × Nat) × Bool) :=
  let b := s.bank core
  let xs := b.gens.flatMap fun e => e.2.streams.filter fun x => decide (x.order < order) && !x.isCut
  let cs := ((s.core core).copies.map fun e => e.2).filter fun c => c.owner == t.serial && decide (c.order < order)
  (xs.map fun x => (x.ranges, x.cfg.write)) ++ cs.flatMap fun c =>
    [([lineRange c.src.toNat c.n], false), ([lineRange c.dst.toNat c.n], true)]

/-- An older entry of the task overlaps the ranges with at least one side a write. -/
def State.boardHolds (s : State) (core : Nat) (t : Task) (order : Nat) (rs : List (Nat × Nat)) (wr : Bool) : Bool :=
  (s.olderEntries core t order).any fun e => (wr || e.2) && linesMeet rs e.1

/-! ### Places -/

/-- What keeps a stream from its next token. -/
inductive Stop where
  /-- it waits with a reason of R356 -/
  | wait (code : Nat)
  /-- it waits with RACKING for the exchange of the scratchpad bank of a place (R354) -/
  | away (place : Nat)
  /-- a page walk of this address is needed -/
  | miss (va : Nat)
  /-- a fault: its cause and TINFO; the driver is asked first -/
  | fault (cause : Nat) (info : Word) (va : Nat) (asked : Bool)
  /-- a poisoned line: its partition-physical address -/
  | poison (pa : Word)
  /-- bytes of a host-bias page must be asked for -/
  | ask (place n : Nat)
  deriving DecidableEq, Repr

/-- Where a byte of a stream lies: at a place; in a stage slice, by storage address, reached through the hybrid bonds
(R99); or in the image of a compressed page, by its leaf and the offset in the page. -/
inductive Loc where
  | place (p : Nat)
  | slice (a : Nat)
  | image (e : BitVec 128) (va off : Nat)
  deriving DecidableEq, Repr

/-- A fault of an access, without asking the driver. -/
def Stop.plain (cause : Nat) (va : Nat) : Stop := .fault cause 0 va false

/-- Where byte off of a descriptor's tile lies (R93, R145). stage: the storage address of the stage slice of a matrix B
stream. -/
def State.locate (s : State) (core : Nat) (t : Task) (d : BitVec 128) (stage : Option Nat) (off : Nat) (kind : AccKind) :
    Except Stop Loc :=
  match stage with
  | some a => .ok (.slice (a + dBase d + off))
  | none =>
    if dLvl d = 0 then
      let b := dBase d
      match ((s.bank core).handle (dHandle d)).pset with
      | none => .error (.plain cProtection b)
      | some p =>
        match p.scratch (b / 2 ^ 17 % 32) (b / 2 ^ 22 % 32) with
        | none => .error (.plain cProtection b)
        | some n =>
          if b % 2 ^ 17 + off < 131072 then .ok (.place (p.tileByte (core / 32) n (b % 2 ^ 17 + off)))
          else .error (.plain cProtection b)
    else
      let a := dBase d + off
      let chk : Chk :=
        if windowOf a == .reserved || windowOf a == .unmapped then .trap cTranslation 0
        else if !levelFits (dLvl d) a then .trap cProtection 0
        else match windowOf a with
          | .translated =>
            match s.cached t.part t.ctx a with
            | none => .miss a
            | some e => if rightsOk e.leaf kind then .ok 0 else .trap cProtection 0
          | _ => s.placeChk core t a kind
      match chk, windowOf a with
      | .ok _, .translated =>
        match s.cached t.part t.ctx a with
        | none => .error (.miss a)
        | some e =>
          if pteKind e.leaf != 0 then
            if s.pathHeld core (placeOf t.part (pteAddr e.leaf)) then .error (.wait wLinkRetrain)
            else .ok (.image e.leaf e.va (a - e.va))
          else
            match s.linkChk core (s.leafRest t a (pteAddr e.leaf + (a - e.va)) e.leaf kind) with
            | .ok p => .ok (.place p)
            | .wait c => .error (.wait c)
            | .away p => .error (.away p)
            | .miss v => .error (.miss v)
            | .trap c _ => .error (.plain c a)
      | .ok p, _ => .ok (.place p)
      | .wait c, _ => .error (.wait c)
      | .away p, _ => .error (.away p)
      | .miss v, _ => .error (.miss v)
      | .trap c _, _ => .error (.plain c a)

/-- Partition-physical address of a loft byte by its storage address (R99). -/
def State.loftBack (s : State) (a : Nat) : Word :=
  let o := a - 0x030000000000
  let die := o / 2 ^ 30
  let k := (List.range 512).find? fun j => Sparse.get j s.sliceMap (512 * die + j) == o / 2 ^ 21 % 512
  BitVec.ofNat 64 (loftPlace die (k.getD 0 * 2 ^ 21 + o % 2 ^ 21))

/-! ### Sidecar lines and packed blocks (R104 to R107) -/

/-- Place of the sidecar line of a page's offset (R106). -/
def lineAt (part : Nat) (e : BitVec 128) (off : Nat) : Nat := placeOf part (pteSc e + 128 * (off / 2 ^ 19))

/-- SIZE of a block in its line. -/
def lineSize (l : BitVec 1024) (off : Nat) : Nat := (l >>> (128 + 7 * (off / 4096 % 128))).toNat % 128

/-- XOR of every byte of a line but CHECK. -/
def lineCheck (l : BitVec 1024) : Byte :=
  (List.range 128).foldl (fun c k => if k = 3 then c else c ^^^ BitVec.ofNat 8 (l >>> (8 * k)).toNat) 0

/-- Largest size of a class (R104). -/
def classLimit (c : BitVec 2) : Nat := 8 * 2 ^ c.toNat

/-- Every size is allowed by the class. -/
def lineSizesOk (l : BitVec 1024) (c : BitVec 2) : Bool :=
  (List.range 128).all fun i => decide (lineSize l (4096 * i) ≤ classLimit c)

/-- A line is stamped with the kind and class of the leaf (R107). -/
def lineStamped (l : BitVec 1024) (e : BitVec 128) : Bool :=
  l.extractLsb' 0 8 == (pteKind e).zeroExtend 8 && l.extractLsb' 8 8 == (pteClass e).zeroExtend 8

/-- The rows of the direct window that an access of n bytes from a place reaches are noted (R115). -/
def Stream.touch (x : Stream) (p n : Nat) : Stream :=
  if isDirect p && n != 0 then
    { x with rows := (List.range ((p + n - 1) / 1024 - p / 1024 + 1)).foldl (fun r k =>
        if r.contains (p / 1024 + k) then r else r ++ [p / 1024 + k]) x.rows }
  else x

/-- Fetch and check the line of a page's offset, which needs R (R383), unless the generator holds it; a line held for another page of the same
memory is held to this page's kind too (R107). -/
def State.needLine (s : State) (part : Nat) (x : Stream) (e : BitVec 128) (va off : Nat) : Except Stop Stream :=
  let p := lineAt part e off
  match Sparse.find x.lines p with
  | some l => if lineStamped l e then .ok x else .error (.fault cAliasKind (paOf p) (va + off) true)
  | none =>
    if !rightsOk e .sidecar then .error (.plain cProtection (va + off))
    else if s.poisoned p 128 then .error (.poison (paOf (p / 64 * 64)))
    else
      let l : BitVec 1024 := BitVec.ofNat 1024 (s.natAt p 128)
      if !lineStamped l e then .error (.fault cAliasKind (paOf p) (va + off) true)
      else if l.extractLsb' 24 8 != lineCheck l || !lineSizesOk l (pteClass e) then .error (.poison (paOf p))
      else .ok ({ x with lines := x.lines.set p l }.touch p 128)

/-- The line a stream holds for a page's offset. -/
def Stream.line (x : Stream) (part : Nat) (e : BitVec 128) (off : Nat) : BitVec 1024 :=
  Sparse.get 0 x.lines (lineAt part e off)

/-- Place of the slot of a block (R104). -/
def slotAt (part : Nat) (e : BitVec 128) (off : Nat) : Nat :=
  placeOf part (pteAddr e + off / 4096 * (512 * 2 ^ (pteClass e).toNat))

/-- Bytes of a packing unit: 2 for BZ16, 1 for BZ8 (R105). -/
def unitBytes (e : BitVec 128) : Nat := if pteKind e == 1 then 2 else 1

/-- A byte of a list. -/
def nthByte (bs : List Byte) (k : Nat) : Byte := bs.getD k 0

/-- Mask of the sub-block whose packed form starts at byte p. -/
def subMask (bs : List Byte) (p : Nat) : Nat := natOf ((bs.drop p).take 8)

/-- Start of the packed form of sub-block n, counted from a sub-block that starts at p (R105). -/
def subStart (bs : List Byte) (u : Nat) : Nat → Nat → Nat
  | 0, p => p
  | n + 1, p => subStart bs u n (p + 8 + u * popCount (subMask bs p) 64)

/-- Byte k of the block a packed form stands for (R105). -/
def expandByte (bs : List Byte) (u k : Nat) : Byte :=
  let j := k / u
  let nsb := (nthByte bs 2).toNat
  if nsb ≤ j / 64 then 0
  else
    let p := subStart bs u (j / 64) 4
    let m := subMask bs p
    if m / 2 ^ (j % 64) % 2 = 0 then 0 else nthByte bs (p + 8 + u * popCount (m % 2 ^ (j % 64)) 64 + k % u)

/-- Length a packed form states. -/
def packedLen (bs : List Byte) : Nat := natOf (bs.take 2)

/-- The rules for an access to the first n bytes of a block's slot: those of each row it reaches (R115, R117), a trap
before a wait. -/
def State.slotChk (s : State) (t : Task) (e : BitVec 128) (va off n : Nat) (kind : AccKind) : Chk :=
  let p := slotAt t.part e off % 2 ^ 48
  let rs := (List.range ((n + 1023) / 1024)).map fun k => s.leafRest t (va + off) (p + 1024 * k) e kind
  let trap (r : Chk) : Bool := match r with | .trap _ _ => true | _ => false
  let stop (r : Chk) : Bool := match r with | .ok _ => false | _ => true
  match rs.find? trap, rs.find? stop with
  | some r, _ => r
  | none, some r => r
  | none, none => s.leafRest t (va + off) p e kind

/-- The byte at an offset of a page of kind BZ16 or BZ8 (R107). The stream holds its line. -/
def State.imageByte (s : State) (t : Task) (x : Stream) (e : BitVec 128) (va off : Nat) : Except Stop Byte :=
  let n := lineSize (x.line t.part e off) off
  if n = 0 then .ok 0
  else
    match s.slotChk t e va off (64 * n) .load with
    | .wait c => .error (.wait c)
    | .away p => .error (.away p)
    | .miss v => .error (.miss v)
    | .trap c _ => .error (.plain c (va + off))
    | .ok p =>
      if s.poisoned p (64 * n) then .error (.poison (paOf (p / 64 * 64)))
      else if n = 64 then .ok (s.byteAt (p + off % 4096))
      else
        let bs := (List.range (64 * n)).map fun k => s.byteAt (p + k)
        if (packedLen bs + 63) / 64 = n then .ok (expandByte bs (unitBytes e) (off % 4096))
        else .error (.poison (paOf p))

/-! ### Reading -/

/-- n bytes from byte off of a descriptor's tile: the bytes, the stream with the lines it has fetched, and the bytes of
host pages used so far. raw: a symbol stream, which reads a rule-compressed page as it stands (R279). -/
def State.readBytes (s : State) (core : Nat) (t : Task) (d : BitVec 128) (stage : Option Nat) (raw : Bool) :
    Nat → Nat → Stream → Nat → Except Stop (List Byte × Stream × Nat)
  | 0, _, x, used => .ok ([], x, used)
  | n + 1, off, x, used =>
    let next (b : Byte) (y : Stream) (u : Nat) : Except Stop (List Byte × Stream × Nat) :=
      match State.readBytes s core t d stage raw n (off + 1) y u with
      | .ok r => .ok (b :: r.1, r.2)
      | .error e => .error e
    match s.locate core t d stage off .load with
    | .error e => .error e
    | .ok (.slice a) =>
      if s.poison.contains (a / 64) then .error (.poison (s.loftBack (a / 64 * 64))) else next (s.readUnder (s.tenantDraw t) a) x used
    | .ok (.place p) =>
      if hostMark ≤ p then
        if used < x.got.length then next (nthByte x.got used) x (used + 1)
        else .error (.ask p (min (n + 1) (2 ^ 19 - p % 2 ^ 19)))
      else if s.poisoned p 1 then .error (.poison (paOf (p / 64 * 64)))
      else next (s.byteAt p) (x.touch p 1) used
    | .ok (.image e va o) =>
      if raw != (pteKind e == 3) then .error (.plain cProtection (va + o))
      else
        match s.needLine t.part x e va o with
        | .error f => .error f
        | .ok y =>
          if raw then
            match s.leafRest t (va + o) (pteAddr e + o) e .load with
            | .ok p =>
              if s.poisoned p 1 then .error (.poison (paOf (p / 64 * 64))) else next (s.byteAt p) (y.touch p 1) used
            | .wait c => .error (.wait c)
            | .away p => .error (.away p)
            | .miss v => .error (.miss v)
            | .trap c _ => .error (.plain c (va + o))
          else
            match s.imageByte t y e va o with
            | .ok b => next b (y.touch (slotAt t.part e o % 2 ^ 48) (64 * lineSize (y.line t.part e o) o)) used
            | .error f => .error f

/-- An element or index of n bytes from byte off of a descriptor's tile lies in two windows, or in two member slots, none
of them a range where every access raises TRANSLATION (R93, R121). -/
def straddles (d : BitVec 128) (stage : Option Nat) (off n : Nat) : Bool :=
  let mapped (a : Nat) : Bool := match windowOf a with | .reserved => false | .unmapped => false | _ => true
  let a := dBase d + off
  stage.isNone && dLvl d != 0 && mapped a && mapped (a + n - 1) && windowOf a != windowOf (a + n - 1)

/-- n bytes of one element or index, which keeps to one window (R93). -/
def State.readPart (s : State) (core : Nat) (t : Task) (d : BitVec 128) (stage : Option Nat) (raw : Bool) (n off : Nat)
    (x : Stream) (used : Nat) : Except Stop (List Byte × Stream × Nat) :=
  if straddles d stage off n then .error (.plain cProtection (dBase d + off)) else s.readBytes core t d stage raw n off x used

/-- Offset of byte n of the words a symbol stream delivers: the first SIZE units of each 4 KiB block of a
rule-compressed page, every byte of a plain page (R279). -/
def State.symbolOff (s : State) (core : Nat) (t : Task) : Nat → Nat → Nat → Stream → Except Stop (Nat × Stream)
  | 0, _, off, x => .ok (off, x)
  | fuel + 1, n, off, x =>
    let a := dBase x.tile + off
    let go (room : Nat) (y : Stream) : Except Stop (Nat × Stream) :=
      if n < room then .ok (off + n, y)
      else State.symbolOff s core t fuel (n - room) (off + (4096 - a % 4096)) y
    match s.locate core t x.tile none off .load with
    | .error e => .error e
    | .ok (.image e va o) =>
      if pteKind e != 3 then .error (.plain cProtection a)
      else
        match s.needLine t.part x e va o with
        | .error f => .error f
        | .ok y => go (64 * lineSize (y.line t.part e o) o - o % 4096) y
    | .ok _ => go (4096 - a % 4096) x

/-- An element widened to another format (R54): its value there, a free value where that format does not hold it. -/
def widen (fts : Sparse Half) (src dst : Tag) (bits : Nat) (free : Word) : Nat :=
  match fmtOf fts src, fmtOf fts dst with
  | some f, some g =>
    let c := convert (f.decode bits) g .rne .nan 0
    if c.ovf || c.flags &&& flIX != 0 then free.toNat % 2 ^ g.width else c.bits
  | _, _ => bits

/-- The scale code of an element: scale byte k lies k bytes after the tile's last byte (R68, R207). -/
def State.readScale (s : State) (core : Nat) (t : Task) (x : Stream) (stage : Option Nat) (e used : Nat) :
    Except Stop (List Byte × Stream × Nat) :=
  if x.cfg.mxs then s.readBytes core t x.tile stage false 1 (tileSpan x.tile x.memBits + x.scaleIndex e) x used
  else .ok ([], x, used)

/-- Row of an element: its own, or the one its index names, none for an index beyond the rows (R207). -/
def State.readRow (s : State) (core : Nat) (t : Task) (x : Stream) (e used : Nat) :
    Except Stop (Option Nat × Stream × Nat) :=
  let r := (x.rowCol e).1
  if !x.cfg.gath then .ok (some r, x, used)
  else
    let o := r / dCols x.idx * dStride x.idx + r % dCols x.idx * 4
    match s.readPart core t x.idx none false 4 o x used with
    | .error f => .error f
    | .ok (bs, y, u) => .ok (if natOf bs < dRows x.tile then some (natOf bs) else none, y, u)

/-- An element's bits in a token, none in a row whose index is out of range; its scale code, and the reads made so far
(R54). -/
def State.readElem (s : State) (core : Nat) (t : Task) (x : Stream) (stage : Option Nat) (e used : Nat) :
    Except Stop (Option Nat × List Byte × Stream × Nat) :=
  match s.readRow core t x e used with
  | .error f => .error f
  | .ok (none, y, u) =>
    (match s.readScale core t y stage e u with
      | .error f => .error f
      | .ok (sc, y2, u2) => .ok (none, sc, y2, u2))
  | .ok (some r, y, u) =>
    let w := y.memBits
    let q := y.at r (y.rowCol e).2
    match s.readPart core t y.tile stage false (max 1 (w / 8)) q.1 y u with
    | .error f => .error f
    | .ok (bs, y2, u2) =>
      let raw := natOf bs / 2 ^ q.2 % 2 ^ w
      let v := if x.cfg.wid then widen x.fts (dTag x.tile) x.wtag raw (Config.freeWord s.turn) else raw
      match s.readScale core t y2 stage e u2 with
      | .error f => .error f
      | .ok (sc, y3, u3) => .ok (some v, sc, y3, u3)

/-- The elements of a token one after another: value with element i at bit i x container, scale codes, and the elements in
rows whose index is out of range, each a free value. A masked element reads as zero (R208) under the scale code of its group,
as the other elements of its token do (DESIGN CHOICE, log 62: R208 does not say whether the code still applies to it); its
index is not read (DESIGN CHOICE, log 73: R207 does not say whether a masked element's index is checked). -/
def State.readElems (s : State) (core : Nat) (t : Task) (stage : Option Nat) :
    List Nat → Nat → Stream → Nat → Except Stop (Nat × List Byte × List Nat × Stream)
  | [], _, x, _ => .ok (0, [], [], x)
  | e :: es, i, x, used =>
    let one : Except Stop (Option Nat × List Byte × Stream × Nat) :=
      if x.masked e then
        (match s.readScale core t x stage e used with
          | .error f => .error f
          | .ok (sc, y, u) => .ok (some 0, sc, y, u))
      else s.readElem core t x stage e used
    match one with
    | .error f => .error f
    | .ok (v, sc, y, u) =>
      match State.readElems s core t stage es (i + 1) y u with
      | .error f => .error f
      | .ok (n, scs, bad, z) =>
        let w := v.getD ((Config.freeWord s.turn).toNat % 2 ^ x.cont)
        .ok (w * 2 ^ (x.cont * i) + n, sc ++ scs, (if v.isNone then [e] else []) ++ bad, z)

/-- How a token of elements es stands to rows out of range, given its elements in such rows: it is the first token of one
where it holds the first element of it that is not masked (R207). -/
def Stream.rowTok (x : Stream) (es bad : List Nat) : RowTok :=
  let head (e : Nat) : Nat :=
    let a := e - e % dCols x.tile
    (((List.range (dCols x.tile)).map fun k => a + k).find? fun k => !x.masked k).getD e
  if bad.any fun e => es.contains (head e) then .first else if bad.isEmpty then .good else .rest

/-- The four words of a group of a symbol stream, missing and masked ones zero (R208, R280). -/
def State.readGroup (s : State) (core : Nat) (t : Task) (x : Stream) (es : List Nat) : Except Stop (Nat × Stream) :=
  match es with
  | [] => .ok (0, x)
  | e :: rest =>
    let word : Except Stop (Nat × Stream) :=
      if x.masked e then .ok (0, x)
      else
        match s.symbolOff core t 1048576 (4 * e) 0 x with
        | .error f => .error f
        | .ok (off, y) =>
          match s.readPart core t x.tile none true 4 off y 0 with
          | .error f => .error f
          | .ok (bs, z, _) => .ok (natOf bs, z)
    match word with
    | .error f => .error f
    | .ok (v, z) =>
      match State.readGroup s core t z rest with
      | .error f => .error f
      | .ok (n, z2) => .ok (v + 2 ^ 32 * n, z2)

/-- Token k of lane l of a read stream, with the stream that has read it (R54, R208, R248, R280). A token of a row whose index
is out of range is delivered: the word that takes the row's first token traps, and words that take later tokens of the row in
earlier cycles find free values there (R207; log 73). -/
def State.readToken (s : State) (core : Nat) (t : Task) (x : Stream) (stage : Option Nat) (l k : Nat) :
    Except Stop (Token × Stream) :=
  let es := x.elems l k
  if x.cfg.rsym then
    match s.readGroup core t x es with
    | .error f => .error f
    | .ok (n, y) => .ok (⟨BitVec.ofNat 128 n, x.tag, es.all x.masked, [], 0, true, .good, false⟩, y)
  else if es.all x.masked then .ok (⟨0, x.tag, true, [], if x.cfg.matb then x.cfg.stg.toNat + 1 else 0, false, .good, false⟩, x)
  else
    match s.readElems core t stage es 0 x 0 with
    | .error f => .error f
    | .ok (n, mx, bad, y) =>
      .ok (⟨BitVec.ofNat 128 n, x.tag, false, mx, if x.cfg.matb then x.cfg.stg.toNat + 1 else 0, false, x.rowTok es bad, false⟩, y)

end Sys2Proof.Machine
end

