-- ==== Sys2Proof/Machine/MemOps.lean ====
section
/-!
DEFINITION. Loads, stores, vector loads and stores, atomics, WAITA, FENCE and CBAR (R177 to R183): what they check and
capture at issue. They perform in VARIABLE_LATENCY_COMPLETE and STORE_PERFORM.
-/

namespace Sys2Proof.Machine

/-! ### Loads and stores (R177, R178) -/

/-- A load of n bytes to X(A). -/
def loadOp (i : Instr) (n : Nat) (signed : Bool) (a : XReg) (m : MemOp) (s : State) : Out :=
  .next (issue i (keysOf [a, m.base, m.index]) (fun s t =>
    let x := s.ctx
    let ea := x.ea m n
    s.access t ea n n .load fun s1 p =>
      .done (s1.launch (s1.ctx.entry i (.load n signed a) 0 (x.x m.base) (x.x m.index) ea m.ord m.scope [⟨p, n, false⟩]))) s)

/-- A store of the low n bytes of X(A). -/
def storeOp (i : Instr) (n : Nat) (a : XReg) (m : MemOp) (s : State) : Out :=
  .next (issue i (keysOf [a, m.base, m.index]) (fun s t =>
    let x := s.ctx
    let ea := x.ea m n
    s.access t ea n n .store fun s1 p =>
      .done (s1.launch (s1.ctx.entry i (.store n) (x.x a) (x.x m.base) (x.x m.index) ea m.ord m.scope [⟨p, n, true⟩]))) s)

/-- LDB. -/
def execLdb (a : XReg) (m : MemOp) (s : State) : Out := loadOp (.ldb a m) 1 true a m s
/-- LDH. -/
def execLdh (a : XReg) (m : MemOp) (s : State) : Out := loadOp (.ldh a m) 2 true a m s
/-- LDW. -/
def execLdw (a : XReg) (m : MemOp) (s : State) : Out := loadOp (.ldw a m) 4 true a m s
/-- LDD. -/
def execLdd (a : XReg) (m : MemOp) (s : State) : Out := loadOp (.ldd a m) 8 true a m s
/-- LDBU. -/
def execLdbu (a : XReg) (m : MemOp) (s : State) : Out := loadOp (.ldbu a m) 1 false a m s
/-- LDHU. -/
def execLdhu (a : XReg) (m : MemOp) (s : State) : Out := loadOp (.ldhu a m) 2 false a m s
/-- LDWU. -/
def execLdwu (a : XReg) (m : MemOp) (s : State) : Out := loadOp (.ldwu a m) 4 false a m s
/-- STB. -/
def execStb (a : XReg) (m : MemOp) (s : State) : Out := storeOp (.stb a m) 1 a m s
/-- STH. -/
def execSth (a : XReg) (m : MemOp) (s : State) : Out := storeOp (.sth a m) 2 a m s
/-- STW. -/
def execStw (a : XReg) (m : MemOp) (s : State) : Out := storeOp (.stw a m) 4 a m s
/-- STD. -/
def execStd (a : XReg) (m : MemOp) (s : State) : Out := storeOp (.std a m) 8 a m s

/-- LDV: sixteen lanes, tag FT0 (R178). -/
def execLdv (a : VReg) (m : MemOp) (s : State) : Out :=
  .next (issue (.ldv a m) (fun c => keyV a ++ keysOf [m.base, m.index] c) (fun s t =>
    let x := s.ctx
    let ea := x.ea m 4
    s.access16 t ea .load fun s1 xs =>
      .done (s1.launch (s1.ctx.entry (.ldv a m) (.ldv a) 0 (x.x m.base) (x.x m.index) ea m.ord m.scope xs))) s)

/-- STV: sixteen lanes under any tag (R178). -/
def execStv (a : VReg) (m : MemOp) (s : State) : Out :=
  .next (issue (.stv a m) (fun c => keyV a ++ keysOf [m.base, m.index] c) (fun s t =>
    let x := s.ctx
    let ea := x.ea m 4
    s.access16 t ea .store fun s1 xs =>
      .done (s1.launch (s1.ctx.entry (.stv a m) (.stv (x.vec a).lanes) 0 (x.x m.base) (x.x m.index) ea m.ord m.scope xs))) s)

/-! ### Atomics (R179, R180) -/

/-- An atomic: the expected value of ACAS is captured as OPA. -/
def atomicOp (i : Instr) (k : AtKind) (a : XReg) (o : AtOp) (s : State) : Out :=
  .next (issue i (keysOf [a, o.base, o.src]) (fun s t =>
    let x := s.ctx
    let n := if o.wide then 8 else 4
    let ea := x.eaDisp o.base o.disp
    s.access t ea n n .atomic fun s1 p =>
      .done (s1.launch (s1.ctx.entry i (.atomic k n a) (if k == .cas then x.x a else 0) (x.x o.base) (x.x o.src) ea
        o.ord o.scope [⟨p, n, true⟩]))) s)

/-- AADD. -/
def execAadd (a : XReg) (o : AtOp) (s : State) : Out := atomicOp (.aadd a o) .add a o s
/-- AXCHG. -/
def execAxchg (a : XReg) (o : AtOp) (s : State) : Out := atomicOp (.axchg a o) .xchg a o s
/-- AAND. -/
def execAand (a : XReg) (o : AtOp) (s : State) : Out := atomicOp (.aand a o) .and a o s
/-- AOR. -/
def execAor (a : XReg) (o : AtOp) (s : State) : Out := atomicOp (.aor a o) .or a o s
/-- AXOR. -/
def execAxor (a : XReg) (o : AtOp) (s : State) : Out := atomicOp (.axor a o) .xor a o s
/-- ACAS. -/
def execAcas (a : XReg) (o : AtOp) (s : State) : Out := atomicOp (.acas a o) .cas a o s
/-- AMIN. -/
def execAmin (a : XReg) (o : AtOp) (s : State) : Out := atomicOp (.amin a o) .min a o s
/-- AMINU. -/
def execAminu (a : XReg) (o : AtOp) (s : State) : Out := atomicOp (.aminu a o) .minu a o s
/-- AMAX. -/
def execAmax (a : XReg) (o : AtOp) (s : State) : Out := atomicOp (.amax a o) .max a o s
/-- AMAXU. -/
def execAmaxu (a : XReg) (o : AtOp) (s : State) : Out := atomicOp (.amaxu a o) .maxu a o s

/-! ### Waiting (R181, R357) -/

/-- The copies of the device whose completion word lies at a place. -/
def State.copiesTo (s : State) (p : Nat) : List Copy :=
  s.cores.flatMap fun e => (e.2.copies.map fun c => c.2).filter fun c => c.word == p

/-- Agents that could end a wait: switched out, or with a fault in service (R357). A wait that only the driver can end
shows PEER_FAULT; one that also a resumption could end shows PEER_SWITCHED_OUT. -/
def peerCode (own : Nat) (agents : List (Bool × Bool)) : Nat :=
  if agents.isEmpty then own
  else if agents.all fun a => a.2 then wPeerFault
  else if agents.all fun a => a.1 || a.2 then wPeerOut
  else own

/-- A copy as an agent of R357. -/
def Copy.agent (c : Copy) : Bool × Bool := (c.st == .saved, c.st == .faulted)

/-- FSTR of the context of a task (R140). -/
def State.fstrOf (s : State) (t : Task) : Bool := (s.ctxInfo t.part t.ctx).fstr

/-- An access made at issue must still wait: for earlier accesses ordered before it, or for an own store to the same
bytes (R124). -/
def State.mustWait (s : State) (t : Task) (e : Entry) : Bool :=
  !s.ctx.mayPerform (s.fstrOf t) e s.ctx.fly || s.ctx.fly.any fun a => a.isStore && a.overlaps e

/-- The address lies in the own scratchpad or the cluster window (R110, R181). -/
def nearWindow (a : Word) : Bool := decide (a.toNat < 0x1400000)

/-- WAITA (R181). -/
def execWaita (a base : XReg) (scope : Scope) (disp : BitVec 32) (s : State) : Out :=
  .next (issue (.waita a base scope disp) (keysOf [a, base]) (fun s t =>
    let x := s.ctx
    let ea := x.eaDisp base disp
    if ea.toNat % 8 != 0 then .trap s cMisaligned ea
    else if !nearWindow ea then .trap s cProtection ea
    else
      s.access t ea 8 8 .load fun s1 p =>
        let e := s1.ctx.entry (.waita a base scope disp) (.load 8 false (.g 0)) 0 0 0 ea .plain .core [⟨p, 8, false⟩]
        if s1.mustWait t e then .stall
        else if BitVec.ofNat 64 (s1.natAt p 8) == x.x a then .done s1
        else .wait s1 (peerCode wSignal (((s1.copiesTo p).filter fun c => c.signal.isSome).map Copy.agent))) s)

/-! ### Fences and cluster barriers (R182, R183) -/

/-- FENCE (R126): a mark among the accesses in flight, which later accesses of its kinds stay behind. With the sl bit it
waits until every earlier store has performed, so that no later load has issued before. -/
def execFence (kind : BitVec 4) (scope : Scope) (s : State) : Out :=
  .next (issue (.fence kind scope) (fun _ => []) (fun s _ =>
    if kind.getLsbD 2 && s.ctx.fly.any Entry.isStore then .stall
    else
      let s1 := s.launch (s.ctx.entry (.fence kind scope) (.fence kind) 0 0 0 0 .plain scope [])
      .done (s1.setCtx { s1.ctx with fly := s1.ctx.trim s1.ctx.fly })) s)

/-- The cores of the live members of the cluster of a task on a core (R19). -/
def State.members (s : State) (core : Nat) (t : Task) : List Nat :=
  ((List.range 4).filter fun k => s.member core t k).map fun k => groupBase core + k

/-- The barrier of a cluster completes (R183): remote-access bits clear, and every other member's CBAR may complete. -/
def State.barrierDone (s : State) (core : Nat) (t : Task) : State :=
  (s.members core t).foldl (fun s j =>
    s.setBank j { s.bank j with remote := false, arrived := if j = core then .no else .released }) s

/-- CBAR (R183). While it waits for the member's own earlier accesses, before it arrives, it shows NONE, which the watchdog
does not count (DESIGN CHOICE, log 73: R183 names CLUSTER_BARRIER for the wait for the other members only). -/
def execCbar (s : State) : Out :=
  .next (issue .cbar (fun _ => []) (fun s t =>
    let x := s.ctx
    if x.fly.any fun e => e.isLoad || e.isStore then .stall
    else if !t.clustered then .done s
    else if x.arrived == .released then .done (s.setCtx { x with arrived := .no })
    else
      let s1 := s.setCtx { x with arrived := .yes }
      if (s1.members s.cur t).all fun j => (s1.bank j).arrived == .yes then .done (s1.barrierDone s.cur t)
      else .wait s1 wCluster) s)

end Sys2Proof.Machine
end

