-- ==== Sys2Proof/Machine/Flags.lean ====
section
/-!
DEFINITION. The sticky flags of the vector lanes (R88, R89).
-/

namespace Sys2Proof.Machine

/-- The VSTAT bits of one lane's flags NV, DZ, OF, UF, IX (R88): flag f of lane l is bit 16 f + l. -/
def laneFlags (l : Nat) (fl : BitVec 5) : BitVec 80 :=
  (List.range 5).foldl (fun v f => if fl.getLsbD f then v ||| ((1 : BitVec 80) <<< (16 * f + l)) else v) 0

/-- VSTAT bits of the active lanes of a result (R89): none with SF = 1. -/
def vecFlags (sf : Bool) (mask : Mask) (fl : Nat → BitVec 5) : BitVec 80 :=
  if sf then 0
  else (List.range 16).foldl (fun v l => if mask.getLsbD l then v ||| laneFlags l (fl l) else v) 0

/-- Flags are ORed into VSTAT (R89). -/
def Context.raise (c : Context) (fl : BitVec 80) : Context := { c with vstat := c.vstat ||| fl }

/-- The sixteen bits of one flag (R88, R200). -/
def Context.flagBits (c : Context) (f : Nat) : Mask := c.vstat.extractLsb' (16 * f) 16

/-- Clear the bits of one flag in the lanes of a mask (R200). -/
def Context.clearFlag (c : Context) (f : Nat) (m : Mask) : Context :=
  { c with vstat := c.vstat &&& ~~~((m.zeroExtend 80) <<< (16 * f)) }

/-- The entry updates or reads the sticky flags when it completes. -/
def Entry.usesFlags (e : Entry) : Bool :=
  match e.op with | .vec _ _ _ _ _ | .pred _ _ _ | .flags _ _ _ _ => true | _ => false

end Sys2Proof.Machine
end

