-- ==== Sys2Proof/Machine/Vector.lean ====
section
/-!
DEFINITION. Vector instructions (R190 to R202): results are formed at issue from captured operands; the destination and
the sticky flags change when the instruction completes.
-/

namespace Sys2Proof.Machine

/-- Sixteen lanes from a function of the lane. -/
def lanesOf (f : Nat → Half) : Lanes := Vector.ofFn fun l => f l.val

/-- Lane l of a vector register. -/
def VecReg.lane (v : VecReg) (l : Nat) : Half := v.lanes.toList.getD l 0

/-- The tag names a register that holds no valid format (R62). -/
def Context.badTag (c : Context) (t : Tag) : Bool := classOf c.ft t == .invalid

/-- FORMAT_TAG with the offending tag (R190, R342). -/
def tagTrap (s : State) (t : Tag) : Res := .trap s cFormatTag (t.zeroExtend 64)

/-- The first of some tags that is not accepted. -/
def firstBad (ok : Tag → Bool) : List Tag → Option Tag
  | [] => none
  | t :: ts => if ok t then firstBad ok ts else some t

/-- Go on if every tag is accepted (R190). -/
def withTags (s : State) (ok : Tag → Bool) (ts : List Tag) (k : Res) : Res :=
  match firstBad ok ts with
  | some t => tagTrap s t
  | none => k

/-- Scoreboard keys of vector registers and a predicate. -/
def keysV (vs : List VReg) (p : PReg) : List Nat := vs.flatMap keyV ++ keyP p

/-- The instruction joins those unfinished with a vector result. -/
def launchVec (i : Instr) (a : VReg) (f : Nat → Half) (mask : Mask) (tag : Tag) (flags : BitVec 80) (s : State) : State :=
  s.launch (s.ctx.entry i (.vec a (lanesOf f) mask tag flags) 0 0 0 0 .plain .core [])

/-! ### Floating-point arithmetic (R192) -/

/-- A lane-wise binary32 operation of the sources, which must carry FT5. -/
def fpOp (i : Instr) (a : VReg) (srcs : List VReg) (f : VCtl) (op : Context → Nat → Half × BitVec 5) (s : State) : Out :=
  .next (issue i (fun _ => keysV (a :: srcs) f.pred) (fun s _ =>
    let c := s.ctx
    withTags s (· == 5) (srcs.map fun r => (c.vec r).tag)
      (.done (launchVec i a (fun l => (op c l).1) (c.pred f.pred) 5
        (vecFlags f.sf (c.pred f.pred) fun l => (op c l).2) s))) s)

/-- A two-source operation on lanes of B and C. -/
def fp2 (i : Instr) (a b c : VReg) (f : VCtl) (op : Half → Half → Half × BitVec 5) (s : State) : Out :=
  fpOp i a [b, c] f (fun x l => op ((x.vec b).lane l) ((x.vec c).lane l)) s

/-- A one-source operation on lanes of B. -/
def fp1 (i : Instr) (a b : VReg) (f : VCtl) (op : Half → Half × BitVec 5) (s : State) : Out :=
  fpOp i a [b] f (fun x l => op ((x.vec b).lane l)) s

/-- VADD. -/
def execVadd (a b c : VReg) (f : VCtl) (s : State) : Out := fp2 (.vadd a b c f) a b c f (f32Add f.rm) s
/-- VSUB. -/
def execVsub (a b c : VReg) (f : VCtl) (s : State) : Out := fp2 (.vsub a b c f) a b c f (f32Sub f.rm) s
/-- VMUL. -/
def execVmul (a b c : VReg) (f : VCtl) (s : State) : Out := fp2 (.vmul a b c f) a b c f (f32Mul f.rm) s
/-- VFMA: B x C + A. -/
def execVfma (a b c : VReg) (f : VCtl) (s : State) : Out :=
  fpOp (.vfma a b c f) a [a, b, c] f
    (fun x l => f32Fma f.rm false ((x.vec a).lane l) ((x.vec b).lane l) ((x.vec c).lane l)) s
/-- VFMS: A - B x C. -/
def execVfms (a b c : VReg) (f : VCtl) (s : State) : Out :=
  fpOp (.vfms a b c f) a [a, b, c] f
    (fun x l => f32Fma f.rm true ((x.vec a).lane l) ((x.vec b).lane l) ((x.vec c).lane l)) s
/-- VMIN. -/
def execVmin (a b c : VReg) (f : VCtl) (s : State) : Out := fp2 (.vmin a b c f) a b c f f32Min s
/-- VMAX. -/
def execVmax (a b c : VReg) (f : VCtl) (s : State) : Out := fp2 (.vmax a b c f) a b c f f32Max s
/-- VABS. -/
def execVabs (a b : VReg) (f : VCtl) (s : State) : Out := fp1 (.vabs a b f) a b f f32Abs s
/-- VNEG. -/
def execVneg (a b : VReg) (f : VCtl) (s : State) : Out := fp1 (.vneg a b f) a b f f32Neg s
/-- VDIV. -/
def execVdiv (a b c : VReg) (f : VCtl) (s : State) : Out := fp2 (.vdiv a b c f) a b c f (f32Div f.rm) s
/-- VSQRT. -/
def execVsqrt (a b : VReg) (f : VCtl) (s : State) : Out := fp1 (.vsqrt a b f) a b f (f32Sqrt f.rm) s
/-- VRCP. -/
def execVrcp (a b : VReg) (f : VCtl) (s : State) : Out := fp1 (.vrcp a b f) a b f (f32Rcp f.rm) s
/-- VRSQ. -/
def execVrsq (a b : VReg) (f : VCtl) (s : State) : Out := fp1 (.vrsq a b f) a b f (f32Rsq f.rm) s

/-! ### Compare and select (R193, R194) -/

/-- A binary32 comparison: its result and flags; signalling comparisons raise invalid for every NaN. -/
def f32Cmp (signals : Bool) (rel : Val → Val → Bool) (b c : Half) : Bool × BitVec 5 :=
  let x := f32 b
  let y := f32 c
  if x.isNan || y.isNan then (false, if signals then flNV else sigFlag [x, y]) else (rel x y, 0)

/-- A compare of lanes into a predicate (R193): sources both FT5 or both FT3. -/
def cmpOp (i : Instr) (a : PReg) (b c : VReg) (pred : PReg) (sf u : Bool) (flt : Half → Half → Bool × BitVec 5)
    (int : Half → Half → Bool) (s : State) : Out :=
  .next (issue i (fun _ => keyP a ++ keysV [b, c] pred) (fun s _ =>
    let x := s.ctx
    let tb := (x.vec b).tag
    let tc := (x.vec c).tag
    let m := x.pred pred
    let put (r : Nat → Bool) (fl : BitVec 80) : Res :=
      let bits := (List.range 16).foldl (fun (w : Mask) l => if m.getLsbD l && r l then w ||| ((1 : Mask) <<< l) else w) 0
      .done (s.launch (x.entry i (.pred a bits fl) 0 0 0 0 .plain .core []))
    if tb == 5 && tc == 5 then
      if u then .trap s cIllegal (word0 i)
      else
        let r (l : Nat) : Bool × BitVec 5 := flt ((x.vec b).lane l) ((x.vec c).lane l)
        put (fun l => (r l).1) (vecFlags sf m fun l => (r l).2)
    else if tb == 3 && tc == 3 then put (fun l => int ((x.vec b).lane l) ((x.vec c).lane l)) 0
    else tagTrap s (if tb == 5 || tb == 3 then tc else tb)) s)

/-- VCMPEQ. -/
def execVcmpeq (a : PReg) (b c : VReg) (pred : PReg) (sf u : Bool) (s : State) : Out :=
  cmpOp (.vcmpeq a b c pred sf u) a b c pred sf u (f32Cmp false Val.eqv) (fun x y => x == y) s
/-- VCMPLT. -/
def execVcmplt (a : PReg) (b c : VReg) (pred : PReg) (sf u : Bool) (s : State) : Out :=
  cmpOp (.vcmplt a b c pred sf u) a b c pred sf u (f32Cmp true Val.lt)
    (fun x y => if u then x.ult y else x.slt y) s
/-- VCMPLE. -/
def execVcmple (a : PReg) (b c : VReg) (pred : PReg) (sf u : Bool) (s : State) : Out :=
  cmpOp (.vcmple a b c pred sf u) a b c pred sf u (f32Cmp true fun x y => !Val.lt y x)
    (fun x y => if u then x.ule y else x.sle y) s

/-- VSEL: every lane is written; the sources carry one tag (R194). -/
def execVsel (a b c : VReg) (pred : PReg) (s : State) : Out :=
  .next (issue (.vsel a b c pred) (fun _ => keysV [a, b, c] pred) (fun s _ =>
    let x := s.ctx
    let tb := (x.vec b).tag
    let tc := (x.vec c).tag
    withTags s (fun t => !x.badTag t) [tb, tc]
      (if tb != tc then tagTrap s tc
       else .done (launchVec (.vsel a b c pred) a
         (fun l => if (x.pred pred).getLsbD l then (x.vec b).lane l else (x.vec c).lane l) 0xFFFF tb 0 s))) s)

/-! ### Bitwise, shift, integer (R195, R196) -/

/-- A lane-wise operation without flags: the tags it accepts and its result tag. -/
def laneOp (i : Instr) (a : VReg) (srcs : List VReg) (pred : PReg) (ok : Context → Tag → Bool) (tag : Context → Tag)
    (op : Context → Nat → Half) (s : State) : Out :=
  .next (issue i (fun _ => keysV (a :: srcs) pred) (fun s _ =>
    let c := s.ctx
    withTags s (ok c) (srcs.map fun r => (c.vec r).tag)
      (.done (launchVec i a (op c) (c.pred pred) (tag c) 0 s))) s)

/-- Every class, but no invalid format (R190). -/
def anyTag (c : Context) (t : Tag) : Bool := !c.badTag t

/-- A bitwise operation (R195). -/
def bitOp (i : Instr) (a b c : VReg) (pred : PReg) (op : Half → Half → Half) (s : State) : Out :=
  laneOp i a [b, c] pred anyTag (fun _ => 0) (fun x l => op ((x.vec b).lane l) ((x.vec c).lane l)) s

/-- VAND. -/
def execVand (a b c : VReg) (pred : PReg) (s : State) : Out := bitOp (.vand a b c pred) a b c pred (· &&& ·) s
/-- VOR. -/
def execVor (a b c : VReg) (pred : PReg) (s : State) : Out := bitOp (.vor a b c pred) a b c pred (· ||| ·) s
/-- VXOR. -/
def execVxor (a b c : VReg) (pred : PReg) (s : State) : Out := bitOp (.vxor a b c pred) a b c pred (· ^^^ ·) s

/-- A shift by a register's lanes or by EXTRA[4:0] (R195). -/
def shiftOp (i : Instr) (a b : VReg) (n : VAmount) (pred : PReg) (op : Half → Nat → Half) (s : State) : Out :=
  match n with
  | .reg c => laneOp i a [b, c] pred anyTag (fun _ => 0) (fun x l => op ((x.vec b).lane l) (((x.vec c).lane l).toNat % 32)) s
  | .imm k => laneOp i a [b] pred anyTag (fun _ => 0) (fun x l => op ((x.vec b).lane l) k.toNat) s

/-- VSHL. -/
def execVshl (a b : VReg) (n : VAmount) (pred : PReg) (s : State) : Out :=
  shiftOp (.vshl a b n pred) a b n pred (fun x k => x <<< k) s
/-- VSHR. -/
def execVshr (a b : VReg) (n : VAmount) (pred : PReg) (s : State) : Out :=
  shiftOp (.vshr a b n pred) a b n pred (fun x k => x >>> k) s
/-- VSRA. -/
def execVsra (a b : VReg) (n : VAmount) (pred : PReg) (s : State) : Out :=
  shiftOp (.vsra a b n pred) a b n pred (fun x k => x.sshiftRight k) s

/-- Clamp of an exact result under SAT (R196, R252). -/
def satResult (sat : Sat) (x : Int) : Half :=
  match sat with
  | .wrap => BitVec.ofInt 32 x
  | .signed => BitVec.ofInt 32 (if x < -(2 ^ 31) then -(2 ^ 31) else if x > 2 ^ 31 - 1 then 2 ^ 31 - 1 else x)
  | .unsigned => BitVec.ofInt 32 (if x < 0 then 0 else if x > 2 ^ 32 - 1 then 2 ^ 32 - 1 else x)

/-- A lane as SAT reads it: signed, or unsigned under .usat (R196, R252). -/
def satRead (sat : Sat) (x : Half) : Int := if sat == .unsigned then (x.toNat : Int) else x.toInt

/-- An integer operation on FT3 lanes (R196). -/
def intOp (i : Instr) (a b c : VReg) (sat : Sat) (pred : PReg) (op : Int → Int → Int) (s : State) : Out :=
  laneOp i a [b, c] pred (fun _ t => t == 3) (fun _ => 3)
    (fun x l => satResult sat (op (satRead sat ((x.vec b).lane l)) (satRead sat ((x.vec c).lane l)))) s

/-- VIADD. -/
def execViadd (a b c : VReg) (sat : Sat) (pred : PReg) (s : State) : Out :=
  intOp (.viadd a b c sat pred) a b c sat pred (· + ·) s
/-- VISUB. -/
def execVisub (a b c : VReg) (sat : Sat) (pred : PReg) (s : State) : Out :=
  intOp (.visub a b c sat pred) a b c sat pred (· - ·) s
/-- VIMUL. -/
def execVimul (a b c : VReg) (sat : Sat) (pred : PReg) (s : State) : Out :=
  intOp (.vimul a b c sat pred) a b c sat pred (· * ·) s

/-! ### Permute, reduce, move (R197, R198) -/

/-- VPERM: the index register may carry any tag (R197). -/
def execVperm (a b c : VReg) (pred : PReg) (s : State) : Out :=
  .next (issue (.vperm a b c pred) (fun _ => keysV [a, b, c] pred) (fun s _ =>
    let x := s.ctx
    withTags s (anyTag x) [(x.vec b).tag]
      (.done (launchVec (.vperm a b c pred) a (fun l => (x.vec b).lane (((x.vec c).lane l).toNat % 16))
        (x.pred pred) (x.vec b).tag 0 s))) s)

/-- Active lanes of a vector, in order. -/
def activeLanes (v : VecReg) (m : Mask) : List Half := ((List.range 16).filter fun l => m.getLsbD l).map v.lane

/-- Exponent of the highest bit of a finite nonzero value. -/
def Val.topExp : Val → Option Int
  | .fin _ m e => if m = 0 then none else some (e + (bitLen m : Int) - 1)
  | _ => none

/-- A binary32 value as a term of a tun sum (R76). -/
def Val.term : Val → Term
  | .nan _ => .nan
  | .inf n => .inf n
  | .beyond n => .beyond n
  | .fin n m e => .fin (Val.intAt n m e e) e

/-- Largest of some integers, if any. -/
def maxInt : List Int → Option Int
  | [] => none
  | x :: xs => match maxInt xs with
    | none => some x
    | some y => some (if x < y then y else x)

/-- VREDADD on FT5: an exact sum, drained once (R198). The tun accumulator is anchored under R75 over the sixteen lanes
taken as one block (log 23). -/
def redAddF (rm : Rm) (xs : List Half) : Half × BitVec 5 :=
  let vs := xs.map f32
  let anchor := clampAnchor ((maxInt (vs.filterMap Val.topExp)).getD 93 - 93)
  let t0 : Tun := { Tun.start with anchor := anchor, started := true }
  let t := vs.foldl (fun t v => t.acc v.term) t0
  let bothInf := (vs.any fun v => v == .inf false) && vs.any fun v => v == .inf true
  let (r, fl) := toF32 rm (t.value (.fin false 1 0) (.fin false 1 0))
  (r, fl ||| sigFlag vs ||| (if bothInf then flNV else 0))

/-- VREDADD of erratum 0x0001: binary32 in lane order, each step rounded (R299). A NaN of the first lane counts as that of any
other (R86, R89). -/
def redAddOld (rm : Rm) : List Half → Half × BitVec 5
  | [] => (0, 0)
  | x :: xs =>
    xs.foldl (fun r y => let q := f32Add rm r.1 y; (q.1, r.2 ||| q.2)) (if (f32 x).isNan then f32Nan else x, sigFlag [f32 x])

/-- VREDADD on FT3 (R198). -/
def redAddI (sat : BitVec 2) (xs : List Half) : Half :=
  let u : Sat := if sat == 0 then .wrap else if sat == 1 then .signed else .unsigned
  satResult u (xs.foldl (fun n x => n + satRead u x) 0)

/-- VREDMAX on FT3 (R198). -/
def redMaxI (sat : BitVec 2) (xs : List Half) : Half :=
  if sat == 2 then xs.foldl (fun m x => if m.ult x then x else m) 0
  else xs.foldl (fun m x => if m.slt x then x else m) 0x80000000

/-- VREDMAX on FT5 (R198): the IEEE maximum, minus infinity of no lane. -/
def redMaxF (xs : List Half) : Half × BitVec 5 :=
  xs.foldl (fun r x => let q := f32Max r.1 x; (q.1, r.2 ||| q.2)) (0xFF800000, 0)

/-- A reduction into lane 0 (R198); the field rules are checked once the tag is known. -/
def redOp (i : Instr) (a b : VReg) (f : VCtl) (sat : BitVec 2) (add : Bool) (flt : State → Task → List Half → Half × BitVec 5)
    (int : List Half → Half) (s : State) : Out :=
  .next (issue i (fun _ => keysV [a, b] f.pred) (fun s t =>
    let x := s.ctx
    let v := x.vec b
    let xs := activeLanes v (x.pred f.pred)
    let put (r : Half) (fl : BitVec 5) (tag : Tag) : Res :=
      .done (launchVec i a (fun l => if l = 0 then r else 0) 0xFFFF tag (if f.sf then 0 else laneFlags 0 fl) s)
    if v.tag == 5 then
      if sat != 0 || (add && f.rm == .stoch) then .trap s cIllegal (word0 i)
      else put (flt s t xs).1 (flt s t xs).2 5
    else if v.tag == 3 then
      if f.rm != .rne || f.sf || sat == 3 || (sat == 1 && !add) then .trap s cIllegal (word0 i) else put (int xs) 0 3
    else tagTrap s v.tag) s)

/-- VREDADD. -/
def execVredadd (a b : VReg) (f : VCtl) (sat : BitVec 2) (s : State) : Out :=
  redOp (.vredadd a b f sat) a b f sat true
    (fun s t xs => if ((s.ctxInfo t.part t.ctx).compat.getD 0).getLsbD 0 then redAddOld f.rm xs else redAddF f.rm xs)
    (redAddI sat) s

/-- VREDMAX. -/
def execVredmax (a b : VReg) (f : VCtl) (sat : BitVec 2) (s : State) : Out :=
  redOp (.vredmax a b f sat) a b f sat false (fun _ _ xs => redMaxF xs) (redMaxI sat) s

/-- VBCAST. -/
def execVbcast (a b : VReg) (k : BitVec 4) (pred : PReg) (s : State) : Out :=
  laneOp (.vbcast a b k pred) a [b] pred anyTag (fun x => (x.vec b).tag) (fun x _ => (x.vec b).lane k.toNat) s

/-- VMOV. -/
def execVmov (a b : VReg) (pred : PReg) (s : State) : Out :=
  laneOp (.vmov a b pred) a [b] pred anyTag (fun x => (x.vec b).tag) (fun x l => (x.vec b).lane l) s

/-- VINS: one lane, tag unchanged. -/
def execVins (a : VReg) (b : XReg) (k : BitVec 4) (s : State) : Out :=
  .next (issue (.vins a b k) (fun c => keyV a ++ keysOf [b] c) (fun s _ =>
    let x := s.ctx
    .done (s.launch (x.entry (.vins a b k) (.ins a k) 0 (x.x b) 0 0 .plain .core []))) s)

/-- VEXT. -/
def execVext (a : XReg) (b : VReg) (z : Bool) (k : BitVec 4) (s : State) : Out :=
  .next (issue (.vext a b z k) (fun c => keyV b ++ keysOf [a] c) (fun s _ =>
    let x := s.ctx
    let v := (x.vec b).lane k.toNat
    withTags s (anyTag x) [(x.vec b).tag]
      (.done (s.launch (x.entry (.vext a b z k) (.toX a (if z then v.zeroExtend 64 else v.signExtend 64))
        0 0 0 0 .plain .core [])))) s)

/-! ### Tags, flags, conversion, draws (R199 to R202) -/

/-- VTAG: TF is not checked (R199), the tag of the source as for any vector instruction (R190). -/
def execVtag (a b : VReg) (t : Tag) (s : State) : Out :=
  laneOp (.vtag a b t) a [b] 0 anyTag (fun _ => t) (fun x l => (x.vec b).lane l) s

/-- VFLAGS: it completes after every earlier vector instruction's flag update (R200). -/
def execVflags (a : XReg) (flag : BitVec 3) (clr : Bool) (pred : PReg) (s : State) : Out :=
  .next (issue (.vflags a flag clr pred) (fun c => keysOf [a] c ++ keyP pred) (fun s _ =>
    let x := s.ctx
    .done (s.launch (x.entry (.vflags a flag clr pred) (.flags a flag clr (x.pred pred)) 0 0 0 0 .plain .core []))) s)

/-- Sub-container k of w bits of a lane (R201). -/
def subGet (x : Half) (w k : Nat) : Nat := x.toNat / 2 ^ (w * k) % 2 ^ w

/-- Replace sub-container k of w bits. -/
def subPut (x : Half) (w k v : Nat) : Half :=
  BitVec.ofNat 32 (x.toNat - subGet x w k * 2 ^ (w * k) + v % 2 ^ w * 2 ^ (w * k))

/-- A format that fits a lane can be the source of a conversion (R64). -/
def cvtSource (ft : Sparse Half) (t : Tag) : Option Fmt := if t == 4 then none else fmtOf ft t

/-- VCVT (R201). -/
def execVcvt (a b : VReg) (t : Tag) (f : VCtl) (ov : Ovf) (dsel ssel : BitVec 3) (s : State) : Out :=
  let i : Instr := .vcvt a b t f ov dsel ssel
  .next (issue i (fun _ => keysV [a, b] f.pred) (fun s _ =>
    let x := s.ctx
    let vb := x.vec b
    match cvtSource x.ft vb.tag, fmtOf x.ft t with
    | none, _ => tagTrap s vb.tag
    | some _, none => tagTrap s t
    | some fs, some fd =>
      let ws := containerOf x.ft vb.tag
      let wd := containerOf x.ft t
      if 32 / ws ≤ ssel.toNat || 32 / wd ≤ dsel.toNat then .trap s cIllegal (word0 i)
      else
        let m := x.pred f.pred
        let r (l : Nat) : Conv := convert (fs.decode (subGet (vb.lane l) ws ssel.toNat)) fd f.rm ov
          (gen x.gkey (x.gctr + BitVec.ofNat 128 l))
        let big := (List.range 16).foldl (fun (w : Mask) l =>
          if m.getLsbD l && (r l).ovf && ov == .trap then w ||| ((1 : Mask) <<< l) else w) 0
        if big != 0 then .trap s cConvert (big.zeroExtend 64)
        else
          let s1 := launchVec i a (fun l => subPut ((x.vec a).lane l) wd dsel.toNat (r l).bits) m t
            (vecFlags f.sf m fun l => (r l).flags) s
          .done (if f.rm == .stoch then s1.mapCtx fun c => { c with gctr := c.gctr + 16 } else s1)) s)

/-- VRNG (R202). -/
def execVrng (a : VReg) (pred : PReg) (s : State) : Out :=
  .next (issue (.vrng a pred) (fun _ => keysV [a] pred) (fun s _ =>
    let x := s.ctx
    let s1 := launchVec (.vrng a pred) a (fun l => gen x.gkey (x.gctr + BitVec.ofNat 128 l)) (x.pred pred) 0 0 s
    .done (s1.mapCtx fun c => { c with gctr := c.gctr + 16 })) s)

end Sys2Proof.Machine
end

