-- ==== Sys2Proof/Machine/Perform.lean ====
section
/-!
DEFINITION. How issued instructions finish: loads and other variable-latency instructions complete, stores and atomics
perform, in any order that R124 to R127 allow; and ROWOPEN takes a slot (R115, R116).
-/

namespace Sys2Proof.Machine

/-! ### Bytes a load reads -/

/-- Data bytes of a store. -/
def Entry.data (e : Entry) : List Byte :=
  match e.op with
  | .store n => bytesOf e.opa.toNat n
  | .stv v => v.toList.flatMap fun x => bytesOf x.toNat 4
  | _ => []

/-- The byte an unperformed plain store would put at a place, if it covers it. -/
def Entry.offers (e : Entry) (p : Nat) : Option Byte :=
  let byte (x : Span × Nat) : Option Byte :=
    if x.1.place ≤ p && p < x.1.place + x.1.n then e.data[x.2 + (p - x.1.place)]? else none
  let rec starts : List Span → Nat → List (Span × Nat)
    | [], _ => []
    | x :: xs, k => (x, k) :: starts xs (k + x.n)
  (starts e.spans 0).findSome? byte

/-- The byte at a place for a load after the given earlier entries: the latest own store that covers it, else memory
(R122). -/
def State.loadByte (s : State) (earlier : List Entry) (p : Nat) : Byte :=
  match earlier.reverse.findSome? fun e => e.offers p with
  | some b => b
  | none => s.seenByte p

/-- Spans that lie with the host. -/
def Entry.hostSpans (e : Entry) : List Span := e.spans.filter fun x => decide (hostMark ≤ x.place) && !x.wr

/-- The run of the host's bytes that an entry still has to ask for (R138). -/
def nextHost : List Span → Nat → Option Span
  | [], _ => none
  | x :: xs, k => if k < x.n then some x else nextHost xs (k - x.n)

/-- The bytes of the spans an entry reads, the host's from what has come. -/
def State.gather (s : State) (earlier : List Entry) : List Span → List Byte → List Byte
  | [], _ => []
  | x :: xs, got =>
    if x.wr then s.gather earlier xs got
    else if hostMark ≤ x.place then got.take x.n ++ s.gather earlier xs (got.drop x.n)
    else ((List.range x.n).map fun k => s.loadByte earlier (x.place + k)) ++ s.gather earlier xs got

/-! ### Rows (R115, R116) -/

/-- The OPEN rows that the accesses of some spans close (R115). -/
def State.yieldRows (s : State) (xs : List Span) : State :=
  xs.foldl (fun s x => s.yieldRun x.place x.n) s

/-- Handle of a slot (R115). -/
def rowHandle (chan k : Nat) (seq : BitVec 16) : Word :=
  BitVec.ofNat 64 (k + chan % 64 * 4 + chan / 64 * 256 + seq.toNat * 65536)

/-- ROWOPEN by a task chain at a holdable place (R116). -/
def State.rowOpen (s : State) (owner p : Nat) : State × Word :=
  let chan := rowChan p
  let row := p / 1024
  let slot (k : Nat) : RowSlot := s.rowSlot chan k
  match (List.range 4).find? fun k => (slot k).live && (slot k).owner == owner && (slot k).row == row with
  | some k => (s, rowHandle chan k (slot k).seq)
  | none =>
    let held (r : RowSlot) : Bool := r.st == .keep || r.st == .drop
    let bar (r : RowSlot) : Bool :=
      r.live && ((r.owner != owner && r.row == row)
        || (r.owner != owner && held r && sameSub r.row row)
        || (r.owner == owner && sameSub r.row row))
    if (List.range 4).any fun k => bar (slot k) then (s, -1)
    else
      let s1 := s.rowYield p
      match (List.range 4).find? fun k => (s1.rowSlot chan k).st == .free with
      | none => (s, -1)
      | some k =>
        let r := s1.rowSlot chan k
        (s1.setRowSlot chan k ⟨.opened, owner, row, r.seq + 1, false⟩, rowHandle chan k (r.seq + 1))

/-! ### Completion -/

/-- The k-th entry that is no fence mark, with those before and after it. -/
def splitEntry : List Entry → Nat → Option (List Entry × Entry × List Entry)
  | [], _ => none
  | e :: es, k =>
    if e.isFence then (splitEntry es k).map fun r => (e :: r.1, r.2.1, r.2.2)
    else if k = 0 then some ([], e, es)
    else (splitEntry es (k - 1)).map fun r => (e :: r.1, r.2.1, r.2.2)

/-- A vector instruction's flag update keeps its place towards VFLAGS (R200). -/
def flagsOrdered (e : Entry) (earlier : List Entry) : Bool :=
  match e.op with
  | .flags _ _ _ _ => !earlier.any Entry.usesFlags
  | .vec _ _ _ _ _ | .pred _ _ _ => !earlier.any fun a => match a.op with | .flags _ _ _ _ => true | _ => false
  | _ => true

/-- Lanes of a mask from a new vector, the others kept. -/
def mergeLanes (old new : Lanes) (m : Mask) : Lanes :=
  Vector.ofFn fun l => if m.getLsbD l.val then new[l] else old[l]

/-- Result of a register-only entry. -/
def Context.finish (c : Context) (e : Entry) : Context :=
  match e.op with
  | .int k d => c.setXAt e.wpe d (intResult k e.opb e.opc)
  | .toX d v => c.setXAt e.wpe d v
  | .vec d new m tag fl => (c.setVec d ⟨mergeLanes (c.vec d).lanes new m, tag⟩).raise fl
  | .ins d k => c.setVec d ⟨(c.vec d).lanes.setIfInBounds k.toNat (e.opb.truncate 32), (c.vec d).tag⟩
  | .pred d m fl => (c.setPred d m).raise fl
  | .flags d f clr m =>
    let c1 := c.setXAt e.wpe d ((c.flagBits f.toNat &&& m).zeroExtend 64)
    if clr then c1.clearFlag f.toNat m else c1
  | _ => c

/-- A bank of a core: the second one, or the active one. -/
def State.bankOf (s : State) (core : Nat) (second : Bool) : Context :=
  if second then (s.core core).other else (s.core core).bank

/-- Put a bank of a core. -/
def State.setBankOf (s : State) (core : Nat) (second : Bool) (c : Context) : State :=
  if second then s.setCore core { s.core core with other := c } else s.setCore core { s.core core with bank := c }

/-- A poisoned line met when an issued access of a bank performs: the trap is taken at the next boundary of its task (R342,
R423). -/
def State.lateCheck (s : State) (core : Nat) (second : Bool) (t : Task) (p : Nat) : State :=
  let s1 := s.logPoison t.part p
  let c := s1.bankOf core second
  let a : Async := ⟨BitVec.ofNat 8 cMachineCheck, false, 0, false, paOf p, true⟩
  s1.setBankOf core second { c.wake with asyncs := c.asyncs ++ [a] }

/-- Sixteen lanes from 64 bytes. -/
def lanesFrom (bs : List Byte) : Lanes := lanesOf fun l => BitVec.ofNat 32 (bitsOf ((bs.drop (4 * l)).take 4))

/-- Complete a load, LDV or LDT whose bytes have all come. A load of the error log marks its entry read (R424). -/
def State.finishLoad (s : State) (core : Nat) (e : Entry) (bs : List Byte) : State :=
  match e.op with
  | .load n sg d =>
    let p := (e.spans.headD ⟨0, 0, false⟩).place
    let s1 := if isReg p then s.regSeen (p % 2 ^ 48 - 0x080000300000) else s
    s1.setBank core ((s1.bank core).setXAt e.wpe d (loadExt n sg (bitsOf bs)))
  | .ldv d => s.setBank core ((s.bank core).setVec d ⟨lanesFrom bs, 0⟩)
  | .ldt d _ da db tr =>
    let s1 := s.ldtWrite core da db (s.bank core).ft tr (e.spans.filter fun x => !x.wr) (e.spans.filter fun x => x.wr) bs
    s1.setBank core ((s1.bank core).setDesc d (dSetTag ((s1.bank core).desc d) (dTag db)))
  | _ => s

/-- An LDT. -/
def Entry.isLdt (e : Entry) : Bool := match e.op with | .ldt _ _ _ _ _ => true | _ => false

/-- One step of an unfinished instruction that is no store or atomic: it completes, or asks the host for bytes. The
entry stands between the given earlier and later ones of the active bank. A load of the host's bytes, and an LDT that meets
a poisoned line, wait for earlier own stores to the same bytes. A load whose address another load gives performs after that
one (DESIGN CHOICE, log 11: R125 lets other observers see either order). -/
def State.completeEntry (s : State) (core : Nat) (t : Task) (before : List Entry) (e : Entry) (after : List Entry) : State :=
  let c := s.bank core
  let rest := c.trim (before ++ after)
  let drop (s : State) : State := s.setBank core { s.bank core with fly := rest }
  match e.op with
  | .rowOpen d =>
    let p := (e.spans.headD ⟨0, 0, false⟩).place
    let r := s.rowOpen t.serial p
    drop (r.1.setBank core ((r.1.bank core).setXAt e.wpe d r.2))
  | .load _ _ _ | .ldv _ | .ldt _ _ _ _ _ =>
    let marked := e.spans.filter fun x => e.isLdt && !x.wr && decide (x.place < hostMark) && s.poisoned x.place x.n
    let missing := (e.hostSpans ++ marked).any fun h => before.any fun b => b.isStore && b.spans.any fun x => x.meets h
    if !c.mayPerform (s.fstrOf t) e before || missing then s
    else
      match nextHost e.hostSpans e.got.length with
      | some x =>
        if e.msg != 0 then s
        else
          let r := s.sendMem t.part mtDevRead (BitVec.ofNat 96 (x.place % 2 ^ 48 + x.n * 2 ^ 64)) []
          r.1.setBank core { r.1.bank core with fly := before ++ { e with msg := r.2 } :: after }
      | none =>
        match (if e.isLdt then none else s.poisonPast before (e.spans.filter fun x => !x.wr)) with
        | some p => (drop s).lateCheck core false t p
        | none =>
          let bs := s.gather before e.spans e.got
          drop ((s.yieldRows e.spans).finishLoad core e bs)
  | .store _ | .stv _ | .atomic _ _ _ | .fence _ => s
  | _ => if flagsOrdered e before then drop (s.setBank core (c.finish e)) else s

/-- VARIABLE_LATENCY_COMPLETE: unfinished instruction k of a core completes (R169, R170, R191). -/
def execVariableLatencyComplete (core : CoreId) (k : Fin 8) (s : State) : Out :=
  .next (match (s.bank core.val).task, splitEntry (s.bank core.val).fly k.val with
    | some t, some (before, e, after) =>
      if (s.core core.val).swapping then s else s.completeEntry core.val t before e after
    | _, _ => s)

/-! ### Stores and atomics -/

/-- New value of an atomic on n bytes (R179, R180). -/
def atomicNew (k : AtKind) (n old v e : Nat) : Nat :=
  let m := 256 ^ n
  let sg (x : Nat) : Int := if m / 2 ≤ x then (x : Int) - m else x
  match k with
  | .add => (old + v) % m
  | .xchg => v
  | .and => old &&& v
  | .or => old ||| v
  | .xor => old ^^^ v
  | .cas => if old = e then v else old
  | .min => if sg v < sg old then v else old
  | .minu => if v < old then v else old
  | .max => if sg old < sg v then v else old
  | .maxu => if old < v then v else old

/-- AMINU and AMAXU return their old value unsigned (R180). -/
def AtKind.unsigned : AtKind → Bool
  | .minu | .maxu => true
  | _ => false

/-- The failed compare of ACAS writes nothing (R127, R180). -/
def atomicWrites (k : AtKind) (old e : Nat) : Bool := k != .cas || old == e

/-- Send the bytes of a store to the host, a message for each run (R138); the number of the last one. -/
def State.sendStore (s : State) (part : Nat) : List Span → List Byte → Nat → State × Nat
  | [], _, tag => (s, tag)
  | x :: xs, bs, tag =>
    if hostMark ≤ x.place then
      let r := s.sendMem part mtDevWrite (BitVec.ofNat 96 (x.place % 2 ^ 48)) (bs.take x.n)
      r.1.sendStore part xs (bs.drop x.n) r.2
    else s.sendStore part xs (bs.drop x.n) tag

/-- The bytes of a store that lie with the device. -/
def State.storeHere (s : State) : List Span → List Byte → State
  | [], _ => s
  | x :: xs, bs => (if hostMark ≤ x.place then s else s.perfWrite x.place (bs.take x.n)).storeHere xs (bs.drop x.n)

/-- A plain store to a barrier object to which a credit is outstanding leaves its contents unspecified (R110; log 7). -/
def State.loseObjects (s : State) (xs : List Span) : State :=
  let words := s.cores.flatMap fun e => e.2.copies.filterMap fun c => if c.2.signal.isNone then some c.2.word else none
  let hit := (words.filter fun w => xs.any fun x => x.wr && x.meets ⟨w, 16, true⟩).eraseDups
  hit.foldl (fun s w =>
    { s with turn := s.turn + 2 }.writeNat w ((Config.freeWord s.turn).toNat + 2 ^ 64 * (Config.freeWord (s.turn + 1)).toNat) 16) s

/-- An ACAS whose compare fails on what memory holds now, with no own store to its bytes before it (R127). -/
def State.casFails (s : State) (before : List Entry) (e : Entry) : Bool :=
  match e.op, e.spans with
  | .atomic k n _, x :: _ =>
    !atomicWrites k (s.natAt x.place n) (e.opa.toNat % 256 ^ n) && !before.any fun a => a.isStore && a.overlaps e
  | _, _ => false

/-- A failed ACAS as the load it performs as, with the acquire half of its order (R127). -/
def Entry.asLoad (e : Entry) : Entry :=
  { e with op := .load 8 false (.g 0), ord := if ordAcq e.ord then .acq else .plain }

/-- A store or atomic performs (R120, R122, R127); one that goes to the host has performed when its message is
acknowledged (R368). -/
def State.performEntry (s : State) (core : Nat) (second : Bool) (t : Task) (before : List Entry) (e : Entry)
    (after : List Entry) : State :=
  let c := s.bankOf core second
  let rest := c.trim (before ++ after)
  let drop (s : State) : State := s.setBankOf core second { s.bankOf core second with fly := rest }
  if !(c.mayPerform (s.fstrOf t) e before || (s.casFails before e && c.mayPerform (s.fstrOf t) e.asLoad before)) then s
  else
    match e.op with
    | .store _ | .stv _ =>
      if e.msg != 0 then (if s.answered t.part e.msg then drop s else s)
      else
        let r := (s.yieldRows e.spans).sendStore t.part e.spans e.data 0
        let s1 := (r.1.storeHere e.spans e.data).loseObjects e.spans
        if r.2 = 0 then drop s1
        else s1.setBankOf core second { s1.bankOf core second with fly := before ++ { e with msg := r.2 } :: after }
    | .atomic k n d =>
      match e.spans with
      | x :: _ =>
        match s.poisonPast before [x] with
        | some p => (drop s).lateCheck core second t p
        | none =>
          let s0 := s.yieldRows e.spans
          let old := s0.natAt x.place n
          let v := e.opc.toNat % 256 ^ n
          let ex := e.opa.toNat % 256 ^ n
          let s1 := if atomicWrites k old ex then s0.perfWrite x.place (bytesOf (atomicNew k n old v ex) n) else s0
          let s2 := drop s1
          s2.setBankOf core second ((s2.bankOf core second).setXAt e.wpe d (loadExt n (!k.unsigned) old))
      | [] => drop s
    | _ => s

/-- STORE_PERFORM: an issued store or atomic of a bank performs (R120 to R128). -/
def execStorePerform (core : CoreId) (second : Bool) (k : Fin 8) (s : State) : Out :=
  .next (match (s.bankOf core.val second).task, splitEntry (s.bankOf core.val second).fly k.val with
    | some t, some (before, e, after) =>
      s.performEntry core.val second t before e after
    | _, _ => s)

/-- IDLE_TIMEOUT: IDLE ends after its time, unless it waits for an event alone (R222). -/
def execIdleTimeout (core : CoreId) (s : State) : Out :=
  let c := s.bank core.val
  .next (match c.idle with
    | some n => if n == 0 then s else s.setBank core.val c.wake
    | none => s)

end Sys2Proof.Machine
end

