-- ==== Sys2Proof/Machine/System.lean ====
section
/-!
DEFINITION. Row instructions (R218), control registers (R146, R219, R338, R345), and the system instructions other than
RETT and RQINJ (R220 to R223).
-/

namespace Sys2Proof.Machine

/-! ### Rows (R218) -/

/-- Reserved bits of a row handle are zero and it names a stack of the package (R115). -/
def handleForm (h : Word) : Bool :=
  h.toNat / 2 ^ 32 == 0 && h.toNat / 2 ^ 12 % 16 == 0 && decide (h.toNat / 256 % 16 < 12)

/-- Pseudo-channel, as 64 x stack + channel, and slot of a handle. -/
def handleChan (h : Word) : Nat := h.toNat / 256 % 16 * 64 + h.toNat / 4 % 64
/-- Slot of a handle. -/
def handleSlot (h : Word) : Nat := h.toNat % 4

/-- The slot a handle names, if the handle is valid and the task chain owns the slot (R115). -/
def State.ownedSlot (s : State) (owner : Nat) (h : Word) : Option RowSlot :=
  let r := s.rowSlot (handleChan h) (handleSlot h)
  if handleForm h && r.live && r.owner == owner && r.seq.toNat == h.toNat / 65536 % 65536 then some r else none

/-- The checks of ROWOPEN of an address, ending in the place of its row or in an outcome of issue (R116, R218). -/
def State.rowAccess (s : State) (t : Task) (va : Word) (k : State → Nat → Res) : Res :=
  match windowOf va.toNat with
  | .reserved => .trap s cTranslation va
  | .unmapped => .trap s cTranslation va
  | .own => .trap s cProtection va
  | .member _ => .trap s cProtection va
  | .translated =>
    match s.cached t.part t.ctx va.toNat with
    | some e => if pteHold e.leaf then k s (pteAddr e.leaf + (va.toNat - e.va)) else .trap s cProtection va
    | none =>
      match s.ctx.walkTrap with
      | some (cause, v, info) =>
        if v / 2 ^ 19 == va.toNat / 2 ^ 19 then .trap s cause (if cause == cMachineCheck then info else va)
        else .wait (s.needWalk t.part t.ctx va.toNat .load (.instr s.cur)) wTranslation
      | none => .wait (s.needWalk t.part t.ctx va.toNat .load (.instr s.cur)) wTranslation

/-- ROWOPEN: its checks at issue; the slot is taken when it completes (R116, R218). -/
def execRowopen (a b : XReg) (s : State) : Out :=
  .next (issue (.rowopen a b) (keysOf [a, b]) (fun s t =>
    let c := s.ctx
    s.rowAccess t (c.x b) fun s1 p =>
      .done (s1.launch (c.entry (.rowopen a b) (.rowOpen a) 0 (c.x b) 0 0 .plain .core [⟨p, 0, false⟩]))) s)

/-- An instruction on an owned slot: what it leaves in the slot, and its result; -1 otherwise (R218). -/
def rowOp (i : Instr) (a b : XReg) (f : RowSlot → RowSlot × Word) (s : State) : Out :=
  .next (issue i (keysOf [a, b]) (fun s t =>
    let h := s.ctx.x b
    match s.ownedSlot t.serial h with
    | none => .done (s.mapCtx fun c => c.setX a (-1))
    | some r =>
      let q := f r
      .done ((s.setRowSlot (handleChan h) (handleSlot h) q.1).mapCtx fun c => c.setX a q.2)) s)

/-- ROWHOLD keep. -/
def execRowholdKeep (a b : XReg) (s : State) : Out := rowOp (.rowholdKeep a b) a b (fun r => ({ r with st := .keep }, 0)) s
/-- ROWHOLD drop. -/
def execRowholdDrop (a b : XReg) (s : State) : Out := rowOp (.rowholdDrop a b) a b (fun r => ({ r with st := .drop }, 0)) s
/-- ROWREL. -/
def execRowrel (a b : XReg) (s : State) : Out := rowOp (.rowrel a b) a b (fun r => (r.freed, 0)) s
/-- ROWQRY. -/
def execRowqry (a b : XReg) (s : State) : Out :=
  rowOp (.rowqry a b) a b (fun r => (r, match r.st with | .opened => 1 | .keep => 2 | .drop => 3 | .free => -1)) s

/-! ### Replay-queue entries as doublewords (R348) -/

/-- Doubleword k of an entry. -/
def Entry.dword (e : Entry) (k : Nat) : Word :=
  let w (j : Nat) : Nat := (e.words.getD j 0).toNat
  match k with
  | 0 => BitVec.ofNat 64 (w 0 * 2 ^ 32 + (e.words.length - 1) * 2 ^ 30 + e.cause.toNat * 2 ^ 18 + e.pc % 2 ^ 18)
  | 1 => BitVec.ofNat 64 (w 1 + w 2 * 2 ^ 32)
  | 2 => BitVec.ofNat 64 (w 3)
  | 3 => e.opa
  | 4 => e.opb
  | 5 => e.opc
  | 6 => e.addr
  | _ => BitVec.ofNat 64 e.wpe

/-- Replace a writable doubleword. -/
def Entry.setDword (e : Entry) (k : Nat) (v : Word) : Entry :=
  match k with
  | 3 => { e with opa := v }
  | 4 => { e with opb := v }
  | 5 => { e with opc := v }
  | 6 => { e with addr := v }
  | _ => e

/-- Doubleword of entry j; entries at or above the count read 0 (R220). -/
def Context.rqDword (c : Context) (j k : Nat) : Word :=
  match c.rq[j]? with
  | some e => e.dword k
  | none => 0

/-! ### Control registers (R146) -/

/-- What an access of a control register comes to. -/
inductive CrRes where
  | val (v : Word)
  | put (s : State)
  | illegal
  | protect
  | stall

/-- Role of a command-processor core (R338). -/
def State.role (s : State) (core : Nat) : Role := Sparse.get Role.out s.roles (core - Config.cpCore)

/-- ROLE code. -/
def Role.code : Role → Nat
  | .out => 0
  | .active => 1
  | .standby => 2

/-- CPROLE of a command-processor core (R338). -/
def State.cprole (s : State) (core part : Nat) : Word :=
  BitVec.ofNat 64 ((s.part part).epoch.toNat * 256 + (Sparse.get false s.take (core - Config.cpCore)).toNat * 16
    + (s.role core).code)

/-- A KICK register (R338). -/
def State.kickWord (s : State) (part n : Nat) : Word :=
  (List.range 64).foldl (fun w b => if (s.queue part (64 * n + b)).kick then w ||| ((1 : Word) <<< b) else w) 0

/-- Clear the KICK bits of a mask (R338). -/
def State.kickClear (s : State) (part n : Nat) (m : Word) : State :=
  (List.range 64).foldl (fun s b =>
    if m.getLsbD b then s.setQueue part (64 * n + b) { s.queue part (64 * n + b) with kick := false } else s) s

/-- The new active core clears TAKE: the host port sends SYNC_REQ to every partition whose messages are held back (R374,
R397). -/
def State.takeClear (s : State) (k : Nat) : State :=
  if Sparse.get false s.take k then
    let s1 := { s with take := s.take.set k false }
    let ps := (s1.parts.filter fun e => e.2.live && e.2.holding).map fun e => e.1
    ps.foldl (fun s p => s.sendPlain (chanKey p ctlChan) p ctlChan mtSyncReq (BitVec.ofNat 96 (s.part p).epoch.toNat) []) s1
  else s

/-- A trap register as it reads (R345). -/
def Context.trapReg (c : Context) (n : Nat) : CrRes :=
  let inTrap (v : Word) : CrRes := if c.trapst then .val v else .illegal
  match n with
  | 0x80 => .val c.tcause
  | 0x81 => .val c.frame.tpc
  | 0x82 => .val c.frame.ttgt
  | 0x83 => .val c.frame.tinfo
  | 0x84 => .val c.frame.twp
  | 0x85 => .val c.tvec
  | 0x86 => .val c.tsave0
  | 0x87 => .val c.tsave1
  | 0x88 => inTrap (c.rqsel.zeroExtend 64)
  | 0x89 => inTrap (c.trsel.zeroExtend 64)
  | 0x8A => inTrap (Sparse.get 0 c.ring ((c.frame.twp.toNat + c.trsel.toNat) % 256))
  | 0xA8 => .val (c.wdcnt.zeroExtend 64)
  | 0xA9 => .val (c.wdlim.zeroExtend 64)
  | _ => if 0x90 ≤ n && n < 0x98 then inTrap (c.rqDword c.rqsel.toNat (n - 0x90)) else .illegal

/-- Entries that update or read the sticky flags are unfinished (R219). -/
def Context.flagsBusy (c : Context) : Bool := c.fly.any Entry.usesFlags

/-- CRD (R146, R219). -/
def State.crRead (s : State) (t : Task) (n : Nat) : CrRes :=
  let c := s.ctx
  let info := s.ctxInfo t.part t.ctx
  match n with
  | 0x00 => .val (BitVec.ofNat 64 (s.cur / 32 * 256 + s.cur % 32))
  | 0x01 => .val (BitVec.ofNat 64 t.ctx)
  | 0x10 => .val (BitVec.ofNat 64 c.wp)
  | 0x11 => .val c.rkbase
  | 0x12 => .val c.rklimit
  | 0x13 => .val (BitVec.ofNat 64 c.lo)
  | 0x20 => if c.flagsBusy then .stall else .val (c.vstat.extractLsb' 0 64)
  | 0x21 => if c.flagsBusy then .stall else .val (c.vstat.extractLsb' 64 16 |>.zeroExtend 64)
  | 0x24 => .val c.gkey
  | 0x25 => .val (c.gctr.extractLsb' 0 64)
  | 0x26 => .val (c.gctr.extractLsb' 64 64)
  | 0x28 => .val (BitVec.ofNat 64 (info.rev.toNat * 2 + info.fstr.toNat))
  | _ =>
    if 0x40 ≤ n && n < 0x80 then .val ((ftRead c.ft (n - 0x40)).zeroExtend 64)
    else if 0x80 ≤ n && n < 0xC0 then c.trapReg n
    else if 0xC0 ≤ n && n < 0xE0 then
      if c.fly.any fun e => e.dests.contains (1040 + (n - 0xC0) / 2) then .stall
      else .val ((Sparse.get 0 c.d ((n - 0xC0) / 2)).extractLsb' (64 * (n % 2)) 64)
    else if 0x100 ≤ n && n < 0x200 then
      if s.cur < Config.cpCore then .protect
      else if n = 0x100 then .val (s.cprole s.cur t.part)
      else if 0x110 ≤ n && n < 0x118 then .val (s.kickWord t.part (n - 0x110))
      else if n = 0x120 then .val s.jbase
      else if n = 0x121 then .val (s.jhead.zeroExtend 64)
      else if n = 0x122 then .val (s.jtail.zeroExtend 64)
      else if n = 0x130 then .val (s.part t.part).qtime
      else .illegal
    else .illegal

/-- Write of a trap register (R345, R346). -/
def Context.trapWrite (c : Context) (n : Nat) (v : Word) : Option Context :=
  let inTrap (d : Context) : Option Context := if c.trapst then some d else none
  match n with
  | 0x80 =>
    let dx := v.extractLsb' 8 2
    inTrap { c with frame := { c.frame with dslot := v.getLsbD 13, dxfer := if dx == 3 then c.frame.dxfer else dx } }
  | 0x81 => inTrap { c with frame := { c.frame with tpc := v &&& 0x3FFFF } }
  | 0x82 => inTrap { c with frame := { c.frame with ttgt := v } }
  | 0x85 => some { c with tvec := v &&& 0x800000000003FFFF }
  | 0x86 => some { c with tsave0 := v }
  | 0x87 => some { c with tsave1 := v }
  | 0x88 => inTrap { c with rqsel := v.extractLsb' 0 3 }
  | 0x89 => inTrap { c with trsel := v.extractLsb' 0 5 }
  | 0x8A => inTrap { c with ring := c.ring.set ((c.frame.twp.toNat + c.trsel.toNat) % 256) v }
  | _ =>
    if 0x93 ≤ n && n < 0x97 then
      match c.rq[c.rqsel.toNat]? with
      | some e => inTrap { c with rq := c.rq.set c.rqsel.toNat (e.setDword (n - 0x90) v) }
      | none => inTrap c
    else none

/-- Half k of a 128-bit register replaced. -/
def putHalf (d : BitVec 128) (k : Nat) (v : Word) : BitVec 128 :=
  if k = 0 then d.extractLsb' 64 64 ++ v else v ++ d.extractLsb' 0 64

/-- A tile copy is unfinished: it still reads descriptors and formats (R219). -/
def Context.tileBusy (c : Context) : Bool := c.fly.any fun e => match e.op with | .ldt _ _ _ _ _ => true | _ => false

/-- A store of the bank is issued and not performed: a write of JHEAD, a release at dev scope, waits for it (R395). -/
def Context.storing (c : Context) : Bool := c.fly.any Entry.isStore

/-- CWR (R146, R219). -/
def State.crWrite (s : State) (t : Task) (n : Nat) (v : Word) : CrRes :=
  let c := s.ctx
  let put (d : Context) : CrRes := .put (s.setCtx d)
  match n with
  | 0x11 => if c.wp != 0 then .illegal else put { c with rkbase := v &&& ~~~7 }
  | 0x12 => put { c with rklimit := v &&& ~~~7 }
  | 0x20 => if c.flagsBusy then .stall else put { c with vstat := c.vstat.extractLsb' 64 16 ++ v }
  | 0x21 => if c.flagsBusy then .stall else put { c with vstat := v.extractLsb' 0 16 ++ c.vstat.extractLsb' 0 64 }
  | 0x24 => put { c with gkey := v }
  | 0x25 => put { c with gctr := putHalf c.gctr 0 v }
  | 0x26 => put { c with gctr := putHalf c.gctr 1 v }
  | _ =>
    if 0x50 ≤ n && n < 0x80 then
      if v.toNat / 2 ^ 32 != 0 || !ftValid (v.truncate 32) then .illegal
      else if c.tileBusy then .stall
      else put { c with ft := c.ft.set (n - 0x40) (v.truncate 32) }
    else if 0x80 ≤ n && n < 0xC0 then
      match c.trapWrite n v with
      | some d => put d
      | none => .illegal
    else if 0xC0 ≤ n && n < 0xE0 then
      let k := (n - 0xC0) / 2
      if c.fly.any fun e => e.dests.contains (1040 + k) then .stall
      else put { c with d := c.d.set k (putHalf (Sparse.get 0 c.d k) (n % 2) v) }
    else if 0x100 ≤ n && n < 0x200 then
      if s.cur < Config.cpCore then .protect
      else if n = 0x100 then .put (if v.getLsbD 4 then s.takeClear (s.cur - Config.cpCore) else s)
      else if (0x110 ≤ n && n < 0x118) || (0x120 ≤ n && n ≤ 0x122) || n = 0x130 then
        if s.role s.cur == .standby then .protect
        else if n = 0x130 then .illegal
        else if n = 0x120 then .put { s with jbase := v }
        else if n = 0x121 then if c.storing then .stall else .put { s with jhead := v.extractLsb' 0 11 }
        else if n = 0x122 then .put { s with jtail := v.extractLsb' 0 11 }
        else .put (s.kickClear t.part (n - 0x110) v)
      else .illegal
    else .illegal

/-- TINFO of a trap that names no address: a free value (R342; log 7). -/
def State.noAddress (s : State) : State × Word := ({ s with turn := s.turn + 1 }, Config.freeWord s.turn)

/-- CRD. -/
def execCrd (a : XReg) (num : BitVec 12) (s : State) : Out :=
  let i : Instr := .crd a num
  .next (issue i (keysOf [a]) (fun s t =>
    match s.crRead t num.toNat with
    | .val v => .done (s.mapCtx fun c => c.setX a v)
    | .put s1 => .done s1
    | .illegal => .trap s cIllegal (word0 i)
    | .protect => .trap s.noAddress.1 cProtection s.noAddress.2
    | .stall => .stall) s)

/-- CWR. -/
def execCwr (a : XReg) (num : BitVec 12) (s : State) : Out :=
  let i : Instr := .cwr a num
  .next (issue i (keysOf [a]) (fun s t =>
    match s.crWrite t num.toNat (s.ctx.x a) with
    | .val _ => .done s
    | .put s1 => .done s1
    | .illegal => .trap s cIllegal (word0 i)
    | .protect => .trap s.noAddress.1 cProtection s.noAddress.2
    | .stall => .stall) s)

/-! ### System instructions (R220 to R223) -/

/-- RQRD. -/
def execRqrd (a b : XReg) (s : State) : Out :=
  let i : Instr := .rqrd a b
  .next (issue i (keysOf [a, b]) (fun s _ =>
    let c := s.ctx
    let v := c.x b
    if !c.trapst || v.toNat / 64 != 0 then .trap s cIllegal (word0 i)
    else .done (s.setCtx (c.setX a (c.rqDword (v.toNat / 8) (v.toNat % 8))))) s)

/-- Cores in a scope of a core (R27). -/
def inScope (sc : Scope) (core j : Nat) : Bool :=
  match sc with
  | .core => core == j
  | .clu => core / 4 == j / 4
  | .die => core / 32 == j / 32
  | .dev => true
  | .sys => true

/-- The scope an operation of a task acts at: clu outside a cluster is core (R29). -/
def Task.scope (t : Task) (sc : Scope) : Scope := if sc == .clu && !t.clustered then .core else sc

/-- A bank's task runs in a context, with an access of its own or of a port generator issued and not performed. -/
def Context.accessing (c : Context) (part ctx : Nat) : Bool :=
  c.inCtx part ctx && ((c.fly.any fun e => e.isLoad || e.isStore)
    || c.gens.any fun e => e.2.streams.any fun x => x.msg != 0)

/-- A copy of a context has an access to the host out (R138). -/
def Copy.accessing (c : Copy) (part ctx : Nat) : Bool := c.part == part && c.ctx == ctx && c.msg != 0

/-- A core holds an access of a context that has not performed, whichever agent made it (R221). -/
def Core.accessing (k : Core) (part ctx : Nat) : Bool :=
  k.bank.accessing part ctx || k.other.accessing part ctx || k.copies.any fun e => e.2.accessing part ctx

/-- Drop the sidecar lines of some translations that the generators in a scope hold (R107, R221). -/
def State.dropLines (s : State) (sc : Scope) (core : Nat) (gone : List TlbEntry) : State :=
  let f (c : Context) : Context := c.staleLines gone
  { s with cores := s.cores.map fun e =>
             if inScope sc core e.1 then (e.1, { e.2 with bank := f e.2.bank, other := f e.2.other }) else e,
           saved := s.saved.map fun e => if inScope sc core e.1 then (e.1, e.2.map f) else e }

/-- TLBINV (R221). -/
def execTlbinv (b : XReg) (all : Bool) (scope : Scope) (s : State) : Out :=
  .next (issue (.tlbinv b all scope) (keysOf [b]) (fun s t =>
    let va := (s.ctx.x b).toNat
    let hit (e : TlbEntry) : Bool :=
      e.part == t.part && e.ctx == t.ctx && (all || (decide (e.va ≤ va) && decide (va < e.va + e.size)))
    let s1 := { s with tlb := s.tlb.filter fun e => !hit e }
    let sc := t.scope scope
    let s2 := s1.dropLines sc s.cur (s.tlb.filter hit)
    let busy := s2.cores.any fun e => inScope sc s.cur e.1 && e.2.accessing t.part t.ctx
    if busy then .wait s2 0 else .done s2) s)

/-- IDLE (R222): issue stops, with NEXT as the place to go on. -/
def execIdle (b : XReg) (s : State) : Out :=
  let i : Instr := .idle b
  .next (issue i (keysOf [b]) (fun s t =>
    let c := s.ctx
    let n := (c.x b).extractLsb' 0 32
    let s1 := s.retire s.cur t (s.nextPc s.cur c.pc (words i))
    let d := s1.ctx
    .final (if d.stopped || d.owed.isSome || d.trapst != c.trapst then s1
      else s1.setCtx { d with idle := some n, wait := BitVec.ofNat 4 wPowerWake }) false) s)

/-- BREAK (R223). -/
def execBrk (s : State) : Out :=
  .next (issue .brk (fun _ => []) (fun s _ => .trapNext cBreak (BitVec.ofNat 64 s.ctx.pc)) s)

end Sys2Proof.Machine
end

