-- ==== Sys2Proof/Machine/Generators.lean ====
section
/-!
DEFINITION. Port generators at work: the block a generator serves (R205, R318), delivering tokens (R249), storing them
(R250, R429 to R431) and packing them (R105, R108), freezing a block (R251, R350), and the end of a stream (R209).
-/

namespace Sys2Proof.Machine

/-! ### Blocks of a task -/

/-- A block of a handle: the next one or the current one. -/
def Handle.block (h : Handle) (nxt : Bool) : Option Block := if nxt then h.next else h.cur

/-- Put a block of a handle. -/
def Handle.setBlock (h : Handle) (nxt : Bool) (b : Block) : Handle :=
  if nxt then { h with next := some b } else { h with cur := some b }

/-- A block of a bank. -/
def Context.block (c : Context) (h : Nat) (nxt : Bool) : Option Block := (c.handle h).block nxt

/-- Put a block of a bank. -/
def Context.setBlock (c : Context) (h : Nat) (nxt : Bool) (b : Block) : Context :=
  c.setHandle h ((c.handle h).setBlock nxt b)

/-- Put a block of a core's active bank. -/
def State.setBlock (s : State) (core h : Nat) (nxt : Bool) (b : Block) : State :=
  s.setBank core ((s.bank core).setBlock h nxt b)

/-- The blocks of a bank: handle, next or current, block. -/
def Context.blocks (c : Context) : List (Nat × Bool × Block) :=
  c.hs.flatMap fun e =>
    (match e.2.cur with | some b => [(e.1, false, b)] | none => [])
      ++ (match e.2.next with | some b => [(e.1, true, b)] | none => [])

/-- The block with a serial number. -/
def Context.bySerial (c : Context) (n : Nat) : Option (Nat × Bool × Block) := c.blocks.find? fun e => e.2.2.serial == n

/-- Slots of an element of a stream entry: 1, 2 or 4 (R230). -/
def StreamEnt.slots (e : StreamEnt) : Nat := 2 ^ e.width

/-- The entry of a block that joins a generator to a port: as a source, or as a destination (R229, R318). -/
def Prog.genEntry (p : Prog) (g : Nat) (write : Bool) : Option StreamEnt :=
  p.streams.find? fun e => if write then e.dst.kind == 1 && e.dst.idx == g else e.src.kind == 1 && e.src.idx == g

/-- Rank of a block's state for serving a generator: the running block first. -/
def BlkSt.rank : BlkSt → Nat
  | .running => 0
  | .frozen => 1
  | .armed => 2
  | .loaded => 3
  | .draining => 4

/-- The block whose port a generator serves, with the stream entry (R205). -/
def Context.binder (c : Context) (g : Nat) (write : Bool) : Option (Nat × Bool × Block × StreamEnt) :=
  let all := c.blocks.filterMap fun e => (e.2.2.prog.genEntry g write).map fun y => (e.1, e.2.1, e.2.2, y)
  (List.range 5).findSome? fun r => all.find? fun e => e.2.2.1.st.rank == r

/-- Index of a stream entry in its block. -/
def Prog.streamIndex (p : Prog) (e : StreamEnt) : Nat := p.streams.findIdx fun y => y == e

/-- The code object of a task. -/
def State.codeOf (s : State) (t : Task) : Option Code := Sparse.find s.codes (65536 * t.part + t.code)

/-- Fill target of a block's stream (R304): 32 where the code object declares none. -/
def State.fillTarget (s : State) (t : Task) (b : Block) (e : StreamEnt) : Nat :=
  match s.codeOf t with
  | none => Config.queueDepth
  | some c => match c.blocks[b.index]? with
    | none => Config.queueDepth
    | some y => Sparse.get Config.queueDepth y.2 (b.prog.streamIndex e)

/-- Loft slice above compute tile n of a page set (R99, R226). -/
def PageSet.slice (p : PageSet) (n : Nat) : Nat := 16 * (2 * (p.y0 + n / 2 / p.w) + n % 2) + p.x0 + n / 2 % p.w

/-- Storage address of the stage slice a matrix B stream reads; none for another stream (R99). -/
def Context.stageOf (c : Context) (core h : Nat) (x : Stream) (tile : Nat) : Option Nat :=
  if x.cfg.matb then
    match (c.handle h).pset with
    | some p => some (loftPlace (core / 32) (p.slice tile * 2 ^ 21 + x.cfg.stg.toNat * 2 ^ 19))
    | none => some (loftPlace (core / 32) 0)
  else none

/-- Tokens of a lane in a table of queues. -/
def laneList {α : Type} (m : Sparse (List α)) (l : Nat) : List α := Sparse.get [] m l

/-- The running stream replaced. -/
def Gen.setHead (g : Gen) (x : Stream) : Gen := { g with streams := x :: g.streams.drop 1 }

/-- Put a generator of a core. -/
def State.setGen (s : State) (core g : Nat) (x : Gen) : State := s.setBank core ((s.bank core).setGen g x)

/-! ### Freezing (R251, R350) -/

/-- An asynchronous trap is raised: it is held until it can be taken, and ends an IDLE (R222, R344). -/
def State.pushAsync (s : State) (core : Nat) (a : Async) : State :=
  s.setBank core { (s.bank core).wake with asyncs := (s.bank core).asyncs ++ [a] }

/-- A block freezes with a trap. The task is told at once, but for a fault the driver has still to answer. -/
def State.freezeAt (s : State) (core h : Nat) (nxt : Bool) (tr : FabTrap) (asked : Bool) : State :=
  match (s.bank core).block h nxt with
  | none => s
  | some b =>
    let s1 := s.setBlock core h nxt { b with st := .frozen, trap := some tr, told := !asked }
    if asked then s1
    else s1.pushAsync core ⟨BitVec.ofNat 8 tr.cause, true, BitVec.ofNat 3 h, false, tr.info, false⟩

/-- A fault of a write stream freezes a block whose issue has finished, naming the last word that sent in the lane
(R429). -/
def State.freezeDraining (s : State) (core : Nat) (f : StreamFault) (last : Option LaneWord) : State :=
  match (s.bank core).bySerial f.blk, last with
  | some (h, nxt, b), some w =>
    if b.st == .draining then
      s.freezeAt core h nxt ⟨f.cause, if f.cause == cAliasKind then f.info else 0, w⟩ f.asked
    else s
  | _, _ => s

/-- A running stream has met a fault; one of a write stream freezes a block that drains (R429). -/
def State.streamFail (s : State) (core gi : Nat) (x : Stream) (f : StreamFault) (last : Option LaneWord) : State :=
  let s1 := s.setGen core gi (((s.bank core).gen gi).setHead { x with fault := some f, wait := 0 })
  if x.cfg.write then s1.freezeDraining core f last else s1

/-- What keeps a running stream from its next token is recorded (R350, R385, R423, R429). -/
def State.streamStop (s : State) (core : Nat) (t : Task) (gi : Nat) (x : Stream) (kind : AccKind) (blk : Nat)
    (pos : Option LaneWord) (last : Option LaneWord) (w : Stop) : State :=
  let put (s : State) (y : Stream) : State := s.setGen core gi (((s.bank core).gen gi).setHead y)
  let fail (s : State) (cause : Nat) (info : Word) (asked : Bool) (va : Nat) : State :=
    s.streamFail core gi x ⟨cause, info, asked, blk, pos, va / 2 ^ 19⟩ last
  let me : Agent := .gen core gi t.serial (match pos with | some w => w.lane | none => 0)
  match w with
  | .wait c => put s { x with wait := BitVec.ofNat 4 c }
  | .away p => put (s.touch p) { x with wait := BitVec.ofNat 4 wRacking }
  | .miss va => put (s.needWalk t.part t.ctx va kind me) { x with wait := BitVec.ofNat 4 wTranslation }
  | .fault cause info va asked =>
    if asked then
      match s.faultRecord t.part t.ctx va .sidecar 2 [me] with
      | some s1 => fail s1 cause info true va
      | none => put s { x with wait := BitVec.ofNat 4 wTranslation }
    else fail s cause info false 0
  | .poison pa => (fail s cMachineCheck pa false 0).lateCheck core false t (placeOf t.part pa.toNat)
  | .ask p n =>
    if x.msg != 0 then s
    else
      let r := s.sendMem t.part mtDevRead (BitVec.ofNat 96 (p % 2 ^ 48 + n * 2 ^ 64)) []
      put r.1 { x with msg := r.2, wait := BitVec.ofNat 4 wPortEmpty }

/-! ### Delivering (R249) -/

/-- The lane whose token comes next: the first in walk order among those with room; of a symbol stream lane 0, which is
served first (R280). -/
def Gen.nextLane (g : Gen) (x : Stream) (depth : Nat) : Option Nat :=
  let ok := (List.range (if x.cfg.rsym then 1 else 16)).filter fun l => !x.laneDone l && decide ((laneList g.rx l).length < depth)
  ok.find? fun l => ok.all fun j => decide (16 * laneCount x.pos l + l ≤ 16 * laneCount x.pos j + j)

/-- The stream's token size is that of the port that uses it. -/
def Stream.fix (x : Stream) (slots : Nat) : Stream :=
  if x.tokBits != 0 then x else { x with tokBits := if x.cfg.rsym then 128 else 16 * slots }

/-- A token is delivered: to its lane, or a group of a symbol stream to every lane that has not had it. Lane l takes what
lane 0 takes l cycles later, so that its copy may stand in its queue at once (R280). -/
def Gen.deliver (g : Gen) (y : Stream) (l : Nat) (tok : Token) : Gen :=
  let k := laneCount y.pos l
  let ls := if y.cfg.rsym then (List.range 16).filter fun j => laneCount y.pos j == k else [l]
  { (g.setHead { y with pos := ls.foldl (fun m j => m.set j (k + 1)) y.pos, wait := 0, got := [], rows := [] }) with
    rx := ls.foldl (fun m j => m.set j (laneList g.rx j ++ [tok])) g.rx }

/-- GENERATOR_READ_RETURN: the running read stream of a generator delivers its next token. The OPEN rows of the
subarrays it has reached yield (R115, R117). -/
def execGeneratorReadReturn (core : CoreId) (g : Fin 4) (s : State) : Out :=
  let c := core.val
  let b := s.bank c
  let gen := b.gen g.val
  .next (match b.task, gen.streams with
    | some t, x0 :: _ =>
      if x0.cfg.write || x0.fault.isSome || (s.core c).swapping then s
      else
        match b.binder g.val false with
        | none => s
        | some (h, _, blk, ent) =>
          let x := x0.fix ent.slots
          if x.tooWide x.tokBits then s.setGen c g.val (gen.setHead x)
          else
            match gen.nextLane x (s.fillTarget t blk ent) with
            | none => s
            | some l =>
              if s.boardHolds c t x.order x.ranges false then s.streamStop c t g.val x .load blk.serial none none (.wait wBarrier)
              else
                match s.readToken c t x (b.stageOf c h x ent.dst.idx) l (laneCount x.pos l) with
                | .error w => s.streamStop c t g.val x .load blk.serial none none w
                | .ok (tok, y) => (y.rows.foldl (fun s r => s.rowYield (r * 1024)) s).setGen c g.val (gen.deliver y l tok)
    | _, _ => s)

/-! ### Packing (R105, R108) -/

/-- Units of a block that are not zero. -/
def unitNonzero (img : List Byte) (u j : Nat) : Bool := (List.range u).any fun k => nthByte img (u * j + k) != 0

/-- Packed form of sub-block k. -/
def packSub (img : List Byte) (u k : Nat) : List Byte :=
  let on := (List.range 64).filter fun i => unitNonzero img u (64 * k + i)
  bytesOf (on.foldl (fun m i => m + 2 ^ i) 0) 8 ++ on.flatMap fun i => (img.drop (u * (64 * k + i))).take u

/-- Packed form of a 4 KiB block, and its size in 64-byte units: a form of 64 units or more is stored raw where the slot
class is full (R105). -/
def packBlock (img : List Byte) (u : Nat) (full : Bool) : List Byte × Nat :=
  let subs := 64 / u
  let used := (List.range subs).filter fun k => (List.range 64).any fun i => unitNonzero img u (64 * k + i)
  match used.getLast? with
  | none => ([], 0)
  | some k =>
    let body := (List.range (k + 1)).flatMap (packSub img u)
    let len := 4 + body.length
    let n := (len + 63) / 64
    if 63 < n && full then (img, 64)
    else (bytesOf len 2 ++ [BitVec.ofNat 8 (k + 1), 0] ++ body ++ List.replicate (64 * n - len) 0, n)

/-- A line with the size of one block changed (R108). -/
def lineSet (l : BitVec 1024) (off n : Nat) : BitVec 1024 :=
  let k := 128 + 7 * (off / 4096 % 128)
  let gen : BitVec 64 := l.extractLsb' 32 64 + 1
  let clear (x : BitVec 1024) (p w : Nat) : BitVec 1024 := x &&& ~~~(BitVec.ofNat 1024 (2 ^ w - 1) <<< p)
  let l1 := clear l k 7 ||| (BitVec.ofNat 1024 n <<< k)
  let l2 := clear l1 32 64 ||| (gen.zeroExtend 1024 <<< 32)
  clear l2 24 8 ||| ((lineCheck l2).zeroExtend 1024 <<< 24)

/-- First and last byte address of each row the stream walks, in order. -/
def Stream.walkRows (x : Stream) : List (Nat × Nat) :=
  (List.range (x.rep * dRows x.tile)).map fun i =>
    let a := dBase x.tile + i % dRows x.tile * dStride x.tile
    (a, a + elemBytes (dCols x.tile) x.memBits - 1)

/-- What the walk of a packing drain has come to: the block it is in, the blocks it has left, and whether it has broken
R108. -/
structure PackWalk where
  cur : Option Nat
  left : List Nat
  bad : Bool
  deriving DecidableEq, Repr

/-- The walk reaches bytes a to z of a block: it enters at the start of a block it has not left, or goes on in it. With its
last byte it leaves it. -/
def PackWalk.reach (w : PackWalk) (b a z : Nat) : PackWalk :=
  let out := w.left ++ w.cur.toList
  let w1 : PackWalk := if w.cur == some b then w else ⟨some b, out, w.bad || a % 4096 != 0 || out.contains b⟩
  if z % 4096 = 4095 then ⟨none, w1.left ++ [b], w1.bad⟩ else w1

/-- The walk reaches the blocks of bytes a to z, of a page of size bytes from va on. -/
def PackWalk.row (va size : Nat) (w : PackWalk) (r : Nat × Nat) : PackWalk :=
  ((List.range (r.2 / 4096 - r.1 / 4096 + 1)).map fun k => r.1 / 4096 + k).foldl (fun w b =>
    if va ≤ 4096 * b && 4096 * b < va + size then w.reach b (max r.1 (4096 * b)) (min r.2 (4096 * b + 4095))
    else ⟨none, w.left ++ w.cur.toList, w.bad⟩) w

/-- The stream's pattern enters a block of the page other than at its start, or returns to one it has left (R108). -/
def Stream.patternBad (x : Stream) (va size : Nat) : Bool :=
  (x.walkRows.foldl (PackWalk.row va size) ⟨none, [], false⟩).bad

/-- Outcome of packing. -/
inductive PackRes where
  | ok (s : State) (x : Stream)
  | stop (w : Stop)
  | overrun

/-- Pack and write the block a stream has gathered, with the mark of a poisoned line if one of its bytes carries it (R108,
R427). -/
def State.sealBlock (s : State) (t : Task) (x : Stream) : PackRes :=
  match x.packBlk with
  | none => .ok s x
  | some b =>
    if x.packed.isEmpty then .ok s x
    else
      match s.cached t.part t.ctx (4096 * b) with
      | none => .stop (.miss (4096 * b))
      | some e =>
        let off := 4096 * b - e.va
        match s.needLine t.part x e.leaf e.va off with
        | .error w => .stop w
        | .ok y =>
          let img := x.packed ++ List.replicate (4096 - x.packed.length) 0
          let r := packBlock img (unitBytes e.leaf) (pteClass e.leaf == 3)
          if classLimit (pteClass e.leaf) < r.2 then .overrun
          else
            match s.slotChk t e.leaf e.va off r.1.length .store with
            | .wait c => .stop (.wait c)
            | .away p => .stop (.away p)
            | .miss v => .stop (.miss v)
            | .trap c _ => .stop (.plain c (4096 * b))
            | .ok p =>
              let at0 := lineAt t.part e.leaf off
              let l := lineSet (BitVec.ofNat 1024 (s.natAt at0 128)) off r.2
              let s0 := (if r.1.isEmpty then s else s.yieldRun p r.1.length).write p r.1
              let s1 := s0.markIf (x.packBad && !r.1.isEmpty) p r.1.length
              let s2 := s1.write at0 (bytesOf l.toNat 128)
              .ok s2 { y with packed := [], packBad := false, lines := y.lines.set at0 l }

/-- Put a byte of the block being gathered, under a mask of its bits. -/
def putPacked (img : List Byte) (o : Nat) (mask v : Byte) : List Byte :=
  let full := img ++ List.replicate (o + 1 - img.length) 0
  full.set o ((nthByte full o &&& ~~~mask) ||| (v &&& mask))

/-- One byte of an element reaches the packed page at an address; none: the byte keeps its value (R108, R208). A block is
packed when its last byte comes or the stream leaves it. Bytes of it that the stream skips are packed as zeros, and a later
byte at an offset already gathered replaces the earlier one (DESIGN CHOICE, log 63: R108 speaks of neither). -/
def State.packByte (s : State) (t : Task) (x : Stream) (e : BitVec 128) (va a : Nat) (mask : Byte) (v : Option Byte)
    (bad : Bool) : PackRes :=
  let b := a / 4096
  let o := a % 4096
  let add (s : State) (x : Stream) : PackRes :=
    match s.needLine t.part x e va (a - va) with
    | .error w => .stop w
    | .ok y =>
      let new : Except Stop Byte := match v with
        | some w => .ok w
        | none => s.imageByte t y e va (a - va)
      match new with
      | .error w => .stop w
      | .ok w =>
        let same := y.packBlk == some b
        let z : Stream :=
          { y with
            packBlk := some b, packed := putPacked (if same then y.packed else []) o mask w,
            packBad := (same && y.packBad) || (bad && v.isSome) }
        if o == 4095 && mask &&& 0xF0 != 0 then s.sealBlock t z else .ok s z
  if x.packBlk == some b || x.packed.isEmpty then add s x
  else
    match s.sealBlock t x with
    | .ok s1 y => add s1 y
    | r => r

/-- Bytes of a token reach a packed page one after another. -/
def State.packBytes (s : State) (t : Task) (x : Stream) (bad : Bool) :
    List (BitVec 128 × Nat × Nat × Byte × Option Byte) → PackRes
  | [] => .ok s x
  | (e, va, a, m, v) :: rest =>
    match s.packByte t x e va a m v bad with
    | .ok s1 y => State.packBytes s1 t y bad rest
    | r => r

/-! ### Storing (R250, R429, R430) -/

/-- Bytes of the page whose cached translation starts at an address. -/
def State.pageSize (s : State) (t : Task) (va : Nat) : Nat :=
  match s.cached t.part t.ctx va with
  | some e => e.size
  | none => 0

/-- Outcome of storing a token. -/
inductive Stored where
  | stored (s : State)
  /-- not yet, or a fault has been recorded -/
  | held (s : State)
  | overrun
  deriving DecidableEq

/-- The rows of a stream's tile do not overlap, and it is walked once. -/
def Stream.disjoint (x : Stream) : Bool :=
  x.rep == 1 && (dRows x.tile == 1 || decide (elemBytes (dCols x.tile) x.memBits ≤ dStride x.tile))

/-- Bytes of an element of a write stream: where each lies in the tile, the bits of it that are the element's, and its
value if it is stored. -/
def Stream.elemBytesOf (x : Stream) (e : Nat) (v : Option Nat) : List (Nat × Byte × Option Byte) :=
  let q := x.at (x.rowCol e).1 (x.rowCol e).2
  let w := x.memBits
  if w = 4 then [(q.1, if q.2 = 0 then 0x0F else 0xF0, v.map fun n => BitVec.ofNat 8 (n % 16 * 2 ^ q.2))]
  else (List.range (w / 8)).map fun k => (q.1 + k, 0xFF, v.map fun n => byteOf n k)

/-- Bytes a token stores: elements masked off and empty tokens store nothing (R48, R208). -/
def Stream.tokenBytes (x : Stream) (l k : Nat) (v : Nat) (empty : Bool) : List (Nat × Byte × Option Byte) :=
  ((x.elems l k).zip (List.range x.per)).flatMap fun ei =>
    x.elemBytesOf ei.1 (if empty || x.masked ei.1 then none else some (v / 2 ^ (x.cont * ei.2) % 2 ^ x.cont))

/-- Places of bytes of a tile, or the first that stops. -/
def State.locateAll (s : State) (core : Nat) (t : Task) (d : BitVec 128) : List Nat → Except Stop (List Loc)
  | [] => .ok []
  | o :: os =>
    match s.locate core t d none o .store with
    | .error w => .error w
    | .ok p => match State.locateAll s core t d os with
      | .error w => .error w
      | .ok ps => .ok (p :: ps)

/-- The first element of a token that is stored and lies in two windows (R93). -/
def Stream.splitElem (x : Stream) (l k : Nat) (empty : Bool) : Option Nat :=
  if empty then none
  else
    ((x.elems l k).filter fun e => !x.masked e).findSome? fun e =>
      let q := x.at (x.rowCol e).1 (x.rowCol e).2
      if straddles x.tile none q.1 (max 1 (x.memBits / 8)) then some (dBase x.tile + q.1) else none

/-- Places of the bytes of a token, or what stops it. -/
def State.tokenPlaces (s : State) (core : Nat) (t : Task) (x : Stream) (l k : Nat) (empty : Bool)
    (bs : List (Nat × Byte × Option Byte)) : Except Stop (List Loc) :=
  match x.splitElem l k empty with
  | some a => .error (.plain cProtection a)
  | none => s.locateAll core t x.tile (bs.map fun y => y.1)

/-- Store bytes at places: device memory at once, a host page by a message (R138); the number of the last message. -/
def State.storePlaces (s : State) (part : Nat) : List (Loc × Byte × Option Byte) → Nat → State × Nat
  | [], tag => (s, tag)
  | (.place p, m, some v) :: rest, tag =>
    if hostMark ≤ p then
      let r := s.sendMem part mtDevWrite (BitVec.ofNat 96 (p % 2 ^ 48)) [v]
      r.1.storePlaces part rest r.2
    else
      let s1 := if isDirect p then s.rowYield p else s
      (s1.write p [(s1.byteAt p &&& ~~~m) ||| (v &&& m)]).storePlaces part rest tag
  | _ :: rest, tag => s.storePlaces part rest tag

/-- Stored bytes that carry the mark of a poisoned line mark their lines (R427). -/
def State.markPlaces (s : State) (bad : Bool) (items : List (Loc × Byte × Option Byte)) : State :=
  items.foldl (fun s y => match y with
    | (.place p, _, some _) => s.markIf (bad && decide (p < hostMark)) p 1
    | _ => s) s

/-- Value and emptiness of the tokens of one element or group: a tun-128 takes two (R248). -/
def joinTokens (ts : List SentTok) : Nat × Bool :=
  match ts with
  | [a, b] => (a.tok.val.toNat % 2 ^ 64 + b.tok.val.toNat % 2 ^ 64 * 2 ^ 64, a.tok.empty || b.tok.empty)
  | a :: _ => (a.tok.val.toNat, a.tok.empty)
  | [] => (0, true)

/-- The running write stream of a generator stores the oldest token of a lane. Stores of a packed page, of a tile that
overlaps itself, and under fence strengthening (R141) go in walk order. -/
def State.storeToken (s : State) (core : Nat) (t : Task) (gi l : Nat) : Stored :=
  let b := s.bank core
  let gen := b.gen gi
  match gen.streams, laneList gen.wx l with
  | x0 :: _, tok :: more =>
    if !x0.cfg.write || x0.fault.isSome then .held s
    else
      match b.bySerial tok.blk with
      | none => .held s
      | some (_, _, blk) =>
        match blk.prog.genEntry gi true with
        | none => .held s
        | some ent =>
          let x := x0.fix ent.slots
          let toks := (tok :: more).take x.span
          let k := laneCount x.pos l
          if x.laneDone l || toks.length < x.span then .held s
          else
            let last := ((tok :: more).getLast?).map fun y => y.pos
            let stop (w : Stop) : Stored := .held (s.streamStop core t gi x .store tok.blk (some tok.pos) last w)
            let first := (List.range 16).all fun j =>
              x.laneDone j || decide (16 * (k / x.span) + l ≤ 16 * (laneCount x.pos j / x.span) + j)
            let done (s : State) (x : Stream) (tag : Nat) : Stored :=
              let y : Stream := { x with pos := x.pos.set l (k + x.span), wait := 0, msg := if tag = 0 then x.msg else tag }
              let q := (tok :: more).drop x.span
              .stored (s.setGen core gi { (((s.bank core).gen gi).setHead y) with wx := gen.wx.set l q })
            if s.boardHolds core t x.order x.ranges true then stop (.wait wBarrier)
            else if !first && (!x.disjoint || s.fstrOf t || x.packBlk.isSome) then .held s
            else
              let v := joinTokens toks
              let bs := x.tokenBytes l k v.1 v.2
              match s.tokenPlaces core t x l k v.2 bs with
              | .error w => stop w
              | .ok ps =>
                let images := ps.filterMap fun p => match p with | .image e va o => some (e, va, o) | _ => none
                if images.any fun y => pteKind y.1 == 3 then stop (.plain cProtection (dBase x.tile))
                else if bs.any (fun y => y.2.2.isSome) && (tok.pk != !images.isEmpty) then stop (.plain cProtection (dBase x.tile))
                else if images.any fun y => x.patternBad y.2.1 (s.pageSize t y.2.1) then stop (.plain cProtection (dBase x.tile))
                else if images.isEmpty then
                  let items := ps.zip (bs.map fun y => y.2)
                  let r := s.storePlaces t.part items 0
                  done (r.1.markPlaces (toks.any fun y => y.tok.poison) items) x r.2
                else if !first then .held s
                else
                  let items := (images.zip (bs.map fun y => y.2)).map fun y =>
                    (y.1.1, y.1.2.1, y.1.2.1 + y.1.2.2, y.2.1, y.2.2)
                  match s.packBytes t x (toks.any fun y => y.tok.poison) items with
                  | .stop w => stop w
                  | .overrun => .overrun
                  | .ok s1 y =>
                    let z : Stream := { y with pos := y.pos.set l (k + 1) }
                    if z.allDone then
                      match s1.sealBlock t y with
                      | .stop w => stop w
                      | .overrun => .overrun
                      | .ok s2 y2 => done s2 y2 0
                    else done s1 y 0
  | _, _ => .held s

/-- A packed block too large for its slot, found after the word that completed it (R108, R429). -/
def State.lateOverrun (s : State) (core : Nat) (gi l : Nat) : State :=
  let gen := (s.bank core).gen gi
  match gen.streams, laneList gen.wx l with
  | x :: _, tok :: more =>
    let f : StreamFault := ⟨cPackOverrun, 0, false, tok.blk, some tok.pos, 0⟩
    let last := ((tok :: more).getLast?).map fun y => y.pos
    (s.setGen core gi (gen.setHead { x with fault := some f })).freezeDraining core f last
  | _, _ => s

/-- GENERATOR_STORE: the running write stream of a generator stores a lane's oldest token. -/
def execGeneratorStore (core : CoreId) (g : Fin 4) (lane : Fin 16) (s : State) : Out :=
  let b := s.bank core.val
  .next (match b.task with
    | none => s
    | some t =>
      if (s.core core.val).swapping then s
      else
        match s.storeToken core.val t g.val lane.val with
        | .stored s1 => s1
        | .held s1 => s1
        | .overrun => s.lateOverrun core.val g.val lane.val)

/-! ### The end of a stream (R209) -/

/-- The running stream of a generator has finished and its stores have performed. -/
def State.streamOver (s : State) (part : Nat) (x : Stream) : Bool :=
  x.finished && x.fault.isNone && (!x.cfg.write || x.msg == 0 || s.answered part x.msg)

/-- The queued stream takes over the sidecar lines its generator holds (R107). -/
def inheritLines (x : Stream) : List Stream → List Stream
  | [] => []
  | y :: ys => { y with lines := x.lines } :: ys

/-- STREAM_FINISH: the queued stream becomes the running one (R206). -/
def execStreamFinish (core : CoreId) (g : Fin 4) (s : State) : Out :=
  let b := s.bank core.val
  let gen := b.gen g.val
  .next (match b.task, gen.streams with
    | some t, x :: rest =>
      if s.streamOver t.part x && !(s.core core.val).swapping then 
        s.setGen core.val g.val { gen with streams := inheritLines x rest } else s
    | _, _ => s)

end Sys2Proof.Machine
end

