-- ==== Sys2Proof/Machine/Program.lean ====
section
/-!
DEFINITION. Block images (R224 to R237): reading one from its words, and the rules FLOAD checks before any word enters a
plane (R34, R45, R49, R231, R236 to R238, R241, R245, R265, R282).
-/

namespace Sys2Proof.Machine

/-! ### Reading the image -/

/-- Word k of an image. -/
def wordOf (ws : List Word) (k : Nat) : Word := ws.getD k 0

/-- n bits of a word from bit lo on. -/
def bitsAt (w : Word) (lo n : Nat) : Nat := w.toNat / 2 ^ lo % 2 ^ n

/-- An endpoint (R229). -/
def endpOf (v : Nat) : Endp := ⟨v / 256 % 4, v / 8 % 32, v % 8⟩

/-- A stream entry from its two words (R230). -/
def streamOf (a b : Word) : StreamEnt :=
  ⟨endpOf (bitsAt a 54 10), endpOf (bitsAt a 44 10), bitsAt a 40 4, bitsAt a 38 2, bitsAt a 32 6, b⟩

/-- DLY of a column word. -/
def headDly : Instr → Nat
  | .qnop h | .qrsym h => h.dly.toNat
  | .qadd o _ | .qsub o _ | .qmul o _ => o.head.dly.toNat
  | .qand o | .qor o | .qxor o | .qfmin o | .qfmax o => o.head.dly.toNat
  | .qmin o _ | .qmax o _ => o.head.dly.toNat
  | .qcmp o _ => o.head.dly.toNat
  | .qfadd o _ | .qfmul o _ => o.head.dly.toNat
  | .qmac o _ => o.head.dly.toNat
  | .qsel o => o.head.dly.toNat
  | .qfma o _ => o.head.dly.toNat
  | .qshl o _ | .qshr o _ | .qsra o _ => o.head.dly.toNat
  | .qcvt o _ _ _ _ _ => o.head.dly.toNat
  | .qrecv h _ _ _ _ => h.dly.toNat
  | .qsend h _ _ _ _ _ _ => h.dly.toNat
  | .qlane h _ _ _ _ => h.dly.toNat
  | .qbcast h _ _ _ => h.dly.toNat
  | .qredl h _ _ _ _ _ => h.dly.toNat
  | .qmov h _ _ _ => h.dly.toNat
  | .qtstep h _ _ _ _ _ _ => h.dly.toNat
  | .qdrain h _ _ _ _ _ _ => h.dly.toNat
  | .qscale h _ => h.dly.toNat
  | .qiter h _ _ => h.dly.toNat
  | .qempty h _ _ _ => h.dly.toNat
  | .qrload h _ _ => h.dly.toNat
  | .qrdrain h _ _ _ _ => h.dly.toNat
  | _ => 0

/-- The words of a column with their iteration times (R234, R236); none where a word is no column operation. -/
def schedOf : List Word → Nat → Option (List Sched)
  | [], _ => some []
  | w :: ws, t =>
    match decodeColumn w with
    | .error _ => none
    | .ok i =>
      if !i.wf then none
      else match schedOf ws (t + 1 + headDly i) with
        | none => none
        | some r => some (⟨t, i, w.getLsbD 5⟩ :: r)

/-- A function column from its descriptor (R233). -/
def columnOf (ws : List Word) (tile col : Nat) (fcw desc : Nat) : Option ColProg :=
  let first := desc / 2 ^ 22 % 2 ^ 10
  let count := desc / 2 ^ 15 % 2 ^ 7
  let off := desc % 2 ^ 15
  if count = 0 then (if desc = 0 then some ⟨tile, col, BitVec.ofNat 32 fcw, []⟩ else none)
  else if 64 < count || ws.length < off + count then none
  else match schedOf ((ws.drop off).take count) first with
    | some sc => some ⟨tile, col, BitVec.ofNat 32 fcw, sc⟩
    | none => none

/-- Half of a word: 32-bit item k of the words from position p on. -/
def halfOf (ws : List Word) (p k : Nat) : Nat := (wordOf ws (p + k / 2)).toNat / 2 ^ (32 * (k % 2)) % 2 ^ 32

/-- The columns of the tiles in use (R224). -/
def columnsOf (ws : List Word) : List Nat → Nat → Option (List ColProg)
  | [], _ => some []
  | n :: ns, p =>
    match (List.range 6).mapM fun k => columnOf ws n k (halfOf ws p k) (halfOf ws (p + 3) k), columnsOf ws ns (p + 6) with
    | some a, some b => some (a ++ b)
    | _, _ => none

/-- A trip-count source is well formed (R227). -/
def tripForm (w : Word) : Bool :=
  if w.getLsbD 63 then w.toNat % 2 ^ 32 == 0 && bitsAt w 38 25 == 0 && decide (bitsAt w 32 6 < 48) else bitsAt w 32 32 == 0

/-- A stream entry's words are well formed (R230). -/
def streamForm (a b : Word) : Bool :=
  let n := bitsAt a 32 6
  bitsAt a 0 32 == 0 && bitsAt a 38 2 != 3 && decide (n ≤ 32) && b.toNat / 4 ^ n == 0

/-- A binding's word is well formed, and its region stays inside the tile (R232). -/
def bufForm (w : Word) : Bool :=
  bitsAt w 60 3 == 0 && bitsAt w 0 11 == 0
    && (if w.getLsbD 63 then bitsAt w 11 45 == 0 else decide (bitsAt w 34 17 + bitsAt w 17 17 + 1 ≤ 131072))

/-- A block image from its words: none where a reserved field is nonzero or a field has no meaning (R225 to R234). -/
def progOf (ws : List Word) : Option Prog :=
  let h := wordOf ws 0
  let pw := bitsAt h 60 4
  let ph := bitsAt h 56 4
  let nstr := bitsAt h 40 6
  let nbuf := bitsAt h 35 5
  let tiles := 2 * (pw + 1) * (ph + 1)
  let modes := wordOf ws 1
  let trips := (List.range 4).map fun k => wordOf ws (2 + k)
  let nsrc := wordOf ws 6
  let used := (List.range 32).filter fun n => modes.toNat / 4 ^ n % 4 != 0
  let matrix := used.any fun n => modes.toNat / 4 ^ n % 4 == 2
  let pairs := (List.range nstr).map fun k => (wordOf ws (7 + 2 * k), wordOf ws (8 + 2 * k))
  let bufs := (List.range nbuf).map fun k => wordOf ws (7 + 2 * nstr + k)
  if ws.length < 7 + 2 * nstr + nbuf + 6 * used.length || bitsAt h 0 16 != ws.length || bitsAt h 16 19 != 0
      || 16 < (pw + 1) * (ph + 1) || 16 < nbuf || modes.toNat / 4 ^ tiles != 0 || !trips.all tripForm
      || nsrc.toNat / 64 != 0 || (if matrix then 48 ≤ nsrc.toNat else nsrc != 0)
      || !pairs.all (fun p => streamForm p.1 p.2) || !bufs.all bufForm then none
  else match columnsOf ws used (7 + 2 * nstr + nbuf) with
    | none => none
    | some cols =>
      some { pw := pw, ph := ph, ii := bitsAt h 50 6, sc := bitsAt h 46 4, modes := modes, trips := trips, nsrc := nsrc,
             streams := pairs.map fun p => streamOf p.1 p.2, bufs := bufs, cols := cols }

/-! ### Fields -/

/-- FCW fields (R228): digits of A and B less one, signs, mode, acc, pack. -/
def fcwDa (f : Half) : Nat := (f.extractLsb' 0 3).toNat + 1
/-- Digits of B. -/
def fcwDb (f : Half) : Nat := (f.extractLsb' 3 3).toNat + 1
/-- sign_a -/
def fcwSa (f : Half) : Bool := f.getLsbD 6
/-- sign_b -/
def fcwSb (f : Half) : Bool := f.getLsbD 7
/-- Significand mode. -/
def fcwSig (f : Half) : Bool := f.getLsbD 8
/-- acc -/
def fcwAcc (f : Half) : Bool := f.getLsbD 9

/-- No reserved bit or value (R34, R228). -/
def fcwForm (f : Half) : Bool := f.extractLsb' 12 20 == 0 && !f.getLsbD 11

/-- Cycles of an interval: II + 1. -/
def Prog.cycles (p : Prog) : Nat := p.ii + 1

/-- Columns of a tile. -/
def Prog.colOf (p : Prog) (tile col : Nat) : Option ColProg := p.cols.find? fun c => c.tile == tile && c.col == col

/-- FCW of a column. -/
def Prog.fcw (p : Prog) (tile col : Nat) : Half := match p.colOf tile col with | some c => c.fcw | none => 0

/-- Interval of a matrix tile (R44, R265). -/
def fcwInterval (f : Half) : Nat :=
  let m := 64 / (fcwDa f * fcwDb f)
  (16384 + 64 * m - 1) / (64 * m)

/-! ### Ports a word names -/

/-- Port of a source. -/
def srcPorts : QSrc → List Nat
  | .inp p => [p.val]
  | _ => []

/-- Port of a destination. -/
def dstPorts : QDst → List Nat
  | .out p => [p.val]
  | _ => []

/-- In ports a column word takes tokens from. -/
def inPorts : Instr → List Nat
  | .qadd o _ | .qsub o _ | .qmul o _ => srcPorts o.s1 ++ srcPorts o.s2
  | .qand o | .qor o | .qxor o | .qfmin o | .qfmax o => srcPorts o.s1 ++ srcPorts o.s2
  | .qmin o _ | .qmax o _ => srcPorts o.s1 ++ srcPorts o.s2
  | .qcmp o _ => srcPorts o.s1 ++ srcPorts o.s2
  | .qfadd o _ | .qfmul o _ => srcPorts o.s1 ++ srcPorts o.s2
  | .qmac o _ => srcPorts o.s1 ++ srcPorts o.s2 ++ srcPorts o.s3
  | .qsel o => srcPorts o.s1 ++ srcPorts o.s2 ++ srcPorts o.s3
  | .qfma o _ => srcPorts o.s1 ++ srcPorts o.s2 ++ srcPorts o.s3
  | .qshl o n | .qshr o n | .qsra o n => srcPorts o.s1 ++ (match n with | .src s => srcPorts s | .imm _ => [])
  | .qcvt o _ _ _ _ _ => srcPorts o.s1
  | .qrecv _ _ p _ _ => [p.val]
  | .qsend _ _ s1 _ _ _ _ => srcPorts s1
  | .qredl _ _ s1 _ _ _ => srcPorts s1
  | .qmov _ _ f _ => match f with | .move s1 _ => srcPorts s1 | .tag s1 _ _ => srcPorts s1 | _ => []
  | .qtstep _ p _ _ na lb _ => ((List.range (na.toNat + 1)).map fun k => p.val + k) ++ (if lb then [4, 5, 6, 7] else [])
  | .qscale _ f => match f with | .lane s1 => srcPorts s1 | .tensor _ => []
  | .qempty _ _ p _ => [p.val]
  | .qrsym _ => [0]
  | .qrload _ p _ => [p.val]
  | _ => []

/-- Out port a column word sends on. -/
def outPorts : Instr → List Nat
  | .qadd o _ | .qsub o _ | .qmul o _ => dstPorts o.dst
  | .qand o | .qor o | .qxor o | .qfmin o | .qfmax o => dstPorts o.dst
  | .qmin o _ | .qmax o _ => dstPorts o.dst
  | .qcmp o _ => dstPorts o.dst
  | .qfadd o _ | .qfmul o _ => dstPorts o.dst
  | .qmac o _ => dstPorts o.dst
  | .qsel o => dstPorts o.dst
  | .qfma o _ => dstPorts o.dst
  | .qshl o _ | .qshr o _ | .qsra o _ => dstPorts o.dst
  | .qcvt o _ _ _ _ _ => dstPorts o.dst
  | .qsend _ p _ _ _ _ _ => [p.val]
  | .qlane _ d _ _ _ => dstPorts d
  | .qbcast _ d _ _ => dstPorts d
  | .qredl _ d _ _ _ _ => dstPorts d
  | .qmov _ d _ _ => dstPorts d
  | .qdrain _ p _ _ _ _ _ => [p.val]
  | .qiter _ d _ => dstPorts d
  | .qrdrain _ p _ _ _ => [p.val]
  | _ => []

/-- The stream that feeds an in port. -/
def Prog.feeder (p : Prog) (tile port : Nat) : Option StreamEnt :=
  p.streams.find? fun e => e.dst.kind == 0 && e.dst.idx == tile && e.dst.port == port

/-- The stream an out port drives. -/
def Prog.driven (p : Prog) (tile port : Nat) : Option StreamEnt :=
  p.streams.find? fun e => e.src.kind == 0 && e.src.idx == tile && e.src.port == port

/-! ### Stream rules (R229 to R231) -/

/-- Tile coordinates of a compute tile of a page set of width w (R226). -/
def computeAt (w n : Nat) : Nat × Nat := (2 * (n / 2 % w) + n % 2, 2 * (n / 2 / w) + n % 2)
/-- Tile coordinates of a scratch tile (R226). -/
def scratchAt (w n : Nat) : Nat × Nat := (2 * (n / 2 % w) + 1 - n % 2, 2 * (n / 2 / w) + n % 2)

/-- Two tiles share a side. -/
def adjacent (a b : Nat × Nat) : Bool :=
  (a.1 == b.1 && (a.2 == b.2 + 1 || b.2 == a.2 + 1)) || (a.2 == b.2 && (a.1 == b.1 + 1 || b.1 == a.1 + 1))

/-- The tile a hop leads to, inside a page set of width w and height h in tiles (R46, R230). -/
def hopTo (w h : Nat) (a : Nat × Nat) (dir : Nat) : Option (Nat × Nat) :=
  match dir with
  | 0 => if a.2 = 0 then none else some (a.1, a.2 - 1)
  | 1 => if a.1 + 1 < w then some (a.1 + 1, a.2) else none
  | 2 => if a.2 + 1 < h then some (a.1, a.2 + 1) else none
  | _ => if a.1 = 0 then none else some (a.1 - 1, a.2)

/-- The links of a route: the tile each hop leaves and its side, and the tile it ends at. -/
def routeOf (w h : Nat) (route : Nat) : Nat → Nat × Nat → Option (List (Nat × Nat × Nat) × (Nat × Nat))
  | 0, a => some ([], a)
  | n + 1, a =>
    match hopTo w h a (route % 4) with
    | none => none
    | some b =>
      match routeOf w h (route / 4) n b with
      | none => none
      | some (ls, e) => some ((a.1, a.2, route % 4) :: ls, e)

/-- Slots per element of an entry. -/
def widthSlots (e : StreamEnt) : Nat := 2 ^ e.width

/-- Slot claims of an entry: link (tile i, tile j, side) or edge direction, and slot (R230). -/
def Prog.claims (p : Prog) (e : StreamEnt) : List (Nat × Nat × Nat × Nat) :=
  let slots (s : Nat) : List Nat := (List.range (widthSlots e)).map fun i => (s + i) % 16
  if e.src.kind = 1 then (slots e.slot).map fun s => (1000, 0, 0, s)
  else if e.dst.kind = 1 then (slots e.slot).map fun s => (1000, 1, 0, s)
  else if e.src.kind = 0 && e.dst.kind = 0 then
    match routeOf (2 * (p.pw + 1)) (2 * (p.ph + 1)) e.route.toNat e.nhop (computeAt (p.pw + 1) e.src.idx) with
    | none => []
    | some (ls, _) => (ls.zip (List.range ls.length)).flatMap fun lk =>
        (slots (e.slot + lk.2)).map fun s => (lk.1.1, lk.1.2.1, lk.1.2.2, s)
  else []

/-- The claims do not repeat. -/
def noRepeat {α : Type} [BEq α] : List α → Bool
  | [] => true
  | x :: xs => !xs.contains x && noRepeat xs

/-- An endpoint exists (R231). -/
def Prog.endpOk (p : Prog) (e : Endp) : Bool :=
  match e.kind with
  | 0 => decide (e.idx < p.tiles)
  | 1 => decide (e.idx < 4) && e.port == 0
  | 2 => decide (e.idx < p.bufs.length) && e.port == 0
  | _ => false

/-- Scratch tile of a fixed binding. -/
def bufTile (w : Word) : Nat := bitsAt w 51 5

/-- One stream entry keeps the rules of R231. -/
def Prog.streamOk (p : Prog) (e : StreamEnt) : Bool :=
  let w := p.pw + 1
  let near (k n : Nat) : Bool :=
    let b := p.bufs.getD k 0
    b.getLsbD 63 || (decide (bufTile b < p.tiles) && p.mode (bufTile b) != 3
      && adjacent (computeAt w n) (scratchAt w (bufTile b)))
  p.endpOk e.src && p.endpOk e.dst && (e.src.kind == 0 || e.dst.kind == 0)
    && (if e.src.kind == 0 && e.dst.kind == 0 then
          (match routeOf (2 * w) (2 * (p.ph + 1)) e.route.toNat e.nhop (computeAt w e.src.idx) with
            | some (_, z) => z == computeAt w e.dst.idx
            | none => false)
        else e.nhop == 0)
    && (e.src.kind != 2 || near e.src.idx e.dst.idx) && (e.dst.kind != 2 || near e.dst.idx e.src.idx)

/-- The stream entries keep the rules of R231, and no rule file is bound (R45). A stream whose own route claims a slot of a link
twice is refused like two streams that claim it (DESIGN CHOICE, log 74: R231 speaks of two streams). -/
def Prog.streamsOk (p : Prog) : Bool :=
  p.streams.all p.streamOk && noRepeat (p.streams.flatMap p.claims)
    && noRepeat ((p.streams.filter fun e => e.dst.kind == 0).map fun e => (e.dst.idx, e.dst.port))
    && noRepeat ((p.streams.filter fun e => e.src.kind == 0).map fun e => (e.src.idx, e.src.port))
    && p.bufs.all fun b => b.getLsbD 63 || (decide (bufTile b < p.tiles) && p.mode (bufTile b) != 3)

/-! ### Column rules -/

/-- The operation may stand in a column of a tile mode (R245, R282). -/
def opAllowed (mode col : Nat) (i : Instr) : Bool :=
  match i with
  | .qtstep _ _ _ _ _ _ _ | .qscale _ _ => mode == 2 && col == 0
  | .qdrain _ _ _ _ _ _ _ => mode == 2 && col == 5
  | .qrsym _ => mode == 3 && decide (col < 4)
  | .qrload _ _ _ => mode == 3 && col == 4
  | .qrdrain _ _ _ _ _ => mode == 3 && col == 5
  | .qnop _ => mode == 1 || (mode == 2 && (col == 0 || col == 5)) || (mode == 3 && (col == 4 || col == 5))
  | .qmov _ _ _ _ => mode == 1 || (mode == 2 && col == 5)
  | _ => mode == 1

/-- QMUL and QMAC use the bricks in integer mode (R245). -/
def brickOk (f : Half) : Instr → Bool
  | .qmul _ _ | .qmac _ _ => !fcwSig f
  | _ => true

/-- Tokens wider than 32 bits are read by QRLOAD and QRSYM alone, and sent by QDRAIN and QRDRAIN alone (R248). A QDRAIN with
PK = 1 sends on no binding (R270). -/
def Prog.tokensOk (p : Prog) (tile : Nat) (i : Instr) : Bool :=
  let wide (e : Option StreamEnt) : Bool := match e with | some x => widthSlots x == 4 | none => false
  let bound (q : Nat) : Bool := match p.driven tile q with | some x => x.dst.kind == 2 | none => false
  match i with
  | .qrload .. | .qrsym _ => true
  | .qdrain _ q _ _ _ _ pk => !pk || !bound q.val
  | .qrdrain .. => true
  | i => (inPorts i).all (fun q => !wide (p.feeder tile q)) && (outPorts i).all fun q => !wide (p.driven tile q)

/-- The words of a column keep R236 to R238, R241, R245 and R248. -/
def Prog.colOk (p : Prog) (c : ColProg) : Bool :=
  let n := p.cycles
  fcwForm c.fcw && decide (c.words.length ≤ n) && noRepeat (c.words.map fun w => w.t % n)
    && (match c.words.getLast? with | some w => decide (w.t < (p.sc + 1) * n) && headDly w.op == 0 | none => true)
    && c.words.all fun w =>
      opAllowed (p.mode c.tile) c.col w.op && brickOk c.fcw w.op && p.tokensOk c.tile w.op && (!w.rp || w.t % n == 0)
        && (inPorts w.op).all (fun q => (p.feeder c.tile q).isSome) && (outPorts w.op).all fun q => (p.driven c.tile q).isSome

/-- FCWs and ports of a matrix tile (R265). -/
def Prog.matrixOk (p : Prog) (t : Nat) : Bool :=
  let f (k : Nat) : Half := p.fcw t k
  let noAcc (x : Half) : Half := x &&& 0xFFFFFDFF
  f 4 == 0 && f 5 == 0 && !fcwAcc (f 0) && (List.range 3).all (fun k => fcwAcc (f (k + 1)) && noAcc (f (k + 1)) == noAcc (f 0))
    && (List.range 4).all fun k =>
      (match p.feeder t (4 + k) with | some e => e.src.kind == 1 && e.width == 0 | none => false)
        && match p.feeder t k with | some e => e.width == 0 | none => true

/-- Columns of a rule tile (R280, R282). Its in0 must be fed by a generator stream of width 10, which R280 gives it; another
feeder is refused with the block (DESIGN CHOICE, log 74: the checks of R314 do not name it). -/
def Prog.ruleOk (p : Prog) (t : Nat) : Bool :=
  let ws (k : Nat) : List Sched := match p.colOf t k with | some c => c.words | none => []
  let sym (k : Nat) : Bool := match ws k with | [w] => (match w.op with | .qrsym _ => true | _ => false) | _ => false
  let fcws := (List.range 6).all fun k => p.fcw t k == 0
  let none4 := (List.range 4).all fun k => (ws k).isEmpty
  let times := (List.range 4).map fun k => match ws k with | w :: _ => w.t | [] => 0
  fcws && (none4 || ((List.range 4).all sym && times.all (fun x => x == times.headD 0) && (ws 4).isEmpty && (ws 5).isEmpty
    && match p.feeder t 0 with | some e => e.src.kind == 1 && e.width == 2 | none => false))

/-- Every rule FLOAD checks on an image it has read (R240). -/
def Prog.ok (p : Prog) : Bool :=
  p.streamsOk && p.cols.all p.colOk && (List.range p.tiles).all fun t =>
    match p.mode t with
    | 2 => p.matrixOk t
    | 3 => p.ruleOk t
    | _ => true

end Sys2Proof.Machine
end

