-- ==== Sys2Proof/Machine/Engines.lean ====
section
/-!
DEFINITION. Engine commands: SBIND, SGATE, SWAIT (R205 to R209), FSTART, FBAR, FWAIT, FRESTART, FQRY (R212 to R215),
ACOPY and the barrier objects (R216, R217).
-/

namespace Sys2Proof.Machine

/-- Accesses the task has issued and not performed: a command that starts an agent comes after them (R131). -/
def Context.settling (c : Context) : Bool := c.fly.any fun e => e.isLoad || e.isStore

/-! ### Streams (R205 to R209) -/

/-- Width of a tag's elements in bits. -/
def tagWidth (fts : Sparse Half) (t : Tag) : Nat :=
  match fmtOf fts t with
  | some f => f.width
  | none => containerOf fts t

/-- The rows of a scratch-tile descriptor lie outside the placed page sets or the tile (R145). -/
def Context.outside (c : Context) (core : Nat) (d : BitVec 128) (bits : Nat) : Bool :=
  dLvl d == 0 && (c.scratchBase core d (elemBytes (dCols d) bits)).isNone

/-- The checks of SBIND that read descriptors and format registers (R102, R145, R205, R207, R280): cause and TINFO. -/
def Stream.check (x : Stream) (c : Context) (core : Nat) (ill : Word) : Option (Nat × Word) :=
  let d := x.tile
  let cfg := x.cfg
  let cls := classOf x.fts (dTag d)
  let info (t : Tag) : Word := t.zeroExtend 64
  let turn := cfg.tr != .none
  if dBad d || (cfg.gath && (dBad x.idx || dTag x.idx != 3)) || (cfg.matb && dLvl d != 2)
      || (cfg.rsym && (dLvl d != 2 || dTag d != 0 || x.rep != 1))
      || (turn && (dRows d % 16 != 0 || dCols d % 16 != 0))
      || (cfg.mxs && bskOf x.fts (dTag d) != 1)
      || (cfg.wid && classOf x.fts x.wtag != .invalid && decide (tagWidth x.fts x.wtag < tagWidth x.fts (dTag d))) then
    some (cIllegal, ill)
  else if cls == .invalid || (cfg.wid && (cls == .raw || cls == .accumulator))
      || (cfg.tr == .t8 && x.memBits != 8) || (cfg.tr == .t16 && x.memBits != 16) then
    some (cFormatTag, info (dTag d))
  else if cfg.wid && (classOf x.fts x.wtag == .invalid || classOf x.fts x.wtag == .accumulator) then
    some (cFormatTag, info x.wtag)
  else if (cfg.matb && decide (524288 < dBase d + tileSpan d x.memBits + (if cfg.mxs then { x with tokBits := 16 }.scaleBytes else 0))) || c.outside core d x.memBits then
    some (cProtection, BitVec.ofNat 64 (dBase d))
  else if cfg.gath && c.outside core x.idx 32 then some (cProtection, BitVec.ofNat 64 (dBase x.idx))
  else none

/-- Stream entries of a core's port scoreboard in use (R337). -/
def State.streamEntries (s : State) (core : Nat) : Nat :=
  ((s.contexts core).map fun c => (c.gens.map fun e => (e.2.streams.filter fun x => !x.isCut).length).sum).sum

/-- SBIND. The task's generators give up their sidecar lines (R107). -/
def execSbind (pg : Fin 4) (b c : DReg) (cfg : StreamCfg) (rep : BitVec 32) (wtag : Tag) (s : State) : Out :=
  let i : Instr := .sbind pg b c cfg rep wtag
  .next (issue i (fun _ => keyD b ++ (if cfg.gath then keyD c else [])) (fun s _ =>
    let k := s.ctx
    let x : Stream :=
      { cfg := cfg, tile := k.desc b, idx := if cfg.gath then k.desc c else 0, rep := rep.toNat, wtag := wtag,
        fts := k.ft, gate := 0xFFFF, gateFrom := 0, order := (s.core s.cur).engines, tokBits := 0, pos := [], taken := [],
        lines := [], fault := none, wait := 0, packBlk := none, packed := [], msg := 0, got := [], rows := [],
        packBad := false }
    let g := k.gen pg.val
    match x.check k s.cur (word0 i) with
    | some (cause, info) => .trap s cause info
    | none =>
      if 2 ≤ g.streams.length || Config.streamEntries ≤ s.streamEntries s.cur then .wait s wPortFull
      else if k.settling then .stall
      else
        let g1 := k.dropLines.gen pg.val
        let s1 := s.setCtx (k.dropLines.setGen pg.val { g1 with streams := g1.streams ++ [x] })
        .done (s1.setCore s1.cur { s1.core s1.cur with engines := (s1.core s1.cur).engines + 1 })) s)

/-- The next element of a stream: the first that some lane has still to deliver or store. -/
def Stream.nextElem (x : Stream) : Nat :=
  (List.range 16).foldl (fun n l => if x.laneDone l then n else min n (x.firstElem l (laneCount x.pos l))) x.total

/-- The gate of a stream is set (R208). With compatibility bit 1, START counts in the current walk (R299). -/
def Stream.setGate (x : Stream) (m : Mask) (start : Nat) (compat : Bool) : Stream :=
  { x with gate := m, gateFrom := start + (if compat then x.nextElem / x.walk * x.walk else 0) }

/-- SGATE. A generator without a running or a queued stream takes no gate: the instruction only advances (DESIGN CHOICE, log 73:
R208 speaks of streams alone). -/
def execSgate (pg : Fin 4) (b : PReg) (start : BitVec 32) (s : State) : Out :=
  .next (issue (.sgate pg b start) (fun _ => keyP b) (fun s t =>
    let k := s.ctx
    let g := k.gen pg.val
    let bit := ((s.ctxInfo t.part t.ctx).compat.getD 0).getLsbD 1
    let m := k.pred b
    .done (match g.streams with
      | [] => s
      | [x] => s.setCtx (k.setGen pg.val { g with streams := [x.setGate m start.toNat bit] })
      | x :: y :: rest => s.setCtx (k.setGen pg.val { g with streams := x :: y.setGate m start.toNat bit :: rest }))) s)

/-- SWAIT. -/
def execSwait (pg : Fin 4) (scope : Scope) (s : State) : Out :=
  .next (issue (.swait pg scope) (fun _ => []) (fun s _ =>
    let xs := (s.ctx.gen pg.val).streams
    if xs.isEmpty then .done s
    else
      let agents := xs.map fun x => (false, match x.fault with | some f => f.asked | none => false)
      .wait s (peerCode wBarrier agents)) s)

/-! ### Blocks (R212 to R215) -/

/-- The registers a block's header names for trip counts and N (R227). -/
def Prog.regs (p : Prog) : List XReg :=
  let reg (n : Nat) : XReg := if n < 32 then .w (Fin.ofNat 32 n) else .g (Fin.ofNat 16 (n - 32))
  (p.trips.filterMap fun w => if w.getLsbD 63 then some (reg (w.toNat / 2 ^ 32 % 64)) else none)
    ++ (if (List.range p.tiles).any fun n => p.mode n == 2 then [reg (p.nsrc.toNat % 64)] else [])

/-- Integer register of a six-bit specifier (R153). -/
def regOf (n : Nat) : XReg := if n < 32 then .w (Fin.ofNat 32 n) else .g (Fin.ofNat 16 (n - 32))

/-- Trip count as FSTART reads it (R12, R227): of a register its low 32 bits (DESIGN CHOICE, log 73: R227 gives a trip 32 bits
and does not say what the upper bits of the register do). -/
def Context.trip (c : Context) (w : Word) : Nat :=
  if w.getLsbD 63 then (c.x (regOf (w.toNat / 2 ^ 32 % 64))).toNat % 2 ^ 32 else w.toNat % 2 ^ 32

/-- A matrix tile is among the block's. -/
def Prog.hasMatrix (p : Prog) : Bool := (List.range p.tiles).any fun n => p.mode n == 2

/-- N is allowed (R43), and every group a word names is below N / 16 (R265). -/
def Prog.nOk (p : Prog) (n : Nat) : Bool :=
  n != 0 && decide (n ≤ 512) && n % 16 == 0 && p.cols.all fun c => c.words.all fun w =>
    match w.op with
    | .qtstep _ _ rep gb _ _ _ => decide (gb.toNat + rep.toNat < n / 16)
    | .qdrain _ _ _ g _ _ _ => decide (g.toNat < n / 16)
    | _ => true

/-- A binding takes its region from a descriptor (R232). -/
def bufDsrc (w : Word) : Bool := w.getLsbD 63
/-- DREG -/
def bufReg (w : Word) : DReg := Fin.ofNat 16 (w.toNat / 2 ^ 56 % 16)

/-- The region of a binding (R145, R232): a fixed one is a single row of SIZE bytes. -/
def Context.buf (c : Context) (w : Word) : Buf :=
  if bufDsrc w then
    let d := c.desc (bufReg w)
    let st := match (c.handle (dHandle d)).pset with
      | some p => (p.scratch (dBase d / 2 ^ 17 % 32) (dBase d / 2 ^ 22 % 32)).getD 0
      | none => 0
    ⟨st, dBase d % 2 ^ 17, dRows d, dCols d, dStride d, dTag d, dScale d⟩
  else
    let tag : Tag := w.extractLsb' 11 6
    let size := (w.extractLsb' 17 17).toNat + 1
    ⟨(w.extractLsb' 51 5).toNat, (w.extractLsb' 34 17).toNat, 1, size * 8 / containerOf c.ft tag, 0, tag, 0x3F800000⟩

/-- The tiles a binding joins are adjacent, and its scratch tile is no rule file (R45, R230, R231). -/
def Prog.bufJoins (p : Prog) (k st : Nat) : Bool :=
  p.mode st != 3 && p.streams.all fun e =>
    let near (n : Nat) : Bool := adjacent (computeAt (p.pw + 1) n) (scratchAt (p.pw + 1) st)
    (!(e.src.kind == 2 && e.src.idx == k) || near e.dst.idx) && (!(e.dst.kind == 2 && e.dst.idx == k) || near e.src.idx)

/-- The checks of FSTART (R43, R212, R232, R265). -/
def Context.startCheck (c : Context) (core h : Nat) (p : Prog) (ill : Word) : Option (Nat × Word) :=
  let ds := p.bufs.filter bufDsrc
  let n := (c.x (regOf (p.nsrc.toNat % 64))).toNat
  let joins := (List.range p.bufs.length).all fun k =>
    match p.bufs[k]? with
    | some w => !bufDsrc w || c.outside core (c.desc (bufReg w)) (containerOf c.ft (dTag (c.desc (bufReg w))))
        || p.bufJoins k (c.buf w).stile
    | none => true
  if (p.hasMatrix && !p.nOk n)
      || ds.any (fun w => let d := c.desc (bufReg w); dBad d || dLvl d != 0 || dHandle d != h) || !joins then
    some (cIllegal, ill)
  else
    match p.bufs.find? fun w => classOf c.ft (c.buf w).tag == .invalid with
    | some w => some (cFormatTag, (c.buf w).tag.zeroExtend 64)
    | none =>
      match ds.find? fun w => c.outside core (c.desc (bufReg w)) (containerOf c.ft (dTag (c.desc (bufReg w)))) with
      | some w => some (cProtection, BitVec.ofNat 64 (dBase (c.desc (bufReg w))))
      | none => none

/-- The LOADED block FSTART starts: the current one before the next one. -/
def Handle.startable (h : Handle) : Option (Bool × Block) :=
  match h.cur, h.next with
  | some b, nx =>
    if b.st == .loaded then some (false, b)
    else match nx with
      | some y => if y.st == .loaded then some (true, y) else none
      | none => none
  | none, _ => none

/-- A block as FSTART starts it. -/
def Context.started (c : Context) (b : Block) (n : Nat) : Block :=
  { b with
    st := .armed, phase := c.phase, n := n, lc := LoopCtx.start b.prog.ii b.prog.sc (b.prog.trips.map c.trip), cyc := 0,
    resume := 0, fts := c.ft, cb := c.gctr, key := c.gkey, bufs := b.prog.bufs.map c.buf, drained := [], rx := [],
    bpos := [], acc := [], jobs := [], hist := [], pend := [], red := [], copies := [], trap := none, told := false, refill := false,
    parse := [], finG := [] }

/-- FSTART. -/
def execFstart (h : Fin 8) (s : State) : Out :=
  let i : Instr := .fstart h
  let keys (c : Context) : List Nat :=
    match (c.handle h.val).startable with
    | some (_, b) => keysOf b.prog.regs c ++ (b.prog.bufs.filter bufDsrc).flatMap fun w => keyD (bufReg w)
    | none => []
  .next (issue i keys (fun s t =>
    let c := s.ctx
    if s.setMoving s.cur t.serial h.val then .wait s wNoPage
    else match (c.handle h.val).startable with
    | none => .trap s cIllegal (word0 i)
    | some (nxt, b) =>
      match c.startCheck s.cur h.val b.prog (word0 i) with
      | some (cause, info) => .trap s cause info
      | none =>
        if c.settling then .stall
        else
          let n := if b.prog.hasMatrix then (c.x (regOf (b.prog.nsrc.toNat % 64))).toNat else 0
          let c1 := c.setBlock h.val nxt (c.started b n)
          .done (s.setCtx { c1 with gctr := c.gctr + 0x100000000 })) s)

/-- FBAR: a new phase (R134); sidecar lines are given up (R107). -/
def execFbar (scope : Scope) (s : State) : Out :=
  .next (issue (.fbar scope) (fun _ => []) (fun s _ =>
    .done (s.mapCtx fun c => { c.dropLines with phase := c.phase + 1 })) s)

/-- A block has been started and has not completed. -/
def Block.live (b : Block) : Bool := b.st != .loaded

/-- Its freeze is a fault the driver has still to answer (R357). -/
def Block.inService (b : Block) : Bool := b.st == .frozen && !b.told

/-- A block takes or gives tokens of a generator whose stream has lost its die link: its fabric load shows PEER_FAULT (R377). -/
def Context.blockCut (c : Context) (b : Block) : Bool :=
  (List.range 4).any fun g =>
    ((b.prog.genEntry g false).isSome || (b.prog.genEntry g true).isSome) && ((c.gen g).streams.take 1).any Stream.isCut

/-- FWAIT. -/
def execFwait (scope : Scope) (mask : BitVec 8) (s : State) : Out :=
  .next (issue (.fwait scope mask) (fun _ => []) (fun s _ =>
    let bs := s.ctx.blocks.filter fun e => mask.getLsbD e.1 && e.2.2.live
    if bs.isEmpty then .done s
    else .wait s (peerCode wBarrier (bs.map fun e => (false, e.2.2.inService || s.ctx.blockCut e.2.2)))) s)

/-- Code of a block's state (R210). -/
def BlkSt.code : BlkSt → Nat
  | .loaded => 1
  | .armed => 2
  | .running => 3
  | .frozen => 4
  | .draining => 5

/-- State code of a handle's current or next block. -/
def optCode (b : Option Block) : Nat := match b with | some x => x.st.code | none => 0

/-- Items 1 to 10 of FQRY of a block (R215). -/
def Block.item (b : Block) (k : Nat) : Nat :=
  let l := b.lc
  if k = 1 then l.slot + l.ii * 2 ^ 6 + l.sc * 2 ^ 12 + l.sv.toNat * 2 ^ 16 + l.more.toNat * 2 ^ 32
  else if k < 6 then l.idx.getD (k - 2) 0
  else if k < 10 then l.trip.getD (k - 6) 0
  else match b.trap with
    | some t =>
      if b.st == .frozen then
        t.pos.col + t.pos.stage * 2 ^ 4 + t.pos.widx * 2 ^ 8 + t.pos.lane * 2 ^ 16 + t.pos.tile * 2 ^ 20
          + t.pos.init % 2 ^ 32 * 2 ^ 32
      else 0
    | none => 0

/-- An item of a handle (R215). -/
def Handle.item (h : Handle) (k : Nat) : Word :=
  BitVec.ofNat 64 (if k = 0 then
      let cause : Nat := match h.cur with
        | some b => (match b.trap with | some t => if b.st == .frozen then t.cause else 0 | none => 0)
        | none => 0
      optCode h.cur + optCode h.next * 2 ^ 3 + cause * 2 ^ 8
    else match h.cur with
      | some b => b.item k
      | none => 0)

/-- FQRY. -/
def execFqry (a : XReg) (h : Fin 8) (item : BitVec 4) (s : State) : Out :=
  writeX (.fqry a h item) [a] a (fun c => (c.handle h.val).item item.toNat) s

/-! ### Restart (R214, R238, R239) -/

/-- The restart point of a block: the newest copy that lane 15 has taken, else the oldest. -/
def Block.point (b : Block) : Option RestartCopy :=
  match (b.copies.filter fun r => decide (r.cyc + 15 ≤ b.cyc)).getLast? with
  | some r => some r
  | none => b.copies.head?

/-- Write streams from the first of a copy on: position counts spread over them. -/
def spreadPos (l : Nat) : List Stream → Nat → List Stream
  | [], _ => []
  | x :: xs, n =>
    if x.cfg.write then
      let m := min n (x.laneTokens l)
      { x with pos := x.pos.set l m } :: spreadPos l xs (n - m)
    else x :: spreadPos l xs n

/-- Tokens of lane l that the write streams of a list have stored. -/
def storedIn (l : Nat) (xs : List Stream) : Nat :=
  (xs.filter fun x => x.cfg.write).foldl (fun n x => n + laneCount x.pos l) 0

/-- Streams of a generator at a restart: those of the copy, with what they have done since, then later ones. A stream of
the copy that is gone has finished. -/
def restartStreams (old now : List Stream) : List Stream :=
  let last := old.foldl (fun m x => max m x.order) 0
  let same (x : Stream) : Stream :=
    match now.find? fun y => y.order == x.order with
    | some y => y
    | none =>
      let full : Sparse Nat := (List.range 16).foldl (fun m l => m.set l (x.laneTokens l)) []
      { x with pos := full, taken := full, fault := none, packed := [], msg := 0, got := [], rows := [], packBad := false }
  old.map same ++ now.filter fun y => decide (last < y.order) || old.isEmpty

/-- A generator's lane goes back to a copy (R238): positions, delivered tokens, and accepted tokens not yet stored. -/
def Gen.restoreLane (g : Gen) (l : Nat) (c : List Stream × List Token × Nat) : Gen :=
  let xs := restartStreams c.1 g.streams
  let stored := storedIn l xs
  let back (x : Stream) : Stream :=
    match c.1.find? fun y => y.order == x.order with
    | some y =>
      if x.cfg.write then x
      else { x with pos := x.pos.set l (laneCount y.pos l), taken := x.taken.set l (laneCount y.taken l) }
    | none => if x.cfg.write then x else { x with pos := x.pos.set l 0, taken := x.taken.set l 0 }
  let base := storedIn l c.1
  let ys := (spreadPos l xs (min stored (base + c.2.2))).map back
  { streams := ys, rx := g.rx.set l c.2.1, wx := g.wx.set l ((laneList g.wx l).take (base + c.2.2 - stored)) }

/-- A read stream that had finished before the restart, and that the copy found delivered to its end, stays finished: the
queues hold what is left of it. -/
def Gen.settle (before : List Stream) (g : Gen) : Gen :=
  { g with streams := g.streams.filter fun x => x.cfg.write || !x.allDone || before.any fun y => y.order == x.order }

/-- A packing stream's buffer goes back with its position: the bytes before it come from the buffer, or from the block
already written (R108). -/
def State.repack (s : State) (t : Task) (x : Stream) : Stream :=
  match x.packBlk with
  | none => x
  | some c =>
    let e := x.nextElem
    let q := x.at (x.rowCol e).1 (x.rowCol e).2
    let a := dBase x.tile + q.1
    let o := a % 4096 + (if q.2 = 0 then 0 else 1)
    if x.total ≤ e then x
    else if o = 0 then { x with packBlk := none, packed := [], packBad := false }
    else if a / 4096 == c && !x.packed.isEmpty then { x with packed := x.packed.take o }
    else
      match s.cached t.part t.ctx a with
      | none => { x with packBlk := some (a / 4096), packed := List.replicate o 0 }
      | some r =>
        match s.needLine t.part x r.leaf r.va (a - r.va) with
        | .error _ => { x with packBlk := some (a / 4096), packed := List.replicate o 0 }
        | .ok y =>
          let byte (k : Nat) : Option Byte :=
            match s.imageByte t y r.leaf r.va (a / 4096 * 4096 + k - r.va) with
            | .ok b => some b
            | .error _ => none
          let img := (List.range o).map byte
          { x with
            packBlk := some (a / 4096), packed := img.map fun b => b.getD 0, packBad := x.packBad || img.any Option.isNone }

/-- Keys of a lane in tables keyed by 16 x n + lane. -/
def keepLane {α : Type} (l : Nat) (now old : Sparse α) : Sparse α :=
  old.foldl (fun m e => Sparse.set m e.1 e.2) (now.filter fun e => e.1 % 16 != l)

/-- Keys of a lane in the table of cell registers. -/
def keepCells (l : Nat) (now old : Sparse (Half × Tag)) : Sparse (Half × Tag) :=
  old.foldl (fun m e => Sparse.set m e.1 e.2) (now.filter fun e => e.1 / 16 % 16 != l)

/-- Keys of a lane in the table of accumulators. -/
def keepAcc (l : Nat) (now old : Sparse Tun) : Sparse Tun :=
  old.foldl (fun m e => Sparse.set m e.1 e.2) (now.filter fun e => e.1 / 512 % 16 != l)

/-- Keys of a lane in tables of rule-file entries. -/
def keepRule {α : Type} (l : Nat) (now old : Sparse α) : Sparse α :=
  old.foldl (fun m e => Sparse.set m e.1 e.2) (now.filter fun e => e.1 / 1024 % 16 != l)

/-- A lane of a handle and its block goes back to a copy (R238, R289). -/
def restoreLane (r : LaneCopy) (hb : Handle × Block) : Handle × Block :=
  let h := hb.1
  let b := hb.2
  let l := r.lane
  ({ h with cells := keepCells l h.cells r.cells, latch := keepLane l h.latch r.latch, marks := keepRule l h.marks r.marks },
   { b with
     acc := keepAcc l b.acc r.acc, rx := keepLane l b.rx r.rx, bpos := keepLane l b.bpos r.bpos,
     drained := keepLane l b.drained r.drained, parse := keepLane l b.parse r.parse, finG := keepRule l b.finG r.finG,
     pend := b.pend ++ r.pend })

/-- The lane of a pending effect. -/
def Pend.lane : Pend → Nat
  | .cell _ l _ _ _ _ _ => l
  | .send _ _ _ _ w => w.lane
  | .rule _ _ l _ _ => l
  | .final _ _ l _ _ => l
  | .header _ _ l _ _ => l

/-- A stream leaves a fault it has met, unless the driver has still to answer (R387). -/
def Stream.retry (x : Stream) : Stream :=
  match x.fault with
  | some f => if f.asked then x else { x with fault := none }
  | none => x

/-- Read streams of a generator go back by n tokens that a lane has not taken, the latest first. -/
def rewindPos (l : Nat) : List Stream → Nat → List Stream × Nat
  | [], n => ([], n)
  | x :: xs, n =>
    let r := rewindPos l xs n
    if x.cfg.write then (x :: r.1, r.2)
    else
      let m := min r.2 (laneCount x.pos l - laneCount x.taken l)
      ({ x with pos := x.pos.set l (laneCount x.pos l - m) } :: r.1, r.2 - m)

/-- After a restart the tokens of rows out of range are fetched again, with those behind them (R207, R239). -/
def Gen.refetch (g : Gen) : Gen :=
  (List.range 16).foldl (fun g l =>
    let q := laneList g.rx l
    let good := q.takeWhile fun tok => tok.row == .good
    if good.length = q.length then g
    else { g with streams := (rewindPos l g.streams (q.length - good.length)).1, rx := g.rx.set l good }) g

/-- A frozen block goes back to its restart point and runs on when its read streams have filled (R239, R350). -/
def State.restart (s : State) (core : Nat) (t : Task) (h : Nat) (nxt : Bool) (b : Block) : State :=
  match b.point with
  | none => s.setBlock core h nxt { b with st := .running, trap := none, told := false, refill := true }
  | some r =>
    let c := s.bank core
    let keep (p : Pend) : Bool := !r.lanes.any fun y => y.lane == p.lane
    let b0 : Block := { b with pend := b.pend.filter keep }
    let hb := r.lanes.foldl (fun x y => restoreLane y x) (c.handle h, b0)
    let gens := r.lanes.foldl (fun (gs : Sparse Gen) y =>
      y.gens.foldl (fun gs e => Sparse.set gs e.1 ((Sparse.get Gen.reset gs e.1).restoreLane y.lane e.2)) gs) c.gens
    let redo (x : Stream) : Stream := if x.cfg.write then s.repack t x.retry else x.retry
    let gens1 := gens.map fun e =>
      let g := e.2.settle (c.gen e.1).streams
      (e.1, Gen.refetch { g with streams := g.streams.map redo })
    let b1 : Block :=
      { hb.2 with
        st := .running, trap := none, told := false, refill := true, lc := r.lc, cyc := r.cyc, resume := r.cyc, hist := r.hist,
        jobs := r.jobs, copies := [r] }
    s.setBank core { (c.setHandle h (hb.1.setBlock nxt b1)) with gens := gens1 }

/-- The frozen block FRESTART resumes: the current one, or the next one while the current one drains (DESIGN CHOICE, log 71:
R214 names the current block alone, and R211 lets a next block run behind a draining one). -/
def Handle.frozen (h : Handle) : Option (Bool × Block) :=
  match h.cur, h.next with
  | some b, nx =>
    if b.st == .frozen then some (false, b)
    else match nx with
      | some y => if y.st == .frozen then some (true, y) else none
      | none => none
  | none, _ => none

/-- FRESTART. -/
def execFrestart (h : Fin 8) (s : State) : Out :=
  let i : Instr := .frestart h
  .next (issue i (fun _ => []) (fun s t =>
    match (s.ctx.handle h.val).frozen with
    | none => .trap s cIllegal (word0 i)
    | some (nxt, b) => .done (s.restart s.cur t h.val nxt b)) s)

/-! ### Barrier objects (R110, R217) -/

/-- A barrier object's fields. -/
structure BarObj where
  gen : BitVec 16
  credit : BitVec 48
  armed : Bool
  need : BitVec 48
  deriving DecidableEq, Repr

/-- A barrier object from its 128 bits. -/
def BarObj.ofBits (v : Nat) : BarObj :=
  ⟨BitVec.ofNat 16 (v / 2 ^ 112), BitVec.ofNat 48 (v / 2 ^ 64), v / 2 ^ 48 % 2 == 1, BitVec.ofNat 48 v⟩

/-- Its 128 bits. -/
def BarObj.bits (b : BarObj) : Nat :=
  b.gen.toNat * 2 ^ 112 + b.credit.toNat * 2 ^ 64 + b.armed.toNat * 2 ^ 48 + b.need.toNat

/-- Settle of R110. -/
def BarObj.settle (b : BarObj) : BarObj :=
  if b.armed && decide (b.need.toNat ≤ b.credit.toNat) then ⟨b.gen + 1, b.credit - b.need, false, 0⟩ else b

/-- Credit of R110. -/
def BarObj.add (b : BarObj) (n : Nat) : BarObj := ({ b with credit := b.credit + BitVec.ofNat 48 n }).settle

/-- The object at a place. -/
def State.barObj (s : State) (p : Nat) : BarObj := BarObj.ofBits (s.natAt p 16)

/-- Put an object. -/
def State.setBarObj (s : State) (p : Nat) (b : BarObj) : State := s.writeNat p b.bits 16

/-- Checks of an instruction on a barrier object: alignment, place, membership (R110, R121). -/
def State.objPlace (s : State) (t : Task) (a : Word) (kind : AccKind) (k : State → Nat → Res) : Res :=
  if a.toNat % 16 != 0 then .trap s cMisaligned a
  else if !nearWindow a then .trap s cProtection a
  else s.access t a 16 16 kind k

/-- An indivisible update of a barrier object, a release at its scope (R217). -/
def objOp (i : Instr) (b c : XReg) (disp : BitVec 32) (scope : Scope) (f : BarObj → BitVec 48 → BarObj) (s : State) : Out :=
  .next (issue i (keysOf [b, c]) (fun s t =>
    let x := s.ctx
    let v := x.x c
    if v.toNat / 2 ^ 48 != 0 then .trap s cIllegal (word0 i)
    else
      s.objPlace t (x.eaDisp b disp) .atomic fun s1 p =>
        let e := s1.ctx.entry i (.store 8) 0 0 0 (x.eaDisp b disp) .rel scope [⟨p, 16, true⟩]
        if s1.mustWait t e then .stall
        else .done (s1.setBarObj p (f (s1.barObj p) (v.extractLsb' 0 48)))) s)

/-- BINIT. -/
def execBinit (b c : XReg) (disp : BitVec 32) (scope : Scope) (s : State) : Out :=
  objOp (.binit b c disp scope) b c disp scope (fun _ n => ⟨0, 0, n != 0, n⟩) s

/-- BEXPECT. -/
def execBexpect (b c : XReg) (disp : BitVec 32) (scope : Scope) (s : State) : Out :=
  objOp (.bexpect b c disp scope) b c disp scope (fun o n => ({ o with need := o.need + n, armed := true }).settle) s

/-- BWAIT. -/
def execBwait (b c : XReg) (disp : BitVec 32) (scope : Scope) (s : State) : Out :=
  let i : Instr := .bwait b c disp scope
  .next (issue i (keysOf [b, c]) (fun s t =>
    let x := s.ctx
    let v := x.x c
    let ea := x.eaDisp b disp
    if v.toNat / 2 ^ 16 != 0 then .trap s cIllegal (word0 i)
    else
      s.objPlace t ea .load fun s1 p =>
        let e := s1.ctx.entry i (.load 8 false (.g 0)) 0 0 0 ea .plain .core [⟨p, 16, false⟩]
        if s1.mustWait t e then .stall
        else if (s1.barObj p).gen - v.extractLsb' 0 16 < 0x8000 then .done s1
        else .wait s1 (peerCode wBarrier (((s1.copiesTo p).filter fun c => c.signal.isNone).map Copy.agent))) s)

/-! ### ACOPY (R216) -/

/-- A copy has moved its whole count: a credit or the signal word (R110, R111). -/
def State.creditCopy (s : State) (c : Copy) : State :=
  match c.signal with
  | some v => s.writeNat c.word v.toNat 8
  | none => s.setBarObj c.word ((s.barObj c.word).add c.n)

/-- Two ranges of n bytes overlap, as addresses modulo 2^64. -/
def copyOverlap (a b : Word) (n : Nat) : Bool := decide ((a - b).toNat < n) || decide ((b - a).toNat < n)

/-- A range of n bytes lies in one window. -/
def oneWindow (a : Word) (n : Nat) : Bool := n == 0 || windowOf a.toNat == windowOf (a.toNat + n - 1)

/-- ACOPY: dst, src, count in X(A), X(B), X(C); the completion word at X(E) + disp; with a value register the signal
form. -/
def execAcopy (a b c e : XReg) (f : Option XReg) (scope : Scope) (disp : BitVec 32) (s : State) : Out :=
  let i : Instr := .acopy a b c e f scope disp
  .next (issue i (keysOf ([a, b, c, e] ++ f.toList)) (fun s t =>
    let x := s.ctx
    let dst := x.x a
    let src := x.x b
    let n := (x.x c).toNat
    let w := x.eaDisp e disp
    let u := if f.isSome then 8 else 16
    if 2 ^ 32 ≤ n || copyOverlap dst src n then .trap s cIllegal (word0 i)
    else if w.toNat % u != 0 then .trap s cMisaligned w
    else if !nearWindow w then .trap s cProtection w
    else if !oneWindow src n then .trap s cProtection src
    else if !oneWindow dst n then .trap s cProtection dst
    else
      match s.checkAccess s.cur t w u u .store with
      | .trap cause info => .trap s cause info
      | .wait code => .wait s code
      | .away q => .wait (s.touch q) wRacking
      | .miss _ => .stall
      | .ok p =>
        let k := s.core s.cur
        let cp : Copy := ⟨t.serial, t.part, t.ctx, t.clustered, t.graph, t.load, src, dst, n, f.map x.x, p, scope, 0, .moving,
          k.engines, none, 0, [], 0, [], []⟩
        match (List.range Config.copySlots).find? fun j => (Sparse.find k.copies j).isNone with
        | none => .wait s wCopySlots
        | some j =>
          if x.settling then .stall
          else if n = 0 then .done (s.creditCopy cp)
          else .done (s.setCore s.cur { k with copies := k.copies.set j cp, engines := k.engines + 1 })) s)

end Sys2Proof.Machine
end

