-- ==== Sys2Proof/Machine/Timing.lean ====
section
/-!
DEFINITION. What the loader proves of a block: latencies and the producer of each read (R300 to R302), slots and
scratch-tile bandwidth (R98, R250, R303), the timing of tile steps (R268), and the tokens a queue can hold (R304).
-/

namespace Sys2Proof.Machine

/-! ### Latencies (R244, R283, R301) -/

/-- Operation code of a column word. -/
def opCode (i : Instr) : Nat := (encodeColumn i).op.toNat

/-- Result latency; none for QNOP, QTSTEP and QRSYM. -/
def latency : Instr → Option Nat
  | .qnop _ | .qtstep .. | .qrsym _ => none
  | .qmul _ _ | .qcvt _ _ _ _ _ _ | .qdrain .. | .qrdrain .. => some 2
  | .qmac _ _ => some 3
  | .qfadd _ _ | .qfmul _ _ | .qfma _ _ => some 4
  | _ => some 1

/-- The byte the LATENCY list holds for an operation the object uses (R301). -/
def latencyByte (i : Instr) : Nat := (latency i).getD 0xFF

/-- Cell register of a destination. -/
def dstCell : QDst → Option Nat
  | .cell i => some i.val
  | _ => none

/-- Cell register a word writes. -/
def cellWrite : Instr → Option Nat
  | .qadd o _ | .qsub o _ | .qmul o _ => dstCell o.dst
  | .qand o | .qor o | .qxor o | .qfmin o | .qfmax o => dstCell o.dst
  | .qmin o _ | .qmax o _ => dstCell o.dst
  | .qcmp o _ => dstCell o.dst
  | .qfadd o _ | .qfmul o _ => dstCell o.dst
  | .qmac o _ => dstCell o.dst
  | .qsel o => dstCell o.dst
  | .qfma o _ => dstCell o.dst
  | .qshl o _ | .qshr o _ | .qsra o _ => dstCell o.dst
  | .qcvt o _ _ _ _ _ => dstCell o.dst
  | .qrecv _ d _ _ _ => d.map (·.val)
  | .qlane _ d _ _ _ => dstCell d
  | .qbcast _ d _ _ => dstCell d
  | .qredl _ d _ _ _ _ => dstCell d
  | .qmov _ d _ _ => dstCell d
  | .qiter _ d _ => dstCell d
  | .qempty _ d _ _ => d.map (·.val)
  | _ => none

/-- An explicit read of a cell register (R302): OPND, register, XOFF, and whether wrapped lanes read nothing. -/
structure CellRead where
  opnd : Nat
  reg : Nat
  xoff : Int
  z : Bool
  deriving DecidableEq, Repr

/-- The read a source makes. -/
def srcRead (opnd : Nat) (xoff : BitVec 5) : QSrc → List CellRead
  | .cell i => [⟨opnd, i.val, xoff.toInt, false⟩]
  | _ => []

/-- Explicit reads of c0 to c15. -/
def cellReads : Instr → List CellRead
  | .qadd o _ | .qsub o _ | .qmul o _ => srcRead 0 o.xoff o.s1 ++ srcRead 1 0 o.s2
  | .qand o | .qor o | .qxor o | .qfmin o | .qfmax o => srcRead 0 o.xoff o.s1 ++ srcRead 1 0 o.s2
  | .qmin o _ | .qmax o _ => srcRead 0 o.xoff o.s1 ++ srcRead 1 0 o.s2
  | .qcmp o _ => srcRead 0 o.xoff o.s1 ++ srcRead 1 0 o.s2
  | .qfadd o _ | .qfmul o _ => srcRead 0 o.xoff o.s1 ++ srcRead 1 0 o.s2
  | .qmac o _ => srcRead 0 o.xoff o.s1 ++ srcRead 1 0 o.s2 ++ srcRead 2 0 o.s3
  | .qsel o => srcRead 0 o.xoff o.s1 ++ srcRead 1 0 o.s2 ++ srcRead 2 0 o.s3
  | .qfma o _ => srcRead 0 o.xoff o.s1 ++ srcRead 1 0 o.s2 ++ srcRead 2 0 o.s3
  | .qshl o n | .qshr o n | .qsra o n =>
    srcRead 0 o.xoff o.s1 ++ (match n with | .src s2 => srcRead 1 0 s2 | .imm _ => [])
  | .qcvt o _ _ _ _ _ => srcRead 0 o.xoff o.s1
  | .qsend _ _ s1 g _ x _ => srcRead 0 x s1 ++ (match g with | some c => [⟨2, c.val, 0, false⟩] | none => [])
  | .qlane _ _ c x z => [⟨0, c.val, x.toInt, z⟩]
  | .qbcast _ _ c _ => [⟨0, c.val, 0, false⟩]
  | .qredl _ _ s1 _ _ _ => srcRead 0 0 s1
  | .qmov _ d f _ =>
    (match f with
      | .move s1 x => srcRead 0 x s1
      | .tag s1 x _ => srcRead 0 x s1
      | .lo _ => []
      | .mid _ => (match d with | .cell i => [⟨3, i.val, 0, false⟩] | _ => [])
      | .hi _ => (match d with | .cell i => [⟨3, i.val, 0, false⟩] | _ => []))
  | .qscale _ f => (match f with | .lane s1 => srcRead 0 0 s1 | .tensor _ => [])
  | _ => []

/-! ### Producers (R300) -/

/-- The producer of a read: no write of the block, a word and its distance in iterations, or a read R300 refuses. -/
inductive Producer where
  | nothing
  | word (w delta : Nat)
  | refused
  deriving DecidableEq, Repr

/-- Words of a column that write a register: index, and time plus latency. -/
def ColProg.writers (c : ColProg) (reg : Nat) : List (Nat × Int) :=
  ((List.range c.words.length).zip c.words).filterMap fun e =>
    if cellWrite e.2.op == some reg then some (e.1, (e.2.t : Int) + ((latency e.2.op).getD 0 : Int)) else none

/-- δ of a writer for a read at time v = t + σ: the least m − n with e ≤ m · (II + 1) + v − 1. -/
def deltaOf (n : Nat) (v e : Int) : Int := -((v - e) / (n : Int))

/-- The writer whose write the read sees for large m: the greatest e. -/
def latest (n : Nat) (v : Int) : List (Nat × Int) → Option (Nat × Int)
  | [] => none
  | w :: ws =>
    match latest n v ws with
    | none => some w
    | some x => if x.2 - deltaOf n v x.2 * n < w.2 - deltaOf n v w.2 * n then some w else some x

/-- The producer of a read at time v, interval n (R300): for m below δ no write may be seen. -/
def producerOf (n : Nat) (v : Int) (ws : List (Nat × Int)) : Producer :=
  match latest n v ws with
  | none => .nothing
  | some w =>
    let d := deltaOf n v w.2
    if d < 0 || (decide (0 < d) && ws.any fun x => decide (deltaOf n v x.2 < d)) then .refused else .word w.1 d.toNat

/-- Fields [47:37] of an entry. -/
def Producer.bits : Producer → Nat
  | .word w d => w * 2 ^ 41 + d * 2 ^ 37
  | _ => 2 ^ 47

/-- Fields [34:24] of an entry. -/
def Producer.wrapBits : Producer → Nat
  | .word w d => w * 2 ^ 28 + d * 2 ^ 24
  | _ => 2 ^ 34

/-- A producer an entry can name: DELTA holds four bits. -/
def Producer.fits : Producer → Bool
  | .word w d => decide (w < 64) && decide (d < 16)
  | .nothing => true
  | .refused => false

/-- Entries that agree with R300 for a read, without the fields that name it; none: the read refuses the block. -/
def readEntries (n : Nat) (t : Nat) (c : ColProg) (r : CellRead) : List Nat :=
  let ws := c.writers r.reg
  let p := producerOf n (t + r.xoff) ws
  if !p.fits then []
  else if r.xoff == 0 then [p.bits]
  else
    let q := producerOf n (t + (if 0 < r.xoff then r.xoff - 16 else r.xoff + 16)) ws
    (p.bits + 2 * 2 ^ 35) :: (if q.fits && !r.z then [p.bits + 2 ^ 35 + q.wrapBits] else [])

/-- Every read of a block: the fields [63:48] of its entry, and the entries that agree with R300. -/
def Prog.reads (p : Prog) : List (Nat × List Nat) :=
  p.cols.flatMap fun c =>
    ((List.range c.words.length).zip c.words).flatMap fun e =>
      (cellReads e.2.op).map fun r =>
        let key := c.tile * 2 ^ 11 + c.col * 2 ^ 8 + e.1 * 4 + r.opnd
        (key, (readEntries p.cycles e.2.t c r).map fun x => key * 2 ^ 48 + x)

/-! ### Tile steps (R268) -/

/-- The binding with a fixed TAG that feeds a port: the container of its tag (R101). -/
def Prog.fixedTag (p : Prog) (fts : Sparse Half) (tile port : Nat) : Option Nat :=
  match p.feeder tile port with
  | none => none
  | some e =>
    if e.src.kind != 2 then none
    else
      let w := p.bufs.getD e.src.idx 0
      if w.getLsbD 63 then none else some (containerOf fts (w.extractLsb' 11 6))

/-- The A rows of a QTSTEP arrive in time, where the tags of its A ports are fixed in the image. -/
def Prog.rateOk (p : Prog) (fts : Sparse Half) (tile port na interval : Nat) : Bool :=
  let cs := (List.range na).map fun k => p.fixedTag fts tile (port + k)
  !cs.all (·.isSome) || cs.all fun c => decide (4 * c.getD 0 ≤ na * interval)

/-- QTSTEPs of a column: time, first port, repeats, first group, ports. -/
def ColProg.steps (c : ColProg) : List (Nat × Nat × Nat × Nat × Nat) :=
  c.words.filterMap fun w =>
    match w.op with
    | .qtstep _ q rep gb na _ _ => some (w.t, q.val, rep.toNat + 1, gb.toNat, na.toNat + 1)
    | _ => none

/-- QDRAINs of a column: time and group. -/
def ColProg.drains (c : ColProg) : List (Nat × Nat) :=
  c.words.filterMap fun w =>
    match w.op with
    | .qdrain _ _ _ g _ _ _ => some (w.t, g.toNat)
    | _ => none

/-- Cycles from a to the next b of any iteration. -/
def cyclesTo (n : Nat) (a b : Nat) : Nat := (((b : Int) - (a : Int)) % (n : Int)).toNat

/-- Iterations of a block whose trip counts all stand in the image; none: a trip count comes from a register (R227). -/
def Prog.iterations (p : Prog) : Option Nat :=
  if p.trips.any (·.getLsbD 63) then none else some (p.trips.foldl (fun v w => v * w.toNat) 1)

/-- For some iterations that differ by k, the second later by k · (II + 1), an event d cycles after another comes fewer
than len cycles after it; own: k = 0 is the same event. -/
def spanMeets (n : Nat) (its : Option Nat) (d : Int) (len : Nat) (own : Bool) : Bool :=
  let lo := -(d / (n : Int))
  let hi := ((len : Int) - 1 - d) / (n : Int)
  let lo1 := match its with | some i => max lo (1 - (i : Int)) | none => lo
  let hi1 := match its with | some i => min hi ((i : Int) - 1) | none => hi
  decide ((if own && lo1 == 0 then 1 else lo1) ≤ hi1)

/-- Registers of another column of the tile that a word writes: column and register (R267, R269). -/
def farWrites : Instr → List (Nat × Nat)
  | .qscale _ (.lane _) => [(4, 0)]
  | .qscale _ (.tensor _) => [(5, 0), (5, 1)]
  | .qtstep _ _ _ _ _ true _ => [(4, 0)]
  | _ => []

/-- Writes of the cell registers of a tile: column, register, and time plus latency. -/
def Prog.writes (p : Prog) (tile : Nat) : List (Nat × Nat × Int) :=
  (p.cols.filter fun c => c.tile == tile).flatMap fun c => c.words.flatMap fun w =>
    (match cellWrite w.op with | some r => [(c.col, r, (w.t : Int) + ((latency w.op).getD 0 : Int))] | none => [])
      ++ (farWrites w.op).map fun x => (x.1, x.2, (w.t : Int) + 1)

/-- No two writes to one register of one lane complete in the same cycle of any iteration (R246). -/
def Prog.writesOk (p : Prog) : Bool :=
  (List.range p.tiles).all fun t =>
    let ws := p.writes t
    ((List.range ws.length).zip ws).all fun a => (ws.drop (a.1 + 1)).all fun b =>
      !(a.2.1 == b.1 && a.2.2.1 == b.2.1 && spanMeets p.cycles p.iterations (b.2.2 - a.2.2.2) 1 false)

/-- The conditions of R268 in a matrix tile, for the iterations the block has. -/
def Prog.stepsOk (p : Prog) (fts : Sparse Half) (tile : Nat) : Bool :=
  let n := p.cycles
  let its := p.iterations
  let i := fcwInterval (p.fcw tile 0)
  let col (k : Nat) : ColProg := (p.colOf tile k).getD ⟨tile, k, 0, []⟩
  let ss := (col 0).steps
  let ds := (col 5).drains
  ss.all (fun s => p.rateOk fts tile s.2.1 s.2.2.2.2 i)
    && (List.range ss.length).all (fun a => (List.range ss.length).all fun b =>
        match ss[a]?, ss[b]? with
        | some x, some y => !spanMeets n its ((y.1 : Int) - x.1) (x.2.2.1 * i) (a == b)
        | _, _ => true)
    && ss.all fun s => (List.range s.2.2.1).all fun r => ds.all fun d =>
        d.2 != s.2.2.2.1 + r || !spanMeets n its ((d.1 : Int) - (s.1 + r * i)) (i + 6) false

/-- Every matrix tile keeps R268. -/
def Prog.tilesOk (p : Prog) (fts : Sparse Half) : Bool :=
  (List.range p.tiles).all fun t => p.mode t != 2 || p.stepsOk fts t

/-! ### Slots and bandwidth (R98, R250, R303) -/

/-- Words that send on a port of a tile: issue time and the cycle the token leaves, lane 0. -/
def Prog.sends (p : Prog) (tile port : Nat) : List (Nat × Nat) :=
  p.cols.flatMap fun c =>
    if c.tile != tile then []
    else c.words.filterMap fun w =>
      if (outPorts w.op).contains port then some (w.t, w.t + (latency w.op).getD 1 - 1) else none

/-- Sends of link streams fall on their slots in every iteration (R250). -/
def Prog.slotsOk (p : Prog) : Bool :=
  p.streams.all fun e =>
    if e.src.kind == 0 && e.dst.kind == 0 && e.nhop != 0 then
      let ss := p.sends e.src.idx e.src.port
      ss.isEmpty || (p.cycles % 16 == 0 && ss.all fun s => s.1 % 16 == e.slot)
    else true

/-- Scratch tile of a stream's binding, where the image fixes it. -/
def Prog.boundTile (p : Prog) (k : Nat) : Option Nat :=
  let w := p.bufs.getD k 0
  if w.getLsbD 63 then none else some (bufTile w)

/-- No scratch tile delivers to more than four read bindings at once; all of them begin in one cycle (R98). -/
def Prog.readPortsOk (p : Prog) : Bool :=
  (List.range p.tiles).all fun t =>
    decide ((p.streams.filter fun e => e.src.kind == 2 && p.boundTile e.src.idx == some t).length ≤ 4)

/-- Sends to the write bindings of a scratch tile: stream and cycle. A drain with target FT15 sends in two (R270). -/
def Prog.tileSends (p : Prog) (t : Nat) : List (Nat × Nat) :=
  ((List.range p.streams.length).zip p.streams).flatMap fun e =>
    if e.2.dst.kind == 2 && p.boundTile e.2.dst.idx == some t then
      let twice := (p.bufs.getD e.2.dst.idx 0).extractLsb' 11 6 == (15 : BitVec 6)
      (p.sends e.2.src.idx e.2.src.port).flatMap fun s => (e.1, s.2) :: (if twice then [(e.1, s.2 + 1)] else [])
    else []

/-- No cycle holds two writes of a scratch tile, over every iteration the block has and every lane: two words of one stream
meet in one lane, words of two streams in any lanes, up to 15 cycles apart in lane 0 (R98). -/
def Prog.writePortsOk (p : Prog) : Bool :=
  (List.range p.tiles).all fun t =>
    let ss := p.tileSends t
    ((List.range ss.length).zip ss).all fun a => (ss.drop (a.1 + 1)).all fun y =>
      let d : Int := (y.2 : Int) - a.2.2
      !(if a.2.1 == y.1 then spanMeets p.cycles p.iterations d 1 false
        else spanMeets p.cycles p.iterations (d + 15) 31 false)

/-- Bindings with a fixed TAG have containers that their tokens hold; an FT15 drain is stored by two tokens (R248). -/
def Prog.bindingsOk (p : Prog) (fts : Sparse Half) : Bool :=
  let fits (k : Nat) (w : Nat) (write : Bool) : Bool :=
    let b := p.bufs.getD k 0
    b.getLsbD 63 || (write && w == 4 && b.extractLsb' 11 6 == (15 : BitVec 6))
      || decide (containerOf fts (b.extractLsb' 11 6) ≤ 16 * w)
  p.streams.all fun e =>
    (e.src.kind != 2 || fits e.src.idx (widthSlots e) false) && (e.dst.kind != 2 || fits e.dst.idx (widthSlots e) true)

/-- The checks of R303. -/
def Prog.networkOk (p : Prog) : Bool := p.slotsOk && p.readPortsOk && p.writePortsOk

/-! ### Tokens a queue can hold (R304, R305) -/

/-- Words of a tile that take from a port: lane-0 times. The A tag of a QTSTEP that the image does not fix counts as one
of 8-bit containers (log 34). -/
def Prog.takes (p : Prog) (fts : Sparse Half) (tile port : Nat) : List Nat :=
  p.cols.flatMap fun c =>
    if c.tile != tile then []
    else c.words.flatMap fun w =>
      match w.op with
      | .qtstep _ q rep _ na _ _ =>
        let k := na.toNat + 1
        let i := fcwInterval (p.fcw tile 0)
        let j := port - q.val
        if q.val ≤ port && j < k then
          let tokens := 4 * (p.fixedTag fts tile port).getD 8
          (List.range (rep.toNat + 1)).flatMap fun r =>
            (List.range tokens).filterMap fun m => if m % k == j then some (w.t + r * i + m / k) else none
        else []
      | .qrecv _ _ q peek _ => if q.val == port && !peek then [w.t] else []
      | .qempty _ _ q c => if q.val == port && c then [w.t] else []
      | op => if (inPorts op).contains port then [w.t] else []

/-- How many of the events at nN + o, n below the trip count, have come by the end of a cycle. -/
def comeBy (n trips cyc : Nat) (os : List Nat) : Nat :=
  (os.map fun o => if cyc < o then 0 else min trips ((cyc - o) / n + 1)).sum

/-- The greatest element of a list, 0 if there is none. -/
def greatest (xs : List Nat) : Nat := xs.foldl max 0

/-- Greatest number of tokens of a lane queued or in flight on a link or loop-back stream at the end of a cycle, for every
trip count. With more sends than takes in an iteration it grows without bound; otherwise it is greatest within the
iterations that pass until every word of the first has issued. -/
def linkPeak (n : Nat) (sends takes : List Nat) : Nat :=
  let its := (max (greatest sends) (greatest takes)) / n + 2
  if takes.length < sends.length then 33
  else greatest ((List.range its).flatMap fun k => (List.range (k + 1)).flatMap fun m =>
    sends.map fun o => comeBy n (k + 1) (m * n + o) sends - comeBy n (k + 1) (m * n + o) takes)

/-- Greatest number of tokens of a lane in the queue of a read binding stream with so many tokens of the lane, at the end
of a cycle of a block with so many stages above 0, for every trip count. Token j, readable from cycle 2 + j as queue space
allows, has come by the end of cycle 1 + j (log 34). The count is greatest in the cycle before a take or the last one of the
block's issue, under the least trip count that has that cycle; queue space bounds it by 32. -/
def bindingPeak (n stages total : Nat) (takes : List Nat) : Nat :=
  let its := greatest takes / n + 36
  let at0 (c : Nat) : Nat := min total c - comeBy n (max 1 (c / n + 1 - stages)) c takes
  min 32 (greatest ((List.range its).flatMap fun m => at0 ((m + 1 + stages) * n - 1) :: takes.map fun o => at0 (m * n + o - 1)))

/-- Tokens of lane 0 of a read binding (R248, R304): a region taken from a descriptor counts 131 072 bytes. -/
def Prog.bindingTokens (p : Prog) (fts : Sparse Half) (e : StreamEnt) : Nat :=
  let w := p.bufs.getD e.src.idx 0
  let slots := widthSlots e
  if w.getLsbD 63 then 131072 / (32 * slots)
  else
    let tag : Tag := w.extractLsb' 11 6
    let bits := containerOf fts tag
    let per := if tag == 13 then 1 else max 1 (16 * slots / bits)
    (((bitsAt w 17 17 + 1) * 8 / bits + per - 1) / per + 15) / 16

/-- Tokens the receive queue of a stream's in port must have room for (R304); 1 for a generator's. -/
def Prog.depthNeeded (p : Prog) (fts : Sparse Half) (e : StreamEnt) : Nat :=
  let takes := p.takes fts e.dst.idx e.dst.port
  match e.src.kind with
  | 1 => 1
  | 0 => max 1 (linkPeak p.cycles ((p.sends e.src.idx e.src.port).map (·.2)) takes)
  | _ => max 1 (bindingPeak p.cycles p.sc (p.bindingTokens fts e) takes)

/-- Streams into an in port, by index. -/
def Prog.inStreams (p : Prog) : List (Nat × StreamEnt) :=
  ((List.range p.streams.length).zip p.streams).filter fun e => e.2.dst.kind == 0

end Sys2Proof.Machine
end

