-- ==== Sys2Proof/Machine/Columns.lean ====
section
/-!
DEFINITION. Column operations in one lane (R244 to R264): operands and the empty policy (R49), tags (R247), tokens taken
(R248, R249) and results (R246), and every operation of stream mode.
-/

namespace Sys2Proof.Machine

/-! ### A lane's word at work -/

/-- A lane's word at work: the device as it stood, the block's core, handle and task, the word, and the handle, block and
generators as its words change them. -/
structure Fab where
  s : State
  core : Nat
  h : Nat
  nxt : Bool
  t : Task
  w : LaneWord
  hd : Handle
  b : Block
  gens : Sparse Gen

/-- A word's outcome: its effects, or the cause and TINFO of a fabric trap (R251). -/
abbrev FabRes := Except (Nat × Word) Fab

/-- Causes in the order of R251, R288 and, for ALIAS_KIND, R342. -/
def fabCauses : List Nat :=
  [cTranslation, cAliasKind, cRuleDepth, cRuleOrder, cRuleOverflow, cTiming, cFormatTag, cProtection, cRowConflict,
   cConvert, cPackOverrun]

/-- Place of a cause in that order. -/
def causeRank (c : Nat) : Nat := fabCauses.findIdx fun x => x == c

/-- The cause reported when a word meets several. -/
def worstTrap : List (Nat × Word) → Option (Nat × Word)
  | [] => none
  | x :: xs => match worstTrap xs with
    | none => some x
    | some y => if causeRank y.1 < causeRank x.1 then some y else some x

/-- FORMAT_TAG with the tag. -/
def tagFault (t : Tag) : Nat × Word := (cFormatTag, t.zeroExtend 64)

/-- Key of a cell register: tile, function column, lane, register. -/
def cellKey (tile col lane reg : Nat) : Nat := ((tile * 6 + col) * 16 + lane) * 16 + reg

/-- A register of the word's own cell in a lane, as it stood at the end of the last cycle (R40, R246). -/
def Fab.cell (f : Fab) (lane reg : Nat) : Half × Tag := Sparse.get (0, 0) f.hd.cells (cellKey f.w.tile f.w.col lane reg)

/-- Key of a receive queue fed by a link, loop-back or binding stream. -/
def rxKey (tile port lane : Nat) : Nat := (tile * 8 + port) * 16 + lane

/-- A generator as the block's words leave it. -/
def Fab.gen (f : Fab) (g : Nat) : Gen := Sparse.get Gen.reset f.gens g

/-- Container of a buffer binding's elements. -/
def Block.bufBits (b : Block) (k : Nat) : Nat :=
  match b.bufs[k]? with
  | some x => containerOf b.fts x.tag
  | none => 0

/-- Tag of a binding. -/
def Block.bufTag (b : Block) (k : Nat) : Tag := match b.bufs[k]? with | some x => x.tag | none => 0

/-- A binding's elements are wider than its tokens (R248); only the drain to FT15 splits an element. -/
def Block.bufWide (b : Block) (e : StreamEnt) (k : Nat) (write : Bool) : Bool :=
  !(write && b.bufTag k == 15 && e.slots == 4) && decide (16 * e.slots < b.bufBits k)

/-- Why a token of a generator's running stream is missing (R53, R248, R249). -/
def Stream.missing (x0 : Stream) (lane slots : Nat) : Nat × Word :=
  let x := x0.fix slots
  if x.cfg.write then (cTiming, 0)
  else if x.tooWide (if x.cfg.rsym then 128 else 16 * slots) then tagFault x.tag
  else if x.laneDone lane then (cTiming, 0)
  else match x.fault with
    | some y => if y.cause == cMachineCheck then (cTiming, 0) else (y.cause, if y.cause == cAliasKind then y.info else 0)
    | none => (cTiming, 0)

/-- Token k of the word's lane in the receive queue of an in port, the head being 0 (R249). The first token of a row whose index
is out of range raises PROTECTION (R207). -/
def Fab.peek (f : Fab) (p lane k : Nat) : Except (Nat × Word) Token :=
  match f.b.prog.feeder f.w.tile p with
  | none => .error (cTiming, 0)
  | some e =>
    if e.src.kind = 1 then
      let g := f.gen e.src.idx
      match (laneList g.rx lane)[k]? with
      | some tok => if tok.row == .first then .error (cProtection, 0) else .ok tok
      | none => .error (match g.streams with
        | x :: _ => x.missing lane e.slots
        | [] => (cTiming, 0))
    else
      match (laneList f.b.rx (rxKey f.w.tile p lane))[k]? with
      | some (c, tok) => if c ≤ f.b.cyc then .ok tok else .error (cTiming, 0)
      | none =>
        .error (if e.src.kind = 2 && f.b.bufWide e e.src.idx false then tagFault (f.b.bufTag e.src.idx) else (cTiming, 0))

/-- The head token of the word's lane; a symbol group is taken only by QRSYM (R280). -/
def Fab.head (f : Fab) (p : Nat) : Except (Nat × Word) Token :=
  match f.peek p f.w.lane 0 with
  | .ok tok => if tok.rsym then .error (cProtection, 0) else .ok tok
  | .error e => .error e

/-- Tokens of a lane's queue that no stream of the generator counts as its own: a restart brought them back after their
stream had finished (R238). -/
def Gen.spare (g : Gen) (l : Nat) : Nat :=
  let own := (g.streams.filter fun x => !x.cfg.write).foldl (fun n x => n + (laneCount x.pos l - laneCount x.taken l)) 0
  (laneList g.rx l).length - own

/-- Take n tokens from a port's queue of the word's lane. -/
def Fab.pop (f : Fab) (p n : Nat) : Fab :=
  match f.b.prog.feeder f.w.tile p with
  | none => f
  | some e =>
    let l := f.w.lane
    if e.src.kind = 1 then
      let g := f.gen e.src.idx
      let took (x : Stream) : Stream := { x with taken := x.taken.set l (laneCount x.taken l + (n - g.spare l)) }
      let xs := match g.streams with | x :: r => took x :: r | [] => []
      let q := (laneList g.rx l).drop n
      { f with gens := Sparse.set f.gens e.src.idx { g with streams := xs, rx := g.rx.set l q } }
    else
      let k := rxKey f.w.tile p l
      let q := (laneList f.b.rx k).drop n
      { f with b := { f.b with rx := f.b.rx.set k q } }

/-- A token of every in port a word names is consumed, once each (R235). -/
def Fab.consume (f : Fab) (i : Instr) : Fab := (inPorts i).eraseDups.foldl (fun f p => f.pop p 1) f

/-- An operand: its 32 bits and tag; empty: it was an empty token under the absorb or forward policy. -/
structure Opnd where
  val : Half
  tag : Tag
  empty : Bool
  deriving DecidableEq, Repr

/-- Lane ℓ - k modulo 16 (R40). -/
def laneBack (l : Nat) (k : Int) : Nat := (((l : Int) - k) % 16).toNat

/-- An operand as its specifier and the empty policy give it (R49, R235, R237). Zero carries FT0 (log 26). -/
def Fab.opnd (f : Fab) (ep : Ep) (ident : Tag → Half) (q : QSrc × BitVec 5) : Except (Nat × Word) Opnd :=
  match q.1 with
  | .zero => .ok ⟨0, 0, false⟩
  | .cell i => let c := f.cell (laneBack f.w.lane q.2.toInt) i.val; .ok ⟨c.1, c.2, false⟩
  | .inp p =>
    match f.head p.val with
    | .error e => .error e
    | .ok tok =>
      if !tok.empty then .ok ⟨tok.val.truncate 32, tok.tag, false⟩
      else if ep == .replace then let c := f.cell f.w.lane 15; .ok ⟨c.1, c.2, false⟩
      else .ok ⟨ident tok.tag, tok.tag, true⟩

/-- The operands of a word, or what traps: a missing token, or a tag that is not accepted (R247). -/
def Fab.opnds (f : Fab) (ep : Ep) (ident : Tag → Half) (ok : Nat → Tag → Bool) (qs : List (QSrc × BitVec 5)) :
    Except (Nat × Word) (List Opnd) :=
  let rs := qs.map (f.opnd ep ident)
  let xs := rs.filterMap fun r => match r with | .ok x => some x | .error _ => none
  let miss := rs.filterMap fun r => match r with | .ok _ => none | .error e => some e
  let bad := ((xs.zip (List.range xs.length)).filter fun x => !x.1.empty && !ok x.2 x.1.tag).map fun x => tagFault x.1.tag
  match worstTrap (miss ++ bad) with
  | some e => .error e
  | none => .ok xs

/-- Slots per element of the stream an out port drives. -/
def Fab.slots (f : Fab) (p : Nat) : Nat := match f.b.prog.driven f.w.tile p with | some e => e.slots | none => 1

/-- A word has a result: it is written at the end of cycle T + lat - 1, or sent in that cycle (R246, R248). -/
def Fab.give (f : Fab) (lat : Nat) (d : QDst) (v mask : Half) (tag : Tag) (empty : Bool) : Fab :=
  let c := f.b.cyc + lat - 1
  let add (p : Pend) : Fab := { f with b := { f.b with pend := f.b.pend ++ [p] } }
  match d with
  | .none => f
  | .cell r => if empty then f else add (.cell c f.w.lane (cellKey f.w.tile f.w.col f.w.lane r.val) v mask tag false)
  | .out p =>
    let bits := if empty then 0 else v.toNat % 2 ^ (16 * f.slots p.val)
    add (.send c p.val ⟨BitVec.ofNat 128 bits, tag, empty, [], 0, false, .good, false⟩ false f.w)

/-- All bits of a cell register. -/
def fullMask : Half := 0xFFFFFFFF

/-! ### Running a word -/

/-- The block's state after its word. -/
def Fab.store (f : Fab) (s : State) : State :=
  s.setBank f.core { ((s.bank f.core).setHandle f.h (f.hd.setBlock f.nxt f.b)) with gens := f.gens }

/-- A trap is recorded; the block's cycle ends with it (R251). -/
def State.fabTrap (s : State) (w : LaneWord) (e : Nat × Word) (asked : Bool) : State :=
  { s with work := s.work.map fun k => { k with traps := k.traps ++ [(⟨e.1, e.2, w⟩, asked)] } }

/-- The driver has still to answer a fault that a port's stream has met (R350). -/
def Fab.asked (f : Fab) (ps : List Nat) : Bool :=
  ps.any fun p => match f.b.prog.feeder f.w.tile p with
    | some e => e.src.kind == 1 && (match (f.gen e.src.idx).streams with
      | x :: _ => (match x.fault with | some y => y.asked | none => false)
      | [] => false)
    | none => false

/-! ### Marks of poisoned lines (R423, R427; log 77) -/

/-- Key of a compute tile among what holds a mark: its accumulators, latches, running reductions and rule engine. -/
def tileTaint (tile : Nat) : Nat := 2 ^ 20 + tile

/-- The operation works on what its tile holds beside the cell registers. -/
def onTile : Instr → Bool
  | .qredl .. | .qtstep .. | .qdrain .. | .qrsym _ | .qrload .. | .qrdrain .. => true
  | _ => false

/-- Tokens of the word's lane at an in port that the block itself feeds. -/
def Fab.linkQueue (f : Fab) (p : Nat) : List (Nat × Token) := laneList f.b.rx (rxKey f.w.tile p f.w.lane)

/-- A word that leads from f to g has looked at a token, a cell register or tile state that holds a mark. -/
def Fab.dirty (f g : Fab) (i : Instr) : Bool :=
  let seen (p : Nat) : Bool :=
    ((f.linkQueue p).take (max 1 ((f.linkQueue p).length - (g.linkQueue p).length))).any fun x => x.2.poison
  let cell (r : CellRead) : Bool :=
    f.hd.tainted.any fun k => decide (k < 2 ^ 20) && k / 256 == f.w.tile * 6 + f.w.col && k % 16 == r.reg
  (inPorts i).any seen || (cellReads i).any cell || (onTile i && f.hd.tainted.contains (tileTaint f.w.tile))

/-- What a word leaves carries the mark of what it looked at. -/
def Fab.carry (f g : Fab) (i : Instr) : Fab :=
  let bad := f.dirty g i
  let n := f.b.pend.length
  let tint (p : Pend) : Pend := match p with
    | .send c q tok pk w => .send c q { tok with poison := tok.poison || bad } pk w
    | .cell c l k v m t b => .cell c l k v m t (b || bad)
    | p => p
  let own := if bad && onTile i && !g.hd.tainted.contains (tileTaint g.w.tile) then [tileTaint g.w.tile] else []
  { g with
    b := { g.b with pend := g.b.pend.take n ++ (g.b.pend.drop n).map tint }, hd := { g.hd with tainted := own ++ g.hd.tainted } }

/-- A column operation: the word that is due, in its lane. -/
def colOp (i : Instr) (body : Fab → FabRes) (s : State) : Out :=
  .next (match s.due with
    | .word core h nxt w op :: rest =>
      if op != i then s
      else
        let s1 := { s with due := rest }
        let c := s1.bank core
        match c.task, c.block h nxt with
        | some t, some b =>
          let f : Fab := ⟨s1, core, h, nxt, t, w, c.handle h, b, c.gens⟩
          match body f with
          | .ok g => (f.carry g i).store s1
          | .error e => s1.fabTrap w e ((e.1 == cTranslation || e.1 == cAliasKind) && f.asked (inPorts i))
        | _, _ => s1
    | _ => s)

/-- A word with operands, one result, and the empty policy (R49). -/
def Fab.run (f : Fab) (i : Instr) (qs : List (QSrc × BitVec 5)) (d : QDst) (ep : Ep) (lat : Nat) (ident : Tag → Half)
    (ok : Nat → Tag → Bool) (fn : List Opnd → Half × Tag) : FabRes :=
  match f.opnds ep ident ok qs with
  | .error e => .error e
  | .ok xs =>
    let g := f.consume i
    let r := fn xs
    .ok (g.give lat d r.1 fullMask r.2 (ep == .forward && xs.any Opnd.empty))

/-- Value of operand k. -/
def opVal (xs : List Opnd) (k : Nat) : Half := (xs.getD k ⟨0, 0, false⟩).val

/-! ### Tags (R247) -/

/-- Class of a tag under the format registers at FSTART. -/
def Fab.cls (f : Fab) (t : Tag) : TagClass := classOf f.b.fts t
/-- Raw or integer. -/
def Fab.okInt (f : Fab) (t : Tag) : Bool := f.cls t == .raw || f.cls t == .integer
/-- Every class; the format must be valid (R62). -/
def Fab.okAny (f : Fab) (t : Tag) : Bool := f.cls t != .invalid
/-- FT5 only. -/
def okF32 (t : Tag) : Bool := t == 5

/-- FCW of the word's column. -/
def Fab.fcw (f : Fab) : Half := f.b.prog.fcw f.w.tile f.w.col

/-- Raw or integer, no wider than the FCW's digits (R35, R247); a raw operand names no width. -/
def Fab.okDigits (f : Fab) (digits : Nat) (t : Tag) : Bool :=
  f.cls t == .raw || (f.cls t == .integer && match fmtOf f.b.fts t with | some x => decide (x.width ≤ 2 * digits) | none => false)

/-- Identity zero. -/
def zeroId (_ : Tag) : Half := 0

/-! ### Integer and logic operations (R252 to R254) -/

/-- The sources of a word with two. -/
def srcs2 (o : QOp2) : List (QSrc × BitVec 5) := [(o.s1, o.xoff), (o.s2, 0)]
/-- The sources of a word with three. -/
def srcs3 (o : QOp3) : List (QSrc × BitVec 5) := [(o.s1, o.xoff), (o.s2, 0), (o.s3, 0)]

/-- A two-source word of latency 1 on raw or integer operands, with an FT3 result. -/
def intWord (i : Instr) (o : QOp2) (ident : Tag → Half) (fn : Half → Half → Half) (s : State) : Out :=
  colOp i (fun f => f.run i (srcs2 o) o.dst o.ep 1 ident (fun _ => f.okInt) fun xs => (fn (opVal xs 0) (opVal xs 1), 3)) s

/-- QADD. -/
def execQadd (o : QOp2) (sat : Sat) (s : State) : Out :=
  intWord (.qadd o sat) o zeroId (fun a b => satResult sat (satRead sat a + satRead sat b)) s

/-- QSUB. -/
def execQsub (o : QOp2) (sat : Sat) (s : State) : Out :=
  intWord (.qsub o sat) o zeroId (fun a b => satResult sat (satRead sat a - satRead sat b)) s

/-- Element i of a packed operand of w-bit elements (R253). -/
def packedElem (x : Half) (w i : Nat) (sg : Bool) : Int :=
  let n := x.toNat / 2 ^ (w * i) % 2 ^ w
  if sg && decide (2 ^ w ≤ 2 * n) then (n : Int) - (2 ^ w : Nat) else n

/-- The exact sum of products of elements 0 to kk - 1 (R253). -/
def mulSum (f : Half) (a b : Half) (kk : Nat) : Int :=
  (List.range kk).foldl (fun x i => x + packedElem a (2 * fcwDa f) i (fcwSa f) * packedElem b (2 * fcwDb f) i (fcwSb f)) 0

/-- Products a QMAC forms (R253). -/
def macTerms (f : Half) : Nat :=
  min (min (32 / (2 * fcwDa f)) (32 / (2 * fcwDb f))) (64 / (fcwDa f * fcwDb f))

/-- Tags QMUL and QMAC accept. -/
def Fab.okMul (f : Fab) (k : Nat) (t : Tag) : Bool :=
  if k = 0 then f.okDigits (fcwDa f.fcw) t else if k = 1 then f.okDigits (fcwDb f.fcw) t else f.okInt t

/-- QMUL. -/
def execQmul (o : QOp2) (sat : Sat) (s : State) : Out :=
  colOp (.qmul o sat) (fun f => f.run (.qmul o sat) (srcs2 o) o.dst o.ep 2 zeroId f.okMul fun xs =>
    (satResult sat (mulSum f.fcw (opVal xs 0) (opVal xs 1) 1), 3)) s

/-- QMAC. -/
def execQmac (o : QOp3) (sat : Sat) (s : State) : Out :=
  colOp (.qmac o sat) (fun f => f.run (.qmac o sat) (srcs3 o) o.dst o.ep 3 zeroId f.okMul fun xs =>
    (satResult sat ((opVal xs 2).toInt + mulSum f.fcw (opVal xs 0) (opVal xs 1) (macTerms f.fcw)), 3)) s

/-- A bitwise word: every class, an FT0 result. -/
def bitWord (i : Instr) (o : QOp2) (ident : Tag → Half) (fn : Half → Half → Half) (s : State) : Out :=
  colOp i (fun f => f.run i (srcs2 o) o.dst o.ep 1 ident (fun _ => f.okAny) fun xs => (fn (opVal xs 0) (opVal xs 1), 0)) s

/-- QAND; an absorbed empty reads as all ones (R49). -/
def execQand (o : QOp2) (s : State) : Out := bitWord (.qand o) o (fun _ => fullMask) (· &&& ·) s
/-- QOR. -/
def execQor (o : QOp2) (s : State) : Out := bitWord (.qor o) o zeroId (· ||| ·) s
/-- QXOR. -/
def execQxor (o : QOp2) (s : State) : Out := bitWord (.qxor o) o zeroId (· ^^^ ·) s

/-- A shift by S2[4:0] or the immediate (R252). -/
def shiftWord (i : Instr) (o : QOp1) (n : QAmount) (fn : Half → Nat → Half) (s : State) : Out :=
  let qs := (o.s1, o.xoff) :: (match n with | .src q => [(q, 0)] | .imm _ => [])
  colOp i (fun f => f.run i qs o.dst o.ep 1 zeroId (fun _ => f.okAny) fun xs =>
    (fn (opVal xs 0) (match n with | .src _ => (opVal xs 1).toNat % 32 | .imm k => k.toNat), 0)) s

/-- QSHL. -/
def execQshl (o : QOp1) (n : QAmount) (s : State) : Out := shiftWord (.qshl o n) o n (fun x k => x <<< k) s
/-- QSHR. -/
def execQshr (o : QOp1) (n : QAmount) (s : State) : Out := shiftWord (.qshr o n) o n (fun x k => x >>> k) s
/-- QSRA. -/
def execQsra (o : QOp1) (n : QAmount) (s : State) : Out := shiftWord (.qsra o n) o n (fun x k => x.sshiftRight k) s

/-- The largest or smallest value of a tag's integer format; of a raw tag's 32 bits as the word reads them (R49). -/
def extreme (fts : Sparse Half) (u : Bool) (top : Bool) (t : Tag) : Half :=
  let of (sg : Bool) (w : Nat) : Half :=
    if sg then BitVec.ofInt 32 (if top then 2 ^ (w - 1) - 1 else -(2 ^ (w - 1)))
    else BitVec.ofNat 32 (if top then 2 ^ w - 1 else 0)
  match fmtOf fts t with
  | some (.int sg w _) => of sg (min w 32)
  | _ => of (!u) 32

/-- QMIN and QMAX (R252). -/
def minMaxWord (i : Instr) (o : QOp2) (u top : Bool) (s : State) : Out :=
  colOp i (fun f => f.run i (srcs2 o) o.dst o.ep 1 (extreme f.b.fts u (!top)) (fun _ => f.okInt) fun xs =>
    let a := opVal xs 0
    let b := opVal xs 1
    let lt := if u then decide (a.toNat < b.toNat) else decide (a.toInt < b.toInt)
    (if lt != top then a else b, 3)) s

/-- QMIN. -/
def execQmin (o : QOp2) (u : Bool) (s : State) : Out := minMaxWord (.qmin o u) o u false s
/-- QMAX. -/
def execQmax (o : QOp2) (u : Bool) (s : State) : Out := minMaxWord (.qmax o u) o u true s

/-- COND compares as binary32. -/
def condFloat : QCond → Bool
  | .feq | .fne | .flt | .fle => true
  | _ => false

/-- Equal as binary32: +0 equals -0; false with a NaN. -/
def f32Eq (a b : Half) : Bool := !(f32 a).isNan && !(f32 b).isNan && Val.eqv (f32 a) (f32 b)
/-- Less as binary32; false with a NaN. -/
def f32Lt (a b : Half) : Bool := !(f32 a).isNan && !(f32 b).isNan && Val.lt (f32 a) (f32 b)

/-- The conditions of R254. -/
def condHolds (c : QCond) (a b : Half) : Bool :=
  match c with
  | .eq => a == b
  | .ne => a != b
  | .lt => decide (a.toInt < b.toInt)
  | .le => decide (a.toInt ≤ b.toInt)
  | .ltu => decide (a.toNat < b.toNat)
  | .leu => decide (a.toNat ≤ b.toNat)
  | .feq => f32Eq a b
  | .fne => !f32Eq a b
  | .flt => f32Lt a b
  | .fle => f32Lt a b || f32Eq a b

/-- QCMP. -/
def execQcmp (o : QOp2) (cond : QCond) (s : State) : Out :=
  colOp (.qcmp o cond) (fun f => f.run (.qcmp o cond) (srcs2 o) o.dst o.ep 1 zeroId
    (fun _ t => if condFloat cond then okF32 t else f.okInt t) fun xs =>
      (if condHolds cond (opVal xs 0) (opVal xs 1) then 1 else 0, 3)) s

/-- QSEL: S1 where S3 is not 0, else S2, with its tag. -/
def execQsel (o : QOp3) (s : State) : Out :=
  colOp (.qsel o) (fun f => f.run (.qsel o) (srcs3 o) o.dst o.ep 1 zeroId (fun _ => f.okAny) fun xs =>
    let x := xs.getD (if opVal xs 2 == 0 then 1 else 0) ⟨0, 0, false⟩
    (x.val, x.tag)) s

/-! ### FP32 operations (R255) -/

/-- A two-source word on FT5 operands with an FT5 result. -/
def floatWord (i : Instr) (o : QOp2) (lat : Nat) (ident : Tag → Half) (fn : Half → Half → Half) (s : State) : Out :=
  colOp i (fun f => f.run i (srcs2 o) o.dst o.ep lat ident (fun _ => okF32) fun xs => (fn (opVal xs 0) (opVal xs 1), 5)) s

/-- QFADD. -/
def execQfadd (o : QOp2) (rm : Rm) (s : State) : Out :=
  floatWord (.qfadd o rm) o 4 zeroId (fun a b => (f32Add rm a b).1) s
/-- QFMUL. -/
def execQfmul (o : QOp2) (rm : Rm) (s : State) : Out :=
  floatWord (.qfmul o rm) o 4 zeroId (fun a b => (f32Mul rm a b).1) s
/-- QFMA: S1 x S2 + S3, rounded once. -/
def execQfma (o : QOp3) (rm : Rm) (s : State) : Out :=
  colOp (.qfma o rm) (fun f => f.run (.qfma o rm) (srcs3 o) o.dst o.ep 4 zeroId (fun _ => okF32) fun xs =>
    ((f32Fma rm false (opVal xs 2) (opVal xs 0) (opVal xs 1)).1, 5)) s
/-- QFMIN; an absorbed empty reads as +infinity (R49; log 27). -/
def execQfmin (o : QOp2) (s : State) : Out := floatWord (.qfmin o) o 1 (fun _ => 0x7F800000) (fun a b => (f32Min a b).1) s
/-- QFMAX; an absorbed empty reads as -infinity (R49; log 27). -/
def execQfmax (o : QOp2) (s : State) : Out := floatWord (.qfmax o) o 1 (fun _ => 0xFF800000) (fun a b => (f32Max a b).1) s

/-! ### Conversion and moves (R256, R257) -/

/-- QCVT. -/
def execQcvt (o : QOp1) (t : Tag) (rm : Rm) (ov : Ovf) (dsel ssel : BitVec 3) (s : State) : Out :=
  let i : Instr := .qcvt o t rm ov dsel ssel
  colOp i (fun f =>
    let src (x : Tag) : Bool := (cvtSource f.b.fts x).isSome && decide (ssel.toNat < 32 / containerOf f.b.fts x)
    match f.opnds o.ep zeroId (fun _ => src) [(o.s1, o.xoff)] with
    | .error e => .error e
    | .ok xs =>
      let g := f.consume i
      let x := xs.getD 0 ⟨0, 0, false⟩
      if o.ep == .forward && x.empty then .ok (g.give 2 o.dst 0 fullMask t true)
      else
        match fmtOf f.b.fts t with
        | none => .error (tagFault t)
        | some fd =>
          let wd := containerOf f.b.fts t
          if 32 / wd ≤ dsel.toNat then .error (tagFault t)
          else
            let v : Val := match cvtSource f.b.fts x.tag with
              | some fs => if x.empty then .fin false 0 0 else fs.decode (subGet x.val (containerOf f.b.fts x.tag) ssel.toNat)
              | none => .fin false 0 0
            let c := convert v fd rm ov 0
            if c.ovf && ov == .trap then .error (cConvert, 1 <<< f.w.lane)
            else .ok (g.give 2 o.dst (subPut 0 wd dsel.toNat c.bits) (subPut 0 wd dsel.toNat (2 ^ wd - 1)) t false)) s

/-- QMOV in its five forms. -/
def execQmov (h : QHead) (dst : QDst) (m : MovForm) (ep : Ep) (s : State) : Out :=
  let i : Instr := .qmov h dst m ep
  colOp i (fun f =>
    match m with
    | .move s1 xoff => f.run i [(s1, xoff)] dst ep 1 zeroId (fun _ => f.okAny) fun xs =>
        ((opVal xs 0), (xs.getD 0 ⟨0, 0, false⟩).tag)
    | .tag s1 xoff t => f.run i [(s1, xoff)] dst ep 1 zeroId (fun _ => f.okAny) fun xs => (opVal xs 0, t)
    | .lo imm => .ok (f.give 1 dst (imm.signExtend 32) fullMask 3 false)
    | .mid imm => .ok (f.give 1 dst (imm.zeroExtend 32 <<< 12) 0x00FFF000 3 false)
    | .hi imm => .ok (f.give 1 dst (imm.zeroExtend 32 <<< 24) 0xFF000000 3 false)) s

/-! ### Port operations (R258 to R261) -/

/-- A cell destination or none. -/
def cellDst : Option (Fin 16) → QDst
  | some i => .cell i
  | none => .none

/-- QRECV: PEEK leaves the token. -/
def execQrecv (h : QHead) (dst : Option (Fin 16)) (p : Fin 8) (peek : Bool) (ep : Ep) (s : State) : Out :=
  colOp (.qrecv h dst p peek ep) (fun f =>
    match f.opnds ep zeroId (fun _ => f.okAny) [(.inp p, 0)] with
    | .error e => .error e
    | .ok xs =>
      let g := if peek then f else f.pop p.val 1
      let x := xs.getD 0 ⟨0, 0, false⟩
      .ok (g.give 1 (cellDst dst) x.val fullMask x.tag (ep == .forward && x.empty))) s

/-- QSEND: an empty token where E = 1, the gate register holds 0, or S1 is a forwarded empty. -/
def execQsend (h : QHead) (p : Fin 8) (s1 : QSrc) (gate : Option (Fin 16)) (e : Bool) (xoff : BitVec 5) (ep : Ep)
    (s : State) : Out :=
  let i : Instr := .qsend h p s1 gate e xoff ep
  colOp i (fun f =>
    let open1 := match gate with | some c => [(QSrc.cell c, (0 : BitVec 5))] | none => []
    match f.opnds ep zeroId (fun _ => f.okAny) ((s1, xoff) :: open1) with
    | .error x => .error x
    | .ok xs =>
      let x := xs.getD 0 ⟨0, 0, false⟩
      let shut := gate.isSome && opVal xs 1 == 0
      .ok ((f.consume i).give 1 (.out p) x.val fullMask x.tag (e || shut || (ep == .forward && x.empty)))) s

/-- QEMPTY: C consumes the token. -/
def execQempty (h : QHead) (dst : Option (Fin 16)) (p : Fin 8) (c : Bool) (s : State) : Out :=
  colOp (.qempty h dst p c) (fun f =>
    match f.head p.val with
    | .error e => .error e
    | .ok tok =>
      let g := if c then f.pop p.val 1 else f
      .ok (g.give 1 (cellDst dst) (if tok.empty then 1 else 0) fullMask 3 false)) s

/-- QITER. -/
def execQiter (h : QHead) (dst : QDst) (item : BitVec 3) (s : State) : Out :=
  colOp (.qiter h dst item) (fun f =>
    let n := if item.toNat < 4 then f.w.iv.getD item.toNat 0 else f.w.init
    .ok (f.give 1 dst (BitVec.ofNat 32 n) fullMask 3 false)) s

/-- QNOP. -/
def execQnop (h : QHead) (s : State) : Out := colOp (.qnop h) (fun f => .ok f) s

/-! ### Cross-lane operations (R262 to R264) -/

/-- A register of another lane is moved with its tag. -/
def Fab.move (f : Fab) (dst : QDst) (c : Half × Tag) : FabRes :=
  if f.okAny c.2 then .ok (f.give 1 dst c.1 fullMask c.2 false) else .error (tagFault c.2)

/-- QLANE: with Z, lanes outside 0 to 15 give 0 with FT0. -/
def execQlane (h : QHead) (dst : QDst) (c : Fin 16) (xoff : BitVec 5) (z : Bool) (s : State) : Out :=
  colOp (.qlane h dst c xoff z) (fun f =>
    let j : Int := (f.w.lane : Int) - xoff.toInt
    f.move dst (if z && (decide (j < 0) || decide (15 < j)) then (0, 0) else f.cell (laneBack f.w.lane xoff.toInt) c.val)) s

/-- QBCAST. -/
def execQbcast (h : QHead) (dst : QDst) (c : Fin 16) (lane : BitVec 4) (s : State) : Out :=
  colOp (.qbcast h dst c lane) (fun f => f.move dst (f.cell lane.toNat c.val)) s

/-- One step of a running reduction (R264). -/
def redStep (op : RedOp) (rm : Rm) (r v : Half) : Half :=
  match op with
  | .add => r + v
  | .max => if r.toInt < v.toInt then v else r
  | .min => if v.toInt < r.toInt then v else r
  | .fadd => (f32Add rm r v).1
  | .fmax => (f32Max r v).1

/-- The operation works on binary32. -/
def redFloat : RedOp → Bool
  | .fadd | .fmax => true
  | _ => false

/-- Key of a word's running reduction. -/
def LaneWord.redKey (w : LaneWord) : Nat := (w.t0 % 32 * 32 + w.tile) * 6 + w.col

/-- QREDL. A lane that forwards an empty operand passes the reduction of the lanes before it on (log 28). -/
def execQredl (h : QHead) (dst : QDst) (s1 : QSrc) (op : RedOp) (rm : Rm) (ep : Ep) (s : State) : Out :=
  let i : Instr := .qredl h dst s1 op rm ep
  colOp i (fun f =>
    match f.opnds ep zeroId (fun _ t => if redFloat op then okF32 t else f.okInt t) [(s1, 0)] with
    | .error e => .error e
    | .ok xs =>
      let g := f.consume i
      let x := xs.getD 0 ⟨0, 0, false⟩
      let tag : Tag := if redFloat op then 5 else 3
      let prev := if f.w.lane = 0 then none else Sparse.find f.b.red f.w.redKey
      if ep == .forward && x.empty then
        let r := match prev with | some _ => f.b.red | none => Sparse.erase f.b.red f.w.redKey
        .ok ({ g with b := { g.b with red := r } }.give 1 dst 0 fullMask tag true)
      else
        let r := match prev with | some y => redStep op rm y x.val | none => x.val
        .ok ({ g with b := { g.b with red := g.b.red.set f.w.redKey r } }.give 1 dst r fullMask tag false)) s

end Sys2Proof.Machine
end

