-- ==== Sys2Proof/Machine/Matrix.lean ====
section
/-!
DEFINITION. Matrix mode (R43, R265 to R270): QTSTEP with its tile steps into tun-128 accumulators, QSCALE and QDRAIN.
-/

namespace Sys2Proof.Machine

/-! ### Elements of A and B -/

/-- An element as a factor: its value with its block scale, the weight of its least bit, whether its scale code is NaN
(R68), whether its format asks for dynamic anchoring (R75), and whether the weight of its least bit is known: that of an
MX format is not known in an empty token, which carries no scale code (log 62). -/
structure Factor where
  val : Val
  lsb : Int
  nan : Bool
  dyn : Bool
  known : Bool
  deriving DecidableEq, Repr

/-- The factor zero of no format. -/
def Factor.zero : Factor := ⟨.fin false 0 0, 0, false, false, false⟩

/-- Multiply a value by a power of two. -/
def Val.scale (x : Val) (k : Int) : Val :=
  match x with
  | .fin n m e => .fin n m (e + k)
  | y => y

/-- A value without its sign. -/
def Val.unsigned : Val → Val
  | .fin _ m e => .fin false m e
  | .inf _ => .inf false
  | .beyond _ => .beyond false
  | .nan q => .nan q

/-- An element's value as the bricks read it under the FCW's sign bit: an integer is two's complement or unsigned as the bit
says; a floating-point element carries a sign where the bit is 1 (R35). -/
def Fmt.brickVal (f : Fmt) (sg : Bool) (bits : Nat) : Val :=
  match f with
  | .int _ w u => (Fmt.int sg w u).decode bits
  | _ => if sg then f.decode bits else (f.decode bits).unsigned

/-- An element of a tag under a scale code, if its stream splits scales (R68, R73). -/
def factorOf (fts : Sparse Half) (sg : Bool) (tag : Tag) (bits : Nat) (code : Option Byte) : Factor :=
  match fmtOf fts tag with
  | none => .zero
  | some f =>
    let k : Int := match code with | some c => (c.toNat : Int) - 127 | none => 0
    ⟨(f.brickVal sg bits).scale k, f.leastBit + k, code == some 0xFF, !f.fixedAnchor, code.isSome || bskOf fts tag != 1⟩

/-- n elements of c bits packed in 16-bit tokens (R248, R266); those of an empty token read as 0 (R267). -/
def factors (fts : Sparse Half) (sg : Bool) (toks : List Token) (c n : Nat) : List Factor :=
  (List.range n).map fun k =>
    match toks[k * c / 16]? with
    | none => .zero
    | some tok =>
      factorOf fts sg tok.tag (if tok.empty then 0 else tok.val.toNat / 2 ^ (k * c % 16) % 2 ^ c)
        (if tok.empty then none else tok.mx[k * c % 16 / c]?)

/-- Container of a token's elements. -/
def tokBits (fts : Sparse Half) (tok : Token) : Nat := containerOf fts tok.tag

/-- Column n of the latched 64 x 16 block: 16 elements of each stage in turn (R266). A latch that nothing has loaded holds
zeros (R32), which carry no tag (log 30). -/
def latchFactors (fts : Sparse Half) (sg : Bool) : Nat → List Token → List Factor
  | 0, _ => []
  | s + 1, toks =>
    match toks with
    | [] => List.replicate 16 .zero ++ latchFactors fts sg s []
    | t :: _ => let c := tokBits fts t; factors fts sg toks c 16 ++ latchFactors fts sg s (toks.drop c)

/-- The checks of R35 and R267 on a data token's tag. -/
def Fab.dataBad (f : Fab) (digits : Nat) (tok : Token) : Bool :=
  !tok.empty && (match fmtOf f.b.fts tok.tag with
    | none => true
    | some (.int _ w _) => fcwSig f.fcw || decide (2 * digits < w)
    | some (.flt _ _ sgw _ _ _) => !fcwSig f.fcw || decide (2 * digits < sgw + 1)
    | some .e8m0 => true) || (!tok.empty && bskOf f.b.fts tok.tag == 1 && tok.mx.isEmpty)

/-! ### One tile step (R74 to R76, R267) -/

/-- Key of an accumulator: tile, lane, number. -/
def accKey (tile lane n : Nat) : Nat := (tile * 16 + lane) * 512 + n

/-- The largest exponent of a nonzero finite product of a block of 64 (R75). A product that a scale code 0xFF makes NaN is
not finite (R68). The exponent of a factor is that of its leading one, for a subnormal too (DESIGN CHOICE, log 45: R75 does
not say which unbiased exponent a subnormal counts with). -/
def topProduct (ps : List (Factor × Factor)) (weight : Option Int) : Option Int :=
  match weight with
  | none => none
  | some w =>
    maxInt ((ps.filter fun p => !p.1.nan && !p.2.nan).filterMap fun p => match p.1.val, p.2.val with
      | .fin _ m e, .fin _ n k =>
        if m = 0 || n = 0 then none else some ((bitLen m : Int) - 1 + e + ((bitLen n : Int) - 1 + k) + w)
      | _, _ => none)

/-- An accumulator's anchor is set when its accumulation starts (R74, R75): a fixed one from the first product whose
weight is known, so that the scale exponents of its group count; a row without one does not start it (log 62). A NaN weight
scale adds nothing to that anchor (DESIGN CHOICE, log 45: R74 names the exponents of the scales, and a NaN has none). -/
def Tun.begin (t : Tun) (ps : List (Factor × Factor)) (weight : Option Int) : Tun :=
  if t.started then t
  else if ps.any fun p => p.1.dyn || p.2.dyn then
    match topProduct ps weight with
    | some e => { t with anchor := clampAnchor (e - 93), started := true }
    | none => t
  else match ps.find? fun p => p.1.known && p.2.known with
    | some p => { t with anchor := clampAnchor (p.1.lsb + p.2.lsb + weight.getD 0), started := true }
    | none => t

/-- Sixty-four products enter an accumulator in K order; weight: the exponent of the column's weight scale, none for
NaN. -/
def Tun.addRow (t : Tun) (ps : List (Factor × Factor)) (weight : Option Int) : Tun :=
  let w := weight.getD 0
  ps.foldl (fun a p =>
    if weight.isNone || p.1.nan || p.2.nan then a.acc .nan
    else a.acc (prodTerm p.1.val (p.2.val.scale w) (p.1.lsb + p.2.lsb + w))) (t.begin ps weight)

/-! ### Latching B (R266 to R268) -/

/-- What a latch finds at the B ports: the scale token, the data tokens of each stage that are there, the positions in the
queues after them, and what is missing (R251, R265 to R268). -/
structure LatchTry where
  scale : Option Token
  data : List (List Token)
  offs : List Nat
  miss : List (Nat × Word)
  deriving DecidableEq, Repr

/-- The B ports of a lane from given positions in their queues. -/
def Fab.latchTry (f : Fab) (lane : Nat) (offs : List Nat) : LatchTry :=
  let scale : Option Token := match f.peek 4 lane (offs.getD 0 0) with
    | .ok t => if t.tag == 13 then some t else none
    | .error _ => none
  let start (s : Nat) : Nat := offs.getD s 0 + (if s = 0 && scale.isSome then 1 else 0)
  let stage (s : Nat) : List (Except (Nat × Word) Token) :=
    match f.peek (4 + s) lane (start s) with
    | .error e => [.error e]
    | .ok t => (List.range (tokBits f.b.fts t)).map fun k => f.peek (4 + s) lane (start s + k)
  let rs := (List.range 4).map stage
  let data := rs.map fun r => r.filterMap fun x => match x with | .ok t => some t | .error _ => none
  { scale := scale, data := data,
    offs := (List.range 4).map fun s => start s + (data.getD s []).length,
    miss := rs.flatMap fun r => r.filterMap fun x => match x with | .ok _ => none | .error e => some e }

/-- What is wrong with the tokens of a latch (R265, R267). -/
def Fab.latchBad (f : Fab) (x : LatchTry) : List (Nat × Word) :=
  let of (s : Nat) : List (Nat × Word) := (x.data.getD s []).flatMap fun t =>
    (if t.matb != s + 1 then [(cProtection, (0 : Word))] else [])
      ++ (if t.tag == 13 || f.dataBad (fcwDb f.fcw) t then [tagFault t.tag] else [])
  (match x.scale with | some t => if t.matb != 1 then [(cProtection, (0 : Word))] else [] | none => [])
    ++ (List.range 4).flatMap of

/-! ### Jobs -/

/-- The QTSTEP in progress that a word belongs to. -/
def Block.job (b : Block) (w : LaneWord) : Option Job :=
  b.jobs.find? fun j => j.word.tile == w.tile && j.word.t0 == w.t0 && j.word.widx == w.widx

/-- Put a QTSTEP in progress. -/
def Block.setJob (b : Block) (j : Job) : Block :=
  { b with jobs := b.jobs.map fun k =>
      if k.word.tile == j.word.tile && k.word.t0 == j.word.t0 && k.word.widx == j.word.widx then j else k }

/-- Interval of the word's tile (R265). -/
def Fab.interval (f : Fab) : Nat := fcwInterval f.fcw

/-- The weight-scale register of a lane's column: stage-4 c0 (R265). -/
def Fab.weightReg (f : Fab) (lane : Nat) : Half × Tag := Sparse.get (0, 0) f.hd.cells (cellKey f.w.tile 4 lane 0)

/-- A weight scale as jobs keep it: 0 for none, else its code plus 1. -/
def weightCode (c : Half × Tag) : Nat := if c.2 == 13 then c.1.toNat % 256 + 1 else 0

/-- Exponent of a kept weight scale: none for NaN. -/
def weightExp (k : Nat) : Option Int := if k = 0 then some 0 else if k = 256 then none else some ((k : Int) - 1 - 127)

/-- The weight-scale register of a lane's column with a write of it that is pending. -/
def Fab.weightPend (f : Fab) (lane : Nat) : Half × Tag :=
  let key := cellKey f.w.tile 4 lane 0
  match (f.b.pend.filterMap fun p => match p with
    | .cell _ _ k v _ t _ => if k == key then some (v, t) else none
    | _ => none).getLast? with
  | some x => x
  | none => f.weightReg lane

/-- A word of column 0 that a lane has still to execute and that changes what the lane's column holds: a QTSTEP that
latches, or a QSCALE of a weight scale. -/
inductive ColEvent where
  | latch
  | scale (s : QSrc)
  deriving DecidableEq, Repr

/-- Put an event in order of issue time. -/
def ColEvent.insert (e : Nat × ColEvent) : List (Nat × ColEvent) → List (Nat × ColEvent)
  | [] => [e]
  | x :: xs => if e.1 < x.1 then e :: x :: xs else x :: ColEvent.insert e xs

/-- The events of lane n still to come before the first cycle of repeat r of a job, in order of issue (R269). -/
def Fab.colEvents (f : Fab) (j : Job) (r n : Nat) : List (Nat × ColEvent) :=
  let steps := (f.b.jobs.filter fun k => k.word.tile == f.w.tile && k.lb && decide (k.word.t0 ≤ j.word.t0)
    && (Sparse.find k.b n).isNone).map fun k => (k.word.t0, ColEvent.latch)
  let scales := (f.b.hist.filter fun w => w.tile == f.w.tile && w.col == 0 && decide (w.t0 < j.word.t0 + r * j.interval)
    && (decide (f.b.cyc < w.t0 + n) || (w.t0 + n == f.b.cyc && decide (f.w.lane < n)))).filterMap fun w =>
      match (f.b.prog.colOf w.tile w.col).bind fun c => c.words[w.widx]? with
      | some x => (match x.op with | .qscale _ (.lane s) => some (w.t0, ColEvent.scale s) | _ => none)
      | none => none
  (steps ++ scales).foldl (fun xs e => ColEvent.insert e xs) []

/-- One event of lane n: latch, scale (none: not changed), positions in the queues of in4 to in7; none where its tokens
have not arrived, and for a scale taken from an A port, until the lane has taken it. -/
def Fab.colStep (f : Fab) (n : Nat) (a : Option (List Token × Option Nat × List Nat)) (e : Nat × ColEvent) :
    Option (List Token × Option Nat × List Nat) :=
  match a, e.2 with
  | none, _ => none
  | some (_, sc, offs), .latch =>
    let x := f.latchTry n offs
    if x.miss.isEmpty then
      some (x.data.flatten, (match x.scale with | some t => some (weightCode (t.val.truncate 32, 13)) | none => sc), x.offs)
    else none
  | some (lat, _, offs), .scale (.cell i) =>
    some (lat, some (weightCode (Sparse.get (0, 0) f.hd.cells (cellKey f.w.tile 0 n i.val))), offs)
  | some (lat, _, offs), .scale (.inp p) =>
    if p.val < 4 then none
    else
      (match f.peek p.val n (offs.getD (p.val - 4) 0) with
        | .error _ => none
        | .ok tok => some (lat, some (if tok.empty then (if tok.tag == 13 then 1 else 0) else weightCode (tok.val.truncate 32, tok.tag)),
            offs.set (p.val - 4) (offs.getD (p.val - 4) 0 + 1)))
  | some (lat, _, offs), .scale .zero => some (lat, some 0, offs)

/-- Latch and weight scale that lane n will hold for a repeat of a job: as it took them, or, where the lane's own cycle is
still to come, as the queues and the words it has still to execute say (R269; log 30); none where that is not known yet. -/
def Fab.column (f : Fab) (j : Job) (r n : Nat) : Option (List Token × Nat) :=
  let now := weightCode (f.weightPend n)
  let mine := Sparse.find j.b n
  match mine.isSome, Sparse.find j.sc (16 * n + r) with
  | true, some k => some (mine.getD [], k)
  | _, _ =>
    match (f.colEvents j r n).foldl (f.colStep n) (some (mine.getD (laneList f.hd.latch (f.w.tile * 16 + n)), none, [0, 0, 0, 0])) with
    | none => none
    | some (toks, sc, _) => some (toks, sc.getD now)

/-- The sixteen columns of a repeat, once all are known. -/
def Fab.columns (f : Fab) (j : Job) (r : Nat) : Option (List (List Token × Nat)) := (List.range 16).mapM (f.column j r)

/-- The contribution of a repeat enters its group of accumulators (R267, R268). -/
def Fab.addRepeat (f : Fab) (j : Job) (r : Nat) : Fab :=
  let l := f.w.lane
  let toks := Sparse.get [] j.a (16 * l + r)
  match toks, f.columns j r with
  | t :: _, some cols =>
    let as := factors f.b.fts (fcwSa f.fcw) toks (tokBits f.b.fts t) 64
    let one (acc : Sparse Tun) (n : Nat) : Sparse Tun :=
      let k := accKey f.w.tile l (16 * (j.gb + r) + n)
      let c := cols.getD n ([], 0)
      let old := if j.za then Tun.start else Sparse.get Tun.start acc k
      Sparse.set acc k (old.addRow (as.zip (latchFactors f.b.fts (fcwSb f.fcw) 4 c.1)) (weightExp c.2))
    let b := f.b.setJob { j with a := Sparse.erase j.a (16 * l + r) }
    { f with b := { b with acc := (List.range 16).foldl one b.acc } }
  | _, _ => f

/-- The repeats whose contribution is complete by now. -/
def Fab.addDue (f : Fab) : Fab :=
  match f.b.job f.w with
  | none => f
  | some j =>
    let due := (List.range j.rep).filter fun r => decide ((r + 1) * j.interval + 5 ≤ f.w.rel)
    due.foldl (fun g r => match g.b.job g.w with | some k => g.addRepeat k r | none => g) f

/-- LB: the lane latches its part of a new block of B (R267). -/
def Fab.latch (f : Fab) : FabRes :=
  let x := f.latchTry f.w.lane [0, 0, 0, 0]
  match worstTrap (x.miss ++ f.latchBad x) with
  | some e => .error e
  | none =>
    let l := f.w.lane
    let f1 := (List.range 4).foldl (fun g s => g.pop (4 + s) (x.offs.getD s 0)) f
    let f2 := { f1 with hd := { f1.hd with latch := f1.hd.latch.set (f.w.tile * 16 + l) x.data.flatten } }
    match x.scale with
    | none => .ok f2
    | some t =>
      let p : Pend := .cell f.b.cyc l (cellKey f.w.tile 4 l 0) (BitVec.ofNat 32 (t.val.toNat % 256)) fullMask 13 false
      .ok { f2 with b := { f2.b with pend := f2.b.pend ++ [p] } }

/-- The weight scale that a latch in this cycle has left in the lane's column, or the register's (R269). -/
def Fab.weightNow (f : Fab) : Half × Tag :=
  let key := cellKey f.w.tile 4 f.w.lane 0
  match f.b.pend.findSome? fun p => match p with
    | .cell c _ k v _ t _ => if c == f.b.cyc && k == key && t == 13 then some (v, t) else none
    | _ => none with
  | some x => x
  | none => f.weightReg f.w.lane

/-- The block latched before is used again: its tags and widths are checked against this word's FCW (R35, R267). -/
def Fab.latched (f : Fab) : FabRes :=
  match worstTrap (((laneList f.hd.latch (f.w.tile * 16 + f.w.lane)).filter (f.dataBad (fcwDb f.fcw))).map fun x => tagFault x.tag) with
  | some e => .error e
  | none => .ok f

/-- The lane's first cycle of a QTSTEP: it latches, and keeps what it has latched for this QTSTEP. -/
def Fab.stepStart (f : Fab) (j : Job) : FabRes :=
  let l := f.w.lane
  match (if j.lb then f.latch else f.latched) with
  | .error e => .error e
  | .ok g =>
    let b := g.b.setJob { j with b := j.b.set l (laneList g.hd.latch (f.w.tile * 16 + l)) }
    .ok { g with b := b }

/-- The A tokens of one cycle of a repeat: token j from port p + (j mod NA) (R266, R268). Every port of the cycle is looked at,
so that the first cause in the order of R251 is reported; while the first token of the repeat is missing, each of the NA ports
counts, since a repeat takes at least 16 tokens. -/
def Fab.stepTake (f : Fab) (j : Job) : FabRes :=
  let l := f.w.lane
  let r := f.w.rel / j.interval
  let c := f.w.rel % j.interval
  let got := Sparse.get [] j.a (16 * l + r)
  let first : Option Token := match got with
    | t :: _ => some t
    | [] => match f.peek j.port l 0 with | .ok t => some t | .error _ => none
  let need := match first with | some t => 4 * tokBits f.b.fts t | none => j.na * (c + 1)
  let ports := (List.range j.na).filter fun k => decide (c * j.na + k < need)
  let rs := ports.map fun k => f.peek (j.port + k) l 0
  let toks := rs.filterMap fun r => match r with | .ok x => some x | .error _ => none
  let miss := rs.filterMap fun r => match r with | .ok _ => none | .error e => some e
  let rate := match first with
    | some t => if c = 0 && decide (j.na * j.interval < need) then [tagFault t.tag] else []
    | none => []
  let bad := toks.flatMap fun x =>
    (if x.rsym then [(cProtection, (0 : Word))] else []) ++ (if f.dataBad (fcwDa f.fcw) x then [tagFault x.tag] else [])
  match worstTrap (miss ++ rate ++ bad) with
  | some e => .error e
  | none =>
    let g := ports.foldl (fun g k => g.pop (j.port + k) 1) f
    let sc := if c = 0 then j.sc.set (16 * l + r) (weightCode (if f.w.rel = 0 && j.lb then f.weightNow else f.weightReg l)) else j.sc
    .ok { g with b := g.b.setJob { j with a := j.a.set (16 * l + r) (got ++ toks), sc := sc } }

/-- QTSTEP (R267, R268): the lane's share of one cycle of its tile steps. -/
def execQtstep (h : QHead) (p : Fin 4) (rep : BitVec 4) (gb : BitVec 5) (na : BitVec 2) (lb za : Bool) (s : State) : Out :=
  colOp (.qtstep h p rep gb na lb za) (fun f =>
    let new : Job := ⟨f.w, p.val, rep.toNat + 1, gb.toNat, na.toNat + 1, lb, za, f.interval, [], [], []⟩
    let f1 : Fab := match f.b.job f.w with
      | some _ => f
      | none => if f.w.rel = 0 then { f with b := { f.b with jobs := f.b.jobs ++ [new] } } else f
    let started : FabRes := match f1.b.job f1.w with
      | some j => if f.w.rel = 0 then f1.stepStart j else .ok f1
      | none => .ok f1
    match started with
    | .error e =>
      let more := match f1.b.job f1.w with | some j => f1.stepTake j | none => .ok f1
      .error ((worstTrap (e :: (match more with | .error x => [x] | .ok _ => []))).getD e)
    | .ok f2 =>
      let taken : FabRes := match f2.b.job f2.w with
        | some j => if f.w.rel < j.rep * j.interval then f2.stepTake j else .ok f2
        | none => .ok f2
      match taken with
      | .error e => .error e
      | .ok f3 => .ok f3.addDue) s

/-! ### QSCALE (R269) -/

/-- The tensor scale of the stream on an in port: SCALE of its descriptor where its tag has BSK = 10, else 1.0. -/
def Fab.tensorScale (f : Fab) (p : Nat) : Half :=
  match f.b.prog.feeder f.w.tile p with
  | none => 0x3F800000
  | some e =>
    if e.src.kind = 1 then
      match (f.gen e.src.idx).streams.find? fun x => !x.cfg.write with
      | some x => if bskOf f.b.fts x.tag == 2 then dScale x.tile else 0x3F800000
      | none => 0x3F800000
    else if e.src.kind = 2 then
      match f.b.bufs[e.src.idx]? with
      | some x => if bskOf f.b.fts x.tag == 2 then x.scale else 0x3F800000
      | none => 0x3F800000
    else 0x3F800000

/-- A cell register of another stage of the lane is written at the end of the cycle. -/
def Fab.giveStage (f : Fab) (stage reg : Nat) (v : Half) (tag : Tag) : Fab :=
  let p : Pend := .cell f.b.cyc f.w.lane (cellKey f.w.tile stage f.w.lane reg) v fullMask tag false
  { f with b := { f.b with pend := f.b.pend ++ [p] } }

/-- QSCALE. -/
def execQscale (h : QHead) (m : ScaleForm) (s : State) : Out :=
  let i : Instr := .qscale h m
  colOp i (fun f =>
    match m with
    | .lane s1 =>
      match f.opnds .absorb zeroId (fun _ t => t == 13) [(s1, 0)] with
      | .error e => .error e
      | .ok xs => .ok ((f.consume i).giveStage 4 0 (opVal xs 0) 13)
    | .tensor p => .ok ((f.giveStage 5 0 (f.tensorScale p.toNat) 5).giveStage 5 1 (f.tensorScale 4) 5)) s

/-! ### QDRAIN (R270) -/

/-- Tokens a lane of a generator has accepted for its write streams. -/
def Gen.accepted (g : Gen) (l : Nat) : Nat := storedIn l g.streams + (laneList g.wx l).length

/-- The write stream that takes token n of a lane, counted over the write streams; the last one where all are full. -/
def takerOf (l slots : Nat) : List Stream → Nat → Option Stream
  | [], _ => none
  | x :: xs, n =>
    if !x.cfg.write then takerOf l slots xs n
    else
      let y := x.fix slots
      if n < y.laneTokens l then some y
      else match takerOf l slots xs (n - y.laneTokens l) with
        | some z => some z
        | none => some y

/-- Tag of the stream bound to an out port: of the write stream that takes the lane's next token, or of the binding. -/
def Fab.outTag (f : Fab) (p : Nat) : Option Tag :=
  match f.b.prog.driven f.w.tile p with
  | none => none
  | some e =>
    if e.dst.kind = 1 then
      let g := f.gen e.dst.idx
      (takerOf f.w.lane e.slots g.streams (g.accepted f.w.lane)).map Stream.tag
    else if e.dst.kind = 2 then some (f.b.bufTag e.dst.idx)
    else none

/-- A per-tensor scale register of the lane: stage-5 c0 or c1 if tagged FT5, else 1.0. -/
def Fab.drainScale (f : Fab) (reg : Nat) : Val :=
  let c := f.cell f.w.lane reg
  if c.2 == 5 then f32 c.1 else .fin false 1 0

/-- Elements the lane of the tile has drained since FSTART. -/
def Fab.drainCount (f : Fab) : Nat := laneCount f.b.drained (f.w.tile * 16 + f.w.lane)

/-- Count n more drained elements. -/
def Fab.countDrained (f : Fab) (n : Nat) : Fab :=
  { f with b := { f.b with drained := f.b.drained.set (f.w.tile * 16 + f.w.lane) (f.drainCount + n) } }

/-- The draw of drained element number n of the lane (R82, R270, R287). -/
def Fab.draw (f : Fab) (n : Nat) : Half :=
  Machine.gen f.b.key (f.b.cb + BitVec.ofNat 128 (2 ^ 26 * f.w.tile + 16 * (n % 2 ^ 22) + f.w.lane))

/-- Send a token in a cycle. -/
def Fab.sendAt (f : Fab) (cyc p : Nat) (v : Nat) (tag : Tag) (pk : Bool) : Fab :=
  let x : Pend := .send cyc p ⟨BitVec.ofNat 128 v, tag, false, [], 0, false, .good, false⟩ pk f.w
  { f with b := { f.b with pend := f.b.pend ++ [x] } }

/-- An accumulator of the lane. -/
def Fab.tun (f : Fab) (n : Nat) : Tun := Sparse.get Tun.start f.b.acc (accKey f.w.tile f.w.lane n)

/-- QDRAIN. Without a stream on the port there is no target format, and the send finds no buffer: TIMING (log 31). -/
def execQdrain (h : QHead) (p : Fin 8) (n0 : BitVec 4) (g : BitVec 5) (ov : Ovf) (rm : Rm) (pk : Bool) (s : State) : Out :=
  colOp (.qdrain h p n0 g ov rm pk) (fun f =>
    let w := f.slots p.val
    match f.outTag p.val with
    | none => .error (cTiming, 0)
    | some t =>
      if t == 15 then
        if w != 4 then .error (tagFault t)
        else
          let v := (f.tun (16 * g.toNat + n0.toNat)).toBits.toNat
          .ok (((f.countDrained 1).sendAt f.b.cyc p.val (v % 2 ^ 64) t pk).sendAt (f.b.cyc + 1) p.val (v / 2 ^ 64) t pk)
      else
        match fmtOf f.b.fts t with
        | none => .error (tagFault t)
        | some fm =>
          let cf := containerOf f.b.fts t
          if t == 4 || t == 13 || 16 * w < cf then .error (tagFault t)
          else
            let n := min (min 16 (16 * w / cf)) (16 - n0.toNat)
            let cs := (List.range n).map fun j =>
              tunDrain (f.tun (16 * g.toNat + n0.toNat + j)) fm rm ov (f.draw (f.drainCount + j)) (f.drainScale 0) (f.drainScale 1)
            if ov == .trap && cs.any Conv.ovf then .error (cConvert, 1 <<< f.w.lane)
            else
              let v := (cs.zip (List.range n)).foldl (fun v x => v + x.1.bits % 2 ^ cf * 2 ^ (cf * x.2)) 0
              .ok ((f.countDrained n).sendAt (f.b.cyc + 1) p.val v t pk)) s

end Sys2Proof.Machine
end

