-- ==== Sys2Proof/Machine/Rules.lean ====
section
/-!
DEFINITION. Rule mode (R45, R271 to R290): the grammar a symbol stream carries, the rule file of tun-64 entries, QRSYM,
QRLOAD and QRDRAIN.
-/

namespace Sys2Proof.Machine

/-! ### Fields of the matrix header (R274) -/

/-- Word k of a header. -/
def hdrWord (hd : List Half) (k : Nat) : Nat := (hd.getD k 0).toNat
/-- NRULES -/
def hdrRules (hd : List Half) : Nat := hdrWord hd 0 / 2 ^ 16
/-- NROWS -/
def hdrRows (hd : List Half) : Nat := hdrWord hd 0 % 2 ^ 16
/-- ANCH -/
def hdrAnchor (hd : List Half) : Int := (BitVec.ofNat 10 (hdrWord hd 1 / 2 ^ 22)).toInt
/-- VTAG -/
def hdrVtag (hd : List Half) : Tag := BitVec.ofNat 6 (hdrWord hd 1 / 2 ^ 16)
/-- XTAG -/
def hdrXtag (hd : List Half) : Tag := BitVec.ofNat 6 (hdrWord hd 1 / 2 ^ 10)
/-- ACC -/
def hdrAcc (hd : List Half) : Bool := hdrWord hd 1 / 2 ^ 9 % 2 == 1
/-- XBASE -/
def hdrXbase (hd : List Half) : Nat := hdrWord hd 2 % 2 ^ 23

/-! ### The rule file (R281) -/

/-- Key of an entry's marks. -/
def Fab.markKey (f : Fab) (k : Nat) : Nat := (f.w.tile * 16 + f.w.lane) * 1024 + k

/-- FIN and OVF of an entry of the lane. -/
def Fab.mark (f : Fab) (k : Nat) : Bool × Bool := Sparse.get (false, false) f.hd.marks (f.markKey k)

/-- Key of the lane in tables by tile and lane. -/
def Fab.laneKey (f : Fab) : Nat := f.w.tile * 16 + f.w.lane

/-- Storage address of an entry: 128 k + 8 ℓ in the paired scratch tile. -/
def PageSet.entryAt (p : PageSet) (die tile lane k : Nat) : Nat := p.tileByte die tile (128 * k + 8 * lane)

/-- An entry's bits. -/
def Fab.entry (f : Fab) (k : Nat) : Word :=
  match f.hd.pset with
  | some p => BitVec.ofNat 64 (f.s.natAt (p.entryAt (f.core / 32) f.w.tile f.w.lane k) 8)
  | none => 0

/-- An entry is written at the end of the cycle; it is final, with its OVF, from then on (R246). -/
def Fab.putEntry (f : Fab) (k : Nat) (v : Word) (ovf : Bool) : Fab :=
  let p : List Pend := [.rule f.b.cyc f.w.tile f.w.lane k v, .final f.b.cyc f.w.tile f.w.lane k ovf]
  { f with b := { f.b with pend := f.b.pend ++ p } }

/-- QRLOAD's write of an entry: it belongs to no group of a symbol stream (R286). -/
def Fab.loadEntry (f : Fab) (k : Nat) (v : Word) : Fab :=
  let g := f.putEntry k v false
  { g with b := { g.b with finG := g.b.finG.erase (f.markKey k) } }

/-! ### Parsing (R284 to R288) -/

/-- An exact sum keeps its low 64 bits and says whether it overflowed (R72). -/
def sum64 (a b : Int) : Int × Bool :=
  let x := a + b
  ((BitVec.ofInt 64 x).toInt, decide (x < -(2 ^ 63)) || decide (2 ^ 63 - 1 < x))

/-- A value rounded to the nearest multiple of 2^anch, ties to even (R285). -/
def toAnchor (n : Bool) (m : Nat) (e anch : Int) : Int :=
  let r := (roundGrid .rne n (fun j => j % 2 == 1) m e anch 0).1
  if n then -(r : Int) else r

/-- The term of a terminal: the integer that enters, and whether it sets OVF (R285). -/
def termOf (v x : Val) (anch : Int) : Int × Bool :=
  match v, x with
  | .fin n m e, .fin n2 m2 e2 =>
    let t := toAnchor (n != n2) (m * m2) (e + e2) anch
    ((BitVec.ofInt 64 t).toInt, decide (t < -(2 ^ 63)) || decide (2 ^ 63 - 1 < t))
  | _, _ => (0, true)

/-- The input element of a column, at a stream position: read from the stage slice of that position mod 4 (R278); none
outside the window. -/
def Fab.input (f : Fab) (hd : List Half) (pos col : Nat) : Option Val :=
  let e := containerOf f.b.fts (hdrXtag hd) / 8
  let c := col - hdrXbase hd
  if col < hdrXbase hd || 524288 / (16 * e) ≤ c then none
  else
    let a := match f.hd.pset with
      | some p => loftPlace (f.core / 32) (p.slice f.w.tile * 2 ^ 21 + pos % 4 * 2 ^ 19 + (c * 16 + f.w.lane) * e)
      | none => 0
    let bits := (List.range e).foldl (fun n k => n + (f.s.readUnder (f.s.tenantDraw f.t) (a + k)).toNat * 256 ^ k) 0
    match fmtOf f.b.fts (hdrXtag hd) with
    | some g => some (g.decode bits)
    | none => some (.nan false)

/-- The tags of a header are accepted (R288). -/
def Fab.hdrTags (f : Fab) (w1 : Half) : Option (Nat × Word) :=
  let bad (t : Tag) (ok : Nat → Bool) : Bool :=
    !((f.cls t == .integer || f.cls t == .float) && bskOf f.b.fts t == 0 && ok (containerOf f.b.fts t))
  if bad (hdrVtag [0, w1]) (fun c => decide (c ≤ 8)) then some (tagFault (hdrVtag [0, w1]))
  else if bad (hdrXtag [0, w1]) (fun c => c == 8 || c == 16) then some (tagFault (hdrXtag [0, w1]))
  else none

/-- Header word k is wrong (R274, R288): reserved bits and counts. -/
def hdrBad (k : Nat) (w : Half) : Bool :=
  match k with
  | 0 => let r := w.toNat / 2 ^ 16; let n := w.toNat % 2 ^ 16; decide (1024 < r) || decide (1024 < r + n) || n == 0
  | 1 => w.toNat % 2 ^ 9 != 0
  | 2 => w.toNat / 2 ^ 23 != 0
  | _ => w != 0

/-- Put the lane's parse state. -/
def Fab.setParse (f : Fab) (p : Parse) : Fab := { f with b := { f.b with parse := f.b.parse.set f.laneKey p } }

/-- A header word. After the last, the entries the matrix will write are no longer final; under ACC the rows keep theirs
(log 29). -/
def Fab.headerWord (f : Fab) (p : Parse) (w : Half) : FabRes :=
  if hdrBad p.pos w then .error (cRuleOrder, 0)
  else
    match (if p.pos = 1 then f.hdrTags w else none) with
    | some e => .error e
    | none =>
      let hd := p.hdr ++ [w]
      if p.pos < 3 then .ok (f.setParse { p with pos := p.pos + 1, hdr := hd })
      else
        let n := hdrRules hd + (if hdrAcc hd then 0 else hdrRows hd)
        let f1 := f.setParse { p with pos := 4, hdr := hd, group := 1, next := 0, lastLevel := 0, levelFrom := 0 }
        let gs := Sparse.eraseRange f1.b.finG (f.markKey 0) n
        let took : Pend := .header f.b.cyc f.w.tile f.w.lane n hd
        .ok { f1 with b := { f1.b with finG := gs, pend := f1.b.pend ++ [took] } }

/-- A record whose last symbol has come: its entry is written and final (R284). -/
def Fab.endRecord (f : Fab) (p : Parse) : Fab :=
  let f1 := f.putEntry p.next (BitVec.ofInt 64 p.sum) p.ovf
  let f2 : Fab := { f1 with b := { f1.b with finG := f1.b.finG.set (f.markKey p.next) p.group } }
  f2.setParse { p with next := p.next + 1, left := 0 }

/-- A record header (R275, R284, R288). -/
def Fab.recordWord (f : Fab) (p : Parse) (w : Half) : FabRes :=
  let n := w.toNat
  let rules := hdrRules p.hdr
  let begin (p : Parse) : FabRes :=
    let q : Parse := { p with left := n % 2 ^ 16 }
    .ok (if q.left = 0 then f.endRecord q else f.setParse q)
  if p.next < rules then
    let lvl := n / 2 ^ 27
    if 15 < lvl then .error (cRuleDepth, 0)
    else if n / 2 ^ 16 % 2 ^ 11 != 0 || lvl < p.lastLevel then .error (cRuleOrder, 0)
    else
      let first := if lvl = p.lastLevel then p.levelFrom else p.next
      begin { p with lastLevel := lvl, levelFrom := first, sum := 0, ovf := false }
  else if n / 2 ^ 16 != 0 then .error (cRuleOrder, 0)
  else if hdrAcc p.hdr then
    if !(f.mark p.next).1 then .error (cRuleOrder, 0)
    else begin { p with sum := (f.entry p.next).toInt, ovf := (f.mark p.next).2 }
  else begin { p with sum := 0, ovf := false }

/-- A symbol of a record (R276, R284, R285). -/
def Fab.symbolWord (f : Fab) (p : Parse) (pos : Nat) (w : Half) : FabRes :=
  let n := w.toNat
  let add (t : Int) (o : Bool) : FabRes :=
    let x := sum64 p.sum t
    let q : Parse := { p with sum := x.1, ovf := p.ovf || o || x.2, left := p.left - 1 }
    .ok (if q.left = 0 then f.endRecord q else f.setParse q)
  if n / 2 ^ 31 = 1 then
    let k := n % 2 ^ 20
    let rules := hdrRules p.hdr
    if n / 2 ^ 20 % 2 ^ 11 != 0 || rules ≤ k || (decide (p.next < rules) && decide (p.levelFrom ≤ k)) then .error (cRuleOrder, 0)
    else
      let early := match Sparse.find f.b.finG (f.markKey k) with | some g => decide (p.group < g + 4) | none => false
      if !(f.mark k).1 || early then .error (cTiming, 0) else add (f.entry k).toInt (f.mark k).2
  else if n % 256 = 0 then add 0 false
  else
    match f.input p.hdr pos (n / 2 ^ 8 % 2 ^ 23) with
    | none => .error (cProtection, 0)
    | some x =>
      match fmtOf f.b.fts (hdrVtag p.hdr) with
      | none => .error (tagFault (hdrVtag p.hdr))
      | some g => let t := termOf (g.decode (n % 256)) x (hdrAnchor p.hdr); add t.1 t.2

/-- One word of the stored matrix (R284). -/
def Fab.parseWord (f : Fab) (w : Half) : FabRes :=
  let p := Sparse.get Parse.start f.b.parse f.laneKey
  if p.pos < 4 then f.headerWord p w
  else
    let q : Parse := { p with pos := p.pos + 1, group := p.pos / 4 }
    if q.left != 0 then f.symbolWord q p.pos w
    else if q.next < hdrRules q.hdr + hdrRows q.hdr then f.recordWord q w
    else if w != 0 then .error (cRuleOrder, 0)
    else .ok (f.setParse q)

/-- QRSYM: column s takes word s of the head group; the last column consumes it. A token that is no symbol group raises PROTECTION,
as a symbol group does at a word that takes tokens (R280; DESIGN CHOICE, log 74: the rules name no cause for a QRSYM fed by
a stream without RSYM). -/
def execQrsym (h : QHead) (s : State) : Out :=
  colOp (.qrsym h) (fun f =>
    match f.peek 0 f.w.lane 0 with
    | .error e => .error e
    | .ok tok =>
      if !tok.rsym then .error (cProtection, 0)
      else
        let w : Half := if tok.empty then 0 else BitVec.ofNat 32 (tok.val.toNat / 2 ^ (32 * f.w.col))
        match f.parseWord w with
        | .error e => .error e
        | .ok g => .ok (if f.w.col = 3 then g.pop 0 1 else g)) s

/-! ### QRLOAD and QRDRAIN (R286, R287) -/

/-- QRLOAD: an empty token loads 0. -/
def execQrload (h : QHead) (p : Fin 8) (e0 : BitVec 10) (s : State) : Out :=
  colOp (.qrload h p e0) (fun f =>
    match f.peek p.val f.w.lane 0 with
    | .error e => .error e
    | .ok tok =>
      let wide := match f.b.prog.feeder f.w.tile p.val with | some e => e.slots == 4 | none => false
      let k := e0.toNat + f.w.init
      if !wide || tok.tag != 14 then .error (tagFault tok.tag)
      else if tok.rsym || 1024 ≤ k then .error (cProtection, 0)
      else
        .ok ((f.pop p.val 1).loadEntry k (if tok.empty then 0 else tok.val.truncate 64))) s

/-- QRDRAIN: the anchor is that of the latest header parsed, 0 before any (log 32). -/
def execQrdrain (h : QHead) (p : Fin 8) (e0 : BitVec 10) (ov : Ovf) (rm : Rm) (s : State) : Out :=
  colOp (.qrdrain h p e0 ov rm) (fun f =>
    let w := f.slots p.val
    let k := e0.toNat + f.w.init
    let m := f.mark k
    match f.outTag p.val with
    | none => .error (cTiming, 0)
    | some t =>
      let cont := containerOf f.b.fts t
      let fmt := fmtOf f.b.fts t
      let fits := (t == 14 && w == 4) || (fmt.isSome && t != 4 && t != 13 && w != 4 && cont == 16 * w)
      let errs := (if !fits then [tagFault t] else []) ++ (if 1024 ≤ k then [(cProtection, (0 : Word))]
        else if !m.1 then [(cRuleOrder, 0)] else if m.2 then [(cRuleOverflow, 0)] else [])
      match worstTrap errs with
      | some e => .error e
      | none =>
        let g := f.countDrained 1
        let v := f.entry k
        match fmt with
        | none => .ok (g.sendAt (f.b.cyc + 1) p.val v.toNat t false)
        | some fm =>
          let x : Val := .fin v.msb v.toInt.natAbs (hdrAnchor (laneList f.hd.heads f.laneKey))
          let c := convert x fm rm ov (f.draw f.drainCount)
          if c.ovf && ov == .trap then .error (cConvert, 1 <<< f.w.lane)
          else .ok (g.sendAt (f.b.cyc + 1) p.val c.bits t false)) s

end Sys2Proof.Machine
end

