-- ==== Sys2Proof/Machine/Cycle.lean ====
section
/-!
DEFINITION. One cycle of a block (R11 to R15, R39, R246 to R251): what its beginning does, which lane words it holds, and
its end, with sends, restart copies (R238, R239) and freezing; and LOOP_CONTEXT_ADVANCE.
-/

namespace Sys2Proof.Machine

/-! ### The loop context (R12) -/

/-- Odometer step: level 0 fastest; the index vector after, and whether initiations remain. -/
def odometer : List Nat → List Nat → List Nat × Bool
  | i :: is, t :: ts =>
    if i + 1 < t then ((i + 1) :: is, true)
    else let r := odometer is ts; (0 :: r.1, r.2)
  | is, _ => (is, false)

/-- The first cycle of an interval. -/
def LoopCtx.interval (c : LoopCtx) : LoopCtx :=
  let shift {α : Type} (x : α) (xs : List α) : List α := (x :: xs).take 16
  let sv : BitVec 16 := ((c.sv <<< 1) ||| (if c.more then 1 else 0)) &&& BitVec.ofNat 16 (2 ^ (c.sc + 1) - 1)
  let c1 : LoopCtx :=
    { c with sv := sv, ihist := shift (c.ihist.headD []) c.ihist, ihnum := shift (c.ihnum.headD 0) c.ihnum }
  if c.more then
    let r := odometer c.idx c.trip
    { c1 with ihist := c1.ihist.set 0 c.idx, ihnum := c1.ihnum.set 0 c.inits, idx := r.1, more := r.2, inits := c.inits + 1 }
  else c1

/-- Issue of the block is finished. -/
def LoopCtx.finished (c : LoopCtx) : Bool := c.sv == 0 && !c.more

/-- Every cycle: SLOT := (SLOT + 1) mod (II + 1). -/
def LoopCtx.advance (c : LoopCtx) : LoopCtx := { c with slot := (c.slot + 1) % (c.ii + 1) }

/-! ### The words of a cycle -/

/-- The words that issue in lane 0 in this cycle (R13, R236). -/
def Block.issues (b : Block) : List LaneWord :=
  let n := b.prog.cycles
  b.prog.cols.flatMap fun c => ((c.words.zip (List.range c.words.length)).filter fun w =>
      w.1.t % n == b.lc.slot && b.lc.sv.getLsbD (w.1.t / n)).map fun w =>
    let st := w.1.t / n
    ⟨c.tile, c.col, w.2, st, 0, b.cyc, b.lc.ihnum.getD st 0, b.lc.ihist.getD st [], 0⟩

/-- The schedule word of a lane word. -/
def Prog.wordOf (p : Prog) (w : LaneWord) : Option Sched :=
  match p.colOf w.tile w.col with
  | some c => c.words[w.widx]?
  | none => none

/-- A lane acts in this cycle of the block: it has reached its resumption after a restart (R239). -/
def Block.awake (b : Block) (lane : Nat) : Bool := decide (b.resume + lane ≤ b.cyc)

/-- A QTSTEP in progress has something to do in a lane in the cycle rel after its issue there (R268). -/
def Job.acts (j : Job) (lane rel : Nat) : Bool :=
  decide (rel < j.rep * j.interval) || (decide (j.interval + 5 ≤ rel) && (List.range j.rep).any fun r =>
    decide ((r + 1) * j.interval + 5 ≤ rel) && (Sparse.find j.a (16 * lane + r)).isSome)

/-- The lane words of the cycle, lane by lane, lower stages first (R249). -/
def Block.wordsNow (b : Block) : List (LaneWord × Instr) :=
  (List.range 16).flatMap fun l =>
    if !b.awake l then []
    else
      let fresh := b.hist.filter fun w => w.t0 + l == b.cyc
      let steps := b.jobs.filterMap fun j =>
        if j.word.t0 + l < b.cyc && j.acts l (b.cyc - j.word.t0 - l) then
          some { j.word with lane := l, rel := b.cyc - j.word.t0 - l }
        else none
      let all := steps ++ fresh.map fun w => { w with lane := l }
      (List.range 6).flatMap fun col => (all.filter fun w => w.col == col).filterMap fun w =>
        (b.prog.wordOf w).map fun sc => (w, sc.op)

/-! ### Binding streams (R232, R248, R249) -/

/-- Elements a binding's token carries. -/
def Buf.per (x : Buf) (bits slots : Nat) : Nat := if x.tag == 13 then 1 else max 1 (16 * slots / bits)

/-- Elements of a binding. -/
def Buf.total (x : Buf) : Nat := x.rows * x.cols

/-- Tokens of a lane of a binding. -/
def Buf.laneTokens (x : Buf) (bits slots l : Nat) : Nat :=
  ((x.total + x.per bits slots - 1) / x.per bits slots + 15 - l) / 16

/-- Offset in the scratch tile and bit of an element. -/
def Buf.place (x : Buf) (bits e : Nat) : Nat × Nat :=
  (x.base + e / x.cols * x.stride + e % x.cols * bits / 8, e % x.cols * bits % 8)

/-- Token k of lane l of a read binding stream. It carries the mark of a poisoned line that one of its bytes lies in (R427). -/
def State.bufToken (s : State) (core : Nat) (p : PageSet) (x : Buf) (bits slots l k : Nat) : Token :=
  let per := x.per bits slots
  let elem (i : Nat) : Nat :=
    let e := (16 * k + l) * per + i
    if e < x.total then
      let q := x.place bits e
      s.natAt (p.tileByte (core / 32) x.stile q.1) (max 1 (bits / 8)) / 2 ^ q.2 % 2 ^ bits
    else 0
  let bad (i : Nat) : Bool :=
    let e := (16 * k + l) * per + i
    decide (e < x.total) && s.poisoned (p.tileByte (core / 32) x.stile (x.place bits e).1) (max 1 (bits / 8))
  ⟨BitVec.ofNat 128 ((List.range per).foldl (fun v i => v + elem i * 2 ^ (bits * i)) 0), x.tag, false, [], 0, false, .good,
    (List.range per).any bad⟩

/-- Read binding streams deliver: token j of lane ℓ is readable from cycle 2 + j + ℓ on, as queue space allows. -/
def State.fillBindings (s : State) (core : Nat) (hd : Handle) (b : Block) : Block :=
  match hd.pset with
  | none => b
  | some p =>
    let one (idx l : Nat) (e : StreamEnt) (b : Block) : Block :=
      match b.bufs[e.src.idx]? with
      | none => b
      | some x =>
        let bits := b.bufBits e.src.idx
        let k := laneCount b.bpos (idx * 16 + l)
        let key := rxKey e.dst.idx e.dst.port l
        let q := laneList b.rx key
        if !b.awake l || b.bufWide e e.src.idx false || x.laneTokens bits e.slots l ≤ k || b.cyc < 2 + k + l
            || Config.queueDepth ≤ q.length then b
        else
          let tok := s.bufToken core p x bits e.slots l k
          { b with rx := b.rx.set key (q ++ [(b.cyc, tok)]), bpos := b.bpos.set (idx * 16 + l) (k + 1) }
    (b.prog.streams.zip (List.range b.prog.streams.length)).foldl (fun b e =>
      if e.1.src.kind = 2 then (List.range 16).foldl (fun b l => one e.2 l e.1 b) b else b) b

/-! ### Restart copies (R238, R239) -/

/-- Entries of a table keyed by 16 x n + lane. -/
def ofLane {α : Type} (l : Nat) (m : Sparse α) : Sparse α := m.filter fun e => e.1 % 16 == l

/-- Generators whose streams are bound to a block's ports. -/
def Prog.gensUsed (p : Prog) : List Nat :=
  (List.range 4).filter fun g => p.streams.any fun e => (e.src.kind == 1 && e.src.idx == g) || (e.dst.kind == 1 && e.dst.idx == g)

/-- A lane's share of a restart copy, as it stands. The B latches are part of it (DESIGN CHOICE, log 39: the list of R238 does
not name them). -/
def copyLane (hd : Handle) (b : Block) (gens : Sparse Gen) (l : Nat) : LaneCopy where
  lane := l
  cells := hd.cells.filter fun e => e.1 / 16 % 16 == l
  acc := b.acc.filter fun e => e.1 / 512 % 16 == l
  rx := ofLane l b.rx
  bpos := ofLane l b.bpos
  drained := ofLane l b.drained
  pend := b.pend.filter fun p => p.lane == l
  parse := ofLane l b.parse
  finG := b.finG.filter fun e => e.1 / 1024 % 16 == l
  latch := ofLane l hd.latch
  marks := hd.marks.filter fun e => e.1 / 1024 % 16 == l
  gens := b.prog.gensUsed.map fun g =>
    let x := Sparse.get Gen.reset gens g
    (g, (x.streams, laneList x.rx l, (laneList x.wx l).length))

/-- A lane's share of the QTSTEPs in progress joins those of a copy. -/
def Job.takeLane (j now : Job) (l : Nat) : Job :=
  let mine {α : Type} (m : Sparse α) : Sparse α := m.filter fun e => e.1 / 16 == l
  let put {α : Type} (old new : Sparse α) : Sparse α :=
    (mine new).foldl (fun m e => Sparse.set m e.1 e.2) (old.filter fun e => e.1 / 16 != l)
  let b : Sparse (List Token) := match Sparse.find now.b l with | some x => j.b.set l x | none => Sparse.erase j.b l
  { j with a := put j.a now.a, b := b, sc := put j.sc now.sc }

/-- A copy takes the lane that is due in this cycle. -/
def RestartCopy.take (r : RestartCopy) (hd : Handle) (b : Block) (gens : Sparse Gen) : RestartCopy :=
  let l := b.cyc - r.cyc
  if b.cyc < r.cyc || 15 < l || r.lanes.any fun x => x.lane == l then r
  else
    let job (j : Job) : Job := match b.job j.word with
      | some k => j.takeLane k l
      | none => j.takeLane { j with a := [], b := [], sc := [] } l
    { r with jobs := r.jobs.map job, lanes := r.lanes ++ [copyLane hd b gens l] }

/-- A newer copy that every lane has taken frees the older ones. -/
def freeCopies (cyc : Nat) (rs : List RestartCopy) : List RestartCopy :=
  let whole := rs.filter fun r => decide (r.cyc + 15 ≤ cyc)
  match whole.getLast? with
  | some r => rs.filter fun x => decide (r.cyc ≤ x.cyc)
  | none => rs

/-! ### The beginning of a cycle -/

/-- Cell registers whose write was due before this cycle hold their new values, with their marks: a register written whole
with unmarked data loses its mark (R246, R427). -/
def commitCells (hd : Handle) (b : Block) : Handle × Block :=
  let due (p : Pend) : Bool := match p with | .cell c _ _ _ _ _ _ => decide (c < b.cyc) | _ => false
  let put (m : Sparse (Half × Tag)) (p : Pend) : Sparse (Half × Tag) :=
    match p with
    | .cell _ _ k v mask t _ => m.set k (((Sparse.get (0, 0) m k).1 &&& ~~~mask) ||| (v &&& mask), t)
    | _ => m
  let tint (ks : List Nat) (p : Pend) : List Nat :=
    match p with
    | .cell _ _ k _ mask _ bad => if bad then k :: ks.erase k else if mask == fullMask then ks.erase k else ks
    | _ => ks
  ({ hd with cells := (b.pend.filter due).foldl put hd.cells, tainted := (b.pend.filter due).foldl tint hd.tainted }, { b with pend := b.pend.filter fun p => !due p })

/-- The read streams of a block have filled, have ended, or have met a fault, so it may run on after FRESTART (R350). -/
def State.refilled (s : State) (t : Task) (c : Context) (b : Block) : Bool :=
  b.prog.streams.all fun e =>
    e.src.kind != 1 || match (c.gen e.src.idx).streams with
      | [] => true
      | x :: _ => x.cfg.write || x.fault.isSome || (List.range 16).all fun l =>
          (x.tokBits != 0 && x.laneDone l) || (x.fix e.slots).tooWide (16 * e.slots)
            || decide (s.fillTarget t b e ≤ (laneList (c.gen e.src.idx).rx l).length)

/-- A block's cycle begins: results of earlier cycles, the loop context, restart copies, binding streams, and the words
that are due. An RP word always opens a copy, also while two are being filled (DESIGN CHOICE, log 39: R239 gives a cell two
copies and does not speak of RP words fewer than 16 cycles apart). -/
def State.beginCycle (s : State) (core h : Nat) (nxt : Bool) (rest : List Due) : State :=
  let c := s.bank core
  match c.block h nxt with
  | none => { s with due := rest }
  | some b0 =>
    let hb := commitCells (c.handle h) b0
    let pre := hb.2.lc
    let run := hb.2.st == .running
    let lc := if run && pre.slot == 0 then pre.interval else pre
    let b1 : Block := { hb.2 with lc := lc }
    let new := if run then b1.issues else []
    let marked := new.any fun w => match b1.prog.wordOf w with | some x => x.rp | none => false
    let shells := if marked then b1.copies ++ [⟨b1.cyc, pre, [], b1.jobs, []⟩] else b1.copies
    let copies := freeCopies b1.cyc (shells.map fun r => r.take hb.1 b1 c.gens)
    let b2 := s.fillBindings core hb.1 { b1 with copies := copies }
    let b3 : Block := { b2 with hist := b2.hist.filter (fun w => decide (b2.cyc ≤ w.t0 + 15)) ++ new }
    let hd := hb.1.setBlock nxt b3
    { s.setBank core (c.setHandle h hd) with
      work := some ⟨pre, hd, c.gens, []⟩,
      due := b3.wordsNow.map (fun w => .word core h nxt w.1 w.2) ++ [.close core h nxt] ++ rest }

/-! ### Sends (R248 to R250, R429, R430) -/

/-- A token is stored in a scratch tile by a write binding stream (R248, R281). -/
def State.bufStore (s : State) (core h : Nat) (b : Block) (e : StreamEnt) (idx : Nat) (lane : Nat) (tok : Token) : State × Block :=
  let key := idx * 16 + lane
  let k := laneCount b.bpos key
  let b1 : Block := { b with bpos := b.bpos.set key (k + 1) }
  match b.bufs[e.dst.idx]?, ((s.bank core).handle h).pset with
  | some x, some p =>
    if tok.empty then (s, b1)
    else
      let bits := b.bufBits e.dst.idx
      let at0 (o : Nat) : Nat := p.tileByte (core / 32) x.stile o
      let wr (s : State) (o : Nat) (bs : List Byte) : State := (s.write (at0 o) bs).markIf tok.poison (at0 o) bs.length
      let put (s : State) (n v w : Nat) : State :=
        if x.total ≤ n then s
        else
          let q := x.place w n
          if w = 4 then
            let old := (s.byteAt (at0 q.1)).toNat
            wr s q.1 [BitVec.ofNat 8 (old - old / 2 ^ q.2 % 16 * 2 ^ q.2 + v % 16 * 2 ^ q.2)]
          else wr s q.1 (bytesOf v (w / 8))
      if bits = 128 then
        let n := 16 * (k / 2) + lane
        (if x.total ≤ n then s else wr s ((x.place 128 n).1 + 8 * (k % 2)) (bytesOf tok.val.toNat 8), b1)
      else
        let per := x.per bits e.slots
        ((List.range per).foldl (fun s i => put s ((16 * k + lane) * per + i) (tok.val.toNat / 2 ^ (bits * i)) bits) s, b1)
  | _, _ => (s, b1)

/-- Outcome of a send: a trap with its cause and TINFO and whether the driver has still to answer, or the state and block
after it. -/
abbrev SendRes := Except ((Nat × Word) × Bool) (State × Block)

/-- A fault that a write stream has met is raised by the next word that sends to it (R429). -/
def StreamFault.raise (f : StreamFault) : (Nat × Word) × Bool :=
  ((if f.cause = cMachineCheck then (cTiming, 0) else (f.cause, if f.cause = cAliasKind then f.info else 0)), f.asked)

/-- A word's token is sent in this cycle. -/
def State.send (s : State) (core h : Nat) (b : Block) (port : Nat) (tok : Token) (pk : Bool) (w : LaneWord) : SendRes :=
  match b.prog.driven w.tile port with
  | none => .error ((cTiming, 0), false)
  | some e =>
    let l := w.lane
    if e.dst.kind = 0 then
      let key := rxKey e.dst.idx e.dst.port l
      let q := laneList b.rx key
      if Config.queueDepth ≤ q.length then .error ((cTiming, 0), false)
      else
        let ready := b.cyc + (if e.nhop = 0 then e.slots else e.nhop + e.slots - 1)
        .ok (s, { b with rx := b.rx.set key (q ++ [(ready, tok)]) })
    else if e.dst.kind = 1 then
      let g := (s.bank core).gen e.dst.idx
      let fault := match g.streams with | x :: _ => (if x.cfg.write then x.fault else none) | [] => none
      let wide := match takerOf l e.slots g.streams (g.accepted l) with | some x => x.tooWide (16 * e.slots) | none => false
      let tag := match takerOf l e.slots g.streams (g.accepted l) with | some x => x.tag | none => 0
      match fault with
      | some f => .error f.raise
      | none =>
        if Config.queueDepth ≤ (laneList g.wx l).length then .error ((cTiming, 0), false)
        else if wide then .error (tagFault tag, false)
        else
          let q := laneList g.wx l ++ [⟨tok, b.serial, w, pk⟩]
          .ok (s.setGen core e.dst.idx { g with wx := g.wx.set l q }, b)
    else if b.bufWide e e.dst.idx true then .error (tagFault (b.bufTag e.dst.idx), false)
    else
      let r := s.bufStore core h b e (b.prog.streamIndex e) l tok
      .ok r

/-- The second token of an FT15 drain holds its port against other words (R270). -/
def portHeld (sends : List (Nat × Token × Bool × LaneWord)) (x : Nat × Token × Bool × LaneWord) (cyc : Nat) : Bool :=
  sends.any fun y => y.1 == x.1 && y.2.2.2.tile == x.2.2.2.tile && y.2.2.2.lane == x.2.2.2.lane && y.2.2.2 != x.2.2.2
    && y.2.1.tag == 15 && y.2.2.2.t0 + y.2.2.2.lane + 1 == cyc

/-- The sends of a cycle one after another: the state and block after those that succeed, and the traps of the others. -/
def State.sendAll (s : State) (core h : Nat) (all : List (Nat × Token × Bool × LaneWord)) :
    List (Nat × Token × Bool × LaneWord) → Block → List (FabTrap × Bool) → State × Block × List (FabTrap × Bool)
  | [], b, ts => (s, b, ts)
  | x :: xs, b, ts =>
    if portHeld all x b.cyc then State.sendAll s core h all xs b (ts ++ [(⟨cTiming, 0, x.2.2.2⟩, false)])
    else
      match s.send core h b x.1 x.2.1 x.2.2.1 x.2.2.2 with
      | .ok r => State.sendAll r.1 core h all xs r.2 ts
      | .error e => State.sendAll s core h all xs b (ts ++ [(⟨e.1.1, e.1.2, x.2.2.2⟩, e.2)])

/-- A word of latency 1 that trapped would have sent in this cycle: what keeps it from sending is a cause it meets too (R251). -/
def State.sendTrap (s : State) (core h : Nat) (b : Block) (all : List (Nat × Token × Bool × LaneWord)) (w : LaneWord) :
    Option (FabTrap × Bool) :=
  match b.prog.wordOf w with
  | none => none
  | some sc =>
    if latency sc.op != some 1 then none
    else (outPorts sc.op).findSome? fun q =>
      let tok : Token := ⟨0, 0, true, [], 0, false, .good, false⟩
      if portHeld all (q, tok, false, w) b.cyc then some (⟨cTiming, 0, w⟩, false)
      else match s.send core h b q tok false w with
        | .error e => some (⟨e.1.1, e.1.2, w⟩, e.2)
        | .ok _ => none

/-- The sends of a block that are due. -/
def Block.sendsDue (b : Block) : List (Nat × Token × Bool × LaneWord) :=
  b.pend.filterMap fun p => match p with
    | .send c q tok pk w => if c ≤ b.cyc then some (q, tok, pk, w) else none
    | _ => none

/-- What is still pending after the sends and rule-file writes of a cycle. -/
def Block.pendLater (b : Block) : List Pend :=
  b.pend.filter fun p => match p with
    | .send c _ _ _ _ => decide (b.cyc < c)
    | .rule c _ _ _ _ => decide (b.cyc < c)
    | .final c _ _ _ _ => decide (b.cyc < c)
    | .header c _ _ _ _ => decide (b.cyc < c)
    | .cell _ _ _ _ _ _ _ => true

/-- Rule-file entries whose write is due, with the mark their tile holds (R281, R427). -/
def State.writeRules (s : State) (core h : Nat) (b : Block) : State :=
  match ((s.bank core).handle h).pset with
  | none => s
  | some p => b.pend.foldl (fun s x => match x with
    | .rule c tile l k v =>
      let q := p.entryAt (core / 32) tile l k
      if c ≤ b.cyc then (s.writeNat q v.toNat 8).markIf (((s.bank core).handle h).tainted.contains (tileTaint tile)) q 8 else s
    | _ => s) s

/-- FIN and OVF of a rule file at the end of a cycle, and the headers parsed in it (R246, R281, R284, R286). -/
def Handle.settleMarks (hd : Handle) (b : Block) : Handle :=
  b.pend.foldl (fun hd x => match x with
    | .final c tile l k ovf =>
      if c ≤ b.cyc then { hd with marks := hd.marks.set ((tile * 16 + l) * 1024 + k) (true, ovf) } else hd
    | .header c tile l n w =>
      if c ≤ b.cyc then
        { hd with
          heads := hd.heads.set (tile * 16 + l) w, marks := Sparse.eraseRange hd.marks ((tile * 16 + l) * 1024) n }
      else hd
    | _ => hd) hd

/-- A write binding stream of the cycle wrote a rule file: its marks clear (R281). -/
def Handle.unmarkFor (hd : Handle) (b : Block) (sends : List (Nat × Token × Bool × LaneWord)) : Handle :=
  sends.foldl (fun hd x => match b.prog.driven x.2.2.2.tile x.1 with
    | some e => if e.dst.kind = 2 then (match b.bufs[e.dst.idx]? with | some y => hd.unmark y.stile | none => hd) else hd
    | none => hd) hd

/-! ### Packing streams (R108) -/

/-- Store the tokens of a packing stream in walk order; a block too large for its slot names the word whose token
completed it. -/
def State.packNow (s : State) (core : Nat) (t : Task) (g : Nat) : Nat → Except LaneWord State
  | 0 => .ok s
  | n + 1 =>
    let try1 (l : Nat) : Option (Except LaneWord State) :=
      match laneList ((s.bank core).gen g).wx l with
      | [] => none
      | tok :: _ =>
        if !tok.pk then none
        else match s.storeToken core t g l with
          | .stored s1 => some (.ok s1)
          | .held _ => none
          | .overrun => some (.error tok.pos)
    match (List.range 16).findSome? try1 with
    | some (.ok s1) => State.packNow s1 core t g n
    | some (.error w) => .error w
    | none => .ok s

/-- Generators that words of the cycle sent packing tokens to. -/
def Block.packGens (b : Block) (sends : List (Nat × Token × Bool × LaneWord)) : List Nat :=
  (sends.filterMap fun x => if x.2.2.1 then (b.prog.driven x.2.2.2.tile x.1).bind fun e =>
    (if e.dst.kind = 1 then some e.dst.idx else none) else none).eraseDups

/-- Packing after the sends of a cycle: the state, or the overrun. -/
def State.packAll (s : State) (core : Nat) (t : Task) : List Nat → Except LaneWord State
  | [] => .ok s
  | g :: gs => match s.packNow core t g 512 with
    | .ok s1 => State.packAll s1 core t gs
    | .error w => .error w

/-! ### The end of a cycle -/

/-- The trap that is reported: earliest lane-0 time, lowest tile, lowest stage, then the order of causes (R251). -/
def firstTrap : List (FabTrap × Bool) → Option (FabTrap × Bool)
  | [] => none
  | x :: xs =>
    match firstTrap xs with
    | none => some x
    | some y =>
      let key (z : FabTrap × Bool) : Nat := ((z.1.pos.t0 * 64 + z.1.pos.tile) * 8 + z.1.pos.col) * 16 + causeRank z.1.cause
      if key y < key x then some y else some x

/-- Put a block and keep its handle's other parts. -/
def State.putBlock (s : State) (core h : Nat) (nxt : Bool) (b : Block) : State := s.setBlock core h nxt b

/-- A trap ends the cycle: the words of the cycle have no effect; sends and rule-file writes of words of earlier cycles
happen; copies of this cycle do not form (R242, R251). -/
def State.freezeCycle (s : State) (core h : Nat) (nxt : Bool) (k : Work) (tr : FabTrap × Bool) : State :=
  let s1 := s.setBank core { ((s.bank core).setHandle h k.h) with gens := k.gens }
  match (s1.bank core).block h nxt with
  | none => s1
  | some b =>
    let sends := b.sendsDue
    let r := s1.sendAll core h sends sends b []
    let s2 := r.1.writeRules core h b
    let hd := ((s2.bank core).handle h).unmarkFor b sends
    let formed (c : RestartCopy) : Bool := c.cyc == b.cyc && c.cyc != 0 && decide (c.lanes.length ≤ 1)
    let b2 : Block := { r.2.1 with pend := b.pendLater, copies := b.copies.filter fun c => !formed c }
    let s3 := s2.setBank core ((s2.bank core).setHandle h (hd.setBlock nxt b2))
    s3.freezeAt core h nxt tr.1 tr.2

/-- A block's cycle ends. -/
def State.closeCycle (s : State) (core h : Nat) (nxt : Bool) (rest : List Due) : State :=
  let s0 := { s with due := rest, work := none }
  let c := s0.bank core
  match s.work, c.block h nxt, c.task with
  | some k, some b, some t =>
    let sends := b.sendsDue
    let r := s0.sendAll core h sends sends b []
    let traps := k.traps ++ k.traps.filterMap (fun x => r.1.sendTrap core h r.2.1 sends x.1.pos) ++ r.2.2
    match firstTrap traps with
    | some tr => s0.freezeCycle core h nxt k tr
    | none =>
      match r.1.packAll core t (b.packGens sends) with
      | .error w => s0.freezeCycle core h nxt k (⟨cPackOverrun, 0, w⟩, false)
      | .ok s1 =>
        let s2 := s1.writeRules core h b
        let hd := (((s2.bank core).handle h).settleMarks b).unmarkFor b sends
        let spent (j : Job) : Bool := j.a.isEmpty && decide (j.word.t0 + 15 + j.rep * j.interval + 5 < b.cyc)
        let lc := if b.st == .running then b.lc.advance else b.lc
        let b2 : Block :=
          { r.2.1 with pend := b.pendLater, lc := lc, cyc := b.cyc + 1, jobs := b.jobs.filter fun j => !spent j }
        s2.setBank core ((s2.bank core).setHandle h (hd.setBlock nxt b2))
  | _, _, _ => s0

/-! ### LOOP_CONTEXT_ADVANCE -/

/-- The words of a block have something left to do (R14, R39). -/
def Block.busy (b : Block) : Bool :=
  b.hist.any (fun w => decide (b.cyc ≤ w.t0 + 15)) || !b.pend.isEmpty || !b.jobs.isEmpty

/-- A block has a cycle to run: it runs, or its last words pass through the lanes. -/
def Block.ticks (b : Block) : Bool := (b.st == .running && !b.lc.finished) || ((b.st == .running || b.st == .draining) && b.busy)

/-- A restarted block whose streams have filled runs on (R350). -/
def State.release (s : State) (core h : Nat) (nxt : Bool) : State :=
  match (s.bank core).task, (s.bank core).block h nxt with
  | some t, some b => if b.refill && s.refilled t (s.bank core) b then s.setBlock core h nxt { b with refill := false } else s
  | _, _ => s

/-- The block of a handle has a cycle to run now. -/
def State.mayTick (s : State) (core h : Nat) (nxt : Bool) : Bool :=
  match (s.bank core).block h nxt with
  | some b => b.ticks && !b.refill && !b.held
  | none => false

/-- LOOP_CONTEXT_ADVANCE: the blocks of a handle run one cycle of lane 0 and the lanes behind it. -/
def execLoopContextAdvance (core : CoreId) (h : Hnd) (s : State) : Out :=
  let c := core.val
  .next (if (s.core c).swapping || (s.bank c).task.isNone || !s.due.isEmpty then s
    else
      let s1 := (s.release c h.val false).release c h.val true
      let one (nxt : Bool) : List Due := if s1.mayTick c h.val nxt then [.begin c h.val nxt] else []
      { s1 with due := one false ++ one true })

end Sys2Proof.Machine
end

