-- ==== Sys2Proof/Machine/Blocks.lean ====
section
/-!
DEFINITION. The life of a block in its handle (R14, R56, R134, R210, R212, R282): loading, its first word, the end of its
issue, and its completion.
-/

namespace Sys2Proof.Machine

/-! ### Loading (R56, R240) -/

/-- The block of a handle that is still loading: the current one before the next one. -/
def Handle.loading (h : Handle) : Option (Bool × Block) :=
  match h.cur, h.next with
  | some b, nx =>
    if !b.ready then some (false, b)
    else match nx with
      | some y => if y.ready then none else some (true, y)
      | none => none
  | none, _ => none

/-- BLOCK_LOAD_COMPLETE: the planes hold the block. A pre-emption swap takes precedence (R57). -/
def execBlockLoadComplete (core : CoreId) (h : Hnd) (s : State) : Out :=
  let c := core.val
  .next (if (s.core c).swapping then s
    else match ((s.bank c).handle h.val).loading with
      | some (nxt, b) => s.setBlock c h.val nxt { b with ready := true }
      | none => s)

/-! ### The first word (R56, R134, R282) -/

/-- Tiles of a mode other than rule (R281). -/
def Prog.plainTiles (p : Prog) : List Nat := (List.range p.tiles).filter fun n => p.mode n != 3

/-- A tile is in rule mode. -/
def Prog.hasRule (p : Prog) : Bool := (List.range p.tiles).any fun n => p.mode n == 3

/-- The plane swap has given the block its plane: the block before it is draining, and its rule-file writes have
finished (R56, R282). -/
def Handle.planeFree (h : Handle) (nxt : Bool) : Bool :=
  !nxt || match h.cur with
    | some b => b.st == .draining && !(b.prog.hasRule && b.busy)
    | none => true

/-- No block of an earlier phase is started and not complete (R134). -/
def Context.phaseFree (c : Context) (b : Block) : Bool := c.blocks.all fun e => !e.2.2.live || decide (b.phase ≤ e.2.2.phase)

/-- The armed block of a handle: the current one before the next one. -/
def Handle.armed (h : Handle) : Option (Bool × Block) :=
  match h.cur, h.next with
  | some b, nx =>
    if b.st == .armed then some (false, b)
    else match nx with
      | some y => if y.st == .armed then some (true, y) else none
      | none => none
  | none, _ => none

/-- BLOCK_FIRST_ISSUE: the block runs from its plane. Until an RP word issues its restart point is its start (R239). -/
def execBlockFirstIssue (core : CoreId) (h : Hnd) (s : State) : Out :=
  let c := core.val
  let x := s.bank c
  let hd := x.handle h.val
  .next (match hd.armed with
    | none => s
    | some (nxt, b) =>
      if (s.core c).swapping || !b.ready || b.lc.finished || !hd.planeFree nxt || !x.phaseFree b then s
      else
        let hd1 := b.prog.plainTiles.foldl (fun hd n => hd.unmark n) hd
        let b1 : Block := { b with st := .running, copies := [⟨0, b.lc, [], [], []⟩] }
        s.setBank c (x.setHandle h.val (hd1.setBlock nxt b1)))

/-! ### The end of issue (R12, R56) -/

/-- The running block of a handle whose issue has finished. -/
def Handle.issued (h : Handle) : Option (Bool × Block) :=
  let spent (b : Block) : Bool := b.st == .running && b.lc.finished && !b.held
  match h.cur, h.next with
  | some b, nx =>
    if spent b then some (false, b)
    else match nx with
      | some y => if spent y then some (true, y) else none
      | none => none
  | none, _ => none

/-- Faults that write streams of a block met while it ran, and that no later word has raised, freeze it now that its issue
has finished: each names the last word that sent in the lane whose token faulted (R429). -/
def State.raiseLate (s : State) (core serial : Nat) : State :=
  (List.range 4).foldl (fun s g =>
    let gen := (s.bank core).gen g
    match gen.streams with
    | x :: _ =>
      (match x.cfg.write, x.fault with
        | true, some f =>
          if f.blk == serial then
            s.freezeDraining core f ((f.pos.bind fun w => (laneList gen.wx w.lane).getLast?).map fun y => y.pos)
          else s
        | _, _ => s)
    | [] => s) s

/-- BLOCK_ISSUE_FINISH: the block drains, and its plane is free for the next one. -/
def execBlockIssueFinish (core : CoreId) (h : Hnd) (s : State) : Out :=
  let c := core.val
  .next (match ((s.bank c).handle h.val).issued with
    | some (nxt, b) => if s.due.isEmpty then (s.setBlock c h.val nxt { b with st := .draining }).raiseLate c b.serial else s
    | none => s)

/-! ### Completion (R14) -/

/-- Every store of a block's words through the task's generators has performed: its tokens are stored, pages being
packed are sealed (R108), and messages to the host are answered. -/
def State.blockStored (s : State) (c : Context) (part : Nat) (b : Block) : Bool :=
  (List.range 4).all fun g =>
    let x := c.gen g
    let feeds := (b.prog.genEntry g true).isSome
    (x.wx.all fun e => e.2.all fun y => y.blk != b.serial)
      && x.streams.all fun y => !feeds || !y.cfg.write
          || ((y.msg == 0 || s.answered part y.msg) && (y.packed.isEmpty || y.fault.isSome))

/-- The block of a handle has completed: its issue is finished and its stores have performed; a block without an
initiation completes at once (R212). -/
def State.blockDone (s : State) (c : Context) (part : Nat) (b : Block) : Bool :=
  (b.st == .armed && b.lc.finished) || (b.st == .draining && !b.busy && s.blockStored c part b)

/-- A completed block leaves its handle; the block behind it becomes the current one (R211). An idle core wakes (R222). -/
def Context.blockLeaves (c : Context) (h : Nat) (nxt : Bool) : Context :=
  let hd := c.handle h
  (c.setHandle h (if nxt then { hd with next := none } else { hd with cur := hd.next, next := none })).wake

/-- BLOCK_COMPLETE. -/
def execBlockComplete (core : CoreId) (h : Hnd) (s : State) : Out :=
  let c := core.val
  let x := s.bank c
  let done (nxt : Bool) : Bool :=
    match x.task, x.block h.val nxt with
    | some t, some b => s.blockDone x t.part b
    | _, _ => false
  .next (if (s.core c).swapping || !s.due.isEmpty then s
    else if done false then s.setBank c (x.blockLeaves h.val false)
    else if done true && (match x.block h.val true with | some b => b.st == .armed | none => false) then
      s.setBank c (x.blockLeaves h.val true)
    else s)

end Sys2Proof.Machine
end

