-- ==== Sys2Proof/Machine/Control.lean ====
section
/-!
DEFINITION. Branches, jumps, calls, returns and TRAP (R184 to R188). A transfer stands in the context until its delay
slot completes (R162).
-/

namespace Sys2Proof.Machine

/-- A conditional branch or JMP (R156, R184): the condition is read at issue. -/
def branchOp (i : Instr) (regs : List XReg) (t : CodeRef) (cond : Context → Bool) (s : State) : Out :=
  .next (issue i (keysOf regs) (fun s _ =>
    .jump s ⟨cbDest s.ctx.pc t, cond s.ctx, .none, false⟩) s)

/-- BEZ. -/
def execBez (a : XReg) (t : CodeRef) (s : State) : Out := branchOp (.bez a t) [a] t (fun c => c.x a == 0) s
/-- BNZ. -/
def execBnz (a : XReg) (t : CodeRef) (s : State) : Out := branchOp (.bnz a t) [a] t (fun c => c.x a != 0) s
/-- BLTZ. -/
def execBltz (a : XReg) (t : CodeRef) (s : State) : Out := branchOp (.bltz a t) [a] t (fun c => (c.x a).getLsbD 63) s
/-- BGEZ. -/
def execBgez (a : XReg) (t : CodeRef) (s : State) : Out := branchOp (.bgez a t) [a] t (fun c => !(c.x a).getLsbD 63) s
/-- JMP. -/
def execJmp (t : CodeRef) (s : State) : Out := branchOp (.jmp t) [] t (fun _ => true) s

/-- JR (R185). -/
def execJr (b : XReg) (s : State) : Out :=
  .next (issue (.jr b) (keysOf [b]) (fun s _ => .jump s ⟨s.ctx.x b, true, .none, false⟩) s)

/-- CALL and CALLR (R186): a group that must be racked first is racked by WINDOW_RACK. -/
def callOp (i : Instr) (regs : List XReg) (target : Context → Word) (s : State) : Out :=
  .next (issue i (fun c => keyCallee c ++ keysOf regs c) (fun s _ =>
    let c := s.ctx
    if c.callRacks then .wait s wRacking else .jump s ⟨target c, true, .call, false⟩) s)

/-- CALL. -/
def execCall (t : CodeRef) (s : State) : Out := callOp (.call t) [] (fun c => cbDest c.pc t) s

/-- CALLR. -/
def execCallr (b : XReg) (s : State) : Out := callOp (.callr b) [b] (fun c => c.x b) s

/-- RET (R187). With WP = 0 the trap names the fill address below RKBASE that a caller's group would have (log 22). -/
def execRet (s : State) : Out :=
  .next (issue .ret (keysOf [.w 8]) (fun s _ =>
    let c := s.ctx
    if c.wp == 0 then .trap s cWindowSpill (c.rkbase + BitVec.ofInt 64 (8 * ((c.lo : Int) - 24)))
    else if c.retRacks then .wait s wRacking
    else .jump s ⟨c.x (.w 8), true, .ret, false⟩) s)

/-- TRAP (R188). -/
def execTrap (code : BitVec 32) (s : State) : Out :=
  .next (issue (.trap code) (fun _ => []) (fun _ _ => .trapNext cSyscall (zext32 code)) s)

end Sys2Proof.Machine
end

