-- ==== Sys2Proof/Machine/Floor.lean ====
section
/-!
DEFINITION. The floor allocators: page sets, their placement, moves and clearing (R333 to R336), and FLOAD (R211).
-/

namespace Sys2Proof.Machine

/-! ### Pages -/

/-- A page of a die. -/
def State.page (s : State) (die k : Nat) : Page := Sparse.get Page.free (s.die die).pages k

/-- Put pages of a die. -/
def State.setPages (s : State) (die : Nat) (ks : List Nat) (p : Page) : State :=
  let d := s.die die
  s.setDie die { d with pages := ks.foldl (fun m k => m.set k p) d.pages }

/-- Pages of a rectangle, page y x 16 + x. -/
def rectPages (x0 y0 w h : Nat) : List Nat :=
  (List.range h).flatMap fun y => (List.range w).map fun x => 16 * (y0 + y) + (x0 + x)

/-- Pages of a page set. -/
def PageSet.pages (p : PageSet) : List Nat := rectPages p.x0 p.y0 p.w p.h

/-- Origins at which a rectangle stands on the floor, y0 ascending, then x0 (R333). -/
def origins (w h : Nat) : List (Nat × Nat) :=
  (List.range (17 - h)).flatMap fun y => (List.range (17 - w)).map fun x => (x, y)

/-- No page set holds the page; it may still have to be cleared. -/
def State.vacant (s : State) (die k : Nat) : Bool :=
  match s.page die k with
  | .owned _ _ _ => false
  | _ => true

/-- The page is free and cleared. -/
def State.cleared (s : State) (die k : Nat) : Bool := s.page die k == .free

/-- The first origin whose rectangle no page set touches, outside pages that are spoken for (R333). -/
def State.roomFor (s : State) (die w h : Nat) (busy : List Nat) : Option (Nat × Nat) :=
  (origins w h).find? fun o => (rectPages o.1 o.2 w h).all fun k => s.vacant die k && !busy.contains k

/-- The first origin whose rectangle no page set touches (R333). -/
def State.findRect (s : State) (die w h : Nat) : Option (Nat × Nat) := s.roomFor die w h []

/-- Change the context of a task chain, wherever its core keeps it. -/
def State.mapChain (s : State) (core chain : Nat) (f : Context → Context) : State :=
  let g (c : Context) : Context := if c.isChain chain then f c else c
  let k := s.core core
  let s1 := s.setCore core { k with bank := g k.bank, other := g k.other }
  { s1 with saved := s1.saved.map fun e => if e.1 = core then (e.1, e.2.map g) else e }

/-- The page sets of a context: handle and set. -/
def Context.psets (c : Context) : List (Nat × PageSet) :=
  c.hs.filterMap fun e => e.2.pset.map fun p => (e.1, p)

/-- Pages a context's page sets take, but for one handle (R334). -/
def Context.pagesUsed (c : Context) (but : Nat) : Nat :=
  ((c.psets.filter fun e => e.1 != but).map fun e => e.2.w * e.2.h).foldl (· + ·) 0

/-- Edge-channel slots a block claims: inward bits 0 to 15, outward 16 to 31 (R230, R334). -/
def Prog.edgeClaims (p : Prog) : BitVec 32 :=
  (p.streams.flatMap p.claims).foldl (fun m c =>
    if c.1 = 1000 then m ||| (1 <<< (16 * c.2.1 + c.2.2.2)) else m) 0

/-- Slots the task's other page sets hold. -/
def Context.slotsHeld (c : Context) (but : Nat) : BitVec 32 :=
  (c.psets.filter fun e => e.1 != but).foldl (fun m e => m ||| e.2.claims) 0

/-- A page set is freed: its pages are to be cleared, its slots return (R333, R334). -/
def State.freePset (s : State) (die : Nat) (p : PageSet) : State := s.setPages die p.pages .dirty

/-- Place a page set for a handle, which waits for it no longer: cell state starts as R32 gives it. -/
def State.placeAt (s : State) (core chain h : Nat) (x y w ht : Nat) : State :=
  let d := s.die (core / 32)
  let s0 := s.setDie (core / 32) { d with waits := d.waits.filter fun e => !(e.core == core && e.h == h) }
  let s1 := s0.setPages (core / 32) (rectPages x y w ht) (.owned chain core h)
  s1.mapChain core chain fun c =>
    c.setHandle h { c.handle h with pset := some ⟨x, y, w, ht, 0⟩, cells := [], latch := [], marks := [], heads := [], tainted := [] }

/-! ### FLOAD (R211) -/

/-- A block as FLOAD loads it. -/
def newBlock (serial index : Nat) (p : Prog) : Block :=
  let trips := p.trips.map fun w => if w.getLsbD 63 then 0 else w.toNat % 2 ^ 32
  { serial := serial, index := index, prog := p, st := .loaded, ready := false, phase := 0, n := 0,
    lc := { LoopCtx.start p.ii p.sc trips with more := false }, cyc := 0, resume := 0, fts := [], cb := 0, key := 0,
    bufs := [], drained := [], rx := [], bpos := [], acc := [], jobs := [], hist := [], pend := [], red := [], copies := [],
    trap := none, told := false, refill := false, parse := [], finG := [], held := false }

/-- The block an FLOAD names. -/
def State.blockImage (s : State) (t : Task) (index : Nat) : Option Prog :=
  match s.codeOf t with
  | none => none
  | some c => (c.blocks[index]?).map fun b => b.1

/-- Put a loaded block into a handle, as the current or the next one, with its slots granted. -/
def State.loadBlock (s : State) (core h index : Nat) (p : Prog) : State :=
  let k := s.core core
  let c := k.bank
  let hd := c.handle h
  let grant (q : PageSet) : PageSet := { q with claims := q.claims ||| p.edgeClaims }
  let b := newBlock k.engines index p
  let hd1 : Handle := { hd with pset := hd.pset.map grant }
  let hd2 := hd1.setBlock hd.cur.isSome b
  s.setCore core { k with bank := c.setHandle h hd2, engines := k.engines + 1 }

/-! ### Waiting for the allocator, and compaction (R333, R335, R341) -/

/-- The page-set size an FLOAD of handle h that waits with NO_CAPABLE_PAGE on a core needs. -/
def State.waitingLoad (s : State) (core h : Nat) : Option (Task × Nat × Nat) :=
  let b := s.bank core
  match b.task, b.strip, s.fetch core b.pc with
  | some t, some x, _ => if x.fab == .load && b.wait.toNat == wNoPage && h == 7 then some (t, 1, 1) else none
  | some t, none, .ok (.fload k index) =>
    if b.wait.toNat == wNoPage && k.val == h then
      match s.blockImage t index.toNat with
      | some p => some (t, p.pw + 1, p.ph + 1)
      | none => none
    else none
  | _, _, _ => none

/-- The waiting FLOADs of a die, in the order they reached the allocator; one that waits no longer does not count. -/
def State.floorWaits (s : State) (die : Nat) : List FloorWait :=
  (s.die die).waits.filter fun e => match s.waitingLoad e.core e.h with
    | some (t, w, ht) => t.serial == e.chain && w == e.w && ht == e.ht
    | none => false

/-- The page set of a chain's handle, and whether it may be moved (R336): in service with no block, or switched out with none
that is frozen (R341). -/
def State.setOf (s : State) (core chain h : Nat) : Option (PageSet × Bool) :=
  let k := s.core core
  let still (c : Context) : Bool :=
    if c.isChain chain && k.bank.isChain chain then (c.handle h).cur.isNone && (c.handle h).next.isNone
    else [(c.handle h).cur, (c.handle h).next].all fun b => match b with | some x => x.st != .frozen | none => true
  match (s.contexts core).find? fun c => c.isChain chain with
  | some c => (c.handle h).pset.map fun p => (p, !k.swapping && still c)
  | none => none

/-- Destinations of the moves in progress on a die. -/
def State.movePages (s : State) (die : Nat) : List Nat :=
  (s.die die).moves.flatMap fun m => match s.setOf m.core m.chain m.h with
    | some (p, _) => rectPages m.x m.y p.w p.h
    | none => []

/-- Pages that waiting FLOADs will take, in their order: a target, or else the first rectangle that is free. -/
def State.waitPages (s : State) (die : Nat) : List FloorWait → List Nat → List Nat
  | [], busy => busy
  | e :: es, busy =>
    match (match e.target with | some o => some o | none => s.roomFor die e.w e.ht busy) with
    | some o => State.waitPages s die es (busy ++ rectPages o.1 o.2 e.w e.ht)
    | none => State.waitPages s die es busy

/-- Pages that are spoken for, as an FLOAD of a core's handle sees it: destinations of moves, what earlier FLOADs will take,
and the targets of later ones (R335, R341). -/
def State.busyFor (s : State) (die core h : Nat) : List Nat :=
  let ws := s.floorWaits die
  let other (e : FloorWait) : Bool := !(e.core == core && e.h == h)
  let early := ws.takeWhile other
  let late := (ws.dropWhile other).filter fun e => other e && e.target.isSome
  s.waitPages die (early ++ late) (s.movePages die)

/-- The entry of a waiting FLOAD. -/
def State.floorWait (s : State) (die core h : Nat) : Option FloorWait :=
  (s.floorWaits die).find? fun e => e.core == core && e.h == h

/-- The rectangle an FLOAD can take now: its target, once that is free, or the first free one (R333, R335). -/
def State.rectFor (s : State) (die core h w ht : Nat) : Option (Nat × Nat) :=
  match (s.floorWait die core h).bind fun e => e.target with
  | some o => if (rectPages o.1 o.2 w ht).all (s.vacant die) then some o else none
  | none => s.roomFor die w ht (s.busyFor die core h)

/-- The placed page sets of a die: core, chain, handle, set, and whether it may be moved (R336). -/
def State.placed (s : State) (die : Nat) : List (Nat × Nat × Nat × PageSet × Bool) :=
  (List.range 32).flatMap fun k => (s.contexts (32 * die + k)).flatMap fun c =>
    match c.task with
    | none => []
    | some t => c.psets.filterMap fun e =>
        (s.setOf (32 * die + k) t.serial e.1).map fun x =>
          (32 * die + k, t.serial, e.1, x.1, x.2 && !(s.die die).moves.any fun m => m.chain == t.serial && m.h == e.1)

/-- Destinations for the sets that overlap a target, the most recently dispatched first (R335): none if one finds no
place. -/
def State.destinations (s : State) (die : Nat) (target busy : List Nat) :
    List (Nat × Nat × Nat × PageSet × Bool) → Option (List SetMove)
  | [] => some []
  | (core, chain, h, p, _) :: rest =>
    match s.roomFor die p.w p.h (target ++ busy) with
    | none => none
    | some o =>
      match State.destinations s die target (busy ++ rectPages o.1 o.2 p.w p.h) rest with
      | none => none
      | some r => some (⟨core, chain, h, o.1, o.2⟩ :: r)

/-- Insert by descending dispatch order. -/
def insertLatest (x : Nat × Nat × Nat × PageSet × Bool) :
    List (Nat × Nat × Nat × PageSet × Bool) → List (Nat × Nat × Nat × PageSet × Bool)
  | [] => [x]
  | y :: ys => if y.2.1 < x.2.1 then x :: y :: ys else y :: insertLatest x ys

/-- The moves that would free a rectangle, with the count of pages of other sets it overlaps; none where a page of it is spoken
for, a set cannot be moved, or one finds no destination. -/
def State.movesAt (s : State) (die : Nat) (target busy : List Nat) : Option (Nat × List SetMove) :=
  let hits := (s.placed die).filter fun e => e.2.2.2.1.pages.any fun k => target.contains k
  if hits.any (fun e => !e.2.2.2.2) || target.any (fun k => busy.contains k) then none
  else
    let n := (target.filter fun k => !s.vacant die k).length
    (s.destinations die target busy (hits.foldl (fun l x => insertLatest x l) [])).map fun r => (n, r)

/-- Compaction for an FLOAD (R335): the target that overlaps the fewest pages of other sets, and the moves that free it. -/
def State.compaction (s : State) (die core h w ht : Nat) : Option ((Nat × Nat) × List SetMove) :=
  let busy := s.busyFor die core h
  let all := (origins w ht).filterMap fun o => (s.movesAt die (rectPages o.1 o.2 w ht) busy).map fun m => (m.1, o, m.2)
  (all.find? fun a => all.all fun b => decide (a.1 ≤ b.1)).map fun a => a.2

/-- An FLOAD has to wait: it joins the FLOADs that wait, behind those that came before it. -/
def State.joinWaits (s : State) (die core chain h w ht : Nat) : State :=
  if (s.floorWait die core h).isSome then s
  else
    let d := s.die die
    s.setDie die { d with
      waits := d.waits.filter (fun e => !(e.core == core && e.h == h)) ++ [⟨core, chain, h, w, ht, none⟩] }

/-- Where no rectangle is free and no target is chosen, the allocator compacts: it chooses one, and the moves begin (R335). -/
def State.compact (s : State) (die core h w ht : Nat) : State :=
  let d := s.die die
  let mine (e : FloorWait) : Bool := e.core == core && e.h == h
  if d.waits.any (fun e => mine e && e.target.isSome) || (s.rectFor die core h w ht).isSome then s
  else
    match s.compaction die core h w ht with
    | none => s
    | some (o, ms) =>
      let aim (e : FloorWait) : FloorWait := if mine e then { e with target := some o } else e
      s.setDie die { d with waits := d.waits.map aim, moves := d.moves ++ ms }

/-- FLOAD of a block image into a handle of core cur (R211, R240, R333, R334). -/
def State.floadOf (s : State) (t : Task) (h : Fin 8) (index : Nat) (p : Prog) (ill : Word) : Res :=
  let c := s.ctx
  let hd := c.handle h.val
  let die := s.cur / 32
  let w := p.pw + 1
  let ht := p.ph + 1
  let fits := match hd.pset with | some q => q.w == w && q.h == ht | none => false
  let clash := c.slotsHeld h.val &&& p.edgeClaims != 0
  let wait (s : State) : Res := .wait ((s.joinWaits die s.cur t.serial h.val w ht).compact die s.cur h.val w ht) wNoPage
  if !p.ok then .trap s cIllegal ill
  else if s.setMoving s.cur t.serial h.val then .wait s wNoPage
  else if hd.cur.isSome then
    if hd.next.isSome then .wait s wBarrier
    else if !fits then .trap s cIllegal ill
    else if clash then .trap s.noAddress.1 cProtection s.noAddress.2
    else if c.settling then .stall
    else .done (s.loadBlock s.cur h.val index p)
  else if clash || decide (t.quota < c.pagesUsed h.val + w * ht) then .trap s.noAddress.1 cProtection s.noAddress.2
  else if fits then (if c.settling then .stall else .done (s.loadBlock s.cur h.val index p))
  else if hd.pset.isSome && c.settling then .stall
  else
    let s1 := match hd.pset with
      | some q => (s.freePset die q).setCtx (c.setHandle h.val { hd with pset := none })
      | none => s
    match s1.rectFor die s.cur h.val w ht with
    | none => wait s1
    | some o =>
      if !(rectPages o.1 o.2 w ht).all (s1.cleared die) then wait s1
      else if c.settling then .stall
      else .done ((s1.placeAt s1.cur t.serial h.val o.1 o.2 w ht).loadBlock s1.cur h.val index p)

/-- FLOAD. -/
def execFload (h : Fin 8) (index : BitVec 16) (s : State) : Out :=
  let i : Instr := .fload h index
  .next (issue i (fun _ => []) (fun s t =>
    match s.blockImage t index.toNat with
    | none => .trap s cIllegal (word0 i)
    | some p => s.floadOf t h index.toNat p (word0 i)) s)

/-! ### Placing, moving and clearing (R333, R336) -/

/-- PAGE_SET_PLACE: the allocator places the page set an FLOAD waits for (R333), or compacts for it (R335). -/
def execPageSetPlace (core : CoreId) (h : Fin 8) (s : State) : Out :=
  let c := core.val
  .next (match s.waitingLoad c h.val with
    | none => s
    | some (t, w, ht) =>
      if ((s.bank c).handle h.val).pset.isSome then s
      else
        match s.rectFor (c / 32) c h.val w ht with
        | none => s.compact (c / 32) c h.val w ht
        | some o =>
          if (rectPages o.1 o.2 w ht).all (s.cleared (c / 32)) then s.placeAt c t.serial h.val o.1 o.2 w ht else s)

/-- Copy a run of n bytes of storage. -/
def State.copyStorage (s : State) (src dst : Nat) (n : Nat) : State :=
  let cells := s.mem.filter fun e => decide (src ≤ e.1) && decide (e.1 < src + n)
  let m := Sparse.eraseRange s.mem dst n
  { s with mem := cells.foldl (fun m e => Sparse.put unlisted m (dst + (e.1 - src)) e.2) m }

/-- Page of a page set at position j of its rectangle. -/
def PageSet.pageAt (p : PageSet) (j : Nat) : Nat := 16 * (p.y0 + j / p.w) + (p.x0 + j % p.w)

/-- Loft slices above a page (R99). -/
def pageSlices (k : Nat) : List Nat := [16 * (2 * (k / 16)) + k % 16, 16 * (2 * (k / 16) + 1) + k % 16]

/-- Exchange of the slice-map entries of two slices, and of the bytes above the two pages: a moved slice keeps its
addresses (R99). -/
def State.moveSlice (s : State) (die a b : Nat) : State :=
  let find (k : Nat) : Nat := ((List.range 512).find? fun j => Sparse.get j s.sliceMap (512 * die + j) == k).getD k
  let ja := find a
  let jb := find b
  let pa := loftPlace die (a * 2 ^ 21)
  let pb := loftPlace die (b * 2 ^ 21)
  let gens (g : Sparse Nat) : Sparse Nat :=
    let base := g.filter fun e => !(decide (pb / 64 ≤ e.1) && decide (e.1 < pb / 64 + 32768))
    (g.filter fun e => decide (pa / 64 ≤ e.1) && decide (e.1 < pa / 64 + 32768)).foldl
      (fun m e => Sparse.set m (pb / 64 + (e.1 - pa / 64)) e.2) base
  let bad := s.poison.filter fun l => !(decide (pb / 64 ≤ l) && decide (l < pb / 64 + 32768))
  let moved := (s.poison.filter fun l => decide (pa / 64 ≤ l) && decide (l < pa / 64 + 32768)).map fun l => pb / 64 + (l - pa / 64)
  let s1 := s.copyStorage pa pb (2 ^ 21)
  { s1 with
    sliceMap := Sparse.set (Sparse.set s1.sliceMap (512 * die + ja) b) (512 * die + jb) a, loftGen := gens s.loftGen, loftKey := gens s.loftKey,
    poison := bad ++ moved }

/-- Move a page set to a new origin (R336): scratch tiles and loft slices go with it. -/
def State.movePset (s : State) (core chain h : Nat) (p : PageSet) (x y : Nat) : State :=
  let die := core / 32
  let q : PageSet := { p with x0 := x, y0 := y }
  let s1 := (List.range (p.w * p.h)).foldl (fun s j =>
    let a := p.pageAt j
    let b := q.pageAt j
    let s1 := (List.range 2).foldl (fun s t => s.copyStorage (tilePlace die (2 * a + t) 0) (tilePlace die (2 * b + t) 0) 131072) s
    (List.range 2).foldl (fun s t => s.moveSlice die ((pageSlices a).getD t 0) ((pageSlices b).getD t 0)) s1) s
  let s2 := (s1.setPages die p.pages .dirty).setPages die q.pages (.owned chain core h)
  s2.mapChain core chain fun c => c.setHandle h { c.handle h with pset := some q }

/-- An LDT that issued before the move of a page set still names tiles of the set (R336). -/
def Context.ldtOn (c : Context) (die : Nat) (p : PageSet) : Bool :=
  c.fly.any fun e => e.isLdt && e.spans.any fun x => p.pages.any fun k =>
    decide (tilePlace die (2 * k) 0 ≤ x.place) && decide (x.place < tilePlace die (2 * k + 2) 0)

/-- PAGE_SET_MOVE: a move in progress completes once its destination is cleared and no LDT that issued before it is
unfinished (R336). One whose set has gone with its task is
abandoned. -/
def execPageSetMove (core : CoreId) (h : Fin 8) (s : State) : Out :=
  let die := core.val / 32
  let d := s.die die
  .next (match d.moves.find? fun m => m.core == core.val && m.h == h.val with
    | none => s
    | some m =>
      let s1 := s.setDie die { d with moves := d.moves.erase m }
      match s.setOf m.core m.chain m.h with
      | none => s1
      | some (p, still) =>
        if still && (rectPages m.x m.y p.w p.h).all (s.cleared die) && !(s.bank core.val).ldtOn die p then s1.movePset m.core m.chain m.h p m.x m.y else s)

/-- Set a run of storage to zero, and take its lines out of the poison marks. -/
def State.zeroStorage (s : State) (a n : Nat) : State :=
  { s with mem := Sparse.eraseRange s.mem a n,
           poison := s.poison.filter fun l => !(decide (a / 64 ≤ l) && decide (l < (a + n) / 64)) }

/-- PAGE_CLEAR: a freed page is cleared (R333): its scratch tiles, and its loft slices with their generations. -/
def execPageClear (die : DieId) (page : Fin 256) (s : State) : Out :=
  let d := die.val
  let k := page.val
  .next (if s.page d k != .dirty then s
    else
      let s1 := (List.range 2).foldl (fun s t => s.zeroStorage (tilePlace d (2 * k + t) 0) 131072) s
      let s2 := (pageSlices k).foldl (fun s c =>
        let a := loftPlace d (c * 2 ^ 21)
        { s.zeroStorage a (2 ^ 21) with
          loftGen := Sparse.eraseRange s.loftGen (a / 64) 32768, loftKey := Sparse.eraseRange s.loftKey (a / 64) 32768 }) s1
      s2.setPages d [k] .free)

end Sys2Proof.Machine
end

