-- ==== Sys2Proof/Machine/Copies.lean ====
section
/-!
DEFINITION. Copies at work (R103, R109 to R113, R132, R427): where their bytes lie, moving them up to a granule, and
COPY_COMPLETE and COPY_FAULT.
-/

namespace Sys2Proof.Machine

/-- The task a copy acts for, as the checks of accesses need it. -/
def Copy.task (c : Copy) : Task := ⟨c.part, c.ctx, 0, 0, 0, 0, c.graph, c.load, 0, 0, c.clustered, c.owner, 0, 0⟩

/-- A fault of a copy's access with its address. -/
def Stop.ofChk (a : Nat) : Chk → Stop
  | .ok _ => .wait 0
  | .wait c => .wait c
  | .away p => .away p
  | .miss v => .miss v
  | .trap c _ => .fault c (BitVec.ofNat 64 a) a false

/-- Where a byte of a copy lies. -/
def State.copyLoc (s : State) (core : Nat) (c : Copy) (a : Nat) (kind : AccKind) : Except Stop Loc :=
  let t := c.task
  let plain (r : Chk) : Except Stop Loc := match r with | .ok p => .ok (.place p) | x => .error (.ofChk a x)
  if windowOf a != .translated || decide (Config.cpCore ≤ core) then plain (s.checkAccess core t (BitVec.ofNat 64 a) 1 1 kind)
  else
    match s.cached t.part t.ctx a with
    | none => .error (.miss a)
    | some e =>
      if !rightsOk e.leaf kind then .error (.ofChk a (.trap cProtection 0))
      else if pteKind e.leaf != 0 then
        if s.pathHeld core (placeOf t.part (pteAddr e.leaf)) then .error (.wait wLinkRetrain)
        else .ok (.image e.leaf e.va (a - e.va))
      else plain (s.linkChk core (s.leafRest t a (pteAddr e.leaf + (a - e.va)) e.leaf kind))

/-- The copy covers the whole aligned stretch of byte k on both sides (R103). -/
def Copy.whole (c : Copy) (k : Nat) : Bool :=
  let o := (c.src.toNat + k) % 2 ^ 19
  decide (o ≤ k) && decide (k - o + 2 ^ 19 ≤ c.n) && (c.dst.toNat + k) % 2 ^ 19 == o

/-- Place of byte j of the slot of a block of a compressed page. -/
def State.slotByte (s : State) (t : Task) (e : BitVec 128) (va off j : Nat) (kind : AccKind) : Except Stop Nat :=
  match s.leafRest t (va + off) (slotAt t.part e off % 2 ^ 48 + j) e kind with
  | .ok p => .ok p
  | x => .error (.ofChk (va + off) x)

/-- Bytes that byte k of a copy moves, as pairs of places: itself; in a compressed page its share of the slot, and with
the last byte of a stretch the sidecar line (R103). A line of the source whose stamp is not its page's kind and class is
ALIAS_KIND before a byte of the stretch moves (R107, R342; log 64). -/
def State.copyPairs (s : State) (core : Nat) (c : Copy) (k : Nat) : Except Stop (List (Nat × Nat)) :=
  let a := (c.src + BitVec.ofNat 64 k).toNat
  let b := (c.dst + BitVec.ofNat 64 k).toNat
  let bad (x : Nat) : Except Stop (List (Nat × Nat)) := .error (.ofChk x (.trap cProtection 0))
  match s.copyLoc core c a .load with
  | .error f => .error f
  | .ok x =>
    match s.copyLoc core c b .store with
    | .error f => .error f
    | .ok y =>
      match x, y with
      | .place p, .place q => .ok [(p, q)]
      | .image e va o, .image e2 va2 o2 =>
        let line := lineAt c.part e o
        if pteKind e != pteKind e2 || pteClass e != pteClass e2 || !c.whole k then bad a
        else if o % 2 ^ 19 = 0 && !lineStamped (BitVec.ofNat 1024 (s.natAt line 128)) e then
          .error (.fault cAliasKind (paOf line) a false)
        else
          let r := 8 / 2 ^ (pteClass e).toNat
          let last := if o % 2 ^ 19 = 2 ^ 19 - 1 then
            (List.range 128).map fun i => (lineAt c.part e o + i, lineAt c.part e2 o2 + i) else []
          if o % r != 0 then .ok last
          else
            match s.slotByte c.task e va o (o % 4096 / r) .load, s.slotByte c.task e2 va2 o2 (o2 % 4096 / r) .store with
            | .ok p, .ok q => .ok ((p, q) :: last)
            | .error f, _ => .error f
            | _, .error f => .error f
      | .image _ _ _, _ => bad a
      | _, .image _ _ _ => bad b
      | _, _ => .ok []

/-- One byte a copy moves: its number in the copy, its places, its value, and whether its line is poisoned. -/
structure Moved where
  k : Nat
  src : Nat
  dst : Nat
  val : Byte
  bad : Bool
  deriving DecidableEq, Repr

/-- Bytes of a copy from byte k on, up to the first that stops; used: the host's bytes used so far. -/
def State.copyScan (s : State) (core : Nat) (c : Copy) : Nat → Nat → Nat → List Moved × Option (Nat × Stop)
  | 0, _, _ => ([], none)
  | n + 1, k, used =>
    match s.copyPairs core c k with
    | .error f => ([], some (k, f))
    | .ok ps =>
      let host := match ps with | (p, _) :: _ => decide (hostMark ≤ p) | [] => false
      if host && decide (c.got.length ≤ used) then
        let p := (ps.headD (0, 0)).1
        ([], some (k, .ask p (min (n + 1) (min (512 - k % 512) (2 ^ 19 - p % 2 ^ 19)))))
      else
        let val (p : Nat) : Byte := if host then nthByte c.got used else (Sparse.find c.kept p).getD (s.seenByte p)
        let ms := ps.map fun x => (⟨k, x.1, x.2, val x.1, !host && s.poisoned x.1 1⟩ : Moved)
        let r := s.copyScan core c n (k + 1) (if host then used + 1 else used)
        (ms ++ r.1, r.2)

/-- Runs of bytes at consecutive places. -/
def runsOf : List (Nat × Byte) → List (Nat × List Byte)
  | [] => []
  | (p, b) :: rest =>
    match runsOf rest with
    | (q, bs) :: more => if q = p + 1 then (p, b :: bs) :: more else (p, [b]) :: (q, bs) :: more
    | [] => [(p, [b])]

/-- What a copy writes: its bytes, and a free value at every place where its source and destination overlap, whichever is
reached first (R109; log 7). -/
def State.copyValues (s : State) (c : Copy) (ms : List Moved) : List (Nat × Byte) :=
  let free (i : Nat) : Byte := Config.freeByte (s.turn + i)
  let own := ms.zipIdx.map fun e =>
    (e.1.dst, if ms.any (fun y => y.src == e.1.dst) || c.reads.contains e.1.dst then free e.2 else e.1.val)
  own ++ (ms.zipIdx.filter fun e => (Sparse.find c.kept e.1.src).isSome).map fun e => (e.1.src, free (ms.length + e.2))

/-- Write what a copy moves: bytes to the device, messages to the host, and poison marks (R138, R427). The tag of the
last message. -/
def State.moveBytes (s : State) (c : Copy) (ms : List Moved) : State × Nat :=
  let runs := runsOf (s.copyValues c ms)
  let s0 : State := { s with turn := s.turn + 2 * ms.length }
  let s1 := s0.yieldRows (ms.map fun m => ⟨m.src, 1, false⟩)
  let one (r : State × Nat) (x : Nat × List Byte) : State × Nat :=
    if hostMark ≤ x.1 then r.1.sendMem c.part mtDevWrite (BitVec.ofNat 96 (x.1 % 2 ^ 48)) x.2
    else
      ((r.1.yieldRun x.1 x.2.length).perfWrite x.1 x.2, r.2)
  let r := runs.foldl one (s1, 0)
  let marks := ms.filter fun m => m.bad && decide (m.dst < hostMark)
  (marks.foldl (fun s m => s.markPoison m.dst 1) r.1, r.2)

/-- The copy after it has moved bytes, up to byte g: it keeps what the places it has written held (R109). -/
def State.copyMoved (s : State) (c : Copy) (ms : List Moved) (g : Nat) : Copy :=
  let keep (m : Sparse Byte) (x : Moved) : Sparse Byte :=
    if (Sparse.find m x.dst).isSome || hostMark ≤ x.dst then m else m.set x.dst (s.seenByte x.dst)
  { c with off := g, msg := 0, got := [], reads := c.reads ++ ms.map (fun x => x.src), kept := ms.foldl keep c.kept }

/-- A copy of a core. -/
def State.copy (s : State) (core slot : Nat) : Option Copy := Sparse.find (s.core core).copies slot

/-- Put a copy of a core. -/
def State.setCopy (s : State) (core slot : Nat) (c : Copy) : State :=
  s.setCore core { s.core core with copies := (s.core core).copies.set slot c }

/-- Change a copy of a core. -/
def State.mapCopy (s : State) (core slot : Nat) (f : Copy → Copy) : State :=
  match s.copy core slot with
  | some x => s.setCopy core slot (f x)
  | none => s

/-- A copy's slot is free again (R109). -/
def State.dropCopy (s : State) (core slot : Nat) : State :=
  s.setCore core { s.core core with copies := Sparse.erase (s.core core).copies slot }

/-- An older engine of the task holds the copy back (R337). -/
def State.copyHeld (s : State) (core : Nat) (c : Copy) : Bool :=
  let src := [lineRange c.src.toNat c.n]
  let dst := [lineRange c.dst.toNat c.n]
  match (s.bank core).task with
  | some t => t.serial == c.owner && (s.boardHolds core c.task c.order src false || s.boardHolds core c.task c.order dst true)
  | none => false

/-- Agents of fault records under a new name. -/
def State.renameAgent (s : State) (old new : Agent) : State :=
  let name (a : Agent) : Agent := if a == old then new else a
  { s with parts := s.parts.map fun p =>
      (p.1, { p.2 with records := p.2.records.map fun r => { r with agents := r.agents.map name } }) }

/-- A copy takes another slot. -/
def State.moveSlot (s : State) (core k j : Nat) (c : Copy) : State :=
  ((s.dropCopy core k).setCopy core j c).renameAgent (.copy core k) (.copy core j)

/-- Saved copies whose task is not switched out go on, as far as the core's slots are free; the others follow as slots
become free (R109, R113). Saved copies have numbers from 512 up. -/
def State.seatCopies (s : State) (core : Nat) : State :=
  let away (n : Nat) : Bool := ((s.contexts core).drop 1).any fun c => c.isChain n
  let mine := (s.core core).copies.filter fun e => decide (512 ≤ e.1) && !away e.2.owner
  if (s.core core).swapping then s
  else
    mine.foldl (fun s e =>
      match (List.range Config.copySlots).find? fun j => (Sparse.find (s.core core).copies j).isNone with
      | some j => s.moveSlot core e.1 j { e.2 with st := if e.2.st == .faulted then .faulted else .moving }
      | none => s) s

/-- The copy is credited or signalled, once, for its full count; its task's core wakes (R110, R111, R222). -/
def State.finishCopy (s : State) (core slot : Nat) (c : Copy) : State :=
  let s1 := ((s.creditCopy c).dropCopy core slot).seatCopies core
  if (s1.bank core).isChain c.owner then s1.wakeCore core else s1

/-- The completion word's scratchpad bank is not at home (R354). -/
def State.wordAway (s : State) (c : Copy) : Bool := isSpad c.word && s.bankForeign (spadCore c.word) (c.word % 2 ^ 22)

/-- COPY_COMPLETE: the copy moves what is left of its count, and completes when what it sent to the host is
acknowledged; a missing translation is walked for. -/
def execCopyComplete (core : CoreId) (slot : Fin 512) (s : State) : Out :=
  let k := core.val
  .next (match s.copy k slot.val with
    | none => s
    | some c =>
      if c.st != .moving || c.fault.isSome || s.copyHeld k c then s
      else if s.wordAway c then s.touch c.word
      else if c.off = c.n then (if s.answered c.part c.msg then s.finishCopy k slot.val c else s)
      else
        match s.copyScan k c (c.n - c.off) c.off 0 with
        | (ms, none) =>
          let r := s.moveBytes c ms
          if r.2 = 0 then r.1.finishCopy k slot.val c else r.1.setCopy k slot.val { c with off := c.n, msg := r.2, got := [] }
        | (_, some (_, .miss va)) =>
          (s.needWalk c.part c.ctx va (if c.src.toNat ≤ va && va < c.src.toNat + c.n then .load else .store)
            (.copy k slot.val)).setCopy k slot.val { c with missed := BitVec.ofNat 64 va }
        | (_, some (_, .ask p n)) =>
          if c.msg != 0 then s
          else
            let r := s.sendMem c.part mtDevRead (BitVec.ofNat 96 (p % 2 ^ 48 + n * 2 ^ 64)) []
            r.1.setCopy k slot.val { c with msg := r.2 }
        | (_, some (_, .away p)) => s.touch p
        | _ => s)

/-- The copy moves bytes up to byte lim of its count, or to the last granule before what stops it (R112, R113). -/
def State.advanceCopy (s : State) (core slot lim : Nat) : State :=
  match s.copy core slot with
  | none => s
  | some c =>
    if c.off = c.n then s
    else
      let r := s.copyScan core c (lim - c.off) c.off 0
      let stop := match r.2 with | some x => min lim x.1 | none => lim
      let g := max c.off (stop / 512 * 512)
      let ms := r.1.filter fun m => decide (m.k < g)
      (s.moveBytes c ms).1.setCopy core slot (s.copyMoved c ms g)

/-- An asynchronous trap reaches a task chain, wherever its core keeps it (R344, R360). -/
def State.pushChain (s : State) (core chain : Nat) (a : Async) : State :=
  s.mapChain core chain fun c => { c.wake with asyncs := c.asyncs ++ [a] }

/-- A copy is cancelled by a fatal fault: it is never credited, and its task takes the trap (R112, R344). -/
def State.cancelCopy (s : State) (core slot cause : Nat) (info : Word) : State :=
  match s.copy core slot with
  | none => s
  | some c =>
    ((s.dropCopy core slot).seatCopies core).pushChain core c.owner
      ⟨BitVec.ofNat 8 cause, false, 0, true, info, cause == cMachineCheck⟩

/-- COPY_FAULT: a copy meets a fault that needs no answer of the driver; whole granules before it are written, and the
copy is cancelled. A fault the driver must answer is found by the page walk (R386). -/
def execCopyFault (core : CoreId) (slot : Fin 512) (s : State) : Out :=
  let k := core.val
  .next (match s.copy k slot.val with
    | none => s
    | some c =>
      if c.st != .moving || s.copyHeld k c then s
      else
        match c.fault with
        | some (cause, info) => (s.advanceCopy k slot.val c.n).cancelCopy k slot.val cause info
        | none =>
          match (s.copyScan k c (c.n - c.off) c.off 0).2 with
          | some (_, .fault cause info _ _) => (s.advanceCopy k slot.val c.n).cancelCopy k slot.val cause info
          | _ => s)

end Sys2Proof.Machine
end

