-- ==== Sys2Proof/Machine/Journal.lean ====
section
/-!
DEFINITION. The journal of the command processor: its records, the write-ahead order of a batch, and what a take-over does
with it (R339, R340, R395). What the scheduling steps change they write here first (log 69).
-/

namespace Sys2Proof.Machine

/-- A record of a batch: KIND, the entry it names, its queue or die, and the entry's new value (R339, R395). -/
structure JRec where
  kind : Nat
  tag : Nat
  index : Nat
  value : Nat
  deriving DecidableEq, Repr

/-- QREAD: the new RD of a queue. -/
def JRec.qread (q : Nat) (rd : BitVec 32) : JRec := ⟨1, q, q, rd.toNat⟩

/-- Code of a graph's state in GSTATE (R395). -/
def GraphSt.code : GraphSt → Nat
  | .waiting => 0
  | .ready => 1
  | .running => 2
  | .completing => 3
  | .done => 4
  | .discarded => 5

/-- GSTATE: a graph's state and its k, with its queue. -/
def JRec.gstate (no : Nat) (g : Graph) : JRec := ⟨2, g.queue, no, g.st.code + g.k * 2 ^ 8⟩

/-- COUNTER: a counter, or a barrier object with its second doubleword behind the first. -/
def JRec.counter (i v : Nat) : JRec := ⟨3, 0, i, v⟩

/-- PLACE: the task now placed on a core with the quota reserved, or none and the quota returned; how its payload holds them
is not stated, so the doubleword is a free value (log 69). -/
def JRec.place (core : Nat) (task : Option Nat) (quota : Nat) : JRec :=
  ⟨4, core / 32, core, (Config.placeWord core task quota).toNat⟩

/-- COMMIT: ends a batch. -/
def JRec.commit : JRec := ⟨5, 0, 0, 0⟩

/-- The 32 bytes of a record. -/
def JRec.bytes (r : JRec) : List Byte := bytesOf (r.kind + r.tag % 2 ^ 16 * 2 ^ 16 + r.index % 2 ^ 32 * 2 ^ 32 + r.value * 2 ^ 64) 32

/-- Place of slot i of the ring: one ring serves the device. -/
def jSlot (i : Nat) : Nat := fwPlace 0 (0x100000 + 32 * (i % Config.journalRecords))

/-- Place of the standby cursor. -/
def jCursor : Nat := fwPlace 0 0x110000

/-- The standby cursor (R394). -/
def State.cursor (s : State) : Nat := s.natAt jCursor 8 % Config.journalRecords

/-- Records are written to the ring, one after another. -/
def State.putRecs (s : State) (i : Nat) : List JRec → State
  | [] => s
  | r :: rs => (s.write (jSlot i) r.bytes).putRecs (i + 1) rs

/-- Some command-processor core serves: it is active and has cleared TAKE (R340, R397). -/
def State.cpServes (s : State) : Bool :=
  (List.range 2).any fun k => Sparse.get Role.out s.roles k == .active && !Sparse.get false s.take k

/-- The command-processor core k is the standby and runs the model's own firmware, not a program placed on it. -/
def State.followsAs (s : State) (k : Nat) : Bool :=
  Sparse.get Role.out s.roles k == .standby && (s.bank (Config.cpCore + k)).task.isNone

/-- The oldest record still needed: the standby cursor, or JHEAD where there is no standby (R395). -/
def State.tailFor (s : State) : Nat :=
  if (List.range 2).any fun k => Sparse.get Role.out s.roles k == .standby then s.cursor else s.jhead.toNat

/-- The ring has room for n records: it never holds more than 2 047 beyond JTAIL (R395). -/
def State.ringRoom (s : State) (n : Nat) : Bool :=
  decide ((s.jhead.toNat + Config.journalRecords - s.tailFor) % Config.journalRecords + n < Config.journalRecords)

/-- A standby on the model's own firmware has applied every committed record: it publishes its cursor. -/
def State.follow (s : State) : State :=
  if (List.range 2).any s.followsAs then s.write jCursor (bytesOf s.jhead.toNat 8) else s

/-- A batch of changes is journalled before any effect of it leaves the command processor: the records, COMMIT, JHEAD
(R339, R395). None where no core serves or the ring has no room: the change waits. -/
def State.batch (s : State) (rs : List JRec) : Option State :=
  if s.cpServes && s.ringRoom (rs.length + 1) then
    let s1 : State := { s with jtail := BitVec.ofNat 11 s.tailFor }
    let s2 := s1.putRecs s.jhead.toNat (rs ++ [.commit])
    some (({ s2 with jhead := BitVec.ofNat 11 (s.jhead.toNat + rs.length + 1) } : State).follow)
  else none

/-! ### Take-over (R340) -/

/-- The record in slot i of the ring. -/
def State.jRec (s : State) (i : Nat) : JRec :=
  let w := s.natAt (jSlot i) 32
  ⟨w % 2 ^ 8, w / 2 ^ 16 % 2 ^ 16, w / 2 ^ 32 % 2 ^ 32, w / 2 ^ 64⟩

/-- The slots from i on below JHEAD. -/
def State.jBelow (s : State) (i : Nat) : List Nat :=
  (List.range ((s.jhead.toNat + Config.journalRecords - i) % Config.journalRecords)).map fun k => (i + k) % Config.journalRecords

/-- How many of the records at some slots are committed: those up to the last COMMIT. -/
def State.committed (s : State) (l : List Nat) : Nat :=
  (l.zipIdx.filter fun x => (s.jRec x.1).kind == 5).foldl (fun _ x => x.2 + 1) 0

/-- Apply one record to the tables (R340). Its queue, graph or counter is that of the partition served. -/
def State.applyRec (s : State) (part : Nat) (r : JRec) : State :=
  match r.kind with
  | 1 => s.setQueue part (r.index % 512) { s.queue part (r.index % 512) with rd := BitVec.ofNat 32 r.value }
  | 2 =>
    match Sparse.find s.graphs r.index with
    | none => s
    | some g =>
      let st : GraphSt := match r.value % 8 with
        | 0 => .waiting | 1 => .ready | 2 => .running | 3 => .completing | 4 => .done | _ => .discarded
      { s with graphs := s.graphs.set r.index { g with st := st, k := r.value / 2 ^ 8 % 2 ^ 8 } }
  | 3 => { s with counters := s.counters.set (4096 * part + r.index % 4096) (BitVec.ofNat 64 r.value) }
  | _ => s

/-- What the new active core does on the model's own firmware before it clears TAKE: it applies the committed records it has
not applied yet, and drops later ones; JHEAD, JTAIL and its cursor stand behind the last COMMIT (R340). The core's
partition is that of the lowest number that exists (log 69). -/
def State.takeJournal (s : State) : State :=
  let l := s.jBelow s.cursor
  let n := s.committed l
  let part := ((List.range 12).find? fun p => (s.part p).live).getD 0
  let s1 := (l.take n).foldl (fun s i => s.applyRec part (s.jRec i)) s
  let e := (s.cursor + n) % Config.journalRecords
  ({ s1 with jhead := BitVec.ofNat 11 e, jtail := BitVec.ofNat 11 e } : State).write jCursor (bytesOf e 8)

end Sys2Proof.Machine
end

