-- ==== Sys2Proof/Machine/Host.lean ====
section
/-!
DEFINITION. The host link: accepting messages in sequence order (R363 to R365, R368), host reads and writes of memory
(R138, R365, R423), doorbells (R323, R341), acknowledgement and resynchronisation (R368, R374).
-/

namespace Sys2Proof.Machine

/-! ### Channels -/

/-- Queues of a partition (R369). -/
def State.queueCount (s : State) : Nat := if s.mode == 0 then 512 else if s.mode == 1 then 256 else 32

/-- The part of the device manager (R363). -/
def mgrPart : Nat := 0xFF

/-- A channel of the host port: a partition's, or the device manager's one (R364). -/
def State.hostChan (s : State) (part chan : Nat) : Bool :=
  if part = mgrPart then chan == ctlChan
  else !s.recovery && (s.part part).live && (decide (chan < s.queueCount) || chan == memChan || chan == ctlChan)

/-- Peer channel (R364). -/
def peerChan : Nat := 0xFFD

/-- The partition a peer port is granted to (R369). -/
def State.portHolder (s : State) (port : Nat) : Option Nat :=
  (List.range 12).find? fun p => (s.part p).live && (s.part p).ports.getLsbD port

/-- A channel of a peer port: the one of the partition it is granted to (R364, R371). -/
def State.peerChanOk (s : State) (port part chan : Nat) : Bool :=
  !s.recovery && s.portHolder port == some part && chan == peerChan

/-- Key of the channel a message travels on. -/
def msgKey (m : Msg) : Nat := if m.port.val < 8 then peerKey m.port.val else chanKey m.part.toNat m.chan.toNat

/-- TYPE codes of R365. -/
def knownType (t : Nat) : Bool :=
  (decide (1 ≤ t) && decide (t ≤ 0x0E)) || (decide (0x10 ≤ t) && decide (t ≤ 0x14)) || (decide (0x20 ≤ t) && decide (t ≤ 0x23))

/-- The message names a channel of its port and its length can be written in LEN (R363). -/
def State.hostOk (s : State) (m : Msg) : Bool :=
  (if m.port.val < 8 then s.peerChanOk m.port.val m.part.toNat m.chan.toNat else s.hostChan m.part.toNat m.chan.toNat)
    && decide (m.payload.length ≤ 8192)

/-- A message or frame is dropped and counted (R361, R363, R392). -/
def State.drop (s : State) : State := { s with dropped := s.dropped + 1 }

/-- ACK on a channel. -/
def State.sendAck (s : State) (k part chan : Nat) : State := s.sendPlain k part chan mtAck 0 []

/-- NAK with the expected number and a reason (R365). -/
def State.sendNak (s : State) (k part chan reason : Nat) : State :=
  s.sendPlain k part chan mtNak (BitVec.ofNat 96 ((s.chan k).expect.toNat + reason * 2 ^ 48)) []

/-- The ACK field of a received message (R363). -/
def State.takeAck (s : State) (k : Nat) (m : Msg) : State := if m.ackv then s.acked k m.ack else s

/-- After 64 accepted messages that no message has acknowledged an ACK goes out (R368). -/
def State.ackDue (s : State) (k part chan : Nat) : State :=
  let c := s.chan k
  if 64 ≤ (c.expect - c.told).toNat then s.sendAck k part chan else s

/-- A sequenced message on a channel (R368): accepted at E, a duplicate before it, a gap after it. One of a partition that is
being reset is answered by NAK reason 2 (R372). -/
def State.sequenced (s : State) (k part chan : Nat) (m : Msg) (body : State → State) : State :=
  let s1 := s.takeAck k m
  let c := s1.chan k
  if (s.part part).resetting.isSome then s1.sendNak k part chan 2
  else if m.seq = c.expect then (body (s1.setChan k { c with expect := c.expect + 1 })).ackDue k part chan
  else if seqBefore m.seq c.expect then s1.sendAck k part chan
  else s1.sendNak k part chan 1

/-- The fragments of an unfinished LOAD are given up when another message is accepted on the channel (R365). -/
def State.breakRun (s : State) (k : Nat) : State :=
  if (s.chan k).frag.isEmpty then s else s.setChan k { s.chan k with frag := [] }

/-- A sequenced message of the host or of a peer. -/
def State.receive (s : State) (m : Msg) (body : State → State) : State :=
  if s.hostOk m then s.sequenced (msgKey m) m.part.toNat m.chan.toNat m fun s1 => body (s1.breakRun (msgKey m)) else s.drop

/-- A message without number of the host or of a peer; in recovery it is dropped (R392). -/
def State.receivePlain (s : State) (m : Msg) (body : State → State) : State :=
  if s.hostOk m && !s.recovery then body (s.takeAck (msgKey m) m) else s.drop

/-- EVENT kind 5 for an accepted message of a type its channel does not allow (R365). -/
def State.refuseMsg (s : State) (m : Msg) (type : BitVec 8) : State :=
  s.event m.part.toNat 5
    (bytesOf m.chan.toNat 2 ++ [type] ++ bytesOf 0 5 ++ bytesOf m.seq.toNat 6 ++ bytesOf 0 2)

/-- In recovery the device manager's channel takes nothing but a firmware image: other messages are dropped (R392). -/
def State.receiveNormal (s : State) (m : Msg) (body : State → State) : State :=
  if s.recovery then s.drop else s.receive m body

/-- MESSAGE_REFUSED: a message of a type its direction or channel does not allow; one of an unknown type is dropped (R363). -/
def execMessageRefused (type : BitVec 8) (m : Msg) (s : State) : Out :=
  .next (if !knownType type.toNat then s.drop else s.receiveNormal m fun s => s.refuseMsg m type)

/-! ### Frames (R361 to R363; log 37) -/

/-- The UDP port that a port of the device takes: 27 218 unless it was set at device reset (R361). -/
def State.udpOf (s : State) (port : Nat) : BitVec 16 :=
  match Sparse.find s.udp port with
  | some x => x
  | none => 27218

/-- The frame uses nothing that the device does not support (R361). -/
def frameSupported (f : EthFrame) : Bool :=
  !f.pause && decide (f.tags ≤ 1) && decide (f.len ≤ 9216) && !f.extra && !f.fragment && ((!f.v6 && f.sum == 0) || f.sumGood)

/-- Key of a receive association of a port in State.macsec (R362, R367). -/
def rxKeyOf (port an : Nat) : Nat := (4 * port + an) * 2

/-- MACsec is enabled on a port: it holds a receive key (log 37). -/
def State.macsecOn (s : State) (port : Nat) : Bool :=
  (List.range 4).any fun an => (Sparse.find s.macsec (rxKeyOf port an)).isSome

/-- The frame has a SecTAG of an association installed, a valid ICV, and a packet number not seen before, or MACsec is not
enabled and it has none (R362). -/
def State.secOk (s : State) (port : Nat) (f : EthFrame) : Bool :=
  match f.sec with
  | none => !s.macsecOn port
  | some t =>
    match Sparse.find s.macsec (rxKeyOf port t.an.toNat) with
    | none => false
    | some key => Config.icvValid key t.an.toNat t.pn f.data t.icv && decide (Sparse.get 0 s.macPn (4 * port + t.an.toNat) ≤ t.pn)

/-- Bits of the 32-byte header of a datagram (R363). -/
def headerBits (data : List Byte) (lo n : Nat) : Nat := natOf (data.take 32) / 2 ^ lo % 2 ^ n

/-- The header of a datagram that came by a port is one of R363: reserved bits zero, a TYPE of R365, VER 1, LEN as the datagram
has it, a PART and CHAN that name something. -/
def State.headerOk (s : State) (port : Fin 9) (data : List Byte) : Bool :=
  let m : Msg := { part := BitVec.ofNat 8 (headerBits data 136 8), chan := BitVec.ofNat 12 (headerBits data 124 12), seq := 0, ack := 0,
                   ackv := false, rst := false, arg := 0, payload := data.drop 32, port := port }
  decide (32 ≤ data.length) && headerBits data 96 14 == 0 && knownType (headerBits data 116 8) && headerBits data 112 4 == 1
    && headerBits data 144 16 == data.length - 32 && s.hostOk m

/-- The packet number of an accepted frame is spent (R362). -/
def State.spendPn (s : State) (port : Nat) (f : EthFrame) : State :=
  match f.sec with
  | some t => { s with macPn := s.macPn.set (4 * port + t.an.toNat) (t.pn + 1) }
  | none => s

/-- FRAME_DROPPED: a frame of the host port or a peer port that uses an unsupported part, fails MACsec or carries a malformed
header is dropped and counted (R361 to R363). The message of any other frame comes as the message's own step. -/
def execFrameDropped (f : EthFrame) (s : State) : Out :=
  let port := f.port.val
  let good := frameSupported f && f.dport == s.udpOf port && s.secOk port f
  .next (if !good then s.drop
    else if s.headerOk f.port f.data then s.spendPn port f else (s.spendPn port f).drop)

/-! ### Memory as the host reaches it (R138, R379; log 37) -/

/-- What a partition-physical address of a host message reaches. -/
inductive HostLoc where
  | memory (place : Nat)
  | status (off : Nat)
  | counter (i k : Nat)
  | barrier (i k : Nat)
  | nowhere
  deriving DecidableEq, Repr

/-- Where an address leads: the tables the switch die keeps in the partition's memory first. -/
def State.hostLoc (s : State) (part a : Nat) : HostLoc :=
  let at' (base n : Nat) : Bool := decide (base ≤ a) && decide (a < base + n)
  if at' (Config.statusTable part) 0x4000 then .status (a - Config.statusTable part)
  else if at' (Config.counterTable part) 32768 then
    .counter ((a - Config.counterTable part) / 8) ((a - Config.counterTable part) % 8)
  else if at' (Config.barrierTable part) 4096 then
    .barrier ((a - Config.barrierTable part) / 16) ((a - Config.barrierTable part) % 16)
  else if at' (Config.saveRegion part) (131072 * Config.computeCores) then .memory (savePlace part (a - Config.saveRegion part))
  else if (s.part part).populated a then .memory (placeOf part a)
  else .nowhere

/-- Completion counter i of a partition (R326). -/
def State.counter (s : State) (part i : Nat) : Word := Sparse.get 0 s.counters (4096 * part + i)

/-- Queue barrier object i of a partition (R326). -/
def State.barrier (s : State) (part i : Nat) : BitVec 128 := Sparse.get 0 s.barriers (256 * part + i)

/-- One byte of a number replaced. -/
def setByteOf (v k : Nat) (b : Byte) : Nat := v - v / 256 ^ k % 256 * 256 ^ k + b.toNat * 256 ^ k

/-- A byte as a READ_RESP gives it: zero from a poisoned line (R423); of an unpopulated address a free value. -/
def State.hostByte (s : State) (part a k : Nat) : Byte :=
  match s.hostLoc part a with
  | .memory p => if s.poisoned p 1 then 0 else s.byteAt p
  | .status off => byteOf (s.statusAt (off / 8 * 8)) (off % 8)
  | .counter i j => byteOf (s.counter part i).toNat j
  | .barrier i j => byteOf (s.barrier part i).toNat j
  | .nowhere => Config.freeByte (s.turn + k)

/-- Poisoned lines a host read meets are logged. -/
def State.hostPoison (s : State) (part a n : Nat) : State :=
  let places := (List.range n).filterMap fun k => match s.hostLoc part (a + k) with | .memory p => some p | _ => none
  let lines := ((places.filter fun p => s.poisoned p 1).map fun p => p / 64).eraseDups
  lines.foldl (fun s l => s.logPoison part (64 * l)) s

/-- A byte of a counter or barrier object changes. -/
def State.hostTable (s : State) (part : Nat) (x : HostLoc × Byte) : State :=
  match x.1 with
  | .counter i j =>
    { s with counters := s.counters.set (4096 * part + i) (BitVec.ofNat 64 (setByteOf (s.counter part i).toNat j x.2)) }
  | .barrier i j =>
    { s with barriers := s.barriers.set (256 * part + i) (BitVec.ofNat 128 (setByteOf (s.barrier part i).toNat j x.2)) }
  | _ => s

/-- Bytes of a host write by where they go. -/
def State.hostCells (s : State) (part a : Nat) (bs : List Byte) : List (HostLoc × Byte) :=
  (List.range bs.length).map fun k => (s.hostLoc part (a + k), bs.getD k 0)

/-! ### Waiting graphs (R323, R326) -/

/-- Generation of a barrier object has reached v, as BWAIT tests it (R217). -/
def reached (o : BitVec 128) (v : BitVec 16) : Bool := decide ((BarObj.ofBits o.toNat).gen - v < 0x8000)

/-- A graph's wait condition (R324). -/
def State.condHolds (s : State) (g : Graph) : Bool :=
  if g.wkind == 1 then decide (g.wval.toNat ≤ (s.counter g.part g.widx).toNat)
  else if g.wkind == 2 then reached (s.barrier g.part g.widx) (g.wval.extractLsb' 0 16)
  else true

/-- A waiting graph becomes READY if its condition holds; its queue reads packets again (R323, R327). While its queue is
DISABLED it stays accepted: a condition seen true is not tested again, and the graph resumes at re-enabling (R326, R341).
The selector takes it up at the next boundary, or when a core or quota is freed (R329). The change is journalled first
(R339). -/
def State.testGraph (s : State) (k : Nat) : State :=
  match Sparse.find s.graphs k with
  | none => s
  | some g =>
    if g.st == .waiting && s.condHolds g then
      let q := s.queue g.part g.queue
      if q.st == .disabled then { s with graphs := s.graphs.set k { g with wkind := 0 } }
      else
        match s.batch [.gstate k { g with st := .ready, k := 0 }] with
        | none => s
        | some s0 =>
          let s1 := { s0 with graphs := s0.graphs.set k { g with st := .ready, k := 0 } }
          if q.st == .headWait then s1.setQueue g.part g.queue { q with st := .active } else s1
    else s

/-- Every waiting graph of a partition is tested again: a counter or barrier has changed, or its queue was kicked
(R326). -/
def State.testGraphs (s : State) (part : Nat) : State :=
  (s.graphs.filter fun e => e.2.part == part && e.2.st == .waiting).foldl (fun s e => s.testGraph e.1) s

/-- GRAPH_READY: the wait condition of a graph holds. -/
def execGraphReady (part : PartId) (graph : Nat) (s : State) : Out :=
  .next (match Sparse.find s.graphs graph with
    | some g => if g.part == part.val then s.testGraph graph else s
    | none => s)

/-! ### WRITE, READ_REQ, DOORBELL -/

/-- A host write performs (R138, R365): memory byte by byte with what a store brings about, counters and barrier objects;
the rest is not there. -/
def State.hostWrite (s : State) (part a : Nat) (bs : List Byte) : State :=
  let cells := s.hostCells part a bs
  let runs := runsOf (cells.filterMap fun x => match x.1 with | .memory p => some (p, x.2) | _ => none)
  let s1 := runs.foldl (fun s r => (s.yieldRows [⟨r.1, r.2.length, true⟩]).write r.1 r.2) s
  let tables := cells.filter fun x => match x.1 with | .counter _ _ => true | .barrier _ _ => true | _ => false
  if tables.isEmpty then s1 else (tables.foldl (fun s x => s.hostTable part x) s1).testGraphs part

/-- READ_RESP (R365). -/
def State.hostRead (s : State) (m : Msg) : State :=
  let part := m.part.toNat
  let a := (m.arg.extractLsb' 0 64).toNat
  let n := (m.arg.extractLsb' 64 16).toNat
  let bs := (List.range n).map fun k => s.hostByte part (a + k) k
  (({ s with turn := s.turn + n } : State).hostPoison part a n).emit part m.chan.toNat 0x03 (m.seq.zeroExtend 96) bs

/-- Bytes a host message names. -/
def msgSpan (m : Msg) (wr : Bool) : Nat × Nat :=
  ((m.arg.extractLsb' 0 64).toNat, if wr then m.payload.length else (m.arg.extractLsb' 64 16).toNat)

/-- The message names a page that is being flipped (R375). -/
def State.namesFlip (s : State) (m : Msg) (wr : Bool) : Bool :=
  let x := msgSpan m wr
  s.flips.any fun f => f.part == m.part.toNat && f.st != .queued && decide (x.1 < f.page + f.size) && decide (f.page < x.1 + x.2)

/-! ### Peers' accesses (R371) -/

/-- Bytes a peer reads: memory alone. -/
def State.peerByte (s : State) (part a k : Nat) : Byte :=
  if (s.part part).populated a then (if s.poisoned (placeOf part a) 1 then 0 else s.byteAt (placeOf part a))
  else Config.freeByte (s.turn + k)

/-- Poisoned lines a peer's read meets are logged (R423). -/
def State.peerPoison (s : State) (part a n : Nat) : State :=
  let places := ((List.range n).filter fun k => (s.part part).populated (a + k)).map fun k => placeOf part (a + k)
  let lines := ((places.filter fun p => s.poisoned p 1).map fun p => p / 64).eraseDups
  lines.foldl (fun s l => s.logPoison part (64 * l)) s

/-- A peer's write performs: memory alone. -/
def State.peerWrite (s : State) (m : Msg) : State :=
  let p := m.part.toNat
  let a := (msgSpan m true).1
  let cells := (List.range m.payload.length).filterMap fun k =>
    if (s.part p).populated (a + k) then some (placeOf p (a + k), m.payload.getD k 0) else none
  (runsOf cells).foldl (fun s r => (s.yieldRows [⟨r.1, r.2.length, true⟩]).write r.1 r.2) s

/-- A peer's read: the bytes go back as PEER_READ_RESP with the SEQ of the request; poisoned lines read as zero and are
logged. -/
def State.peerRead (s : State) (m : Msg) : State :=
  let p := m.part.toNat
  let x := msgSpan m false
  let bs := (List.range x.2).map fun k => s.peerByte p (x.1 + k) k
  if x.2 = 0 || 8192 < x.2 then s
  else
    let s1 := ({ s with turn := s.turn + x.2 } : State).peerPoison p x.1 x.2
    s1.sendSeq (peerKey m.port.val) p peerChan 0x22 (m.seq.zeroExtend 96) bs 0

/-! ### Accesses that run, or are held at the port -/

/-- An access to the HBM4 of a partition ends its self-refresh (R411). -/
def State.wakeHbm (s : State) (part a n : Nat) : State :=
  if n != 0 && (decide (a < 0x010000000000) || isDirect (placeOf part a)) then
    { s with selfRefresh := s.selfRefresh &&& ~~~((1 : BitVec 12) <<< part) }
  else s

/-- An access of the host or of a peer that is not held runs. -/
def State.hostAccess (s0 : State) (m : Msg) (wr : Bool) : State :=
  let x := msgSpan m wr
  let s := if s0.selfRefresh == 0 then s0 else s0.wakeHbm m.part.toNat x.1 x.2
  if m.port.val < 8 then (if wr then s.peerWrite m else s.peerRead m)
  else if wr then s.hostWrite m.part.toNat x.1 m.payload else s.hostRead m

/-- The host writes a page back that it was asked to flush (R375). -/
def State.writesBack (s : State) (m : Msg) : Bool :=
  let x := msgSpan m true
  m.chan.toNat == memChan && (s.flips.filter fun f => f.part == m.part.toNat && f.st != .queued
    && decide (x.1 < f.page + f.size) && decide (f.page < x.1 + x.2)).all fun f => f.st == .flushing

/-- A place the message names lies behind a retraining link (R377). -/
def State.behindLink (s : State) (m : Msg) (wr : Bool) : Bool :=
  let x := msgSpan m wr
  !s.links.isEmpty && (List.range x.2).any fun k =>
    match s.hostLoc m.part.toNat (x.1 + k) with
    | .memory p => s.farHeld p
    | _ => false

/-- A checkpoint command copies the memory of the message's partition (R417). -/
def State.copying (s : State) (part : Nat) : Bool := (s.ckState == 1 || s.ckState == 2) && s.ckMask.getLsbD part

/-- A message is held at its port: while a link on its way retrains (R377); a host's, while a page it names is being flipped, but
for the write-back of a page that is being flushed (R375), and while its partition's memory is copied (R417). -/
def State.hostHeld (s : State) (m : Msg) (wr : Bool) : Bool :=
  s.behindLink m wr
    || (decide (8 ≤ m.port.val) && (s.copying m.part.toNat || (s.namesFlip m wr && !(wr && s.writesBack m))))

/-- Held messages that nothing holds any more run, in order (R375). -/
def State.releaseHost (s : State) : State :=
  let go := s.heldHost.filter fun h => !s.hostHeld h.2 h.1
  let s1 : State := { s with heldHost := s.heldHost.filter fun h => s.hostHeld h.2 h.1 }
  go.foldl (fun s h => s.hostAccess h.2 h.1) s1

/-- An access runs after those released before it, or is held. -/
def State.hostOrHold (s : State) (m : Msg) (wr : Bool) : State :=
  if s.hostHeld m wr then { s with heldHost := s.heldHost ++ [(wr, m)] }
  else if s.heldHost.isEmpty then s.hostAccess m wr
  else s.releaseHost.hostAccess m wr

/-- A queue channel. -/
def State.onQueue (s : State) (m : Msg) : Bool := decide (m.part.toNat ≠ mgrPart) && decide (m.chan.toNat < s.queueCount)

/-- Offset in the register map of an access of the device manager (R406; log 37). -/
def regOff (m : Msg) : Nat := (m.arg.extractLsb' 0 64).toNat

/-- WRITE. On the device manager's channel it writes a power or health register. -/
def execWrite (m : Msg) (s : State) : Out :=
  .next (s.receiveNormal m fun s =>
    if m.part.toNat = mgrPart then
      if m.payload.length = 8 then s.regWrite (regOff m) (BitVec.ofNat 64 (natOf m.payload)) else s.refuseMsg m 0x01
    else if s.onQueue m || m.chan.toNat == memChan then s.hostOrHold m true
    else s.refuseMsg m 0x01)

/-- READ_REQ. -/
def execReadReq (m : Msg) (s : State) : Out :=
  let n := (msgSpan m false).2
  .next (s.receiveNormal m fun s =>
    if m.part.toNat = mgrPart then
      if n = 8 then
        (s.regSeen (regOff m)).emit mgrPart ctlChan 0x03 (m.seq.zeroExtend 96) (bytesOf (s.regRead (regOff m)).toNat 8)
      else s.refuseMsg m 0x02
    else if s.onQueue m && decide (1 ≤ n) && decide (n ≤ 8192) then s.hostOrHold m false
    else s.refuseMsg m 0x02)

/-- DOORBELL: WR and the KICK bit of the channel's queue, and a test of its waiting graph (R322, R326, R338); after a
partition fault it is accepted and discarded (R373). -/
def execDoorbell (m : Msg) (s : State) : Out :=
  .next (s.receiveNormal m fun s =>
    let p := m.part.toNat
    let q := m.chan.toNat
    if !s.onQueue m then s.refuseMsg m 0x04
    else if (s.part p).failed then s
    else (s.setQueue p q { s.queue p q with wr := m.arg.extractLsb' 0 32, kick := true }).testGraphs p)

/-! ### Acknowledgement and resynchronisation (R368, R374) -/

/-- ACK. -/
def execAck (m : Msg) (s : State) : Out := .next (s.receivePlain m fun s => s)

/-- NAK: what comes before the expected number has been accepted; the rest is sent again. -/
def execNak (m : Msg) (s : State) : Out :=
  .next (s.receivePlain m fun s => (s.acked (msgKey m) (m.arg.extractLsb' 0 48)).retransmit (msgKey m))

/-- The number of the oldest unacknowledged message. -/
def Chan.oldest (c : Chan) : BitVec 48 := match c.unacked with | x :: _ => x.seq | [] => c.next

/-- SYNC_REQ of the host: the answer, then what is unacknowledged again; a restarted host begins an unfinished LOAD
anew. -/
def execSyncReq (m : Msg) (s : State) : Out :=
  .next (s.receivePlain m fun s =>
    let s1 := if m.rst then s.breakRun (msgKey m) else s
    let c := s1.chan (msgKey m)
    (s1.sendPlain (msgKey m) m.part.toNat m.chan.toNat mtSyncResp ((c.next - 1) ++ (c.expect - 1)) (bytesOf c.oldest.toNat 6)).retransmit
      (msgKey m))

/-- Messages held back since a take-over are sent, in the order they were produced. -/
def State.releaseHeld (s : State) (part : Nat) : State :=
  let p := s.part part
  let s1 := s.setPart part { p with holding := false, heldMsgs := [] }
  p.heldMsgs.foldl (fun s x => s.sendSeq (chanKey part x.chan) part x.chan x.type x.arg x.payload 0) s1

/-- A channel of a partition: one of its own, or that of a peer port granted to it (R364). -/
def State.keyOf (s : State) (part k : Nat) : Bool :=
  if 2 ^ 20 ≤ k then s.portHolder (k - 2 ^ 20) == some part else k / 4096 == part

/-- SYNC_RESP of the host on the control channel after a take-over: every channel is sent again from its oldest message,
then the held messages go (R374). -/
def execSyncResp (m : Msg) (s : State) : Out :=
  .next (s.receivePlain m fun s =>
    let p := m.part.toNat
    if m.chan.toNat == ctlChan && (s.part p).holding && !(s.take.any fun e => e.2) then
      let keys := (s.chans.filter fun e => s.keyOf p e.1).map fun e => e.1
      (keys.foldl (fun s k => s.retransmit k) s).releaseHeld p
    else s)

/-- The channel a timer names and its partition: a host channel, or 0xFFD with the number of a peer port (log 37). -/
def State.timerKey (s : State) (part : BitVec 8) (chan : BitVec 12) : Option (Nat × Nat) :=
  if chan.toNat == peerChan then (s.portHolder part.toNat).map fun p => (peerKey part.toNat, p)
  else if s.hostChan part.toNat chan.toNat then some (chanKey part.toNat chan.toNat, part.toNat) else none

/-- ACK_TIMEOUT: the device acknowledges what it has accepted. -/
def execAckTimeout (part : BitVec 8) (chan : BitVec 12) (s : State) : Out :=
  .next (match s.timerKey part chan with
    | some (k, p) => s.sendAck k p chan.toNat
    | none => s)

/-- RETRANSMIT_TIMEOUT. -/
def execRetransmitTimeout (part : BitVec 8) (chan : BitVec 12) (s : State) : Out :=
  .next (match s.timerKey part chan with
    | some (k, _) => s.retransmit k
    | none => s)

/-! ### Answers on the memory channel (R138, R365) -/

/-- The access a message answers, by the number it knows the message by: bytes for an entry of a core. -/
def Entry.answer (tag : Nat) (bs : List Byte) (e : Entry) : Entry :=
  if e.msg == tag && tag != 0 then { e with msg := 0, got := e.got ++ bs } else e

/-- Bytes for a bank: its entries and its window fill. -/
def Context.answer (tag : Nat) (bs : List Byte) (c : Context) : Context :=
  let gen (g : Gen) : Gen := { g with streams := g.streams.map fun x => if x.msg == tag then { x with msg := 0, got := x.got ++ bs, wait := 0 } else x }
  let fill := c.fillMsg == tag
  { c with fly := c.fly.map (Entry.answer tag bs), rq := c.rq.map (Entry.answer tag bs), susp := c.susp.map (Entry.answer tag bs),
           gens := c.gens.map fun e => (e.1, gen e.2),
           fillMsg := if fill then 0 else c.fillMsg, fillData := if fill then c.fillData ++ bs else c.fillData,
           wait := if fill && c.wait.toNat == wRacking then 0 else c.wait }

/-- Bytes for a core: both banks and its copies. -/
def Core.answer (tag : Nat) (bs : List Byte) (k : Core) : Core :=
  { k with bank := k.bank.answer tag bs, other := k.other.answer tag bs,
           copies := k.copies.map fun e => (e.1, if e.2.msg == tag then { e.2 with msg := 0, got := e.2.got ++ bs } else e.2) }

/-- The latest message of a type that a partition's memory channel sent with a number: numbers begin again at a PRESET
(R372). -/
def State.asked (s : State) (type : BitVec 8) (part : Nat) (seq : BitVec 48) : Option OutMsg :=
  s.sent.reverse.find? fun x => x.type == type && x.part == part && x.chan == memChan && x.seq == seq && x.tag != 0

/-- DEV_READ_RESP: the bytes an access of a host-bias page asked for. -/
def execDevReadResp (m : Msg) (s : State) : Out :=
  .next (s.receiveNormal m fun s =>
    if m.part.toNat = mgrPart || m.chan.toNat != memChan then s.refuseMsg m 0x11
    else
      match s.asked mtDevRead m.part.toNat (m.arg.extractLsb' 0 48) with
      | none => s
      | some x =>
        { s with cores := s.cores.map fun e => (e.1, e.2.answer x.tag m.payload),
                 saved := s.saved.map fun e => (e.1, e.2.map fun c => c.answer x.tag m.payload) })

end Sys2Proof.Machine
end

