-- ==== Sys2Proof/Machine/Object.lean ====
section
/-!
DEFINITION. Code objects (R292 to R311): their sections, and the checks of the loader in the order of R314, each with the
record it reports.
-/

namespace Sys2Proof.Machine

/-! ### Bytes -/

/-- The n bytes at an offset as a number, the lowest first; bytes beyond the end read as zero. -/
def numAt (bs : List Byte) (off n : Nat) : Nat := ((bs.drop off).take n).foldr (fun b v => b.toNat + 256 * v) 0

/-- Words of eight bytes. -/
def wordsOf (bs : List Byte) : List Word := (List.range (bs.length / 8)).map fun k => BitVec.ofNat 64 (numAt bs (8 * k) 8)

/-- One bit of CRC-32 (log 35). -/
def crcBit (c : Half) : Half := if c.getLsbD 0 then (c >>> 1) ^^^ 0xEDB88320 else c >>> 1

/-- One byte of CRC-32. -/
def crcByte (c : Half) (b : Byte) : Half :=
  crcBit (crcBit (crcBit (crcBit (crcBit (crcBit (crcBit (crcBit (c ^^^ b.zeroExtend 32))))))))

/-- The running value over bytes, as a number; the match makes Lean's kernel compute it byte by byte. -/
def crcRun : List Byte → Nat → Nat
  | [], c => c
  | b :: bs, c =>
    match (crcByte (BitVec.ofNat 32 c) b).toNat with
    | 0 => crcRun bs 0
    | n + 1 => crcRun bs (n + 1)

/-- CRC-32 of IEEE 802.3 (R292; log 35). -/
def crc32 (bs : List Byte) : Half := ~~~(BitVec.ofNat 32 (crcRun bs 0xFFFFFFFF))

/-! ### Refusals (R314) -/

/-- A refusal: ERR, section-table index, block or strip, offset in the section. -/
structure LoadErr where
  err : Nat
  sec : Nat
  blk : Nat
  off : Nat
  deriving DecidableEq, Repr

/-- The 64-bit record (R314). -/
def LoadErr.word (e : LoadErr) : Nat := e.off % 2 ^ 32 * 2 ^ 32 + e.blk % 2 ^ 16 * 2 ^ 16 + e.sec % 256 * 256 + e.err

/-- The first failing check. -/
def firstErr : List (Option LoadErr) → Option LoadErr
  | [] => none
  | some e :: _ => some e
  | none :: xs => firstErr xs

/-- A refusal where a check fails. -/
def refuseIf (bad : Bool) (e : LoadErr) : Option LoadErr := if bad then some e else none

/-! ### Header and sections (R292, R293) -/

/-- A section-table entry with its index. -/
structure Section where
  idx : Nat
  kind : Nat
  req : Bool
  off : Nat
  size : Nat
  form : Bool
  deriving DecidableEq, Repr

/-- Header fields (R292). -/
def hLen (o : List Byte) : Nat := numAt o 24 4
/-- SECOFF -/
def hSecoff (o : List Byte) : Nat := numAt o 20 4
/-- NSEC -/
def hNsec (o : List Byte) : Nat := numAt o 18 2
/-- MMREV -/
def hMmrev (o : List Byte) : Nat := numAt o 16 1
/-- FSET -/
def hFset (o : List Byte) : Nat := numAt o 8 8
/-- FVER -/
def hFver (o : List Byte) : Nat := numAt o 6 2

/-- The section table. -/
def sectionsOf (o : List Byte) : List Section :=
  (List.range (min (hNsec o) 32)).map fun k =>
    let e := numAt o (hSecoff o + 16 * k) 16
    ⟨k, e % 2 ^ 16, e / 2 ^ 16 % 2 == 1, e / 2 ^ 64 % 2 ^ 32, e / 2 ^ 96 % 2 ^ 32, e / 2 ^ 17 % 2 ^ 47 == 0⟩

/-- The section of a kind the loader reads. -/
def sectionOf (o : List Byte) (kind : Nat) : Option Section := (sectionsOf o).find? fun x => x.kind == kind

/-- Bytes of a section. -/
def Section.bytes (x : Section) (o : List Byte) : List Byte := (o.drop x.off).take x.size

/-- Bytes of the section of a kind; none where the object has no such section. -/
def kindBytes (o : List Byte) (kind : Nat) : List Byte := match sectionOf o kind with | some x => x.bytes o | none => []

/-- Section-table index of a kind. -/
def kindIdx (o : List Byte) (kind : Nat) : Nat := match sectionOf o kind with | some x => x.idx | none => 0

/-- Reserved bits and fields of the header (R292). -/
def headerErr (o : List Byte) : Option LoadErr :=
  refuseIf (decide (o.length < 64) || numAt o 0 4 != 0x4F435A47 || numAt o 4 2 != 1 || numAt o 17 1 != 0
    || numAt o 32 32 != 0 || hLen o != o.length || hSecoff o % 16 != 0 || hNsec o == 0 || decide (32 < hNsec o)) ⟨1, 0, 0, 0⟩

/-- The CRC is computed with its field as zero (R292). -/
def checkErr (o : List Byte) : Option LoadErr :=
  refuseIf ((crc32 (o.take 28 ++ [0, 0, 0, 0] ++ o.drop 32)).toNat != numAt o 28 4) ⟨2, 0, 0, 0⟩

/-- Two byte ranges share a byte. -/
def sectionsMeet (a n b m : Nat) : Bool := n != 0 && m != 0 && decide (a < b + m) && decide (b < a + n)

/-- Records of the DATA section: offset of the record, address, bytes (R293); the offset of one that does not fit. -/
def dataRecords (bs : List Byte) : Nat → Nat → Except Nat (List (Nat × Nat × List Byte))
  | 0, _ => .ok []
  | fuel + 1, pos =>
    if bs.length ≤ pos then .ok []
    else
      let n := numAt bs (pos + 8) 8
      let len := 16 + (n + 7) / 8 * 8
      if bs.length < pos + len then .error pos
      else (dataRecords bs fuel (pos + len)).map fun r => (pos, numAt bs pos 8, (bs.drop (pos + 16)).take n) :: r

/-- A list that was read, or nothing. -/
def readOr {α : Type} : Except Nat (List α) → List α
  | .ok xs => xs
  | .error _ => []

/-- A refusal at the offset where reading stopped. -/
def refuseAt {α : Type} (r : Except Nat α) (e : Nat → LoadErr) : Option LoadErr :=
  match r with
  | .ok _ => none
  | .error pos => some (e pos)

/-- The DATA records of an object. -/
def dataOf (o : List Byte) : Except Nat (List (Nat × Nat × List Byte)) :=
  let bs := kindBytes o 2
  dataRecords bs bs.length 0

/-- The rules of R293. -/
def sectionErr (o : List Byte) : Option LoadErr :=
  let xs := sectionsOf o
  let table := 16 * hNsec o
  let e (k : Nat) : LoadErr := ⟨3, k, 0, 0⟩
  firstErr
    ([refuseIf (decide (hLen o < hSecoff o + table) || decide (hSecoff o < 64)) (e 0)]
      ++ xs.map (fun x => refuseIf (!x.form || x.off % 8 != 0 || decide (hLen o < x.off + x.size)
          || sectionsMeet x.off x.size 0 64 || sectionsMeet x.off x.size (hSecoff o) table
          || xs.any (fun y => y.idx != x.idx && sectionsMeet x.off x.size y.off y.size)
          || xs.any (fun y => decide (y.idx < x.idx) && y.kind == x.kind)
          || (x.req && !(decide (1 ≤ x.kind) && decide (x.kind ≤ 11)))
          || (x.kind == 1 && x.size % 128 != 0)) (e x.idx))
      ++ [refuseIf ((sectionOf o 1).isNone || (sectionOf o 3).isNone) (e 0),
          refuseAt (dataOf o) fun pos => ⟨3, kindIdx o 2, 0, pos⟩])

/-! ### Versions, features, errata (R295 to R299) -/

/-- Version checks of R295. -/
def versionErr (o : List Byte) : Option LoadErr :=
  firstErr [refuseIf (decide (hFver o < 0x100) || decide (0x200 < hFver o)) ⟨4, 0, 0, 0⟩,
    refuseIf (!(hMmrev o == 1 || (hMmrev o == 2 && hFver o == 0x200))) ⟨5, 0, 0, 0⟩]

/-- a is a subset of b, as masks of 64 bits. -/
def subMaskOf (a b : Nat) : Bool := (List.range 64).all fun k => a / 2 ^ k % 2 == 0 || b / 2 ^ k % 2 == 1

/-- A task-table entry from its number (R294). -/
def taskOf (e : Nat) : TaskEnt :=
  ⟨e / 2 ^ 192 % 2 ^ 64, e / 2 ^ 160 % 2 ^ 32, e / 2 ^ 128 % 2 ^ 32, e / 2 ^ 96 % 2 ^ 32, e / 2 ^ 64 % 2 ^ 16,
    e / 2 ^ 80 % 2 ^ 16, e / 2 ^ 48 % 2 ^ 16, e / 2 ^ 32 % 2 ^ 5⟩

/-- Numbers of the task-table entries. -/
def taskWords (o : List Byte) : List Nat :=
  let bs := kindBytes o 3
  (List.range (bs.length / 32)).map fun k => numAt bs (32 * k) 32

/-- The task table. -/
def tasksOf (o : List Byte) : List TaskEnt := (taskWords o).map taskOf

/-- Items with their positions. -/
def withPos {α : Type} (xs : List α) : List (Nat × α) := (List.range xs.length).zip xs

/-- Features defined at a version (R296). -/
def definedFeatures (fver : Nat) : Nat := if 0x200 ≤ fver then 0xFF else 0x55

/-- R296, and a task's FSET outside the object's. -/
def featureErr (o : List Byte) : Option LoadErr :=
  firstErr (refuseIf (!subMaskOf (hFset o) (definedFeatures (hFver o))) ⟨6, 0, 0, 0⟩
    :: (withPos (tasksOf o)).map fun e => refuseIf (!subMaskOf e.2.fset (hFset o)) ⟨6, kindIdx o 3, 0, 32 * e.1⟩)

/-- A task no die of the partition can run (R297), for the masks of its dies. -/
def unavailableErr (o : List Byte) (masks : List Nat) : Option LoadErr :=
  firstErr ((withPos (tasksOf o)).map fun e =>
    refuseIf (!masks.any fun m => subMaskOf e.2.fset m) ⟨7, kindIdx o 3, 0, 32 * e.1⟩)

/-- Identifiers of the ERRATA section; none where its count does not fit (R293). -/
def errataOf (o : List Byte) : Option (List Nat) :=
  match sectionOf o 10 with
  | none => some []
  | some x =>
    let bs := x.bytes o
    let n := numAt bs 0 4
    if bs.length < 4 + 2 * n || bs.length < 4 then none else some ((List.range n).map fun k => numAt bs (4 + 2 * k) 2)

/-- The compatibility mask of an object (R299). -/
def compatOf (ids : List Nat) : BitVec 2 := BitVec.ofBool (ids.contains 2) ++ BitVec.ofBool (ids.contains 1)

/-- R299: identifiers not kept or unknown, and an object that differs from its context. -/
def errataErr (o : List Byte) (kept : Option (BitVec 2)) : Option LoadErr :=
  match errataOf o with
  | none => some ⟨8, kindIdx o 10, 0, 0⟩
  | some ids =>
    firstErr ((withPos ids).map (fun e => refuseIf (e.2 != 1 && e.2 != 2) ⟨8, kindIdx o 10, 0, 4 + 2 * e.1⟩)
      ++ [refuseIf (match kept with | some m => m != compatOf ids | none => false) ⟨9, kindIdx o 10, 0, 0⟩])

/-! ### Sornen functions (R307 to R312) -/

/-- An operation from its two doublewords. -/
def sornenOpOf (a b : Nat) : SornenOp :=
  ⟨a / 2 ^ 56 % 256, a / 2 ^ 46 % 1024, a / 2 ^ 36 % 1024, a / 2 ^ 26 % 1024, a / 2 ^ 24 % 4, a / 2 ^ 23 % 2 == 1,
    a / 2 ^ 21 % 4, BitVec.ofNat 32 (b % 2 ^ 32)⟩

/-- Reserved bits of an operation are zero. -/
def sornenOpForm (a b : Nat) : Bool := a % 2 ^ 21 == 0 && b / 2 ^ 32 == 0

/-- Operation codes that produce a value (R309). -/
def sornenHasValue (sop : Nat) : Bool :=
  (2 ≤ sop && sop ≤ 0x11) || sop == 0x18 || sop == 0x20 || sop == 0x21 || sop == 0x28 || sop == 0x2A

/-- Operation codes without a value. -/
def sornenNoValue (sop : Nat) : Bool := sop == 0x19 || sop == 0x29 || sop == 0x30 || sop == 0x38

/-- Operands an operation uses: A and B. -/
def sornenUses (sop : Nat) : Bool × Bool :=
  if sop == 2 || sop == 0x28 || sop == 0x2A || sop == 0x38 then (false, false)
  else if sop == 3 || sop == 0x10 || sop == 0x18 || sop == 0x29 || sop == 0x30 then (true, false)
  else (true, true)

/-- An operand field names a value (R308, R311). -/
def operandOk (ops : List SornenOp) (k f : Nat) : Bool :=
  if f == 0x3FF then false
  else if f / 512 == 1 then f / 32 % 16 == 0 && decide (f % 32 < 24)
  else f / 128 % 4 == 0 && decide (f % 128 < k) && (match ops[f % 128]? with | some o => sornenHasValue o.sop | none => false)

/-- One operation of a strip keeps R308, R309 and R311. Bits of IMM that the operation does not use, and NEXT of a strip that is
no LOOP, are no reserved fields; an operand field the operation does not use must hold 0x3FF, no operand (DESIGN CHOICE,
log 74). -/
def SornenOp.ok (o : SornenOp) (ops : List SornenOp) (k : Nat) (loop : Bool) (nstr : Nat) : Bool :=
  let u := sornenUses o.sop
  let mem := o.sop == 0x18 || o.sop == 0x19
  (sornenHasValue o.sop || sornenNoValue o.sop)
    && (if u.1 then operandOk ops k o.a else o.a == 0x3FF) && (if u.2 then operandOk ops k o.b else o.b == 0x3FF)
    && o.pm != 3 && (if o.sop == 0x11 then o.pm == 0 && operandOk ops k o.p
        else if o.pm == 0 then o.p == 0x3FF else operandOk ops k o.p)
    && (mem || (o.lsz == 0 && !o.lsgn)) && ((o.sop != 0x28 && o.sop != 0x29 && o.sop != 0x2A) || loop)
    && (o.sop != 0x30 || decide (o.imm.toNat % 32 < 24))
    && (o.sop != 0x38 || o.imm == 0xFFFFFFFF || decide (o.imm.toNat < nstr))
    && !(loop && (mem || o.sop == 0x06 || o.sop == 0x38))

/-- What a strip's header says agrees with its operations (R308, R311, R312). -/
def SornenStrip.headOk (st : SornenStrip) (nstr : Nat) : Bool :=
  let sets := (st.ops.filter fun o => o.sop == 0x30).map fun o => o.imm.toNat % 32
  decide (1 ≤ st.ops.length) && decide (st.ops.length ≤ 128)
    && noRepeat sets && ((List.range 24).all fun i => st.smask.getLsbD i == sets.contains i)
    && st.nst == (st.ops.filter fun o => o.sop == 0x19).length
    && (if st.loop then st.w32 && (st.next == 0xFFFF || decide (st.next < nstr))
        else (match st.ops.getLast? with | some o => o.sop == 0x38 && o.pm == 0 | none => false))

/-- A strip as it was read: its position, the strip, and whether the reserved bits of its header and of each operation are
zero. -/
structure StripText where
  pos : Nat
  strip : SornenStrip
  form : Bool
  opForms : List Bool
  deriving DecidableEq, Repr

/-- A function as it was read: its position and bytes, the function, the form of its header, and its strips. -/
structure FunText where
  pos : Nat
  bytes : List Byte
  fn : SornenFun
  form : Bool
  strips : List StripText
  deriving DecidableEq, Repr

/-- The strip at a position. -/
def stripAt (bs : List Byte) (pos : Nat) : StripText :=
  let h := numAt bs pos 8
  let n := h / 2 ^ 56 % 256
  let op (k : Nat) : Nat × Nat := (numAt bs (pos + 8 + 16 * k) 8, numAt bs (pos + 16 + 16 * k) 8)
  let ops := (List.range n).map op
  ⟨pos, ⟨h % 2 == 1, h / 2 % 2 == 1, h / 2 ^ 8 % 2 ^ 16, BitVec.ofNat 24 (h / 2 ^ 32), h / 2 ^ 24 % 256,
      ops.map fun e => sornenOpOf e.1 e.2⟩,
    h / 4 % 64 == 0 && decide (pos + 8 + 16 * n ≤ bs.length), ops.map fun e => sornenOpForm e.1 e.2⟩

/-- The strips of a function from a position on, and the position after them. -/
def stripsAt (bs : List Byte) : Nat → Nat → List StripText × Nat
  | 0, pos => ([], pos)
  | n + 1, pos =>
    let r := stripAt bs pos
    let rest := stripsAt bs n (pos + 8 + 16 * r.strip.ops.length)
    (r :: rest.1, rest.2)

/-- Functions of the SORNEN section. -/
def sornenFuns (bs : List Byte) : Nat → Nat → List FunText
  | 0, _ => []
  | fuel + 1, pos =>
    if bs.length ≤ pos then []
    else
      let h := numAt bs pos 8
      let r := stripsAt bs (h % 2 ^ 16) (pos + 8)
      ⟨pos, (bs.drop pos).take (r.2 - pos),
        ⟨h / 2 ^ 16 % 2 ^ 16, h / 2 ^ 32 % 2 ^ 16, h / 2 ^ 48 % 2 == 1, r.1.map (·.strip)⟩,
        decide (pos + 8 ≤ bs.length) && h / 2 ^ 49 == 0 && decide (1 ≤ h % 2 ^ 16) && decide (h % 2 ^ 16 ≤ 1024),
        r.1⟩ :: sornenFuns bs fuel r.2

/-- The functions of an object. -/
def sornenOf (o : List Byte) : List FunText :=
  let bs := kindBytes o 9
  sornenFuns bs bs.length 0

/-- A code line stands for a Sornen function's translation. -/
def inSornen (o : List Byte) (l : Nat) : Bool :=
  (sornenOf o).any fun f => decide (f.fn.first ≤ l) && decide (l < f.fn.first + f.fn.nlines)

/-- The lines TEXT keeps for a function are there, zero and its own (R307). -/
def FunText.linesOk (f : FunText) (text : List Byte) (fs : List FunText) : Bool :=
  f.fn.nlines != 0 && decide (128 * (f.fn.first + f.fn.nlines) ≤ text.length)
    && ((text.drop (128 * f.fn.first)).take (128 * f.fn.nlines)).all (· == 0)
    && fs.all fun g => g.pos == f.pos || !sectionsMeet f.fn.first f.fn.nlines g.fn.first g.fn.nlines

/-- The refusals of R307, R311 and R312, each at the function, strip or operation it is about. Whether a translation fits its
lines is the loader's to say (log 33). -/
def sornenErr (o : List Byte) : Option LoadErr :=
  let text := kindBytes o 1
  let fs := sornenOf o
  let e (j off : Nat) : LoadErr := ⟨0x11, kindIdx o 9, j, off⟩
  firstErr (fs.flatMap fun f =>
    let nstr := f.strips.length
    refuseIf (!f.form || !f.linesOk text fs) (e 0 f.pos)
      :: (withPos f.strips).flatMap (fun x =>
          refuseIf (!x.2.form || !x.2.strip.headOk nstr) (e x.1 x.2.pos)
            :: (withPos (x.2.strip.ops.zip x.2.opForms)).map fun y =>
              refuseIf (!y.2.2 || !y.2.1.ok x.2.strip.ops y.1 x.2.strip.loop nstr) (e x.1 (x.2.pos + 8 + 16 * y.1)))
      ++ [refuseIf (!Config.sornenFits f.bytes) (e 0 f.pos)])

/-! ### Code lines (R298) -/

/-- Header of a line of TEXT. -/
def textHeader (text : List Byte) (l : Nat) : Nat := numAt text (128 * l) 8

/-- Word at an offset of TEXT. -/
def textWord (text : List Byte) (off : Nat) : Half := BitVec.ofNat 32 (numAt text off 4)

/-- Majors of SBIND, VCVT and binary32 arithmetic: field values that R192, R201, R205 and R207 forbid are no reserved
encodings, and raise ILLEGAL_OP as the instruction runs (log 36). -/
def checkedLater (w : Half) : Bool :=
  let m := (Word0.of w).maj.toNat
  m == 0x40 || m == 0x60 || m == 0x70

/-- The instruction at an offset of TEXT (R298): BRK stands for one that raises ILLEGAL_OP as it runs. -/
def textInstr (text : List Byte) (off : Nat) : Option Instr :=
  match decodeWords (textWord text off) (textWord text (off + 4)) (textWord text (off + 8)) (textWord text (off + 12)) with
  | .ok i => if i.wf || checkedLater (textWord text off) then some i else none
  | .error r => if r == .illegalFields && checkedLater (textWord text off) then some .brk else none

/-- Transfers that have a delay slot (R162). -/
def hasSlot : Instr → Bool
  | .bez .. | .bnz .. | .bltz .. | .bgez .. | .jmp _ | .call _ | .jr _ | .callr _ | .ret => true
  | _ => false

/-- Offset of the instruction after one of n words (R150). -/
def textNext (text : List Byte) (off n : Nat) : Nat :=
  let i := (off % 128 - 8) / 4 + n
  if i < 30 && hdrStart (textHeader text (off / 128)) i then off + 4 * n else (off / 128 + 1) * 128 + 8

/-- Offsets of the instructions of a line. -/
def lineStarts (text : List Byte) (l : Nat) : List Nat :=
  ((List.range 30).filter fun i => hdrStart (textHeader text l) i).map fun i => 128 * l + 8 + 4 * i

/-- Lines of TEXT the compiler wrote: those of Sornen functions are the loader's. -/
def textLines (o : List Byte) : List Nat :=
  (List.range ((kindBytes o 1).length / 128)).filter fun l => !inSornen o l

/-- The checks of R298 on one line. -/
def lineErr (text : List Byte) (sec l : Nat) : Option LoadErr :=
  firstErr
    (refuseIf (!lineOk (textHeader text l) fun i => textWord text (128 * l + 8 + 4 * i)) ⟨0x0A, sec, 0, 128 * l⟩
      :: (lineStarts text l).map fun p =>
        match textInstr text p with
        | none => some ⟨0x0A, sec, 0, p⟩
        | some i =>
          let q := textNext text p (encode i).length
          refuseIf (hasSlot i && (decide (text.length ≤ q) || match textInstr text q with
            | some j => noSlot j || !hdrStart (textHeader text (q / 128)) ((q % 128 - 8) / 4)
            | none => true)) ⟨0x0A, sec, 0, q⟩)

/-- The checks of R298 on TEXT. -/
def encodingErr (o : List Byte) : Option LoadErr :=
  firstErr ((textLines o).map fun l => lineErr (kindBytes o 1) (kindIdx o 1) l)

/-! ### Tasks, clusters, formats (R294, R298) -/

/-- Clusters: four task indices each. -/
def clustersOf (o : List Byte) : List (List Nat) :=
  let bs := kindBytes o 4
  (List.range (bs.length / 8)).map fun k => (List.range 4).map fun j => numAt bs (8 * k + 2 * j) 2

/-- A task-table entry keeps R294. -/
def taskOk (o : List Byte) (w : Nat) : Bool :=
  let e := taskOf w
  let n := (kindBytes o 1).length / 128
  w % 2 ^ 32 == 0 && w / 2 ^ 37 % 2 ^ 11 == 0 && decide (e.quota ≤ 16) && e.rksz % 192 == 0 && decide (e.first ≤ e.last)
    && decide (e.last < n) && decide (e.entry < n) && hdrKind (textHeader (kindBytes o 1) e.entry) == 2

/-- An END operand at an offset names a successor R294 allows, or none. -/
def endOk (o : List Byte) (off : Nat) (next : BitVec 32) : Bool :=
  let ts := tasksOf o
  let holders := ts.filter fun t => decide (t.first ≤ off / 128) && decide (off / 128 ≤ t.last)
  next == 0xFFFFFFFF || (match ts[next.toNat]? with
    | none => false
    | some x => !holders.isEmpty && holders.all fun t => decide (x.quota ≤ t.quota) && subMaskOf x.fset t.fset)

/-- The checks of the task table, END operands and clusters. An empty table, FIRST beyond LAST, and LAST or ENTRY beyond the text
are refused with them (DESIGN CHOICE, log 74: R294 gives no object without tasks and no range that is empty or outside). -/
def taskErr (o : List Byte) : Option LoadErr :=
  let text := kindBytes o 1
  let nt := (tasksOf o).length
  firstErr
    ([refuseIf ((kindBytes o 3).length % 32 != 0 || nt == 0) ⟨0x0B, kindIdx o 3, 0, 0⟩]
      ++ (withPos (taskWords o)).map (fun e => refuseIf (!taskOk o e.2) ⟨0x0B, kindIdx o 3, 0, 32 * e.1⟩)
      ++ (textLines o).flatMap (fun l => (lineStarts text l).map fun p =>
          match textInstr text p with
          | some (.endTask n) => refuseIf (!endOk o p n) ⟨0x0B, kindIdx o 1, 0, p⟩
          | _ => none)
      ++ [refuseIf ((kindBytes o 4).length % 8 != 0) ⟨0x0B, kindIdx o 4, 0, 0⟩]
      ++ (withPos (clustersOf o)).map fun e => refuseIf (!e.2.all fun t => decide (t < nt)) ⟨0x0B, kindIdx o 4, 0, 8 * e.1⟩)

/-- FORMATS entries: register number, value, and whether the entry is allowed (R62, R293). -/
def formatsOf (o : List Byte) : List (Nat × Half × Bool) :=
  let bs := kindBytes o 5
  (List.range (bs.length / 8)).map fun k =>
    let e := numAt bs (8 * k) 8
    let v := BitVec.ofNat 32 (e / 2 ^ 32)
    (e % 64, v, decide (16 ≤ e % 64) && e / 64 % 2 ^ 26 == 0 && ftValid v)

/-- The checks of FORMATS. -/
def formatErr (o : List Byte) : Option LoadErr :=
  firstErr (refuseIf ((kindBytes o 5).length % 8 != 0) ⟨0x0C, kindIdx o 5, 0, 0⟩
    :: (withPos (formatsOf o)).map fun e => refuseIf (!e.2.2.2) ⟨0x0C, kindIdx o 5, 0, 8 * e.1⟩)

/-- Format registers as FORMATS leaves them. -/
def formatRegs (o : List Byte) : Sparse Half := (formatsOf o).foldl (fun m e => m.set e.1 e.2.1) []

/-! ### Blocks (R224 to R241, R300 to R305) -/

/-- Offsets of the block images. -/
def blockOffs (o : List Byte) : List Nat :=
  let bs := kindBytes o 6
  (List.range (min (numAt bs 0 4) (bs.length / 4))).map fun k => numAt bs (4 + 4 * k) 4

/-- A block image at an offset: its words. -/
def imageAt (bs : List Byte) (off : Nat) : List Word := wordsOf ((bs.drop off).take (8 * numAt bs off 2))

/-- A block of the object, where its image can be read and keeps the rules FLOAD checks. -/
def blockAt (o : List Byte) (off : Nat) : Option Prog :=
  let bs := kindBytes o 6
  if off % 8 != 0 || decide (bs.length < off + 8 * numAt bs off 2) then none
  else (progOf (imageAt bs off)).filter Prog.ok

/-- The blocks of an object, of those that can be read. -/
def progsOf (o : List Byte) : List Prog := (blockOffs o).filterMap (blockAt o)

/-- The checks of the blocks and of R303. -/
def blockErr (o : List Byte) : Option LoadErr :=
  let bs := kindBytes o 6
  let x := kindIdx o 6
  let offs := withPos (blockOffs o)
  firstErr
    ([refuseIf ((sectionOf o 6).isSome && (decide (bs.length < 4) || decide (bs.length < 4 + 4 * numAt bs 0 4))) ⟨0x0D, x, 0, 0⟩]
      ++ offs.map (fun e => refuseIf (match blockAt o e.2 with | some p => !p.bindingsOk (formatRegs o) | none => true) ⟨0x0D, x, e.1, e.2⟩)
      ++ offs.map fun e => match blockAt o e.2 with
        | some p => refuseIf (!p.networkOk) ⟨0x0E, x, e.1, e.2⟩
        | none => none)

/-- Bytes an object's images take of the configuration store, each rounded up to 64 (R224). -/
def storeBytes (o : List Byte) : Nat :=
  ((blockOffs o).map fun off => (8 * numAt (kindBytes o 6) off 2 + 63) / 64 * 64).sum

/-- Records of the LATENCY or BUFFERS section from a position on, with entries of w bytes: position, block, entries; the
position of one that does not fit or has a reserved bit. -/
def entryRecords (bs : List Byte) (w : Nat) : Nat → Nat → Except Nat (List (Nat × Nat × List Nat))
  | 0, _ => .ok []
  | fuel + 1, pos =>
    if bs.length ≤ pos then .ok []
    else
      let h := numAt bs pos 8
      let n := h / 2 ^ 16 % 2 ^ 16
      let len := 8 + (w * n + 7) / 8 * 8
      let pad := numAt bs (pos + 8 + w * n) (len - 8 - w * n)
      if bs.length < pos + len || h / 2 ^ 32 != 0 || pad != 0 then .error pos
      else (entryRecords bs w fuel (pos + len)).map fun r =>
        (pos, h % 2 ^ 16, (List.range n).map fun k => numAt bs (pos + 8 + w * k) w) :: r

/-- Operations an object uses (R301). -/
def usedOps (o : List Byte) : List Instr := (progsOf o).flatMap fun p => p.cols.flatMap fun c => c.words.map (·.op)

/-- The byte R301 asks for at position k; 0 for an operation that the object does not use, QNOP, QTSTEP and QRSYM too (DESIGN
CHOICE, log 74: R301 gives those three 0xFF and an unused operation 0). -/
def wantedLatency (used : List Instr) (k : Nat) : Nat :=
  match used.find? fun i => opCode i == k with
  | some i => latencyByte i
  | none => 0

/-- Record of a block. -/
def recordOf (rs : List (Nat × Nat × List Nat)) (k : Nat) : Option (Nat × Nat × List Nat) := rs.find? fun r => r.2.1 == k

/-- The first failure of a block's LATENCY record, its header at an offset: an entry that agrees with no read or repeats
another, or an entry that is missing (R302). -/
def readErr (p : Prog) (es : List Nat) (off : Nat) (e : Nat → LoadErr) : Option LoadErr :=
  let rs := p.reads
  firstErr ((withPos es).map (fun x =>
      refuseIf (!(rs.any fun r => r.2.contains x.2) || (es.take x.1).any fun y => y / 2 ^ 48 == x.2 / 2 ^ 48) (e (off + 8 + 8 * x.1)))
    ++ [refuseIf (!rs.all fun r => es.any fun x => r.2.contains x) (e off)])

/-- The checks of R300 to R302. What a record lacks, and what its block's schedule breaks, is reported at the record; at the
section's start where the block has none (log 66). -/
def latencyErr (o : List Byte) : Option LoadErr :=
  let bs := kindBytes o 7
  let x := kindIdx o 7
  let ps := withPos (progsOf o)
  let used := usedOps o
  let read := entryRecords (bs.drop 256) 8 bs.length 0
  let rs := readOr read
  firstErr
    ([refuseIf (if (sectionOf o 7).isSome then decide (bs.length < 256) else !used.isEmpty) ⟨0x0F, x, 0, 0⟩]
      ++ (List.range 256).map (fun k => refuseIf ((sectionOf o 7).isSome && numAt bs k 1 != wantedLatency used k) ⟨0x0F, x, 0, k⟩)
      ++ [refuseAt read fun pos => ⟨0x0F, x, 0, 256 + pos⟩]
      ++ rs.map (fun r => refuseIf (decide (ps.length ≤ r.2.1) || rs.any (fun q => decide (q.1 < r.1) && q.2.1 == r.2.1)
          || (match ps[r.2.1]? with | some p => p.2.reads.isEmpty | none => true)) ⟨0x0F, x, r.2.1, 256 + r.1⟩)
      ++ ps.map fun p =>
        let at0 := recordOf rs p.1
        let off := match at0 with | some r => 256 + r.1 | none => 0
        let e (pos : Nat) : LoadErr := ⟨0x0F, x, p.1, pos⟩
        firstErr [readErr p.2 (match at0 with | some r => r.2.2 | none => []) off e,
          refuseIf (!p.2.writesOk || !p.2.tilesOk (formatRegs o)) (e off)])

/-- DEPTH of each stream a record declares. -/
def depthsOf (es : List Nat) : Sparse Nat := es.foldl (fun m e => m.set (e % 64) (e / 64 % 64)) []

/-- Records of BUFFERS. -/
def bufferRecords (o : List Byte) : Except Nat (List (Nat × Nat × List Nat)) :=
  let bs := kindBytes o 8
  entryRecords bs 4 bs.length 0

/-- Entries of BUFFERS for a block. -/
def bufferEntries (o : List Byte) (k : Nat) : List Nat :=
  match recordOf (readOr (bufferRecords o)) k with
  | some r => r.2.2
  | none => []

/-- An entry of BUFFERS keeps R304 and R305: it names an in stream that no earlier entry names, and is deep enough. -/
def bufferEntryOk (p : Prog) (fts : Sparse Half) (earlier : List Nat) (e : Nat) : Bool :=
  let d := e / 64 % 64
  e / 2 ^ 12 == 0 && decide (1 ≤ d) && decide (d ≤ 32) && !earlier.any (fun x => x % 64 == e % 64)
    && match p.inStreams.find? fun x => x.1 == e % 64 with
      | some x => decide (p.depthNeeded fts x.2 ≤ d)
      | none => false

/-- The checks of R304 and R305; a missing entry is reported at its block's record, or at the section's start (log 66). -/
def bufferErr (o : List Byte) : Option LoadErr :=
  let x := kindIdx o 8
  let ps := withPos (progsOf o)
  let read := bufferRecords o
  let rs := readOr read
  firstErr
    ([refuseAt read fun pos => ⟨0x10, x, 0, pos⟩]
      ++ rs.flatMap (fun r =>
        refuseIf (decide (ps.length ≤ r.2.1) || rs.any (fun q => decide (q.1 < r.1) && q.2.1 == r.2.1)
            || (match ps[r.2.1]? with | some p => p.2.inStreams.isEmpty | none => true)) ⟨0x10, x, r.2.1, r.1⟩
          :: (withPos r.2.2).map fun e =>
            match ps[r.2.1]? with
            | some p => refuseIf (!bufferEntryOk p.2 (formatRegs o) (r.2.2.take e.1) e.2) ⟨0x10, x, r.2.1, r.1 + 8 + 4 * e.1⟩
            | none => none)
      ++ ps.map fun p => refuseIf ((bufferEntries o p.1).length != p.2.inStreams.length)
        ⟨0x10, x, p.1, match recordOf rs p.1 with | some r => r.1 | none => 0⟩)

/-! ### The whole check -/

/-- TEXT as it stands in instruction buffers: the first line of each Sornen function is an entry line (R307). -/
def textOf (o : List Byte) : List Byte :=
  (sornenOf o).foldl (fun t f => t.take (128 * f.fn.first) ++ bytesOf (2 * 2 ^ 60 + 2 ^ 30 + 1) 8 ++ t.drop (128 * f.fn.first + 8))
    (kindBytes o 1)

/-- What the loader knows of the partition and context beside the object. -/
structure LoadEnv where
  /-- V of the context-table entry (R380) -/
  valid : Bool
  masks : List Nat
  kept : Option (BitVec 2)
  /-- bytes of the configuration store in use -/
  store : Nat
  /-- offsets of DATA records outside the context's mapped memory -/
  unmapped : List Nat
  deriving DecidableEq, Repr

/-- TEXT, images and DATA that do not fit (R314). -/
def capacityErr (o : List Byte) (v : LoadEnv) : Option LoadErr :=
  firstErr ([refuseIf (decide (262144 < (kindBytes o 1).length)) ⟨0x12, kindIdx o 1, 0, 0⟩,
    refuseIf (decide (Config.configStoreBytes < v.store + storeBytes o)) ⟨0x12, kindIdx o 6, 0, 0⟩]
    ++ v.unmapped.map fun p => some ⟨0x12, kindIdx o 2, 0, p⟩)

/-- The first check of R314 that fails. -/
def loadErr (o : List Byte) (v : LoadEnv) : Option LoadErr :=
  firstErr [refuseIf (!v.valid) ⟨0x13, 0, 0, 0⟩, headerErr o, checkErr o, sectionErr o, versionErr o, featureErr o,
    unavailableErr o v.masks, errataErr o v.kept, encodingErr o, taskErr o, formatErr o, blockErr o, latencyErr o,
    bufferErr o, sornenErr o, capacityErr o v]

/-- An instruction names a handle of the fabric. -/
def namesHandle (h : Nat) : Instr → Bool
  | .fload k _ | .fstart k | .frestart k | .fqry _ k _ => k.val == h
  | .fwait _ mask => mask.getLsbD h
  | _ => false

/-- A function's LOOP strips may be placed on the fabric (R312): FAB, and each task whose range holds FIRST has a page and
does not name handle 7. -/
def FunText.onFabric (f : FunText) (o : List Byte) : Bool :=
  let text := kindBytes o 1
  f.fn.fab && ((tasksOf o).filter fun t => decide (t.first ≤ f.fn.first) && decide (f.fn.first ≤ t.last)).all fun t =>
    t.quota != 0 && ((textLines o).filter fun l => decide (t.first ≤ l) && decide (l ≤ t.last)).all fun l =>
      (lineStarts text l).all fun p => match textInstr text p with | some i => !namesHandle 7 i | none => true

/-- The code object an accepted image becomes. -/
def codeFrom (o : List Byte) (ctx : Nat) : Code where
  ctx := ctx
  text := textOf o
  tasks := tasksOf o
  clusters := clustersOf o
  formats := (formatsOf o).map fun e => (e.1, e.2.1)
  blocks := (withPos (progsOf o)).map fun p => (p.2, depthsOf (bufferEntries o p.1))
  bytes := storeBytes o
  sornen := (sornenOf o).map fun f => { f.fn with fab := f.onFabric o }
  others := []

/-- Two images of one code object: they differ at most in who loaded them. -/
def Code.same (a b : Code) : Bool :=
  { a with ctx := 0, bytes := 0, others := [] } == { b with ctx := 0, bytes := 0, others := [] }

/-- An object loaded under a handle that names one already (R224): the same object gains a context; another takes the handle
over. -/
def Code.over (new : Code) : Option Code → Code
  | none => new
  | some old =>
    if new.same old then { new with bytes := old.bytes, others := (old.ctx :: old.others).filter fun c => c != new.ctx } else new

/-- A context that loaded an object is torn down; none: it was the last (R224). -/
def Code.without (o : Code) (ctx : Nat) : Option Code :=
  let left := o.others.filter fun c => c != ctx
  if o.ctx != ctx then some { o with others := left }
  else match left with
    | [] => none
    | c :: cs => some { o with ctx := c, others := cs }

end Sys2Proof.Machine
end

