-- ==== Sys2Proof/Machine/Replay.lean ====
section
/-!
DEFINITION. The replay queue at work (R349): checking an entry again and putting it back; RETT and RQINJ (R220);
WINDOW_RACK (R143); TAKE_ASYNC_TRAP (R344, R347) and the watchdog (R359).
-/

namespace Sys2Proof.Machine

/-! ### Re-execution (R349) -/

/-- The checks of an entry that is executed again on core cur, ending in the entry with its places. -/
def State.recheck (s : State) (t : Task) (e : Entry) (k : State → Entry → Res) : Res :=
  match e.op with
  | .load n _ _ => s.access t e.addr n n .load fun s1 p => k s1 { e with spans := [⟨p, n, false⟩] }
  | .ldv _ => s.access16 t e.addr .load fun s1 xs => k s1 { e with spans := xs }
  | .ldt _ _ da db tr => s.ldtAccess t da db tr (((e.words.headD 0)).zeroExtend 64) fun s1 xs => k s1 { e with spans := xs }
  | .rowOpen _ => s.rowAccess t e.opb fun s1 p => k s1 { e with spans := [⟨p, 0, false⟩] }
  | .int i _ => if i.divides && e.opc == 0 then .trap s cDivZero 0 else k s e
  | _ => k s e

/-- Outcome of putting entries back among the instructions in flight: all are back; or those left, with what stops the
first of them. -/
inductive Inject where
  | done (s : State) (back : List Entry)
  | wait (s : State) (code : Nat) (back left : List Entry)
  | trap (s : State) (cause : Nat) (info : Word) (back left : List Entry)

/-- Check entries one after another: those that pass are put back. -/
def State.inject (s : State) (t : Task) (back : List Entry) : List Entry → Inject
  | [] => .done s back
  | e :: es =>
    match s.recheck t e fun s1 e1 => .done (s1.setCtx { s1.ctx with susp := [e1] }) with
    | .done s1 =>
      let old := s.ctx.susp
      let e1 := s1.ctx.susp.headD e
      (s1.setCtx { s1.ctx with susp := old }).inject t (back ++ [{ e1 with cause := 0 }]) es
    | .trap s1 cause info => .trap s1 cause info back ({ e with cause := BitVec.ofNat 8 cause } :: es)
    | .wait s1 code => .wait s1 code back (e :: es)
    | _ => .wait s 0 back (e :: es)

/-- Entries back in flight, in their places in program order among the stores that stayed (R120, R349). -/
def Context.putBack (c : Context) (back : List Entry) : Context := { c with fly := placeAll back c.fly }

/-- Numbers of a list of entries as they stand, when none is captured any more. -/
def Context.renumber (c : Context) : Context :=
  { c with fly := ((List.range c.fly.length).zip c.fly).map fun e => { e.2 with seq := e.1, hand := false },
           issued := c.fly.length }

/-! ### RETT (R220) -/

/-- The lowest logical position the ring must hold as RETT leaves trap state: the task's window, the one below it if a
return is due, and every register a captured instruction will write (R143, R187, R349). -/
def Context.rettLow (c : Context) : Nat :=
  let w := c.frame.twp.toNat
  let top := if c.frame.dslot && moveOf c.frame.dxfer == .ret then w - 24 else w
  (c.rq.filterMap Entry.destPos).foldl min top

/-- Whether RETT needs a fill or a spill, or neither (R143, R186, R187, R346). A spill for a call due after the slot is
left to the slot while a captured instruction still needs the group. -/
def Context.rettRacks (c : Context) : Option Bool :=
  if c.rettLow < c.lo then some false
  else if c.frame.dslot && moveOf c.frame.dxfer == .call && decide (256 < c.frame.twp.toNat + 24 + 32 - c.lo)
      && decide (c.lo + 24 ≤ c.rettLow) then some true
  else none

/-- The frame resumes a Sornen function at the operation a trap interrupted (R310). -/
def Context.backInStrip (c : Context) : Bool :=
  match c.stripHeld with
  | some x => c.frame.tpc == BitVec.ofNat 64 x.tpc
  | none => false

/-- The task resumes from its frame (R220): out of trap state, at TPC, with the transfer of its slot if DSLOT is set. -/
def Context.resume (c : Context) : Context :=
  let f := c.frame
  { c with
    strip := if c.backInStrip then c.stripHeld else none, stripHeld := none, trapst := false, resuming := false, wp := f.twp.toNat, pc := f.tpc.toNat, wait := 0, retry := false, atBound := false, walkTrap := none,
    wdcnt := 0, fillMsg := 0, fillData := [], xfer := if f.dslot then some ⟨f.ttgt, true, moveOf f.dxfer, true⟩ else none }

/-- The handler has instructions of its own in flight that write registers. -/
def Context.ownBusy (c : Context) : Bool := c.fly.any fun e => e.hand && !e.stays

/-- Captured entries that go back in flight now: as many as R169 leaves room for. -/
def Context.room (c : Context) : Nat := Config.maxInFlight - c.unfinished

/-- RETT of the task of core cur. The target of a slot is checked after the slot (R220). -/
def State.rett (s : State) (t : Task) (ill : Word) : Res :=
  let c := s.ctx
  let f := c.frame
  if !c.trapst then .trap s cIllegal ill
  else if !c.backInStrip && !s.resumeOk s.cur f.tpc then .trap s cBadTarget f.tpc
  else if f.dslot && moveOf f.dxfer == .ret && f.twp == 0 then
    .trap s cWindowSpill (c.rkbase + BitVec.ofInt 64 (8 * ((c.lo : Int) - 24)))
  else if c.ownBusy then .stall
  else if c.rettRacks.isSome then .wait s wRacking
  else if c.room = 0 && !c.rq.isEmpty then .stall
  else
    match s.inject t [] (c.rq.take c.room) with
    | .done s1 back =>
      let left := c.rq.drop c.room
      if left.isEmpty then .final (s1.mapCtx fun d => (({ d with rq := [] }.putBack back).renumber).resume) false
      else .wait (s1.mapCtx fun d => { d with rq := left }.putBack back) 0
    | .wait s1 code back left => .wait (s1.mapCtx fun d => { d with rq := left ++ c.rq.drop c.room }.putBack back) code
    | .trap s1 cause info back left => .trap (s1.mapCtx fun d => { d with rq := left ++ c.rq.drop c.room }.putBack back) cause info

/-- RETT. -/
def execRett (s : State) : Out := .next (issue .rett (fun _ => []) (fun s t => s.rett t (word0 .rett)) s)

/-! ### RQINJ (R220) -/

/-- The entry of the queue without entry j. -/
def dropAt {α : Type} (xs : List α) (j : Nat) : List α := xs.take j ++ xs.drop (j + 1)

/-- The result of a re-executed entry lies in a window whose registers have been spilled: it goes to its place in the
spill area (R143, R349). -/
def State.sinkResult (s0 s1 : State) (core : Nat) (t : Task) (e : Entry) : State :=
  let c := s0.bank core
  match e.destPos with
  | none => s1
  | some n =>
    if c.lo ≤ n then s1
    else
      let d := s1.bank core
      let v := Sparse.get 0 d.ring (n % 256)
      let s2 := s1.setBank core { d with ring := d.ring.set (n % 256) (Sparse.get 0 c.ring (n % 256)) }
      let a := c.rkbase + BitVec.ofNat 64 (8 * n)
      match s2.rackPlace core t a .store with
      | .ok p => (s2.markRemote core t a.toNat).spillTo t.part [p] [v]
      | _ => s2

/-- Re-execution of entry j of the queue: it completes now, or RQINJ waits. The handler has asked for it, so that it does
not wait for the entries before it. -/
def State.rqinj (s : State) (t : Task) (j : Nat) (e : Entry) : Res :=
  let c := s.ctx
  let y : Entry := { e with hand := true }
  let before := c.fly.filter fun x => !e.ahead x
  let after := c.fly.filter fun x => e.ahead x
  let s0 := s.setCtx { c with fly := before ++ y :: after }
  let s1 := s0.completeEntry s.cur t before y after
  if s1 == s0 then .stall
  else
    let c1 := s1.ctx
    let asked := match c1.fly[before.length]? with
      | some z => if z.msg != 0 && z.op == e.op && z.pc == e.pc && e.msg == 0 then some z else none
      | none => none
    match asked with
    | some z => .wait (s1.setCtx { c1 with fly := c.fly, rq := c1.rq.set j { e with msg := z.msg, spans := z.spans } }) 0
    | none =>
      let s2 := s0.sinkResult s1 s.cur t e
      .done (s2.setCtx { s2.ctx with rq := dropAt s2.ctx.rq j })

/-- RQINJ. -/
def execRqinj (b : XReg) (s : State) : Out :=
  let i : Instr := .rqinj b
  .next (issue i (keysOf [b]) (fun s t =>
    let c := s.ctx
    let v := c.x b
    if !c.trapst || v.toNat / 8 != 0 then .trap s cIllegal (word0 i)
    else
      match c.rq[v.toNat]? with
      | none => .trap s cIllegal (word0 i)
      | some e =>
        match s.recheck t e fun s1 e1 => s1.rqinj t v.toNat e1 with
        | .trap s1 cause _ => .done (s1.mapCtx fun d => { d with rq := d.rq.set v.toNat { e with cause := BitVec.ofNat 8 cause } })
        | r => r) s)

/-! ### The racking engine (R143) -/

/-- The instruction at issue on a core: RETT while the command processor resumes the task; a Sornen function returns as
RET does. -/
def State.atIssue (s : State) (core : Nat) : Fetched :=
  if (s.bank core).resuming then .ok .rett
  else
    match (s.bank core).strip with
    | some x => if x.leaving then .ok .ret else .ok .brk
    | none => s.fetch core (s.bank core).pc

/-- Whether the instruction at issue needs a spill, a fill, or neither. -/
def State.rackNeed (s : State) (core : Nat) : Option Bool :=
  let c := s.bank core
  if c.slotRacks.isSome then c.slotRacks
  else
  match s.atIssue core with
  | .ok (.call _) => if c.callRacks then some true else none
  | .ok (.callr _) => if c.callRacks then some true else none
  | .ok .ret => if c.retRacks then some false else none
  | .ok .rett => if c.trapst then c.rettRacks else none
  | _ => none

/-- The instruction at issue or the transfer before it moves the window down: an early spill would undo the fill it waits
for. -/
def State.returning (s : State) (core : Nat) : Bool :=
  (match (s.bank core).xfer with | some x => x.move == .ret | none => false)
    || (match s.atIssue core with
      | .ok .ret => true
      | .ok .rett => true
      | _ => false)

/-- A group may be spilled early: it lies below the window, nothing moves the window down, and no captured instruction
will write one of its registers. -/
def State.spillsEarly (s : State) (core : Nat) : Bool :=
  let c := s.bank core
  decide (c.lo + 24 ≤ c.wp) && !s.returning core && !destIn c.rq c.lo

/-- One group moves for the instruction at issue; a failure is its trap. -/
def State.rackFor (s : State) (core : Nat) (t : Task) (spill : Bool) : State :=
  let pc := (s.bank core).pc
  match s.rackGroup core t spill (s.bank core).fly with
  | .ok s1 => s1.setBank core { s1.bank core with wait := 0 }
  | .wait s1 _ => s1
  | .fail a => s.syncTrap core t cWindowSpill a pc pc
  | .poison p => (s.logPoison t.part p).syncTrap core t cMachineCheck (paOf p) pc pc

/-- WINDOW_RACK: a group of registers moves between the ring and the spill area, for an instruction that waits for it, or
early in the background. -/
def execWindowRack (core : CoreId) (s : State) : Out :=
  let k := core.val
  let c := s.bank k
  .next (match c.task with
    | none => s
    | some t =>
      if (s.core k).swapping || c.stopped then s
      else if c.wait.toNat == wRacking then
        match s.rackNeed k with
        | some spill => if c.checkDue then s else s.rackFor k t spill
        | none => s
      else if s.spillsEarly k then
        match s.rackGroup k t true c.fly with
        | .ok s1 => s1
        | _ => s
      else s)

/-- A page walk or an unanswered fault record stands for the instruction at issue on a core (R386). -/
def State.walking (s : State) (core : Nat) : Bool :=
  (s.walks.any fun w => w.agents.contains (.instr core)) || s.parts.any fun p => p.2.records.any fun f => f.agents.contains (.instr core)

/-- WAITER_PROCEED: a waiting instruction tries again; what it waits for is tested when it issues (R26, R426). One that
waits for a page walk, for the driver or for the racking engine is let go by those. -/
def execWaiterProceed (core : CoreId) (s : State) : Out :=
  let c := s.bank core.val
  .next (if c.idle.isSome || c.stopped || !s.powered core.val || (c.wait.toNat == wTranslation && s.walking core.val)
        || (c.wait.toNat == wRacking && (s.rackNeed core.val).isSome) then s
    else s.setBank core.val { c with retry := c.wait != 0 })

/-! ### Asynchronous traps (R344, R350) -/

/-- The asynchronous trap that is taken first: MACHINE_CHECK, copy faults in order, fabric traps by handle, others. -/
def Context.firstAsync (c : Context) : Option Async :=
  let check := c.asyncs.find? fun a => a.cause.toNat == cMachineCheck
  let copy := c.asyncs.find? fun a => a.copy
  let fab := (List.range 8).findSome? fun h => c.asyncs.find? fun a => a.fab && a.handle.toNat == h
  (check.orElse fun _ => copy.orElse fun _ => fab).orElse fun _ => c.asyncs.head?

/-- The first occurrence of a trap leaves the list. -/
def dropAsync (a : Async) : List Async → List Async
  | [] => []
  | x :: xs => if x == a then xs else x :: dropAsync a xs

/-- A core stands at a boundary: the instruction at issue has been checked, or waits. -/
def Context.halted (c : Context) : Bool := c.atBound || c.wait != 0

/-- TAKE_ASYNC_TRAP: the first asynchronous trap is taken at a boundary; a synchronous trap that is owed comes before every
one but MACHINE_CHECK (R344). A pre-emption that is pending applies before the handler's first instruction (R360). MACHINE_CHECK of a command-processor core ends
in a take-over instead (R351, R396). -/
def execTakeAsyncTrap (core : CoreId) (s : State) : Out :=
  let k := core.val
  let c := s.bank k
  .next (match c.task, c.firstAsync with
    | some t, some a =>
      if !c.asyncDue || c.stopped || (s.core k).swapping || !c.halted
          || (c.owed.isSome && a.cause.toNat != cMachineCheck)
          || (decide (Config.cpCore ≤ k) && a.cause.toNat == cMachineCheck) then s
      else
        let s1 := s.takeTrap k t ⟨a.cause.toNat, a.info, c.pc, true, a.fab, a.handle, a.copy, a.driver, false, 0, .none⟩
        let d := s1.bank k
        if d.trapst || d.stopped then
          s1.setBank k { d with asyncs := dropAsync a d.asyncs, atBound := !d.stopped && (s1.core k).preq }
        else s1
    | _, _ => s)

/-! ### The watchdog (R356, R359) -/

/-- Wait reasons during which WDCNT counts. -/
def waitCounts (code : Nat) : Bool := (1 ≤ code && code ≤ 6) || code == 12 || code == 14

/-- WATCHDOG: us microseconds pass while the instruction at issue waits, a resumed task's first one for its rows too
(R118, R360); at the limit the task stops. Between a transfer
and its slot the trap is deferred, and behind a synchronous trap that is owed (R344). WDCNT is held once the task stops. -/
def execWatchdog (core : CoreId) (us : BitVec 32) (s : State) : Out :=
  let k := core.val
  let c := s.bank k
  .next (match c.task with
    | none => s
    | some t =>
      if c.stopped || ((s.core k).swapping && c.wait.toNat != wRowHeld) || !waitCounts c.wait.toNat then s
      else
        let n := c.wdcnt.toNat + us.toNat
        let s1 := s.setBank k { c with wdcnt := BitVec.ofNat 32 (min n (2 ^ 32 - 1)) }
        if c.wdlim == 0 || n < c.wdlim.toNat || !c.boundary || c.checkDue || c.owed.isSome then s1
        else (s.setBank k { c with wdcnt := if c.wdcnt < c.wdlim then c.wdlim else c.wdcnt }).takeTrap k t ⟨cWatchdog, c.wait.zeroExtend 64, c.pc, true, false, 0, false, true, false, 0, .none⟩)

end Sys2Proof.Machine
end

