-- ==== Sys2Proof/Machine/Tasks.lean ====
section
/-!
DEFINITION. The life of a task on its core: its first state (R142, R144, R294), END (R21 to R25, R189), pre-emption and
the swap of register banks (R352 to R355), the spill of the outgoing bank (R400), the exchange of scratchpad banks (R354),
and the rows of a switched-out task (R115, R118).
-/

namespace Sys2Proof.Machine

/-! ### Starting (R142, R144, R147) -/

/-- The code offset of a task's entry: word 0 of its entry line (R294). -/
def TaskEnt.start (e : TaskEnt) : Nat := 128 * e.entry + 8

/-- What a task's first instruction finds in registers the loader sets (R144, R147, R294; log 6). -/
def Context.begin (c : Context) (t : Task) (e : TaskEnt) (args : List Word) : Context :=
  let base := Config.spillBase t.serial t.index &&& ~~~7
  { c with
    task := some t, pc := e.start,
    ring := (List.range 8).foldl (fun r k => r.set k (args.getD k 0)) ([] : Sparse Word),
    g := [(14, Config.stackTop t.serial t.index), (15, Config.tlsBase t.serial t.index)],
    rkbase := base, rklimit := base + BitVec.ofNat 64 e.rksz }

/-- The context of a successor (R24): what it takes over from its predecessor's. -/
def Context.succeed (c : Context) (t : Task) (e : TaskEnt) : Context :=
  let keep : Context :=
    { Context.reset with
      issued := c.issued, d := c.d, ft := c.ft, vstat := c.vstat, gkey := c.gkey, gctr := c.gctr, tvec := c.tvec, tsave0 := c.tsave0,
      tsave1 := c.tsave1, wdlim := c.wdlim, asyncs := c.asyncs, hs := c.hs, gens := c.gens, phase := c.phase,
      fly := Context.reset.trim (c.fly.map fun x => { x with hand := false }) }
  keep.begin t e ((List.range 8).map fun k => Sparse.get 0 c.ring (ringIndex c.wp (24 + k)))

/-! ### Scratchpad banks (R354) -/

/-- Storage address of byte off of a switched-out chain's scratchpad in the save region. -/
def spadSave (chain off : Nat) : Nat := 2 ^ 60 + chain * 2 ^ 22 + off

/-- Byte at offset o of a scratchpad lies in bank b (R95). -/
def inBank (b o : Nat) : Bool := decide (o < 2 ^ 22) && o / 64 % 64 == b

/-- Move one bank's bytes and poison marks between two images of a scratchpad. -/
def State.moveBank (s : State) (src dst b : Nat) : State :=
  let mine (base a : Nat) : Bool := decide (base ≤ a) && inBank b (a - base)
  let cells := s.mem.filter fun e => mine src e.1
  let marks := s.poison.filter fun l => mine src (64 * l)
  let m := s.mem.filter fun e => !mine dst e.1 && !mine src e.1
  let p := s.poison.filter fun l => !mine dst (64 * l) && !mine src (64 * l)
  { s with mem := cells.foldl (fun m e => Sparse.put unlisted m (e.1 - src + dst) e.2) m,
           poison := p ++ marks.map fun l => l - src / 64 + dst / 64 }

/-- The banks of a chain's scratchpad that lie in the save region. -/
def State.savedBanks (s : State) (chain : Nat) : BitVec 64 := Sparse.get 0 s.spads chain

/-- Whose contents the banks of a core's scratchpad hold once a chain has run in them: none for a task that ended. -/
def Core.owned (k : Core) (out : Option Nat) : Sparse Nat :=
  let own (b : Nat) : Nat :=
    if k.foreign.getLsbD b then Sparse.get 0 k.owners b else match out with | some c => c + 1 | none => 0
  (List.range 64).map fun b => (b, own b)

/-- The scratchpad of a core as a chain comes to it: banks that hold another's contents, and banks of its own that lie in
the save region. -/
def State.meet (s : State) (core : Nat) (out inn : Option Nat) : State :=
  let k := s.core core
  let os := k.owned out
  let away (b : Nat) : Bool := match inn with
    | none => false
    | some c =>
      let o := Sparse.get 0 os b
      (o != 0 && o != c + 1) || (o != c + 1 && (s.savedBanks c).getLsbD b)
  let f := (List.range 64).foldl (fun (m : BitVec 64) b => if away b then m ||| (1 <<< b) else m) 0
  s.setCore core { k with owners := if inn.isSome then os.filter fun e => f.getLsbD e.1 else os, wanted := 0, foreign := match inn with | some _ => f | none => -1 }

/-- What a chain's scratchpad held, on a core and in the save region, is given up. -/
def State.forgetSpad (s : State) (core chain : Nat) : State :=
  let k := s.core core
  { s.setCore core { k with owners := k.owners.filter fun e => e.2 != chain + 1 } with
    spads := Sparse.erase s.spads chain, mem := Sparse.eraseRange s.mem (spadSave chain 0) (2 ^ 22) }

/-- SCRATCHPAD_BANK_EXCHANGE: a bank that an access has waited for is spilled for its owner, and filled with what the active
task saved of it; banks nothing touches are never moved (R354). -/
def execScratchpadBankExchange (core : CoreId) (b : Fin 64) (s : State) : Out :=
  let c := core.val
  let k := s.core c
  .next (match k.bank.task with
    | none => s
    | some t =>
      if !(k.foreign.getLsbD b.val && k.wanted.getLsbD b.val) then s
      else
        let bit : BitVec 64 := 1 <<< b.val
        let base := spadPlace c 0
        let o := Sparse.get 0 k.owners b.val
        let s1 : State :=
          if o = 0 then s
          else
            let s0 := s.moveBank base (spadSave (o - 1) 0) b.val
            { s0 with spads := s0.spads.set (o - 1) (s0.savedBanks (o - 1) ||| bit) }
        let s2 : State :=
          if (s1.savedBanks t.serial).getLsbD b.val then
            let s0 := s1.moveBank (spadSave t.serial 0) base b.val
            { s0 with spads := s0.spads.set t.serial (s0.savedBanks t.serial &&& ~~~bit) }
          else s1
        s2.setCore c { s2.core c with
          foreign := k.foreign &&& ~~~bit, wanted := k.wanted &&& ~~~bit, owners := Sparse.erase k.owners b.val })

/-! ### Rows (R115, R118) -/

/-- Every slot of a chain through a function; others as they are. -/
def State.mapRows (s : State) (chain : Nat) (f : RowSlot → RowSlot) : State :=
  { s with rows := s.rows.map fun e => if e.2.st != .free && e.2.owner == chain then (e.1, f e.2) else e }

/-- A slot at pre-emption of its owner. -/
def RowSlot.leave (r : RowSlot) : RowSlot := if r.st == .keep then { r with reserved := true } else r.freed

/-- Slots of a chain that stand reserved. -/
def State.rowsAway (s : State) (chain : Nat) : Bool :=
  s.rows.any fun e => e.2.st != .free && e.2.owner == chain && e.2.reserved

/-- ROW_REFRESH: refresh closes and re-opens rows; nothing of a slot changes. -/
def execRowRefresh (stack : Fin 12) (pc : Fin 64) (s : State) : Out :=
  .next (let chan := stack.val * 64 + pc.val
    (List.range 4).foldl (fun s k => s.setRowSlot chan k (s.rowSlot chan k)) s)

/-- ROW_REOPEN: a row of a resumed owner is opened again in its reserved slot, once no other task holds a row of the
subarray. -/
def execRowReopen (stack : Fin 12) (pc : Fin 64) (slot : Fin 4) (s : State) : Out :=
  let chan := stack.val * 64 + pc.val
  let r := s.rowSlot chan slot.val
  let back := s.cores.any fun e => e.2.swapping && e.2.bank.isChain r.owner
  let barred := (List.range 4).any fun k =>
    let x := s.rowSlot chan k
    x.live && x.owner != r.owner && (x.st == .keep || x.st == .drop) && sameSub x.row r.row
  .next (if r.st != .free && r.reserved && back && !barred then
      (s.rowYield (0x040000000000 + stack.val * 2 ^ 36 + pc.val * 2 ^ 30 + r.row % 2 ^ 20 * 1024)).setRowSlot chan slot.val
        { r with reserved := false }
    else s)

/-! ### END (R21 to R25, R189) -/

/-- The dispatch entry of a chain has ended (R9). -/
def endEntries (chain : Nat) (loads : List (List LoadEnt)) : List (List LoadEnt) :=
  loads.map fun l => l.map fun e => if e.st == .running chain then { e with st := .ended } else e

/-- A chain holds nothing any more but its scratchpad: rows, page sets, and its place in the graph (R9, R23). -/
def State.chainOver (s : State) (core chain : Nat) (c : Context) : State :=
  let s1 := s.mapRows chain RowSlot.freed
  let s2 := c.psets.foldl (fun s e => s.freePset (core / 32) e.2) s1
  { s2 with graphs := s2.graphs.map fun e => (e.1, { e.2 with loads := endEntries chain e.2.loads }) }

/-- Issued stores of a bank all perform, those behind captured instructions too, since the queue is given up (R348). -/
def State.letGo (s : State) (core : Nat) (second : Bool) (t : Task) : Nat → State
  | 0 => s
  | n + 1 =>
    match splitEntry (s.bankOf core second).fly 0 with
    | none => s
    | some (before, e, after) =>
      let s1 := s.performEntry core second t before e after
      (s1.setBankOf core second { s1.bankOf core second with fly := before ++ after }).letGo core second t n

/-- Captured instructions of a bank are given up, and its issued stores perform. -/
def State.giveUp (s : State) (core : Nat) (second : Bool) (t : Task) : State :=
  (s.setBankOf core second { s.bankOf core second with rq := [], susp := [] }).letGo core second t 8

/-- The issued stores of a second bank that may perform do, from the k-th on; one that stands behind a captured instruction
stays in the context and performs later (R348, R349). -/
def State.performAll (s : State) (core : Nat) (t : Task) : Nat → Nat → State
  | 0, _ => s
  | n + 1, k =>
    match splitEntry (s.core core).other.fly k with
    | none => s
    | some (before, e, after) =>
      let s1 := s.performEntry core true t before e after
      s1.performAll core t n (if (s1.core core).other.fly.length < (s.core core).other.fly.length then k else k + 1)

/-- The code object of a core's task stands in its instruction buffer; lines beyond it hold zeros (R293). -/
def State.loadText (s : State) (core : Nat) (text : List Byte) : State :=
  let s1 := { s with mem := Sparse.eraseRange s.mem (codePlace core 0) (2 ^ 18) }
  s1.putBytes (codePlace core 0) text

/-- The instruction buffer of a core for the task in its active bank. -/
def State.loadCode (s : State) (core : Nat) : State :=
  match (s.bank core).task with
  | none => s
  | some t => match s.codeOf t with
    | none => s
    | some c => s.loadText core c.text

/-- Ask the selector of a partition to look again: a core and its task's quota are freed (R329). -/
def State.wantSelect (s : State) (part core : Nat) : State :=
  s.setPart part { s.part part with select := true, freed := core :: (s.part part).freed }

/-- A cluster's first chain, by the core a context of it stands on (R19). -/
def Context.cluster (c : Context) (core : Nat) : Option Nat :=
  match c.task with
  | some t => if t.clustered then some (t.serial - core % 4) else none
  | none => none

/-- A pre-emption that finds its core freed: the incoming context starts there (R25). A member of a cluster is switched in
with its mates (R19), and waits for the boundary of what still runs on their cores. -/
def State.takeFreed (s : State) (core : Nat) : State :=
  let k := s.core core
  if k.preq && k.incoming && (k.other.cluster core).isSome then s
  else if k.preq && k.incoming then
    let inn := k.other.task.map fun t => t.serial
    ((s.setCore core
      { k with bank := k.other, other := Context.reset, preq := false, incoming := false, swapping := true }).meet core none inn).loadCode core
  else s.setCore core { k with preq := false }

/-- Another member of the cluster of a task on a core is live, resident or not (R22). -/
def State.matesLive (s : State) (core : Nat) (t : Task) : Bool :=
  t.clustered && (List.range 4).any fun j =>
    j != core % 4 && (s.contexts (groupBase core + j)).any fun c => c.isChain (t.serial - core % 4 + j)

/-- The chain's scratchpad on a core is released: it holds nothing of a task any more. -/
def State.freeSpad (s : State) (core chain : Nat) : State :=
  let s1 := s.forgetSpad core chain
  if (s1.bank core).task.isNone then s1.meet core none none else s1

/-- Scratchpads when a task on a core has ended: its own is released, but for a member of a cluster, whose contents stay
while another member lives and are all released with the last one (R22, R23). -/
def State.releaseSpads (s : State) (core : Nat) (t : Task) : State :=
  if s.matesLive core t then (if (s.bank core).task.isNone then s.meet core (some t.serial) none else s)
  else if t.clustered then
    (List.range 4).foldl (fun s j => s.freeSpad (groupBase core + j) (t.serial - core % 4 + j)) s
  else s.freeSpad core t.serial

/-- END without successor is performed (R23, R25). -/
def State.endLast (s : State) (core : Nat) (t : Task) : State :=
  let s1 := s.giveUp core false t
  let s2 := s1.chainOver core t.serial (s1.bank core)
  let s3 := s2.setCore core { s2.core core with bank := Context.reset }
  ((s3.releaseSpads core t).takeFreed core).wantSelect t.part core

/-- END with a successor is performed (R24): asynchronous events that are due come before the successor's first
instruction (R25, R344). -/
def State.endNext (s : State) (core : Nat) (t : Task) (index : Nat) (e : TaskEnt) : State :=
  let c := (s.bank core).succeed { t with index := index } e
  s.setBank core { c with atBound := (s.setBank core c).interrupted core }

/-- END (R189). A successor whose first instruction fails R151 raises BAD_TARGET when END is about to be performed, and the
trap resumes after END (DESIGN CHOICE, log 73: R342 names the instruction after the slot, and END has none). -/
def execEndTask (next : BitVec 32) (s : State) : Out :=
  let i : Instr := .endTask next
  .next (issue i (fun _ => []) (fun s t =>
    let c := s.ctx
    let table := match s.codeOf t with | some o => o.tasks | none => []
    let live := c.blocks.filter fun e => e.2.2.live
    if next == 0xFFFFFFFF then
      if c.remote then .trap s cClusterExit 0
      else if !live.isEmpty then .wait s wBarrier
      else if c.fly.any fun e => !c.holds e then .stall
      else .final (s.endLast s.cur t) true
    else
      match table[next.toNat]? with
      | none => .trap s cIllegal (word0 i)
      | some e =>
        if c.remote then .trap s cClusterExit 0
        else if !live.isEmpty then .wait s wBarrier
        else if c.fly.any fun e => !c.holds e then .stall
        else if !s.targetOk s.cur (BitVec.ofNat 64 e.start) then .trapNext cBadTarget (BitVec.ofNat 64 e.start)
        else .final (s.endNext s.cur t next.toNat e) true) s)

/-! ### Pre-emption (R352 to R355) -/

/-- The cores of the group of a core. -/
def groupOf (core : Nat) : List Nat := (List.range 4).map fun j => groupBase core + j

/-- Clusters that move with a core: that of its task or, where it has none, the one that is resident on its group, and that
of the context it waits for (R19, R22). -/
def State.clusterKeys (s : State) (core : Nat) : List Nat :=
  let k := s.core core
  (if k.bank.task.isSome then (k.bank.cluster core).toList else (groupOf core).filterMap fun j => (s.bank j).cluster j)
    ++ (if k.incoming then (k.other.cluster core).toList else [])

/-- The cores that are pre-empted and resumed in one step with a core: those of the live members of its cluster and of the
cluster that comes to it, else itself (R19, R355). -/
def State.together (s : State) (core : Nat) : List Nat :=
  let keys := s.clusterKeys core
  let of (x : Option Nat) : Bool := match x with | some n => keys.contains n | none => false
  (groupOf core).filter fun j =>
    j == core || of ((s.bank j).cluster j) || ((s.core j).incoming && of ((s.core j).other.cluster j))

/-- The core stands at a boundary at which a pre-emption may be taken (R344, R352): a stopped task keeps its core (R351),
and a member that waits for the others of its cluster has issued nothing. -/
def State.ready (s : State) (core : Nat) : Bool :=
  let k := s.core core
  let c := k.bank
  !k.swapping && (c.task.isNone || (!c.stopped && c.boundary && c.owed.isNone && ((c.halted && !c.asyncDue) || s.apart core)))

/-- An agent of a core's active task waits for no page walk any more. -/
def Agent.ofCore (core : Nat) : Agent → Bool
  | .instr c => c == core
  | .gen c _ _ _ => c == core
  | .copy c _ => c == core

/-- Copies of a chain stop at a granule and are saved with it (R113). Saved copies have numbers from 512 up. -/
def State.saveCopies (s : State) (core chain : Nat) : State :=
  let mine := (s.core core).copies.filter fun e => e.2.owner == chain && decide (e.1 < 512)
  mine.foldl (fun s e =>
    let lim := e.2.off + Config.choose s.turn % (e.2.n - e.2.off + 1)
    let s0 : State := { s with turn := s.turn + 1 }
    let s1 := if e.2.st == .moving && !s.copyHeld core e.2 then s0.advanceCopy core e.1 lim else s0
    let c := (s1.copy core e.1).getD e.2
    let all := (s1.core core).copies
    let k := ((List.range (all.length + 1)).find? fun j => (Sparse.find all (512 + j)).isNone).getD 0 + 512
    let c1 : Copy := if c.off = c.n then c else { c with msg := 0, got := [] }
    s1.moveSlot core e.1 k { c1 with st := if c.st == .faulted then .faulted else .saved }) s

/-- A context as it is switched out: unfinished instructions captured, the waiting instruction unissued (R348, R352,
R353). Until it comes back it shows NO_CAPABLE_PAGE (R297, R329). -/
def Context.leave (c : Context) : Context :=
  let cap := captureFly c.fly
  let c1 : Context :=
    { c with susp := c.susp ++ cap.1, wait := BitVec.ofNat 4 wNoPage, retry := false, idle := none, atBound := false, walkTrap := none,
             fillMsg := 0, fillData := [] }
  { c1 with fly := c1.trim cap.2 }

/-- The instruction at issue on a core waits for the answer to no fault record any more: it checks again when its task comes
back (R344). -/
def State.dropInstr (s : State) (core : Nat) : State :=
  { s with parts := s.parts.map fun p =>
      (p.1, { p.2 with records := p.2.records.map fun r => { r with agents := r.agents.filter fun a => a != .instr core } }) }

/-- The swap of one core begins: the outgoing task leaves its bank, and the banks exchange roles (R352 to R354). -/
def State.swapCore (s : State) (core : Nat) : State :=
  let c := s.bank core
  let out := c.task.map fun t => t.serial
  let s1 := match out with | some n => (s.saveCopies core n).mapRows n RowSlot.leave | none => s
  let s2 := (({ s1 with walks := s1.walks.map fun w => { w with agents := w.agents.filter fun a => !a.ofCore core } } : State)).dropInstr core
  let k := s2.core core
  let inn := if k.incoming then k.other.task.map fun t => t.serial else none
  let s3 := s2.setCore core
    { k with bank := if k.incoming then { k.other with wait := 0 } else Context.reset, other := k.bank.leave, incoming := false, preq := false,
             swapping := true, spilling := k.bank.task.isSome }
  (s3.meet core out inn).loadCode core

/-- PREEMPTION: the request is taken at a boundary, by the members of a cluster in one step. -/
def execPreemption (core : CoreId) (s : State) : Out :=
  let c := core.val
  let all := (s.together c).filter fun j => (s.core j).preq
  .next (if !(s.core c).preq || !s.due.isEmpty || !(all.all fun j => s.ready j) then s
    else all.foldl (fun s j => s.swapCore j) s)

/-- The incoming context of a core takes back its rows and unfinished instructions: whether it is ready to issue
(R118, R349, R352). Those of a task that has stopped wait in the replay queue for its RETT (R351). -/
def State.comeBack (s : State) (core : Nat) : State × Bool :=
  let c := s.bank core
  match c.task with
  | none => (s, true)
  | some t =>
    if s.rowsAway t.serial then (if c.stopped then s else s.setBank core { c with wait := BitVec.ofNat 4 wRowHeld }, false)
    else if c.stopped then
      (s.setBank core { c with rq := c.rq ++ c.susp.filter (fun e => !e.hand), susp := [] }, true)
    else
      match ({ s with cur := core } : State).inject t [] c.susp with
      | .done s1 back =>
        (s1.mapCtx fun d => { ({ d with susp := [] } : Context).putBack back with wait := 0, walkTrap := none }, true)
      | .wait s1 code back left =>
        (s1.mapCtx fun d => { ({ d with susp := left } : Context).putBack back with wait := BitVec.ofNat 4 code }, false)
      | .trap s1 cause info back left =>
        let s2 := s1.mapCtx fun d => ({ d with susp := [] } : Context).putBack back
        let s3 := s2.syncTrap core t cause info c.pc c.pc
        let d := s3.bank core
        if !(d.stopped || d.trapst) then (s3.setBank core { d with susp := left }, false)
        else (s3.setBank core { d with rq := d.rq ++ left.filter fun e => !(c.trapst && e.hand) }, true)

/-- SWAP_COMPLETE: the incoming context of a core, or of all cores of a cluster, issues its first instruction, once the core
has power (R414). -/
def execSwapComplete (core : CoreId) (s : State) : Out :=
  let c := core.val
  let all := (s.together c).filter fun j => (s.core j).swapping
  .next (if !(s.core c).swapping || !s.powered c then s
    else
      let r := all.foldl (fun (r : State × Bool) j => let x := r.1.comeBack j; (x.1, r.2 && x.2)) (s, true)
      if !r.2 then r.1
      else all.foldl (fun s j =>
        (s.setCore j { s.core j with swapping := false }).seatCopies j) r.1)

/-! ### The save record (R354, R400) -/

/-- Saved value of control register n of a context, whether or not the task may read it outside trap state; 0 where it has
none. -/
def State.savedReg (s : State) (core : Nat) (c : Context) (t : Task) (n : Nat) : Word :=
  match (({ s with cur := core } : State).setBank core { c with trapst := c.trapst || n != 0x80 }).crRead t n with
  | .val v => v
  | _ => 0

/-- The control registers of a save record are written to the partition's save region (R400). -/
def State.writeRecord (s : State) (core : Nat) (c : Context) (t : Task) : State :=
  let base := 131072 * core + 0x1000
  (List.range 256).foldl (fun s1 n => s1.writeNat (savePlace t.part (base + 8 * n)) (s.savedReg core c t n).toNat 8) s

/-- BANK_SPILL_DONE: the outgoing bank is in its save record. -/
def execBankSpillDone (core : CoreId) (s : State) : Out :=
  let c := core.val
  let k := s.core c
  .next (match k.other.task with
    | some t =>
      if k.spilling && !k.swapping then
        let s1 := s.writeRecord c k.other t
        s1.setCore c { s1.core c with spilling := false }
      else s
    | none => s.setCore c { k with spilling := false })

end Sys2Proof.Machine
end

