-- ==== Sys2Proof/Machine/Scheduler.lean ====
section
/-!
DEFINITION. The command processor: queues and launch packets (R322 to R325), graphs (R326, R327, R376), the selector and
dispatch (R328 to R332, R410).
-/

namespace Sys2Proof.Machine

/-! ### Rings (R322, R324) -/

/-- Units of 16 bytes in a queue's ring. -/
def Queue.units (q : Queue) : Nat := 2 ^ (q.logsz.toNat - 4)

/-- Units between RD and WR. -/
def Queue.avail (q : Queue) : Nat := (q.wr.toNat + q.units - q.rd.toNat % q.units) % q.units

/-- Unit i from RD on; a packet may wrap past the end of the ring. -/
def State.ringUnit (s : State) (part : Nat) (q : Queue) (i : Nat) : Nat :=
  s.natAt (placeOf part (q.base.toNat + 16 * ((q.rd.toNat + i) % q.units))) 16

/-- A packet read: its fields, its fabric-load records with whether a reserved bit is set, and its length by the
records. -/
structure Packet where
  type : Nat
  nload : Nat
  size : Nat
  code : Nat
  gtag : BitVec 16
  wkind : BitVec 2
  widx : Nat
  ckind : BitVec 2
  cidx : Nat
  wval : Word
  cval : Word
  bad : Bool
  loads : List (List LoadEnt)
  recBad : Bool
  len : Nat
  deriving DecidableEq, Repr

/-- The entry at a unit: five units (R324). -/
def State.ringEntry (s : State) (part : Nat) (q : Queue) (i : Nat) : LoadEnt × Bool :=
  let h := s.ringUnit part q i
  let arg (k : Nat) : Word := BitVec.ofNat 64 (s.ringUnit part q (i + 1 + k / 2) / 2 ^ (64 * (k % 2)))
  (⟨h % 2 ^ 16, h / 2 ^ 16 % 2 ^ 16, BitVec.ofNat 12 (h / 2 ^ 32), (List.range 8).map arg, .waiting 0⟩, h / 2 ^ 44 != 0)

/-- Fabric-load records from a unit on: entries, whether a reserved bit is set or NENT is outside 1 to 384, and the unit
after the last. -/
def State.ringLoads (s : State) (part : Nat) (q : Queue) : Nat → Nat → List (List LoadEnt) × Bool × Nat
  | 0, i => ([], false, i)
  | n + 1, i =>
    let h := s.ringUnit part q i
    let nent := h % 2 ^ 9
    let es := (List.range nent).map fun k => s.ringEntry part q (i + 1 + 5 * k)
    let r := s.ringLoads part q n (i + 1 + 5 * nent)
    (es.map (fun e => e.1) :: r.1, r.2.1 || decide (384 < nent) || nent == 0 || h / 2 ^ 9 != 0 || es.any (fun e => e.2), r.2.2)

/-- The packet at RD. -/
def State.packet (s : State) (part : Nat) (q : Queue) : Packet :=
  let a := s.ringUnit part q 0
  let b := s.ringUnit part q 1
  let nload := a / 2 ^ 8 % 2 ^ 8
  let r := if a % 256 = 1 && nload ≤ 64 then s.ringLoads part q nload 2 else ([], false, 2)
  { type := a % 256, nload := nload, size := a / 2 ^ 16 % 2 ^ 16, code := a / 2 ^ 32 % 2 ^ 16,
    gtag := BitVec.ofNat 16 (a / 2 ^ 48), wkind := BitVec.ofNat 2 (a / 2 ^ 88), widx := a / 2 ^ 90 % 2 ^ 12,
    ckind := BitVec.ofNat 2 (a / 2 ^ 102), cidx := a / 2 ^ 104 % 2 ^ 12, wval := BitVec.ofNat 64 b,
    cval := BitVec.ofNat 64 (b / 2 ^ 64), bad := a / 2 ^ 64 % 2 ^ 24 != 0 || a / 2 ^ 116 != 0,
    loads := r.1, recBad := r.2.1, len := r.2.2 }

/-! ### Masks and capability (R297, R325, R370) -/

/-- Feature mask of a die of a partition. -/
def State.maskOf (s : State) (part die : Nat) : Nat := (Sparse.get 0 (s.part part).masks die).toNat

/-- Dies of a partition that an entry allows. -/
def State.allowed (s : State) (part : Nat) (dies : BitVec 12) : List Nat :=
  (List.range 12).filter fun d => (s.part part).hasDie d && (dies == 0 || dies.getLsbD d)

/-- Tasks of a code object by entries; none for an entry outside the table. -/
def entTasks (c : Code) (es : List LoadEnt) : List TaskEnt := es.filterMap fun e => c.tasks[e.task]?

/-- Some group of four cores of a die is not fused off. -/
def groupWhole (die : Nat) : Bool :=
  (List.range 8).any fun k => (List.range 4).all fun j => !Config.coreFused (32 * die + 4 * k + j)

/-- Units of dispatch among a load's entries: positions and entries, the four members of a cluster together (R324,
R328). -/
def unitsFrom : Nat → List (Nat × LoadEnt) → List (List (Nat × LoadEnt))
  | 0, _ => []
  | _, [] => []
  | n + 1, e :: es =>
    if e.2.clu = 0xFFFF then [e] :: unitsFrom n es else (e :: es.take 3) :: unitsFrom n (es.drop 3)

/-- Units of a fabric load. -/
def loadUnits (es : List LoadEnt) : List (List (Nat × LoadEnt)) := unitsFrom es.length (withPos es)

/-- A cluster's entries agree with CLUSTERS (R324). -/
def clusterAgrees (c : Code) (u : List LoadEnt) : Bool :=
  match u with
  | [] => true
  | e :: _ =>
    e.clu == 0xFFFF || (u.length == 4 && (u.all fun x => x.clu == e.clu) && c.clusters[e.clu]? == some (u.map fun x => x.task))

/-- A die can ever hold a unit (R325). -/
def State.couldHold (s : State) (part : Nat) (c : Code) (u : List LoadEnt) : Bool :=
  let dies := (List.range 12).filter fun d => u.all fun e => (s.allowed part e.dies).contains d
  dies.any fun d => ((entTasks c u).all fun t => subMaskOf t.fset (s.maskOf part d)) && (u.length == 1 || groupWhole d)

/-- The first check of R325 a packet fails; 0 for none. -/
def State.packetErr (s : State) (part : Nat) (q : Queue) (p : Packet) : Nat :=
  let us := p.loads.flatMap fun l => (loadUnits l).map fun u => u.map fun e => e.2
  if p.type != 0 && p.type != 1 then 1
  else if p.type = 0 && p.nload != 0 then 1
  else if q.avail < 2 || q.avail < p.size then 2
  else if p.type = 1 && (p.nload = 0 || 64 < p.nload) then 3
  else if p.size != p.len then 2
  else if p.bad || p.recBad || p.ckind == 3 || p.wkind == 3 then 3
  else if p.type = 0 then 0
  else
    match Sparse.find s.codes (65536 * part + p.code) with
    | none => 4
    | some c =>
      if p.loads.any (fun l => l.any fun e => decide (c.tasks.length ≤ e.task)) || !us.all (clusterAgrees c) then 5
      else if (p.wkind == 2 && decide (255 < p.widx)) || (p.ckind == 2 && decide (255 < p.cidx)) then 6
      else if !us.all (s.couldHold part c) then 7
      else 0

/-- The 32 bytes of a COMPLETION record (R366). -/
def State.completion (s : State) (part q : Nat) (gtag : BitVec 16) (status : Nat) (cvalue : Word) : List Byte :=
  bytesOf (gtag.toNat + q % 512 * 2 ^ 16) 4 ++ [(s.part part).epoch, BitVec.ofNat 8 status] ++ bytesOf 0 2
    ++ bytesOf cvalue.toNat 8 ++ bytesOf 0 16

/-- A COMPLETION goes out on its queue's channel (R366). -/
def State.complete (s : State) (part q : Nat) (gtag : BitVec 16) (status : Nat) (cvalue : Word) : State :=
  s.emit part q mtCompletion 0 (s.completion part q gtag status cvalue)

/-- RD moves past n units. -/
def Queue.consume (q : Queue) (n : Nat) : Queue := { q with rd := BitVec.ofNat 32 ((q.rd.toNat + n) % q.units) }

/-- A packet is read from an ACTIVE queue: refused, skipped, or accepted as a graph (R323 to R327). The queue's KICK bit is
cleared before WR is read, and the change is journalled before anything leaves (R339). -/
def State.readPacket (s : State) (part qn : Nat) (nop : Bool) : State :=
  let q : Queue := { s.queue part qn with kick := false }
  if !(s.part part).live || q.st != .active || q.avail = 0 then s
  else
    let p := s.packet part q
    if (p.type == 0) != nop then s
    else
      let err := s.packetErr part q p
      let q1 : Queue := if err != 0 then { q with st := .error }
        else { q.consume p.size with st := if nop then .active else .headWait }
      let g : Graph := ⟨part, qn, p.gtag, p.code, p.ckind, p.cidx, p.cval, p.wkind, p.widx, p.wval, p.loads, .waiting, 0⟩
      match s.batch (.qread qn q1.rd :: if err != 0 || nop then [] else [.gstate s.graphNo g]) with
      | none => s
      | some s0 =>
        let s1 := s0.setQueue part qn q1
        if err != 0 then s1.complete part qn p.gtag err 0
        else if nop then s1
        else ({ s1 with graphs := s1.graphs.set s1.graphNo g, graphNo := s1.graphNo + 1 } : State).testGraph s1.graphNo

/-- LAUNCH. -/
def execLaunch (part : PartId) (q : Fin 512) (s : State) : Out := .next (s.readPacket part.val q.val false)

/-- NOP. -/
def execNop (part : PartId) (q : Fin 512) (s : State) : Out := .next (s.readPacket part.val q.val true)

/-- KICK_CLEAR: the command processor clears a KICK bit (R338). -/
def execKickClear (part : PartId) (q : Fin 512) (s : State) : Out :=
  .next (if s.cpServes then s.kickClear part.val (q.val / 64) ((1 : Word) <<< (q.val % 64)) else s)

/-! ### Graphs (R9, R327, R376) -/

/-- Entries of a graph's current load. -/
def Graph.load (g : Graph) : List LoadEnt := g.loads.getD g.k []

/-- Some core still has a copy of a fabric load (R9). -/
def State.loadCopies (s : State) (graph k : Nat) : Bool :=
  s.cores.any fun e => e.2.copies.any fun c => c.2.graph == graph && c.2.load == k

/-- FABRIC_LOAD_END: every task of the running load has ended and no copy of it is left. -/
def execFabricLoadEnd (part : PartId) (graph : Nat) (s : State) : Out :=
  .next (match Sparse.find s.graphs graph with
    | none => s
    | some g =>
      if g.part == part.val && g.st == .running && (g.load.all fun e => e.st == .ended) && !s.loadCopies graph g.k then
        let g1 := if g.k + 1 < g.loads.length then { g with st := .ready, k := g.k + 1 } else { g with st := .completing }
        match s.batch [.gstate graph g1] with
        | none => s
        | some s0 => { s0 with graphs := s0.graphs.set graph g1 }
      else s)

/-- No DEV_WRITE of a partition is unacknowledged (R376). -/
def State.writesVisible (s : State) (part : Nat) : Bool :=
  let c := s.chan (chanKey part memChan)
  !(c.unacked.any fun m => m.type == mtDevWrite) && !(c.queued.any fun m => m.type == mtDevWrite)

/-- CKIND is applied, once; the counter or barrier doubleword the completion record shows (R324, R366). -/
def State.applyCkind (s : State) (g : Graph) : State × Word :=
  if g.ckind == 1 then
    let v := s.counter g.part g.cidx + g.cval
    (({ s with counters := s.counters.set (4096 * g.part + g.cidx) v } : State).testGraphs g.part, v)
  else if g.ckind == 2 then
    let o := BitVec.ofNat 128 ((BarObj.ofBits (s.barrier g.part g.cidx).toNat).add (g.cval.toNat % 2 ^ 48)).bits
    (({ s with barriers := s.barriers.set (256 * g.part + g.cidx) o } : State).testGraphs g.part, o.extractLsb' 64 64)
  else (s, 0)

/-- The record of the counter or barrier object that CKIND changes. -/
def State.ckindRec (s : State) (g : Graph) : List JRec :=
  let r := (s.applyCkind g).1
  if g.ckind == 1 then [.counter g.cidx (r.counter g.part g.cidx).toNat]
  else if g.ckind == 2 then [.counter g.cidx (r.barrier g.part g.cidx).toNat]
  else []

/-- GRAPH_COMPLETE: under the host-visibility rule CKIND is applied and then the COMPLETION is posted (R376); both are
journalled before it leaves (R339). -/
def execGraphComplete (part : PartId) (graph : Nat) (s : State) : Out :=
  .next (match Sparse.find s.graphs graph with
    | none => s
    | some g =>
      if g.part == part.val && g.st == .completing && s.writesVisible g.part then
        match s.batch (s.ckindRec g ++ [.gstate graph { g with st := .done }]) with
        | none => s
        | some s0 =>
          let r := s0.applyCkind g
          ({ r.1 with graphs := r.1.graphs.set graph { g with st := .done } } : State).complete g.part g.queue g.gtag 0 r.2
      else s)

/-! ### Units the selector chooses among (R328, R329) -/

/-- A unit: tasks not yet dispatched, by graph and entries, or switched-out tasks, by the cores and chains they come back
on. With its age, priority and queue. -/
structure DispUnit where
  graph : Nat
  ents : List (Nat × LoadEnt)
  back : List (Nat × Nat)
  age : Nat
  prio : Nat
  queue : Nat
  deriving DecidableEq, Repr

/-- The switched-out contexts of a core. -/
def State.outOf (s : State) (core : Nat) : List Context :=
  let k := s.core core
  (if k.other.task.isSome && !k.incoming && !k.spilling then [k.other] else []) ++ Sparse.get [] s.saved core

/-- Age of an entry not yet dispatched. -/
def EntSt.age : EntSt → Nat
  | .waiting a => a
  | _ => 0

/-- Units of a graph not yet dispatched, in entry order. -/
def State.freshUnits (s : State) (k : Nat) (g : Graph) : List DispUnit :=
  if g.st == .ready || g.st == .running then
    ((loadUnits g.load).filter fun u => u.all fun e => match e.2.st with | .waiting _ => true | _ => false).map fun u =>
      ⟨k, u, [], (u.headD (0, ⟨0, 0, 0, [], .ended⟩)).2.st.age, (s.queue g.part g.queue).prio.toNat, g.queue⟩
  else []

/-- Switched-out units of a core of a partition; a cluster stands under its first member that is left. -/
def State.backUnits (s : State) (part core : Nat) : List DispUnit :=
  (s.outOf core).filterMap fun c =>
    match c.task with
    | none => none
    | some t =>
      if t.part != part then none
      else if !t.clustered then some ⟨t.graph, [], [(core, t.serial)], t.age, t.prio, t.queue⟩
      else
        let first := t.serial - core % 4
        let mates := (List.range 4).filter fun j => (s.outOf (groupBase core + j)).any fun d => d.isChain (first + j)
        if mates.headD 4 = core % 4 then
          some ⟨t.graph, [], mates.map fun j => (groupBase core + j, first + j), t.age, t.prio, t.queue⟩
        else none

/-- Every unit the selector may choose, graphs in order of acceptance, what was switched out before what is new. -/
def State.units (s : State) (part : Nat) : List DispUnit :=
  let backs := (List.range Config.computeCores).flatMap fun c => s.backUnits part c
  (s.graphs.filter fun e => e.2.part == part).flatMap fun e =>
    (backs.filter fun u => u.graph == e.1) ++ s.freshUnits e.1 e.2

/-! ### Cores and dies that can take a unit (R331, R332, R410, R414) -/

/-- Pages of a die that reserved quotas have not taken (R17): switched-out tasks keep theirs. -/
def State.unreserved (s : State) (die : Nat) : Nat := 256 - ((s.dieTasks die).map fun t => t.quota).sum

/-- A cluster is resident on the group of a core: a core of the group whose own member has ended still keeps that member's
scratchpad for it (R22; log 75). -/
def State.groupTaken (s : State) (core : Nat) : Bool := (groupOf core).any fun j => ((s.bank j).cluster j).isSome

/-- A core can be used, no task holds its active bank, and none that is switched out its second bank (R332). -/
def State.coreEmpty (s : State) (core : Nat) : Bool :=
  let k := s.core core
  !Config.coreFused core && s.clusterUsable (core / 32) (core % 32 / 4) && k.bank.task.isNone && k.other.task.isNone
    && !k.spilling && !k.swapping && !k.preq

/-- A core is free (R332), and no resident cluster keeps its scratchpad (R22). -/
def State.coreFree (s : State) (core : Nat) : Bool := s.coreEmpty core && !s.groupTaken core

/-- A running task that a unit may displace (R328, R329): of lower priority, or of equal priority and a whole quantum
old. -/
def Task.victimFor (t : Task) (prio qtime : Nat) : Bool := decide (prio < t.prio) || (t.prio == prio && decide (t.since < qtime))

/-- The task of a core may be displaced by a unit, and its second bank can take what comes; a stopped task keeps its core
(R351), and a cluster of cores with a power request has left dispatch (R414). -/
def State.victim (s : State) (part prio core : Nat) : Bool :=
  let k := s.core core
  match k.bank.task with
  | none => false
  | some t => t.part == part && t.victimFor prio (s.part part).qtime.toNat && s.clusterUsable (core / 32) (core % 32 / 4)
      && !k.bank.stopped && !k.swapping && !k.preq && !k.incoming && !k.spilling

/-- Every task that must leave with the task of a core, or with the cluster that keeps an empty core's scratchpad, can be
displaced (R19, R22, R329). -/
def State.yields (s : State) (part prio core : Nat) : Bool :=
  (s.together core).all fun j => s.victim part prio j || (s.bank j).task.isNone

/-- Whether a core can be had: it is free, or what holds it can be displaced. -/
def State.coreHad (s : State) (part prio core : Nat) : Bool :=
  ((s.bank core).task.isSome || s.coreEmpty core) && s.yields part prio core

/-- The cluster of a core has power, or is gated and can be woken for a switched-out task (R414). -/
def State.canWake (s : State) (core : Nat) : Bool :=
  match (s.cluster (core / 32) (core % 32 / 4)).st with
  | .pend | .saving => false
  | _ => true

/-- A core stands idle and nothing comes to it or leaves it. -/
def State.idle (s : State) (core : Nat) : Bool :=
  let k := s.core core
  s.canWake core && k.bank.task.isNone && !k.swapping && !k.preq && !k.incoming && !k.spilling

/-- The cores of a unit can be had. -/
def State.setHad (s : State) (part prio : Nat) (cs : List Nat) : Bool := cs.all fun c => s.coreHad part prio c

/-- The cores of a die that a unit of n tasks can take, in the order of R331: single cores, or groups of four. -/
def coreSets (die n : Nat) : List (List Nat) :=
  if n = 1 then (List.range 32).map fun k => [32 * die + k]
  else (List.range 8).map fun k => (List.range 4).map fun j => 32 * die + 4 * k + j

/-- Tasks of a fresh unit. -/
def State.unitTasks (s : State) (part : Nat) (u : DispUnit) : List TaskEnt :=
  match Sparse.find s.graphs u.graph with
  | none => []
  | some g => match Sparse.find s.codes (65536 * part + g.code) with
    | none => []
    | some c => entTasks c (u.ents.map fun e => e.2)

/-- Dies that may hold a fresh unit, power and free cores apart. -/
def State.unitDies (s : State) (part : Nat) (u : DispUnit) : List Nat :=
  let ts := s.unitTasks part u
  let need := (ts.map fun t => t.quota).sum
  (List.range 12).filter fun d => (u.ents.all fun e => (s.allowed part e.2.dies).contains d)
    && (ts.all fun t => subMaskOf t.fset (s.maskOf part d)) && decide (need ≤ s.unreserved d)

/-- The free cores a fresh unit takes on a die. -/
def State.freeSet (s : State) (u : DispUnit) (die : Nat) : Option (List Nat) :=
  (coreSets die u.ents.length).find? fun cs => cs.all s.coreFree

/-- The die with the fewest unreserved pages, the lower of equals (R331). -/
def State.tightest (s : State) : List Nat → Option Nat
  | [] => none
  | d :: ds => match s.tightest ds with
    | none => some d
    | some e => if s.unreserved e < s.unreserved d then some e else some d

/-- Where a fresh unit goes: an ONLINE die with free cores, else a gated one that may be woken (R331, R410). -/
def State.placeFor (s : State) (part : Nat) (u : DispUnit) : Option (Nat × List Nat) :=
  let dies := (s.unitDies part u).filter fun d => (s.freeSet u d).isSome
  let on := dies.filter fun d => (s.die d).st == .online
  let off := dies.filter fun d => ((s.die d).st == .gated && (s.die d).autowake) || ((s.die d).st == .waking && (s.die d).autowake)
  match s.tightest (if on.isEmpty then off else on) with
  | none => none
  | some d => (s.freeSet u d).map fun cs => (d, cs)

/-- Switched-out tasks can come back at once: their cores stand idle, and no resident cluster keeps a scratchpad of them
(R22, R332). -/
def State.backFits (s : State) (u : DispUnit) : Bool :=
  u.back.all fun e => s.idle e.1 && !s.groupTaken e.1

/-- Switched-out tasks can come back if what runs on their cores is displaced. -/
def State.backHad (s : State) (part : Nat) (u : DispUnit) : Bool :=
  u.back.all fun e => ((s.bank e.1).task.isSome || s.idle e.1) && s.yields part u.prio e.1

/-- The wait reason a task shows before it is dispatched: POWER_WAKE where every die that could take it is gated or on its
way there and may be woken (R410), else NO_CAPABLE_PAGE (R17, R297, R329, R356). One that is switched out shows
NO_CAPABLE_PAGE in its bank. -/
def State.shows (s : State) (part : Nat) (u : DispUnit) : BitVec 4 :=
  let ds := s.unitDies part u
  if (ds.all fun d => (s.die d).st != .online) && ds.any fun d => (s.die d).autowake then BitVec.ofNat 4 wPowerWake
  else BitVec.ofNat 4 wNoPage

/-- A unit fits without pre-emption. -/
def State.fits (s : State) (part : Nat) (u : DispUnit) : Bool :=
  if u.back.isEmpty then (s.placeFor part u).isSome else s.backFits u

/-- A unit is eligible (R328): it would fit if everything it may displace were pre-empted. -/
def State.eligible (s : State) (part : Nat) (u : DispUnit) : Bool :=
  if u.back.isEmpty then
    (s.unitDies part u).any fun d => (coreSets d u.ents.length).any fun cs => s.setHad part u.prio cs
  else s.backHad part u

/-! ### Dispatch (R331, R332, R352) -/

/-- The context of a task about to be dispatched (R142, R298, R359). -/
def State.newContext (s : State) (t : Task) (e : TaskEnt) (args : List Word) : Context :=
  let formats := match s.codeOf t with | some c => c.formats | none => []
  let c : Context := { Context.reset with
    wdlim := (s.ctxInfo t.part t.ctx).wdlim, ft := formats.foldl (fun m x => m.set x.1 x.2) [] }
  c.begin t e args

/-- A context comes to a core that has no active task: it waits with POWER_WAKE while the core has no power (R331, R414). -/
def State.startOn (s : State) (core : Nat) (c : Context) (swap : Bool) : State :=
  let chain := match c.task with | some t => some t.serial | none => none
  let k := s.core core
  let c1 : Context := if s.powered core then c else { c with wait := BitVec.ofNat 4 wPowerWake }
  ((s.setCore core { k with bank := c1, swapping := swap }).meet core none chain).loadCode core

/-- A second bank that holds a switched-out context makes room: the context is in its save record. -/
def State.setAside (s : State) (core : Nat) : State :=
  let k0 := s.core core
  if k0.other.task.isSome && !k0.incoming then
    let s := match k0.other.task with | some t => s.performAll core t 8 0 | none => s
    let k := s.core core
    { s.setCore core { k with other := Context.reset } with saved := s.saved.set core (k.other :: Sparse.get [] s.saved core) }
  else s

/-- A context is filled into the second bank of a core and its pre-emption requested, with the other members of the
running task's cluster (R352, R355). -/
def State.askSwap (s : State) (core : Nat) (c : Context) : State :=
  let all := s.together core
  let s1 := (core :: all).eraseDups.foldl (fun s j => s.setAside j) s
  let s2 := s1.setCore core { s1.core core with other := c, incoming := true, preq := true }
  all.foldl (fun s j => if (s.core j).bank.task.isSome then s.setCore j { s.core j with preq := true } else s) s2

/-- Contexts come to their cores together: at once where all of the cores stand idle, else by one pre-emption of what runs
on them or keeps their scratchpads (R19, R22, R352). -/
def State.bring (s : State) (xs : List (Nat × Context)) (swap : Bool) : State :=
  if xs.all fun x => (s.core x.1).bank.task.isNone && !s.groupTaken x.1 then
    xs.foldl (fun s x => s.startOn x.1 x.2 swap) s
  else xs.foldl (fun s x => s.askSwap x.1 x.2) s

/-- The dispatched entries of a graph's current load, and the graph RUNNING (R327). -/
def Graph.dispatched (g : Graph) (ents : List (Nat × Nat)) : Graph :=
  let put (es : List LoadEnt) : List LoadEnt := (withPos es).map fun e =>
    match ents.find? fun x => x.1 == e.1 with | some x => { e.2 with st := .running x.2 } | none => e.2
  { g with st := .running, loads := (withPos g.loads).map fun l => if l.1 = g.k then put l.2 else l.2 }

/-- A fresh unit goes to cores of a die: the quota is reserved, a gated die is woken, and each task finds its first
state (R331). The graph's state and the places are journalled first (R339). -/
def State.dispatchTo (s : State) (part : Nat) (u : DispUnit) (die : Nat) (cs : List Nat) (since : Nat) : State :=
  match Sparse.find s.graphs u.graph with
  | none => s
  | some g =>
    match Sparse.find s.codes (65536 * part + g.code) with
    | none => s
    | some c =>
      let n := s.turn + 1
      match s.batch (.gstate u.graph (g.dispatched []) :: ((withPos u.ents).zip cs).map fun x =>
          .place x.2 (some x.1.2.2.task) (((c.tasks[x.1.2.2.task]?).map fun e => e.quota).getD 0)) with
      | none => s
      | some sj =>
      let s0 : State := { sj with turn := sj.turn + 8 }
      let took : List (Nat × Nat) := (withPos u.ents).map fun (e : Nat × Nat × LoadEnt) => (e.2.1, n + e.1)
      let s1 : State := { s0 with graphs := s0.graphs.set u.graph (g.dispatched took) }
      let s2 := if (s1.die die).st == .gated then s1.setDie die ((s1.die die).request 0) else s1
      let fresh (x : (Nat × Nat × LoadEnt) × Nat) : Option (Nat × Context) :=
        (c.tasks[x.1.2.2.task]?).map fun e =>
          let t : Task := ⟨part, c.ctx, g.code, x.1.2.2.task, e.quota, BitVec.ofNat 32 e.fset, u.graph, g.k, g.queue, u.prio,
            x.1.2.2.clu != 0xFFFF, n + x.1.1, since, 0⟩
          (x.2, s2.newContext t e x.1.2.2.args)
      s2.bring (((withPos u.ents).zip cs).filterMap fresh) false

/-- A switched-out chain leaves the second bank or the save region of its core to come back. -/
def State.fetchBack (s : State) (core chain : Nat) : State × Option Context :=
  let k := s.core core
  if k.other.isChain chain && !k.incoming then (s.setCore core { k with other := Context.reset }, some k.other)
  else
    let l := Sparse.get [] s.saved core
    ({ s with saved := s.saved.set core (l.filter fun c => !c.isChain chain) }, l.find? fun c => c.isChain chain)

/-- The cluster of cores that a switched-out task was chosen for is woken where it is gated (R414). -/
def State.wakeFor (s : State) (core : Nat) : State :=
  match (s.cluster (core / 32) (core % 32 / 4)).st with
  | .clkgated | .railgated => s.clusterWakeUp (core / 32) (core % 32 / 4)
  | _ => s

/-- The record of the task a core holds, and its quota. -/
def placeRec (core : Nat) (t : Option Task) : JRec :=
  match t with
  | some t => .place core (some t.index) t.quota
  | none => .place core none 0

/-- The record of a switched-out task that comes back. -/
def State.backRec (s : State) (core chain : Nat) : JRec :=
  placeRec core (((s.outOf core).find? fun c => c.isChain chain).bind fun c => c.task)

/-- Switched-out tasks come back on their own cores (R332), which are woken first (R414); their places are journalled first
(R339). -/
def State.resumeUnit (s : State) (u : DispUnit) (since : Nat) : State :=
  match s.batch (u.back.map fun e => s.backRec e.1 e.2) with
  | none => s
  | some s0 =>
    let r := u.back.foldl (fun (r : State × List (Nat × Context)) e =>
      match (r.1.wakeFor e.1).fetchBack e.1 e.2 with
      | (s1, some c) => (s1, r.2 ++ [(e.1, { c with wait := 0, task := c.task.map fun t => { t with since := since, age := 0 } })])
      | (_, none) => r) (s0, [])
    r.1.bring r.2 true

/-- A unit that fits is dispatched or comes back. -/
def State.dispatch (s : State) (part : Nat) (u : DispUnit) (since : Nat) : State :=
  if u.back.isEmpty then
    match s.placeFor part u with
    | some (d, cs) => s.dispatchTo part u d cs since
    | none => s
  else s.resumeUnit u since

/-! ### The selector (R329) -/

/-- Order of victims: lowest priority first, then the task dispatched most recently. -/
def victimBefore (a b : Task) : Bool := decide (b.prio < a.prio) || (a.prio == b.prio && decide (b.serial < a.serial))

/-- The last victim, in the order of R329, that taking some cores displaces, cluster mates included. -/
def State.lastVictim (s : State) (cs : List Nat) : Option Task :=
  ((cs.flatMap fun c => s.together c).filterMap fun c => (s.bank c).task).foldl (fun m t =>
    match m with
    | none => some t
    | some u => if victimBefore u t then some t else some u) none

/-- The set of cores that is free first as victims are taken one after another in the order of R329. -/
def State.bestSet (s : State) : List (List Nat) → Option (List Nat)
  | [] => none
  | cs :: rest =>
    match s.bestSet rest with
    | none => some cs
    | some ds => match s.lastVictim cs, s.lastVictim ds with
      | some a, some b => if victimBefore b a then some ds else some cs
      | none, _ => some cs
      | some _, none => some ds

/-- An urgent unit that does not fit is made to fit by pre-emption. -/
def State.force (s : State) (part : Nat) (u : DispUnit) (since : Nat) : State :=
  if u.back.isEmpty then
    let dies := (s.unitDies part u).filter fun d => (s.die d).st == .online
    let sets := dies.flatMap fun d => (coreSets d u.ents.length).filter fun cs => s.setHad part u.prio cs
    match s.bestSet sets with
    | some cs => s.dispatchTo part u (cs.headD 0 / 32) cs since
    | none => s
  else if s.backHad part u then s.resumeUnit u since
  else s

/-- Order of urgent units: age, priority, queue. -/
def DispUnit.before (a b : DispUnit) : Bool :=
  decide (b.age < a.age) || (a.age == b.age && (decide (a.prio < b.prio) || (a.prio == b.prio && decide (a.queue < b.queue))))

/-- Put a unit into a list in urgent order, before its equals: urgentUnits puts the last of a list in first, so that equals
keep their order, the earlier graph of a queue first (R323). -/
def insertUnit (u : DispUnit) : List DispUnit → List DispUnit
  | [] => [u]
  | x :: xs => if x.before u then x :: insertUnit u xs else u :: x :: xs

/-- Urgent units, first first. -/
def urgentUnits (us : List DispUnit) : List DispUnit := (us.filter fun u => decide (3 ≤ u.age)).foldr insertUnit []

/-- The units of a queue's oldest graph that has any. -/
def queueUnits (us : List DispUnit) (q : Nat) : List DispUnit :=
  let mine := us.filter fun u => u.queue == q
  match mine with
  | [] => []
  | x :: _ => mine.filter fun u => u.graph == x.graph

/-- The next unit at a priority: the queue whose turn it is while it has dispatched fewer than WEIGHT, then the queues
after it in order; with the turn as it then stands. -/
def State.turnUnit (s : State) (part prio : Nat) (us : List DispUnit) : Option (DispUnit × Nat × Nat) :=
  let mine := us.filter fun u => u.prio == prio
  let now := Sparse.get (0, 0) (s.part part).turns prio
  let pick (q : Nat) : Option DispUnit := (queueUnits mine q).find? fun u => s.fits part u
  let own := if now.2 < (s.queue part now.1).weight.toNat then pick now.1 else none
  match own with
  | some u => some (u, now.1, now.2 + 1)
  | none => (List.range 512).findSome? fun k =>
      let q := (now.1 + 1 + k) % 512
      (pick q).map fun u => (u, q, 1)

/-- The next unit that is dispatched without pre-emption: urgent units first, then by priority. -/
def State.nextUnit (s : State) (part : Nat) : Option (DispUnit × Option (Nat × Nat)) :=
  let us := s.units part
  match (urgentUnits us).find? fun u => s.fits part u with
  | some u => some (u, none)
  | none => (List.range 4).findSome? fun pr =>
      (s.turnUnit part pr (us.filter fun u => decide (u.age < 3))).map fun r => (r.1, some (r.2.1, r.2.2))

/-- One dispatch without pre-emption; the selector has done when nothing fits. -/
def State.selectOne (s : State) (part since : Nat) : State :=
  match s.nextUnit part with
  | none => s.setPart part { s.part part with select := false }
  | some (u, turn) =>
    let s1 := s.dispatch part u since
    match turn with
    | some x => s1.setPart part { s1.part part with turns := (s1.part part).turns.set u.prio x }
    | none => s1

/-- The selector until nothing fits: fuel bounds the units. -/
def State.selectAll (s : State) (part since : Nat) : Nat → State
  | 0 => s
  | n + 1 => if (s.part part).select then (s.selectOne part since).selectAll part since n else s

/-- The command processor sees which tasks have ended, and journals the quotas they return (R339, R399). -/
def State.seeFreed (s : State) (part : Nat) : State :=
  let p := s.part part
  if p.freed.isEmpty then s
  else
    match s.batch (p.freed.map fun c => placeRec c (s.bank c).task) with
    | none => s
    | some s1 => s1.setPart part { s1.part part with freed := [] }

/-- TASK_DISPATCH: a core or quota has been freed and a ready task is dispatched (R329, R331). A task dispatched inside a
quantum has its first whole quantum at the boundary after the next. While no core serves nothing is dispatched (R399). -/
def execTaskDispatch (part : PartId) (s : State) : Out :=
  let p := s.part part.val
  .next (if p.live && p.select && s.cpServes then (s.seeFreed part.val).selectOne part.val (p.qtime.toNat + 1) else s)

/-- Ages rise by one for eligible tasks not dispatched (R328). -/
def State.growOld (s : State) (part : Nat) : State :=
  let us := (s.units part).filter fun u => s.eligible part u
  us.foldl (fun s u =>
    if u.back.isEmpty then
      match Sparse.find s.graphs u.graph with
      | none => s
      | some g =>
        let older (e : LoadEnt) : LoadEnt := { e with st := .waiting (e.st.age + 1) }
        let put (es : List LoadEnt) : List LoadEnt :=
          (withPos es).map fun e => if u.ents.any fun x => x.1 == e.1 then older e.2 else e.2
        { s with graphs := s.graphs.set u.graph { g with loads := (withPos g.loads).map fun l => if l.1 = g.k then put l.2 else l.2 } }
    else u.back.foldl (fun s e =>
      s.mapChain e.1 e.2 fun c => { c with task := c.task.map fun t => { t with age := t.age + 1 } }) s) s

/-- QUANTUM_BOUNDARY: QTIME and ages rise, urgent tasks are dispatched with pre-emption, then what fits (R328, R329,
R338). While no core serves, QTIME alone counts (R399). -/
def execQuantumBoundary (part : PartId) (s : State) : Out :=
  let p := part.val
  .next (if !(s.part p).live then s
    else
      let s1 := s.setPart p { s.part p with qtime := (s.part p).qtime + 1, select := true }
      if !s.cpServes then s1
      else
      let s2 := (s1.seeFreed p).growOld p
      let now := (s2.part p).qtime.toNat
      let s3 := (urgentUnits (s2.units p)).foldl (fun s u => if s.fits p u then s.dispatch p u now else s.force p u now) s2
      s3.selectAll p now ((s3.units p).length + 1))

end Sys2Proof.Machine
end

