-- ==== Sys2Proof/Machine/Partition.lean ====
section
/-!
DEFINITION. What strikes a whole partition: context teardown (R367, R390), the discard of its work (R330), partition
faults (R373), reset (R372), device reset (R392), command-processor take-over (R338, R396 to R399), and the die links
(R377).
-/

namespace Sys2Proof.Machine

/-! ### Ending tasks from outside -/

/-- A context of a core gives up its place: its chain is over. -/
def State.endChain (s : State) (core : Nat) (c : Context) : State :=
  match c.task with
  | some t => s.chainOver core t.serial c
  | none => s

/-- Copies of a core that belong to some context of a partition are cancelled (R113, R367). -/
def State.cancelCopies (s : State) (core : Nat) (mine : Copy → Bool) : State :=
  s.setCore core { s.core core with copies := (s.core core).copies.filter fun e => !mine e.2 }

/-- A cycle in progress of a core is given up. -/
def State.stopCycle (s : State) (core : Nat) : State :=
  let of : Due → Bool
    | .begin c _ _ => c == core
    | .word c _ _ _ _ => c == core
    | .close c _ _ => c == core
  if s.due.any of then { s with due := s.due.filter fun d => !of d, work := none } else s

/-- The issued stores of a context in a save record perform as it is given up (R348). -/
def State.saveless (s : State) (core : Nat) (c : Context) : State :=
  match c.task with
  | some t =>
    let old := (s.core core).other
    let s1 := (s.setBankOf core true c).giveUp core true t
    s1.setBankOf core true old
  | none => s

/-- The tasks of a core that are picked out are gone, wherever the core keeps them; issued stores still perform
(R348). -/
def State.removeTasks (s : State) (core : Nat) (mine : Task → Bool) : State :=
  let hit (c : Context) : Bool := match c.task with | some t => mine t | none => false
  let gone (c : Context) : Context := if hit c then Context.reset else c
  let k := s.core core
  let s0 := if hit k.bank then s.stopCycle core else s
  let s1 := match k.bank.task with | some t => if mine t then s0.giveUp core false t else s0 | none => s0
  let s2 := match k.other.task with | some t => if mine t then s1.giveUp core true t else s1 | none => s1
  let s2 := ((Sparse.get [] s2.saved core).filter hit).foldl (fun s c => s.saveless core c) s2
  let s3 : State := ((s2.contexts core).filter hit).foldl (fun s c => State.endChain s core c) s2
  let k3 := s3.core core
  let s4 := s3.setCore core
    { k3 with bank := gone k3.bank, other := gone k3.other, incoming := k3.incoming && !hit k3.other,
              preq := k3.preq && !(k3.incoming && hit k3.other), spilling := k3.spilling && !hit k3.other,
              swapping := k3.swapping && !hit k3.bank }
  let s5 : State := { s4 with saved := s4.saved.map fun e => if e.1 = core then (e.1, e.2.filter fun c => !hit c) else e }
  let ended := ((s2.contexts core).filter hit).filterMap fun c => c.task
  let s6 := ended.foldl (fun s t => (s.releaseSpads core t).wantSelect t.part core) s5
  if hit k3.bank then s6.takeFreed core else s6

/-! ### Context teardown (R367, R390) -/

/-- Contexts of a partition that live under a tenant. -/
def State.tenantLive (s : State) (part : Nat) (tenant : BitVec 8) : Bool :=
  s.ctxs.any fun e => e.1 / 65536 == part && e.2.live && s.tenantOf part (e.1 % 65536) == tenant

/-- Entries not dispatched of a torn-down context's graphs are dropped. -/
def dropEntries (g : Graph) : Graph :=
  { g with loads := g.loads.map fun l => l.map fun e => match e.st with | .waiting _ => { e with st := .ended } | _ => e }

/-- The loft lines a tenant held under the key of a draw are set to zero with generation 0 (R100, R390). -/
def State.clearKey (s : State) (d : Nat) : State :=
  let mine (l : Nat) : Bool := Sparse.get 0 s.loftKey l == d + 1
  { s with mem := s.mem.filter fun e => !mine (e.1 / 64), loftGen := s.loftGen.filter fun e => !mine e.1,
           loftKey := s.loftKey.filter fun e => e.2 != d + 1, poison := s.poison.filter fun l => !mine l }

/-- The key of a tenant with no live context left is discarded, and its loft lines are cleared (R390). -/
def State.dropKey (s : State) (part : Nat) (tenant : BitVec 8) : State :=
  let k := 256 * part + tenant.toNat
  match Sparse.find s.keys k with
  | some d => ({ s with keys := Sparse.erase s.keys k } : State).clearKey d
  | none => s

/-- Tear a context down: its tasks, copies, rows, walks, records, translations and code objects go; with the last live
context of a tenant its key goes, with what its loft lines held. Pages it held are cleared before they are granted again
(R333), and copies of other contexts take the slots that are free (R113). -/
def State.teardown (s : State) (part ctx : Nat) : State :=
  let mine (t : Task) : Bool := t.part == part && t.ctx == ctx
  let cores := s.cores.map fun e => e.1
  let s1 := cores.foldl (fun s c => ((s.cancelCopies c fun x => x.part == part && x.ctx == ctx).removeTasks c mine).seatCopies c) s
  let own (g : Graph) : Bool := g.part == part && (match Sparse.find s.codes (65536 * part + g.code) with
    | some c => c.ctx == ctx
    | none => false)
  let tenant := s.tenantOf part ctx
  let s2 : State := { s1 with
    walks := s1.walks.filter fun w => !(w.part == part && w.ctx == ctx),
    tlb := s1.tlb.filter fun e => !(e.part == part && e.ctx == ctx),
    graphs := s1.graphs.map fun e => (e.1, if own e.2 then dropEntries e.2 else e.2),
    codes := s1.codes.filterMap fun e => if e.1 / 65536 % 4096 == part then (e.2.without ctx).map fun c => (e.1, c) else some e,
    ctxs := Sparse.erase s1.ctxs (65536 * part + ctx) }
  let p := s2.part part
  let s3 := s2.setPart part { p with records := p.records.filter fun r => r.ctx != ctx, select := true }
  if s3.tenantLive part tenant then s3 else s3.dropKey part tenant

/-! ### Discard (R330) -/

/-- Every graph of a partition that is not DONE becomes DISCARDED, with a record of STATUS 0x80; no CKIND is applied. -/
def State.discardGraphs (s : State) (part : Nat) : State :=
  let open' := s.graphs.filter fun e => e.2.part == part && e.2.st != .done && e.2.st != .discarded
  open'.foldl (fun s e =>
    ({ s with graphs := s.graphs.set e.1 { e.2 with st := .discarded } } : State).complete part e.2.queue e.2.gtag 0x80 0) s

/-- Every queue of a partition enters DRAINING. -/
def State.drainQueues (s : State) (part : Nat) : State :=
  (List.range s.queueCount).foldl (fun s q => s.setQueue part q { s.queue part q with st := .draining }) s

/-- Compute cores of a partition. -/
def State.coresOf (s : State) (part : Nat) : List Nat :=
  (List.range Config.computeCores).filter fun c => (s.part part).hasDie (c / 32)

/-- Work in flight of a partition is gone: tasks, blocks, copies, rows, walks and moves (R330, R373). -/
def State.dropWork (s : State) (part : Nat) : State :=
  let s0 := (s.coresOf part).foldl (fun s c => (s.removeTasks c fun _ => true).cancelCopies c fun _ => true) s
  let s1 := (s.coresOf part).foldl (fun s c => s.setCore c Core.reset) s0
  let p := s1.part part
  ({ s1 with walks := s1.walks.filter fun w => w.part != part } : State).setPart part
    { p with records := [], select := false, freed := [], turns := [] }

/-! ### Partition faults (R373) -/

/-- A held COMPLETION is released as a discard (R399). -/
def asDiscard (m : OutMsg) : OutMsg :=
  if m.type == mtCompletion then { m with payload := m.payload.take 5 ++ [0x80] ++ m.payload.drop 6 } else m

/-- A take-over is abandoned: messages held back go out as discards (R399). -/
def State.abandonTakeover (s : State) (part : Nat) : State :=
  let p := s.part part
  (s.setPart part { p with heldMsgs := p.heldMsgs.map asDiscard }).releaseHeld part

/-- A partition fault: queues drain, EVENT kind 1 and the discards go out, work in flight is gone, and later doorbells
have no effect. -/
def State.partitionFault (s : State) (part : Nat) : State :=
  if !(s.part part).live || (s.part part).failed then s
  else
    let s1 := (s.abandonTakeover part).drainQueues part
    let s2 := ((s1.event part 1 []).discardGraphs part).dropWork part
    s2.setPart part { s2.part part with failed := true }

/-- Every partition that exists takes a partition fault. -/
def State.faultAll (s : State) : State :=
  (List.range 12).foldl (fun s p => s.partitionFault p) { s with take := [] }

/-- The partition that holds a compute die. -/
def State.holder (s : State) (die : Nat) : Option Nat :=
  (List.range 12).find? fun p => (s.part p).live && (s.part p).hasDie die

/-! ### Partition reset (R372) -/

/-- CONTROL_DONE of an accepted CONTROL message (R365): status 0 done, 1 refused, 2 aborted. -/
def State.controlDone (s : State) (m : Msg) (status : Nat) (result : List Byte) : State :=
  s.emit m.part.toNat ctlChan mtControlDone (BitVec.ofNat 96 (m.seq.toNat + status * 2 ^ 48)) result

/-- A die of a partition under reset: tasks' pages and slice map as at reset, clusters on, the loft cleared; its power stays as it
is (R100, R372, R415). -/
def State.resetDie (s : State) (die : Nat) : State :=
  let s1 := s.clearLoft die
  { s1.setDie die { s1.die die with clusters := [], pages := [], waits := [], moves := [] } with
    sliceMap := Sparse.eraseRange s1.sliceMap (512 * die) 512,
    rows := Sparse.eraseRange s1.rows (256 * die) 256 }

/-- Reductions over the ports of a partition are abandoned; their peers receive EVENT kind 4 for the port (R372). -/
def State.dropReductions (s : State) (part : Nat) : State :=
  let mine (r : Reduction) : Bool := (s.part part).ports &&& r.ports != 0
  let ports := (List.range 8).filter fun p => s.reds.any fun e => mine e.2 && e.2.ports.getLsbD p
  ports.foldl (fun s p => s.sendSeq (peerKey p) ((s.portHolder p).getD part) peerChan mtEvent 4 [] 0)
    { s with reds := s.reds.filter fun e => !mine e.2 }

/-- Flips of a partition are abandoned with status 2 and the bias unchanged (R375). -/
def State.dropFlips (s : State) (part : Nat) : State :=
  let mine := s.flips.filter fun f => f.part == part
  mine.foldl (fun s f => s.emit part ctlChan mtControlDone (BitVec.ofNat 96 (f.seq.toNat + 2 * 2 ^ 48)) [])
    { s with flips := s.flips.filter fun f => f.part != part, heldHost := s.heldHost.filter fun h => h.2.part.toNat != part }

/-- A core that was out of service comes back as the standby: nothing it was doing resumes (R396, R399), and its firmware
starts with registers as at reset (log 69). -/
def State.coreBack (s : State) (k : Nat) : State :=
  let c := Config.cpCore + k
  s.setBank c { Context.reset with task := (s.bank c).task }

/-- What the device keeps for a partition apart from its dies and grant goes back to its reset value (R322, R326, R368,
R372). -/
def State.clearPart (s : State) (part : Nat) : State :=
  let p := s.part part
  let s1 : State := { s with
    tlb := s.tlb.filter fun e => e.part != part,
    ctxs := Sparse.eraseRange s.ctxs (65536 * part) 65536,
    codes := s.codes.filter fun e => e.1 / 65536 % 4096 != part,
    keys := Sparse.eraseRange s.keys (256 * part) 256,
    counters := Sparse.eraseRange s.counters (4096 * part) 4096,
    barriers := Sparse.eraseRange s.barriers (256 * part) 256,
    queues := Sparse.eraseRange s.queues (512 * part) 512,
    chans := (List.range 8).foldl (fun m k => if p.ports.getLsbD k then Sparse.erase m (peerKey k) else m)
      (Sparse.eraseRange s.chans (4096 * part) 4096),
    heldCtl := s.heldCtl.filter fun h => h.2.part.toNat != part,
    roles := s.roles.map fun e => (e.1, if e.2 == .out then .standby else e.2) }
  let s1 := (List.range 2).foldl (fun s1 k => if Sparse.get Role.out s.roles k == .out then s1.coreBack k else s1) s1
  s1.setPart part { p with records := [], recno := 0, resetting := none, holding := false, heldMsgs := [], failed := false, select := false, freed := [], turns := [] }

/-- Steps 1 to 4 of R372. -/
def State.resetPart (s : State) (part : Nat) : State :=
  let s1 := ((s.abandonTakeover part).drainQueues part).discardGraphs part
  let s2 := ((s1.dropWork part).dropReductions part).dropFlips part
  let s3 := ((List.range 12).filter fun d => (s2.part part).hasDie d).foldl (fun s d => s.resetDie d) s2
  s3.clearPart part

/-! ### Device reset (R372, R392) -/

/-- A number of n bytes of an image. -/
def imageNum (o : List Byte) (off n : Nat) : Nat := numAt o off n

/-- The layout of R391 holds: MAGIC, LEN, room for key and signature, reserved bytes zero. -/
def imageForm (o : List Byte) : Bool :=
  imageNum o 0 4 == 0x47575A46 && imageNum o 8 4 == o.length && decide (128 + 2568 ≤ o.length)
    && ((o.drop 12).take 116).all fun b => b == 0

/-- The public key of an image has the fused hash, and its signature over all that stands before it verifies (R391). -/
def imageSigned (o : List Byte) : Bool :=
  let key := (o.drop (o.length - 2568)).take 68
  Config.shake256 key == Config.fusedKeyHash
    && Config.xmssVerifies key (o.take (o.length - 2500)) (o.drop (o.length - 2500))

/-- The check of a firmware image (R391, R392): the ERR code, 0 when it is accepted. The order of the checks is log 9. -/
def imageErr (o : List Byte) : Nat :=
  if !imageForm o then 0x22
  else if !imageSigned o then 0x20
  else if imageNum o 4 4 < Config.fusedSvn then 0x21
  else 0

/-- The bytes of a firmware image; those of the one the module is shipped with are a free value (log 9). -/
def Image.contents : Image → List Byte
  | .shipped => Config.shippedImage
  | .bytes o => o

/-- The boot ROM accepts an image; it accepts the one the module is shipped with (R392; log 9). -/
def Image.good : Image → Bool
  | .shipped => true
  | .bytes o => imageErr o == 0

/-- Bytes that outlive a device reset: LPDDR6 while the auxiliary supply stands, other memory while the main supply has stood,
but no loft (R100, R419). -/
def State.survives (s : State) (a : Nat) : Bool :=
  if isLpddr a then s.auxOn else s.mainOn && !s.railsCut && !isLoft a

/-- The device resets: everything is at its reset value but memory, the checkpoint image, the flash and the identity
counter; the boot ROM runs the flash image or enters recovery. -/
def State.resetDevice (s0 : State) : State :=
  let s := s0.breakFlash
  let ok := s.flash.good
  { State.reset with
    turn := s.turn, mem := s.mem.filter fun e => s.survives e.1, poison := s.poison.filter fun l => s.survives (64 * l),
    sent := s.sent, ckImage := s.ckImage, flash := s.flash, xmss := s.xmss,
    firmware := if ok then s.flash else .bytes [], recovery := !ok, jbase := if ok then State.reset.jbase else 0 }

/-- DEVICE_RESET: by the reset pin or the device manager. -/
def execDeviceReset (s : State) : Out := .next s.resetDevice

/-! ### Command-processor take-over (R338, R396, R397) -/

/-- A faulted command-processor core is out of service. -/
def State.coreOut (s : State) (k : Nat) : State :=
  let c := Config.cpCore + k
  let b := s.bank c
  ({ s with roles := s.roles.set k .out } : State).setBank c
    { b with stopped := true, wait := 0, retry := false, idle := none, asyncs := b.asyncs.filter fun a => a.cause.toNat != cMachineCheck }

/-- The standby core becomes active: TAKE is set, EPOCH rises, its IDLE ends, and COMPLETION and LOAD_DONE messages are
held back (R396). -/
def State.takeOver (s : State) (k : Nat) : State :=
  let s1 := ({ s with roles := s.roles.set k .active, take := s.take.set k true } : State).wakeCore (Config.cpCore + k)
  { s1 with parts := s1.parts.map fun e => (e.1, if e.2.live then { e.2 with epoch := e.2.epoch + 1, holding := true } else e.2) }

/-- CP_MACHINE_CHECK: the active core faults. Take-over fails where it has not yet cleared TAKE, or the other core is out
of service (R397). -/
def execCpMachineCheck (s : State) : Out :=
  .next (match (List.range 2).find? fun k => Sparse.get Role.out s.roles k == .active with
    | none => s
    | some k =>
      let s1 := s.coreOut k
      if Sparse.get false s.take k || Sparse.get Role.out s.roles (1 - k) != .standby then s1.faultAll else s1.takeOver (1 - k))

/-- TAKEOVER_TIMEOUT: TAKE still set 10 ms after the fault. -/
def execTakeoverTimeout (s : State) : Out := .next (if s.take.any fun e => e.2 then s.faultAll else s)

/-- CPROLE_TAKE_CLEAR: the new active core writes 1 to TAKE. Where no program is placed on it, the model's own firmware has
applied the journal before (R340). -/
def execCproleTakeClear (s : State) : Out :=
  .next ((List.range 2).foldl (fun s k =>
    if Sparse.get false s.take k && (s.bank (Config.cpCore + k)).task.isNone then s.takeJournal.takeClear k else s.takeClear k) s)

/-! ### Errors and heat (R422, R423) -/

/-- UNCONTAINED_ERROR: in the switch die's active command-processor core it causes a take-over, elsewhere a partition
fault. Which state of the switch die was struck is a free choice (log 57). -/
def execUncontainedError (unit part : BitVec 8) (s : State) : Out :=
  let s1 := s.logError 3 unit part 0
  if unit == 12 && Config.choose s.turn % 2 == 0 then execCpMachineCheck s1 else .next (s1.partitionFault part.toNat)

/-- A sensor of a die reads 110 degrees while the die has power (R422). -/
def State.overheats (s : State) (die : Nat) : Bool := s.hot (dieSensors die) (16 * 110) && (s.die die).st != .gated

/-- THERMAL_FAULT: the partition that holds the die takes a partition fault, and the die is gated (R422). -/
def execThermalFault (die : DieId) (s : State) : Out :=
  let s2 := match s.holder die.val with | some p => s.partitionFault p | none => s
  .next (if s.overheats die.val then
    (s2.loseDie die.val).setDie die.val { s2.die die.val with st := .gated, req := 2, clusters := [] } else s)

/-! ### Die links (R377, R378) -/

/-- Put a module's link. -/
def State.setLink (s : State) (die m : Nat) (x : LinkSt) : State := { s with links := s.links.set (24 * die + m) x }

/-- CONTROL_DONE of a LINK request on the device manager's channel. -/
def State.linkDone (s : State) (seq : BitVec 48) (status : Nat) : State :=
  s.emit mgrPart ctlChan mtControlDone (BitVec.ofNat 96 (seq.toNat + status * 2 ^ 48)) []

/-- The next request of a module that is ACTIVE begins: width first, then rate (R378); one that changes nothing is done.
-/
def State.linkNext (s : State) (die m : Nat) : Nat → State
  | 0 => s
  | n + 1 =>
    let x := s.linkAt die m
    match x.waiting with
    | [] => s
    | r :: rest =>
      if x.mode != .active then s
      else if r.width == 3 && r.rate == 3 then
        ((s.setLink die m { x with waiting := rest }).linkDone r.seq 0).linkNext die m n
      else
        s.setLink die m { x with mode := .retrain, cur := some { r with step := if r.width == 3 then 1 else 0 }, waiting := rest }

/-- LINK_RETRAIN_START: the error threshold of an ACTIVE module. -/
def execLinkRetrainStart (die : Fin 16) (m : Fin 24) (s : State) : Out :=
  let x := s.linkAt die.val m.val
  .next (if moduleOk die.val m.val && x.mode == .active then s.setLink die.val m.val { x with mode := .retrain } else s)

/-- LINK_RETRAIN_DONE: the module is ACTIVE again, and flits are replayed; the request it retrained for goes on. -/
def execLinkRetrainDone (die : Fin 16) (m : Fin 24) (s : State) : Out :=
  let d := die.val
  let k := m.val
  let x := s.linkAt d k
  let fuel := x.waiting.length + 1
  .next (if x.mode != .retrain then s
    else
      match x.cur with
      | none => (s.setLink d k { x with mode := .active }).linkNext d k fuel
      | some r =>
        if r.step = 0 then
          if r.rate == 3 then ((s.setLink d k { x with mode := .active, width := r.width, cur := none }).linkDone r.seq 0).linkNext d k fuel
          else s.setLink d k { x with width := r.width, cur := some { r with step := 1 } }
        else ((s.setLink d k { x with mode := .active, rate := r.rate, cur := none }).linkDone r.seq 0).linkNext d k fuel)

/-- A die has no module left that is ACTIVE, RETRAIN or DISABLED. -/
def State.dieCut (s : State) (die : Nat) : Bool :=
  (List.range 24).all fun m => !moduleOk die m || (s.linkAt die m).mode == .failed

/-- Partitions that hold a die, or a stack of a memory die (R28). -/
def State.holders (s : State) (die : Nat) : List Nat :=
  (List.range 12).filter fun p => (s.part p).live &&
    (if die < 12 then (s.part p).hasDie die else (List.range 3).any fun j => (s.part p).hasDie (3 * (die - 12) + j))

/-- A stream that the failed module's retrain has held: its generator shows LINK_RETRAIN, on the die or with its bytes behind it
(R377; log 57). -/
def State.streamCut (s : State) (die core : Nat) (t : Task) (x : Stream) : Bool :=
  x.wait.toNat == wLinkRetrain && (core / 32 == die || (decide (12 ≤ die) && x.ranges.any fun r =>
    match s.cached t.part t.ctx (64 * r.1) with
    | some e => s.farDie (leafPlace t.part (pteKey e.leaf).toNat (pteAddr e.leaf + (64 * r.1 - e.va))) == die
    | none => false))

/-- The fault of a stream whose slots crossed a failed die link (R377): no page stands for it, so that no answer ends it (R357). -/
def StreamFault.cut : StreamFault := ⟨cTiming, 0, true, 0, none, 2 ^ 64⟩

/-- Streams whose traffic crossed a failed module fault and give up their reservations; only a teardown ends what waits for them
(R357, R377). -/
def State.cutStreams (s : State) (die : Nat) : State :=
  let gen (core : Nat) (t : Task) (g : Gen) : Gen :=
    match g.streams with
    | x :: xs => if s.streamCut die core t x then { g with streams := { x with wait := 0, fault := some StreamFault.cut } :: xs } else g
    | [] => g
  { s with cores := s.cores.map fun e =>
      match e.2.bank.task with
      | some t => (e.1, { e.2 with bank := { e.2.bank with gens := e.2.bank.gens.map fun g => (g.1, gen e.1 t g.2) } })
      | none => e }

/-- The driver is told of a failed module: on the control channels of the partitions that hold the die, or else on the device
manager's (R377; log 57). -/
def State.tellLink (s : State) (die m : Nat) : State :=
  let record := [BitVec.ofNat 8 die, BitVec.ofNat 8 m]
  let ps := s.holders die
  if ps.isEmpty then s.event mgrPart 4 record else ps.foldl (fun s p => s.event p 4 record) s

/-- LINK_RETRAIN_TIMEOUT: the module is FAILED, the driver is told, requests end, streams that crossed it fault, and a die cut
off takes a partition fault. -/
def execLinkRetrainTimeout (die : Fin 16) (m : Fin 24) (s : State) : Out :=
  let d := die.val
  let x := s.linkAt d m.val
  .next (if x.mode != .retrain then s
    else
      let s1 := s.setLink d m.val { x with mode := .failed, cur := none, waiting := [] }
      let s2 := match x.cur with | some r => s1.linkDone r.seq 2 | none => s1
      let s3 := x.waiting.foldl (fun s r => s.linkDone r.seq 1) s2
      let s4 := (s3.cutStreams d).tellLink d m.val
      if s4.dieCut d then (s4.holders d).foldl (fun s p => s.partitionFault p) s4 else s4)

/-- FLIT_CRC_ERROR: the sender replays from its retry buffer; no flit is lost or repeated, so nothing is changed. -/
def execFlitCrcError (_die : Fin 16) (_m : Fin 24) (s : State) : Out := .next s

end Sys2Proof.Machine
end

