-- ==== Sys2Proof/Machine/Loader.lean ====
section
/-!
DEFINITION. Loading: LOAD of a code object into a context (R140, R298, R299, R314, R380, R390) and FIRMWARE_LOAD of a
firmware image (R391, R392).
-/

namespace Sys2Proof.Machine

/-! ### DATA records -/

/-- Bytes at a virtual address in pieces that lie in one 512 KiB page each; fuel is the number of bytes. -/
def pagePieces : Nat → Nat → List Byte → List (Nat × List Byte)
  | 0, _, _ => []
  | _, _, [] => []
  | n + 1, va, bs =>
    let k := 2 ^ 19 - va % 2 ^ 19
    (va, bs.take k) :: pagePieces n (va + k) (bs.drop k)

/-- Where DATA bytes at an address of a context go: memory on a mapped page of kind none (R314). -/
def State.dataPlace (s : State) (part ctx va : Nat) : Option Nat :=
  if windowOf va != .translated then none
  else
    match s.walk part ctx va with
    | .leaf e base _ _ =>
      if pteKind e != 0 then none
      else
        let pa := pteAddr e + (va - base)
        some (if pteBias e then hostMark + part * 2 ^ 48 + pa else leafPlace part (pteKey e).toNat pa)
    | _ => none

/-- A DATA record lies wholly in the context's mapped memory. -/
def State.dataMapped (s : State) (part ctx : Nat) (r : Nat × Nat × List Byte) : Bool :=
  (pagePieces r.2.2.length r.2.1 r.2.2).all fun x => (s.dataPlace part ctx x.1).isSome

/-- The loader writes a DATA record. -/
def State.writeData (s : State) (part ctx : Nat) (r : Nat × Nat × List Byte) : State :=
  (pagePieces r.2.2.length r.2.1 r.2.2).foldl (fun s x =>
    match s.dataPlace part ctx x.1 with
    | none => s
    | some p =>
      if hostMark ≤ p then (s.sendMem part mtDevWrite (BitVec.ofNat 96 (p % 2 ^ 48)) x.2).1
      else (s.yieldRows [⟨p, x.2.length, true⟩]).write p x.2) s

/-! ### LOAD -/

/-- What the loader knows when it checks an object for a context under a handle. -/
def State.loadEnv (s : State) (part ctx handle : Nat) (o : List Byte) : LoadEnv where
  valid := s.ctxEntry part ctx % 2 == 1
  masks := ((List.range 12).filter fun d => (s.part part).hasDie d).map fun d => s.maskOf part d
  kept := (s.ctxInfo part ctx).compat
  store :=
    let own := match Sparse.find s.codes (65536 * part + handle) with
      | some c => if (codeFrom o ctx).same c then storeBytes o else 0
      | none => 0
    ((s.codes.filter fun e => e.1 / 65536 % 4096 == part).map fun e => e.2.bytes).sum - own
  unmapped := ((readOr (dataOf o)).filter fun r => !s.dataMapped part ctx r).map fun r => r.1

/-- REV and FSTR of a context after one more object: revision 1 strengthens for good (R140). -/
def CtxInfo.loaded (c : CtxInfo) (o : List Byte) : CtxInfo :=
  let rev1 := hMmrev o == 1 || (c.live && c.rev == 1)
  { c with live := true, compat := some (c.compat.getD (compatOf ((errataOf o).getD []))), fstr := c.fstr || rev1,
           rev := if rev1 then 1 else 2 }

/-- A task of a code object, or one that has its number changed. -/
def Task.recode (part old new : Nat) (t : Task) : Task := if t.part == part && t.code == old then { t with code := new } else t

/-- The object under a handle that another object takes over keeps its tasks, graphs and images, under a number no handle has:
each object's images leave the store with its own last context (R224; log 67). -/
def State.displace (s : State) (part handle : Nat) : State :=
  let key := 65536 * part + handle
  match Sparse.find s.codes key with
  | none => s
  | some o =>
    let k := ((List.range (s.codes.length + 1)).find? fun k => (Sparse.find s.codes (key + 2 ^ 28 * (k + 1))).isNone).getD 0
    let n := handle + 2 ^ 28 * (k + 1)
    let re (c : Context) : Context := { c with task := c.task.map (Task.recode part handle n) }
    { s with
      codes := (Sparse.erase s.codes key).set (65536 * part + n) o,
      graphs := s.graphs.map fun e => (e.1, if e.2.part == part && e.2.code == handle then { e.2 with code := n } else e.2),
      cores := s.cores.map fun e => (e.1, { e.2 with bank := re e.2.bank, other := re e.2.other }),
      saved := s.saved.map fun e => (e.1, e.2.map re) }

/-- An object is accepted: its data is written, its context takes its revision, its tenant has a key, and the handle
names it. An object is told apart by its handle: the same object under another handle takes images of its own (DESIGN
CHOICE, log 74: R224 does not say what makes two objects the same). -/
def State.acceptCode (s : State) (part ctx handle : Nat) (o : List Byte) : State :=
  let s1 := (readOr (dataOf o)).foldl (fun s r => s.writeData part ctx r) s
  let k := 256 * part + (s1.tenantOf part ctx).toNat
  let s2 : State := if (Sparse.find s1.keys k).isSome then s1 else { s1 with keys := s1.keys.set k s1.turn, turn := s1.turn + 1 }
  let s3 := s2.setCtxInfo part ctx ((s2.ctxInfo part ctx).loaded o)
  let key := 65536 * part + handle
  let old := Sparse.find s3.codes key
  let s4 := match old with
    | some c => if (codeFrom o ctx).same c then s3 else s3.displace part handle
    | none => s3
  { s4 with codes := s4.codes.set key ((codeFrom o ctx).over old) }

/-- LOAD_DONE with a record (R314). -/
def State.loadDone (s : State) (part handle : Nat) (record : Nat) : State :=
  s.emit part ctlChan mtLoadDone (BitVec.ofNat 96 handle) (bytesOf record 8)

/-- A whole object has come for a context of a partition. -/
def State.loadObject (s : State) (part ctx handle : Nat) (o : List Byte) : State :=
  match loadErr o (s.loadEnv part ctx handle o) with
  | some e => s.loadDone part handle e.word
  | none => (s.acceptCode part ctx handle o).loadDone part handle 0

/-! ### Firmware (R391, R392) -/

/-- A whole firmware image has come: once it is verified the flash is written. -/
def State.loadFirmware (s : State) (image : List Byte) : State :=
  let err := imageErr image
  let s1 : State := if err = 0 then { s with flashing := some image } else s
  s1.loadDone mgrPart 0xFFFF err

/-- The flash is written; in recovery the device then resets itself (R392). -/
def State.flashDone (s : State) : State :=
  match s.flashing with
  | none => s
  | some image =>
    let s1 : State := { s with flash := .bytes image, flashing := none }
    if s.recovery then s1.resetDevice else s1

/-- FIRMWARE_LOAD: an image sent with handle 0xFFFF on the device manager's channel is whole. -/
def execFirmwareLoad (image : List Byte) (s : State) : Out := .next (s.loadFirmware image)

/-! ### Fragments (R365) -/

/-- One more fragment of a LOAD; the last one completes the object. -/
def State.loadPart (s : State) (m : Msg) : State :=
  let c := s.chan (msgKey m)
  let o := c.frag ++ m.payload
  let handle := (m.arg.extractLsb' 0 16).toNat
  if !m.arg.getLsbD 16 then s.setChan (msgKey m) { c with frag := o }
  else
    let s1 := s.setChan (msgKey m) { c with frag := [] }
    if m.part.toNat = mgrPart then s1.loadFirmware o
    else s1.loadObject m.part.toNat (m.arg.extractLsb' 32 16).toNat handle o

/-- LOAD: code objects on a partition's control channel, firmware under handle 0xFFFF on the device manager's; in
recovery nothing else is taken. -/
def execLoad (m : Msg) (s : State) : Out :=
  let fw := decide (m.part.toNat = mgrPart) && m.arg.extractLsb' 0 16 == 0xFFFF
  .next (if !s.hostOk m || (s.recovery && !fw) then s.drop
    else
      s.sequenced (msgKey m) m.part.toNat m.chan.toNat m fun s1 =>
        if fw || (m.part.toNat ≠ mgrPart && m.chan.toNat == ctlChan) then s1.loadPart m
        else (s1.breakRun (msgKey m)).refuseMsg m 0x0A)

end Sys2Proof.Machine
end

