-- ==== Sys2Proof/Machine/Walks.lean ====
section
/-!
DEFINITION. PAGE_WALK_COMPLETE: what a page walk comes to for each agent that waits for it (R343, R383 to R387, R428).
-/

namespace Sys2Proof.Machine

/-- The running stream of a generator whose chain has the core's active bank. -/
def State.waitingStream (s : State) (core g chain : Nat) : Option (Task × Stream) :=
  let b := s.bank core
  match b.task, (b.gen g).streams with
  | some t, x :: _ => if t.serial == chain then some (t, x) else none
  | _, _ => none

/-- The block and words a fault of a stream names: of a write stream those of the oldest token of the lane whose token met it
(R429). -/
def Context.faultPos (c : Context) (g lane : Nat) (x : Stream) : Nat × Option LaneWord × Option LaneWord :=
  if x.cfg.write then
    let q := laneList (c.gen g).wx lane
    match q.head? with
    | some y => (y.blk, some y.pos, q.getLast?.map fun z => z.pos)
    | none => (0, none, none)
  else ((match c.binder g false with | some (_, _, b, _) => b.serial | none => 0), none, none)

/-- A stream meets a fault that a page walk of its lane found; the first fault stops it. -/
def State.walkStream (s : State) (core g chain lane cause va : Nat) (asked : Bool) (poison : Option Nat) : State :=
  match s.waitingStream core g chain with
  | none => s
  | some (t, x) =>
    let f := (s.bank core).faultPos g lane x
    if x.fault.isSome then s
    else match poison with
    | some p => s.streamStop core t g x .load f.1 f.2.1 f.2.2 (.poison (paOf p))
    | none => s.streamFail core g x ⟨cause, 0, asked, f.1, f.2.1, va / 2 ^ 19⟩ f.2.2

/-- The walk of an agent has found its page: it goes on. -/
def State.walkFound (s : State) : Agent → State
  | .instr c =>
    let b := s.bank c
    if b.wait.toNat == wTranslation then s.setBank c { b with wait := 0 } else s
  | .gen c g chain _ =>
    match s.waitingStream c g chain with
    | some (_, x) => s.setGen c g (((s.bank c).gen g).setHead { x with wait := 0 })
    | none => s
  | .copy _ _ => s

/-- No mapping was found, and a fault record stands for the page: the agent waits for the driver (R386, R387). -/
def State.walkMissing (s : State) (va : Nat) : Agent → State
  | .instr _ => s
  | .gen c g chain lane => s.walkStream c g chain lane cTranslation va true none
  | .copy c k =>
    match s.copy c k with
    | some x => (s.advanceCopy c k x.n).mapCopy c k fun y => { y with st := .faulted }
    | none => s

/-- The walk ends in a trap of the agent: PROTECTION, or MACHINE_CHECK of a poisoned table line (R383, R428). -/
def State.walkBad (s : State) (va : Nat) (cause : Nat) (poison : Option Nat) : Agent → State
  | .instr c =>
    let b := s.bank c
    let info := match poison with | some p => paOf p | none => BitVec.ofNat 64 va
    s.setBank c { b with walkTrap := some (cause, va, info), wait := 0 }
  | .gen c g chain lane => s.walkStream c g chain lane cause va false poison
  | .copy c k =>
    match s.copy c k with
    | some x =>
      let info := match poison with | some p => paOf p | none => x.missed
      s.setCopy c k { x with fault := some (cause, info) }
    | none => s

/-- How many walks of its partition stand before walk k. -/
def State.walkRank (s : State) (k : Nat) : Nat :=
  match s.walks[k]? with
  | some w => ((s.walks.take k).filter fun x => x.part == w.part).length
  | none => 0

/-- Walk k has one of the 64 walkers, which the partitions with pending misses share in rotating order (R385): the first walk
of each partition, then the second of each. -/
def State.walkerFor (s : State) (k : Nat) : Bool :=
  match s.walks[k]? with
  | none => false
  | some w =>
    let r := s.walkRank k
    let before (j : Nat) : Bool := match s.walks[j]? with
      | some x => decide (s.walkRank j < r) || (s.walkRank j == r && decide (x.part < w.part))
      | none => false
    decide (((List.range s.walks.length).filter before).length < 64)

/-- The walk misses on a page of size bytes from va of the same context: it shares that page's walk and its result (R385). -/
def Walk.on (w x : Walk) (va size : Nat) : Bool :=
  x.part == w.part && x.ctx == w.ctx && decide (va ≤ x.va) && decide (x.va < va + size)

/-- PAGE_WALK_COMPLETE of the k-th pending walk, if it has a walker. A translation is cached, for every miss on its page. With 4 096 unanswered records the agents wait
without one. -/
def execPageWalkComplete (k : Nat) (s : State) : Out :=
  .next (match s.walks[k]? with
    | none => s
    | some w =>
      if !s.walkerFor k then s else
      let s1 := { s with walks := dropAt s.walks k }
      match s.walk w.part w.ctx w.va with
      | .leaf e va size lines =>
        let same := s1.walks.filter fun x => w.on x va size
        let s2 := { s1 with tlb := s1.tlb ++ [⟨w.part, w.ctx, va, size, e, lines⟩], walks := s1.walks.filter fun x => !w.on x va size }
        (w.agents ++ same.flatMap fun x => x.agents).foldl (fun s a => s.walkFound a) s2
      | .prot => w.agents.foldl (fun s a => s.walkBad w.va cProtection none a) s1
      | .poison p =>
        let s2 := if w.agents.any fun a => match a with | .gen _ _ _ _ => true | _ => false then s1 else s1.logPoison w.part p
        w.agents.foldl (fun s a => s.walkBad w.va cMachineCheck (some (p / 64 * 64)) a) s2
      | .invalid =>
        if w.agents.isEmpty then s1
        else
          match s1.faultRecord w.part w.ctx w.va w.kind 1 w.agents with
          | none => s
          | some s2 => w.agents.foldl (fun s a => s.walkMissing w.va a) s2)

end Sys2Proof.Machine
end

