-- ==== Sys2Proof/Machine/Manage.lean ====
section
/-!
DEFINITION. CONTROL operations (R322, R351, R359, R362, R367, R369, R370, R375, R378, R387, R388, R393), and the bias flip
they start (R139, R375).
-/

namespace Sys2Proof.Machine

/-! ### CONTROL messages -/

/-- A CONTROL operation is refused: status 1 and no effect. -/
def State.refused (s : State) (m : Msg) : State := s.controlDone m 1 []

/-- An operation has been done. -/
def State.accepted (s : State) (m : Msg) : State := s.controlDone m 0 []

/-- CONTROL messages wait while a take-over runs, and behind those that have waited (R396, R399). -/
def State.ctlHeld (s : State) : Bool := (s.take.any fun e => e.2) || !s.heldCtl.isEmpty

/-- A CONTROL message with an operation. -/
def State.control (s : State) (m : Msg) (op : Nat) (run : State → State) : State :=
  s.receiveNormal m fun s =>
    if m.chan.toNat != ctlChan then s.refuseMsg m 0x0C
    else if s.ctlHeld then { s with heldCtl := s.heldCtl ++ [(op, m)] }
    else run s

/-- Field of n bits of ARG. -/
def argField (m : Msg) (lo n : Nat) : Nat := (m.arg.extractLsb' lo n).toNat

/-- An operation of the device manager. -/
def State.asManager (s : State) (m : Msg) (run : State → State) : State := if m.part.toNat = mgrPart then run s else s.refused m

/-- An operation of a partition. -/
def State.asPartition (s : State) (m : Msg) (run : Nat → State → State) : State :=
  if m.part.toNat = mgrPart then s.refused m else run m.part.toNat s

/-! ### MODE and PCREATE (R369, R370, R388, R393) -/

/-- MODE: the code in ARG[15:8] (log 12). -/
def State.modeOp (s : State) (m : Msg) : State :=
  s.asManager m fun s =>
    if (List.range 12).any (fun p => (s.part p).live) || 2 < argField m 8 8 then s.refused m
    else ({ s with mode := BitVec.ofNat 2 (argField m 8 8) } : State).accepted m

/-- Dies of partition p under a mode (R28). -/
def modeDies (mode : BitVec 2) (p : Nat) : BitVec 12 :=
  if mode == 0 then (if p = 0 then 0xFFF else 0)
  else if mode == 1 then (if p = 0 then 0x03F else if p = 1 then 0xFC0 else 0)
  else if p < 12 then (1 : BitVec 12) <<< p else 0

/-- Feature mask of a die (R370, R388). -/
def featureMask (die hsets : Nat) (ports : BitVec 8) : BitVec 8 :=
  let bit (k : Nat) (b : Bool) : BitVec 8 := if b then (1 : BitVec 8) <<< k else 0
  bit 0 (!Config.fusedOff die 0) ||| bit 1 (!Config.fusedOff die 1) ||| bit 2 (!Config.fusedOff die 2) ||| bit 3 (decide (0 < hsets))
    ||| bit 4 (!Config.fusedOff die 4) ||| bit 5 (!Config.fusedOff die 5) ||| bit 6 (groupWhole die) ||| bit 7 (ports != 0)

/-- LPDDR6 channels of a set of dies: four for each (R28). -/
def channelMask (dies : BitVec 12) : Nat := ((List.range 12).map fun d => if dies.getLsbD d then 15 * 2 ^ (4 * d) else 0).sum

/-- The 32 bytes CONTROL_DONE of PCREATE returns for a die (R370); the last eight report the save region (R400; log 12). -/
def State.dieRecord (s : State) (part die : Nat) : List Byte :=
  let p := s.part part
  let cores := ((List.range 32).filter fun k => !Config.coreFused (32 * die + k)).length
  bytesOf (s.maskOf part die) 8 ++ bytesOf (Config.usableTiles die) 2 ++ bytesOf cores 2 ++ bytesOf p.dies.toNat 2
    ++ bytesOf (channelMask p.dies) 6 ++ [p.ports] ++ bytesOf 0 3 ++ bytesOf (Config.saveRegion part) 8

/-- Exactly n bytes of a list. -/
def padTo (n : Nat) (bs : List Byte) : List Byte := (List.range n).map fun k => bs.getD k 0

/-- Bytes of a 256-bit digest. -/
def digestBytes (d : BitVec 256) : List Byte := bytesOf d.toNat 32

/-- The statement of R393 over a nonce, the per-die records and an index. -/
def State.statement (s : State) (part : Nat) (nonce records : List Byte) (idx : Nat) : List Byte :=
  padTo 32 nonce ++ digestBytes (Config.shake256 s.firmware.contents) ++ bytesOf (imageNum s.firmware.contents 4 4) 4
    ++ [s.mode.zeroExtend 8, BitVec.ofNat 8 part] ++ bytesOf 0 2 ++ digestBytes (Config.shake256 records)
    ++ (List.range 16).map Config.identityBytes ++ bytesOf idx 4 ++ (List.range 68).map fun k => Config.identityBytes (16 + k)

/-- PCREATE: partition ARG[15:8] (log 12), peer ports ARG[23:16], HSETS ARG[29:24]. Refused where the mode has no such
partition, it exists, a port is taken, or HSETS is above 32. -/
def State.pcreateOp (s : State) (m : Msg) : State :=
  s.asManager m fun s =>
    let p := argField m 8 8
    let ports : BitVec 8 := m.arg.extractLsb' 16 8
    let hsets := argField m 24 6
    let dies := modeDies s.mode p
    let taken := (List.range 12).any fun q => (s.part q).live && (s.part q).ports &&& ports != 0
    if dies == 0 || (s.part p).live || taken || 32 < hsets then s.refused m
    else
      let mine := (List.range 12).filter fun d => dies.getLsbD d
      let s1 := s.setPart p
        { Part.none with live := true, dies := dies, ports := ports, hsets := hsets,
                         masks := mine.map fun d => (d, featureMask d hsets ports) }
      let records := mine.flatMap fun d => s1.dieRecord p d
      let last := decide (2 ^ 20 ≤ s1.xmss)
      let idx := if last then 0xFFFFFFFF else s1.xmss
      let text := s1.statement p m.payload records idx
      let sig := if last then [] else Config.identitySignature text s1.xmss
      ({ s1 with xmss := if last then s1.xmss else s1.xmss + 1 } : State).controlDone m 0 (records ++ text ++ padTo 2820 sig)

/-! ### PRESET, PDESTROY, CTX_TEARDOWN, WDLIMIT -/

/-- Steps 1 to 4 of R372; until step 5 the partition's messages draw NAK reason 2. -/
def State.beginReset (s : State) (m : Msg) (destroy : Bool) : State :=
  s.asPartition m fun p s =>
    let s1 := s.resetPart p
    s1.setPart p { s1.part p with resetting := some (m.seq, destroy) }

/-- PRESET. -/
def State.presetOp (s : State) (m : Msg) : State := s.beginReset m false

/-- PDESTROY: PRESET, then the partition's dies, memory and ports are released. -/
def State.pdestroyOp (s : State) (m : Msg) : State := s.beginReset m true

/-- Step 5 of R372: CONTROL_DONE is the first message of the new control-channel space. -/
def State.resetEnds (s : State) (p : Nat) : State :=
  match (s.part p).resetting with
  | none => s
  | some (seq, destroy) =>
    let s1 := s.setPart p (if destroy then Part.none else { s.part p with resetting := none })
    s1.emit p ctlChan mtControlDone (seq.zeroExtend 96) []

/-- A context of a partition: valid in the context table (R380), or with a code object loaded. -/
def State.hasCtx (s : State) (part ctx : Nat) : Bool := (s.ctxInfo part ctx).live || s.ctxEntry part ctx % 2 == 1

/-- CTX_TEARDOWN of context ARG[31:16]; one that does not exist is refused (log 12). -/
def State.teardownOp (s : State) (m : Msg) : State :=
  s.asPartition m fun p s =>
    if s.hasCtx p (argField m 16 16) then (s.teardown p (argField m 16 16)).accepted m else s.refused m

/-- WDLIMIT: limit ARG[63:32] for context ARG[31:16], in every task it has (R359, R367). -/
def State.wdlimitOp (s : State) (m : Msg) : State :=
  s.asPartition m fun p s =>
    let x := argField m 16 16
    let lim : BitVec 32 := m.arg.extractLsb' 32 32
    if !s.hasCtx p x then s.refused m
    else
      let put (c : Context) : Context :=
        match c.task with
        | some t => if t.part == p && t.ctx == x then { c with wdlim := lim } else c
        | none => c
      let s1 := s.setCtxInfo p x { s.ctxInfo p x with wdlim := lim }
      ({ s1 with cores := s1.cores.map fun e => (e.1, { e.2 with bank := put e.2.bank, other := put e.2.other }),
                 saved := s1.saved.map fun e => (e.1, e.2.map put) } : State).accepted m

/-! ### QDESC (R322, R323, R341; log 12) -/

/-- A queue may be enabled with a descriptor (R322). -/
def Queue.enables (q : Queue) : Bool :=
  decide (8 ≤ q.logsz.toNat) && decide (q.logsz.toNat ≤ 20) && q.weight != 0 && q.base.toNat % 2 ^ q.logsz.toNat == 0

/-- QDESC of queue ARG[24:16]: LOGSZ 0 disables the queue, another value enables it; a graph that still waits is taken up
again. -/
def State.qdescOp (s : State) (m : Msg) : State :=
  s.asPartition m fun p s =>
    let n := argField m 16 9
    let d := natOf m.payload
    let q := s.queue p n
    let new : Queue := { q with
      base := BitVec.ofNat 64 (d / 2 ^ 192), wr := BitVec.ofNat 32 (d / 2 ^ 160), logsz := BitVec.ofNat 5 (d / 2 ^ 16),
      weight := BitVec.ofNat 4 (d / 2 ^ 8), prio := BitVec.ofNat 2 (d / 2 ^ 6) }
    let waits := s.graphs.any fun e => e.2.part == p && e.2.queue == n && e.2.st == .waiting
    if s.queueCount ≤ n || m.payload.length != 32 || q.st == .draining then s.refused m
    else if new.logsz == 0 then (s.setQueue p n { new with st := .disabled }).accepted m
    else if !new.enables then s.refused m
    else
      let st : QueueSt := if q.st == .disabled then (if waits then .headWait else .active) else q.st
      ((s.setQueue p n { new with st := st }).testGraphs p).accepted m

/-! ### FAULT_ANSWER and TASK_RESUME (R350, R351, R387) -/

/-- The block a fault of a generator has frozen, its trap not yet delivered. -/
def Context.frozenBy (c : Context) (g : Nat) : Option (Nat × Bool × Block) :=
  c.blocks.find? fun e => e.2.2.st == .frozen && !e.2.2.told && e.2.2.trap.isSome
    && ((e.2.2.prog.genEntry g false).isSome || (e.2.2.prog.genEntry g true).isSome)

/-- The driver's answer for a generator's fault: its trap reaches the handler, or stops the task; a fault that has frozen
nothing yet is tried again on RESUME. -/
def Context.genAnswer (c : Context) (g va : Nat) (fatal : Bool) : Context :=
  match (c.gen g).streams with
  | [] => c
  | x :: _ =>
    match x.fault with
    | none => c
    | some f =>
      if !f.asked || f.page != va / 2 ^ 19 then c
      else
      let tell (h : Nat) (info : Word) (c : Context) : Context :=
        { c.wake with asyncs := c.asyncs ++ [⟨BitVec.ofNat 8 f.cause, true, BitVec.ofNat 3 h, false, info, fatal⟩] }
      let known := c.setGen g ((c.gen g).setHead { x with fault := some { f with asked := false } })
      match c.frozenBy g with
      | some (h, nxt, b) =>
        tell h (match b.trap with | some t => t.info | none => 0) (known.setHandle h ((known.handle h).setBlock nxt { b with told := true }))
      | none =>
        if fatal then tell (match c.binder g x.cfg.write with | some (h, _) => h | none => 0) 0 known
        else c.setGen g ((c.gen g).setHead { x with fault := none, wait := 0 })

/-- The answer for one agent of a record. -/
def State.answerAgent (s : State) (va : Nat) (fatal : Bool) : Agent → State
  | .instr c =>
    let b := s.bank c
    if b.wait.toNat != wTranslation then s
    else if fatal then s.setBank c { b with walkTrap := some (cTranslation, va, BitVec.ofNat 64 va), wait := 0 }
    else s.setBank c { b with wait := 0 }
  | .gen c g chain _ => s.mapChain c chain fun x => x.genAnswer g va fatal
  | .copy c k =>
    if fatal then s.cancelCopy c k cTranslation (match s.copy c k with | some x => x.missed | none => BitVec.ofNat 64 va)
    else s.mapCopy c k fun x => if x.st == .faulted then { x with st := if k < 512 then .moving else .saved } else x

/-- FAULT_ANSWER: ARG[8] is FATAL, for record ARG[47:16] (R387). -/
def State.answerOp (s : State) (m : Msg) : State :=
  s.asPartition m fun p s =>
    match (s.part p).records.find? fun r => r.recno == argField m 16 32 with
    | none => s.refused m
    | some r =>
      let s1 := s.setPart p { s.part p with records := (s.part p).records.filter fun x => x.recno != r.recno }
      (r.agents.foldl (fun s a => s.answerAgent r.va (m.arg.getLsbD 8) a) s1).accepted m

/-- The stopped context of a core: in its active bank, or switched out. -/
def Context.stoppedOf (c : Context) (part : Nat) : Bool :=
  c.stopped && match c.task with | some t => t.part == part | none => false

/-- A stopped task resumes: RETT from its frame is the next thing it does (R351). -/
def Context.unstop (c : Context) : Context := { c with stopped := false, trapst := true, resuming := true, wait := 0 }

/-- TASK_RESUME of the task at core ARG[20:16] of die ARG[27:24], a compute die. -/
def State.resumeOp (s : State) (m : Msg) : State :=
  s.asPartition m fun p s =>
    let c := 32 * argField m 24 4 + argField m 16 5
    let k := s.core c
    if Config.computeCores ≤ c then s.refused m
    else if k.bank.stoppedOf p then (s.setBank c k.bank.unstop).accepted m
    else if k.other.stoppedOf p && !k.incoming then (s.setCore c { k with other := k.other.unstop }).accepted m
    else s.refused m

/-! ### LINK and MACSEC_KEY -/

/-- LINK (R378): die ARG[15:8], module ARG[23:16], width ARG[25:24], rate ARG[27:26]. -/
def State.linkOp (s : State) (m : Msg) : State :=
  s.asManager m fun s =>
    let d := argField m 8 8
    let k := argField m 16 8
    let x := s.linkAt d k
    if !moduleOk d k || x.mode == .failed || x.mode == .disabled then s.refused m
    else
      let r : LinkReq := ⟨m.seq, m.arg.extractLsb' 24 2, m.arg.extractLsb' 26 2, 0⟩
      (s.setLink d k { x with waiting := x.waiting ++ [r] }).linkNext d k (x.waiting.length + 1)

/-- MACSEC_KEY (R362, R367): the key in the payload for port ARG[11:8], association number ARG[13:12], direction ARG[14], 0
receive; nine ports have keys. A key takes effect at the association number it names, whose packet numbers begin again; other
associations stay until a key replaces them (log 37). An empty key retires its association. -/
def State.macsecOp (s : State) (m : Msg) : State :=
  s.asManager m fun s =>
    let port := argField m 8 4
    let k := 4 * port + argField m 12 2
    let key := 2 * k + argField m 14 1
    if 8 < port then s.refused m
    else
      ({ s with macsec := if m.payload.isEmpty then Sparse.erase s.macsec key else s.macsec.set key m.payload,
                macPn := if argField m 14 1 = 0 then Sparse.erase s.macPn k else s.macPn } : State).accepted m

/-! ### FLIP (R139, R375) -/

/-- Leaves below a table that map a page of a partition: the place of each entry and the bytes it maps. fuel is the level
plus one. -/
def State.leavesBelow (s : State) (part page : Nat) : Nat → Nat → List (Nat × Nat)
  | 0, _ => []
  | level + 1, table =>
    (List.range (tableSize level / 16)).flatMap fun i =>
      let pl := placeOf part (table + 16 * i)
      let e : BitVec 128 := BitVec.ofNat 128 (s.natAt pl 16)
      if !pteV e then []
      else if pteLeaf e then (if pteAddr e == page && level < 3 then [(pl, leafSize level)] else [])
      else s.leavesBelow part page level (pteAddr e)

/-- Contexts that the context table of a partition holds valid: bit 0 of an entry's first byte (R380). -/
def State.tableCtxs (s : State) (part : Nat) : List Nat :=
  (s.mem.filter fun e => decide (placeOf part 0 ≤ e.1) && decide (e.1 < placeOf part 0 + 2 ^ 22) && (e.1 - placeOf part 0) % 64 == 0
    && e.2.getLsbD 0).map fun e => (e.1 - placeOf part 0) / 64

/-- Leaves of the partition's contexts that map a page. -/
def State.leavesOf (s : State) (part page : Nat) : List (Nat × Nat) :=
  let loaded := (s.ctxs.filter fun e => e.1 / 65536 == part && e.2.live).map fun e => e.1 % 65536
  ((loaded ++ s.tableCtxs part).eraseDups.flatMap fun c =>
    s.leavesBelow part page 4 (s.ctxEntry part c / 2 ^ 13 % 2 ^ 35 * 2 ^ 13)).eraseDups

/-- BIAS of the leaf at a place. -/
def State.biasAt (s : State) (pl : Nat) : Bool := pteBias (BitVec.ofNat 128 (s.natAt pl 16))

/-- FLIP of the page at partition-physical address ARG[71:8] (log 12): the page goes to the other bias; a second flip of
it waits. A page no context maps is refused. -/
def State.flipOp (s : State) (m : Msg) : State :=
  s.asPartition m fun p s =>
    let page := argField m 8 64
    match s.leavesOf p page with
    | [] => s.refused m
    | (pl, size) :: _ =>
      let busy := s.flips.any fun f => f.part == p && f.page == page
      { s with flips := s.flips ++ [⟨p, page, size, !s.biasAt pl, m.seq, if busy then .queued else .flipping, 0⟩] }

/-- A span lies on a page of a partition, on the device or with the host. -/
def onPage (part page size : Nat) (x : Span) : Bool :=
  x.meets ⟨placeOf part page, size, true⟩ || x.meets ⟨hostMark + part * 2 ^ 48 + page, size, true⟩

/-- No access to a page is in flight (R139): no issued instruction names it, and nothing asked of the host is
unanswered. -/
def State.pageQuiet (s : State) (f : Flip) : Bool :=
  let mine (c : Context) : Bool := c.fly.any fun e => e.spans.any (onPage f.part f.page f.size)
  let out := s.chan (chanKey f.part memChan)
  let open' (tag : Nat) : Bool := tag != 0 && !s.answered f.part tag
  let asked (c : Context) : Bool := c.fillMsg != 0
    || c.gens.any fun g => g.2.streams.any fun x => if x.cfg.write then open' x.msg else x.msg != 0
  !(s.cores.any fun e => mine e.2.bank || mine e.2.other || asked e.2.bank
      || e.2.copies.any fun c => if c.2.off = c.2.n then open' c.2.msg else c.2.msg != 0)
    && !(out.unacked.any fun x => x.type == mtDevWrite) && out.queued.isEmpty

/-- Page-size code of a FLUSH (log 12). -/
def sizeCode (size : Nat) : Nat := if size = 2 ^ 30 then 2 else if size = 2 ^ 24 then 1 else 0

/-- The leaf at a place with its BIAS bit changed. -/
def State.setBias (s : State) (pl : Nat) (host : Bool) : State :=
  let e : BitVec 128 := BitVec.ofNat 128 (s.natAt pl 16)
  let bit : BitVec 128 := (1 : BitVec 128) <<< 68
  s.writeNat pl (if host then e ||| bit else e &&& ~~~bit).toNat 16

/-- Bytes of the host that a window fill, a stream or a copy has fetched and not used yet are given up: it reads them again
under the page's new bias (R139). -/
def State.dropFetched (s : State) : State :=
  let gen (g : Gen) : Gen := { g with streams := g.streams.map fun x => if x.cfg.write then x else { x with got := [] } }
  let bank (c : Context) : Context := { c with fillData := [], gens := c.gens.map fun e => (e.1, gen e.2) }
  { s with cores := s.cores.map fun e => (e.1, { e.2 with
             bank := bank e.2.bank, other := bank e.2.other, copies := e.2.copies.map fun c => (c.1, { c.2 with got := [] }) }),
           saved := s.saved.map fun e => (e.1, e.2.map bank) }

/-- Steps 4 and 5 of a flip: the bias bit is written, translations of the page go, and the requester is told; a flip of
the page that waited begins. -/
def State.finishFlip (s : State) (f : Flip) : State :=
  let s1 : State := ({ s with flips := s.flips.erase f } : State).dropFetched
  let s2 := (s1.leavesOf f.part f.page).foldl (fun s x => s.setBias x.1 f.host) s1
  let s3 := s2.emit f.part ctlChan mtControlDone (f.seq.zeroExtend 96) []
  let s4 : State := match s3.flips.find? fun g => g.part == f.part && g.page == f.page with
    | some g => { s3 with flips := s3.flips.map fun x => if x == g then { g with st := .flipping, host := !f.host } else x }
    | none => s3
  s4.releaseHost

/-- A flip goes on once the accesses in flight have performed: to device bias the host is asked to write back, to host
bias the device holds nothing to write back and the flip ends. -/
def State.advanceFlip (s : State) : State :=
  match s.flips.find? fun f => f.st == .flipping && s.pageQuiet f with
  | none => s
  | some f =>
    if f.host then s.finishFlip f
    else
      let r := s.sendMem f.part mtFlush (BitVec.ofNat 96 (f.page + sizeCode f.size * 2 ^ 64)) []
      { r.1 with flips := r.1.flips.map fun x => if x == f then { f with st := .flushing, msg := r.2 } else x }

/-- FLUSH_DONE: the host has written back; the flip the FLUSH of SEQ ARG[47:0] belongs to ends. -/
def execFlushDone (m : Msg) (s : State) : Out :=
  .next (s.receiveNormal m fun s =>
    let p := m.part.toNat
    if p = mgrPart || m.chan.toNat != memChan then s.refuseMsg m 0x14
    else
      match s.asked mtFlush p (m.arg.extractLsb' 0 48) with
      | none => s
      | some x =>
        match s.flips.find? fun f => f.part == p && f.st == .flushing && f.msg == x.tag with
        | some f => s.finishFlip f
        | none => s)

/-! ### The messages -/

/-- Run an operation of R367 by its number. -/
def State.runControl (s : State) (op : Nat) (m : Msg) : State :=
  match op with
  | 1 => s.modeOp m
  | 2 => s.pcreateOp m
  | 3 => s.presetOp m
  | 4 => s.pdestroyOp m
  | 5 => s.qdescOp m
  | 6 => s.flipOp m
  | 7 => s.answerOp m
  | 8 => s.resumeOp m
  | 9 => s.teardownOp m
  | 10 => s.linkOp m
  | 11 => s.macsecOp m
  | 12 => s.wdlimitOp m
  | _ => s.refused m

/-- The first CONTROL message that has waited for a take-over to end runs. -/
def State.nextControl (s : State) : State :=
  match s.heldCtl with
  | [] => s
  | (op, m) :: rest => if s.take.any fun e => e.2 then s else ({ s with heldCtl := rest } : State).runControl op m

/-- MODE. -/
def execMode (m : Msg) (s : State) : Out := .next (s.control m 1 fun s => s.modeOp m)
/-- PCREATE. -/
def execPcreate (m : Msg) (s : State) : Out := .next (s.control m 2 fun s => s.pcreateOp m)
/-- PRESET. -/
def execPreset (m : Msg) (s : State) : Out := .next (s.control m 3 fun s => s.presetOp m)
/-- PDESTROY. -/
def execPdestroy (m : Msg) (s : State) : Out := .next (s.control m 4 fun s => s.pdestroyOp m)
/-- QDESC. -/
def execQdesc (m : Msg) (s : State) : Out := .next (s.control m 5 fun s => s.qdescOp m)
/-- FLIP. -/
def execFlip (m : Msg) (s : State) : Out := .next (s.control m 6 fun s => s.flipOp m)
/-- FAULT_ANSWER. -/
def execFaultAnswer (m : Msg) (s : State) : Out := .next (s.control m 7 fun s => s.answerOp m)
/-- TASK_RESUME. -/
def execTaskResume (m : Msg) (s : State) : Out := .next (s.control m 8 fun s => s.resumeOp m)
/-- CTX_TEARDOWN. -/
def execCtxTeardown (m : Msg) (s : State) : Out := .next (s.control m 9 fun s => s.teardownOp m)
/-- LINK. -/
def execLink (m : Msg) (s : State) : Out := .next (s.control m 10 fun s => s.linkOp m)
/-- MACSEC_KEY. -/
def execMacsecKey (m : Msg) (s : State) : Out := .next (s.control m 11 fun s => s.macsecOp m)
/-- WDLIMIT. -/
def execWdlimit (m : Msg) (s : State) : Out := .next (s.control m 12 fun s => s.wdlimitOp m)
/-- CONTROL_REFUSED: an operation outside the table. -/
def execControlRefused (m : Msg) (s : State) : Out := .next (s.control m 0 fun s => s.refused m)

end Sys2Proof.Machine
end

