-- ==== Sys2Proof/Machine/Peers.lean ====
section
/-!
DEFINITION. The peer profile (R371): messages of the peer ports, and reductions.
-/

namespace Sys2Proof.Machine

/-- A sequenced message of a peer port, on channel 0xFFD of the partition the port is granted to; any other is dropped
(R363). -/
def State.peerReceive (s : State) (port : Fin 8) (m : Msg) (body : Nat → State → State) : State :=
  s.receiveNormal { m with port := port.castSucc } (body m.part.toNat)

/-- PEER_WRITE: a peer's sys-scope write to memory. -/
def execPeerWrite (port : Fin 8) (m : Msg) (s : State) : Out :=
  .next (s.peerReceive port m fun _ s => s.hostOrHold { m with port := port.castSucc } true)

/-- PEER_READ_REQ: a peer's sys-scope read. -/
def execPeerReadReq (port : Fin 8) (m : Msg) (s : State) : Out :=
  .next (s.peerReceive port m fun _ s => s.hostOrHold { m with port := port.castSucc } false)

/-- PEER_READ_RESP: it answers a read of this device's; none is outstanding in this model, so only its number counts. -/
def execPeerReadResp (port : Fin 8) (m : Msg) (s : State) : Out := .next (s.peerReceive port m fun _ s => s)

/-- The tun-128 values of a payload. -/
def tunsOf (bs : List Byte) : List Tun :=
  (List.range (min 512 (bs.length / 16))).map fun k => Tun.ofBits (BitVec.ofNat 128 (natOf ((bs.drop (16 * k)).take 16)))

/-- Each value is added into its accumulator exactly, its L flag ORed in (R76, R371). -/
def addTuns : List Tun → List Tun → List Tun
  | as, [] => as
  | [], v :: vs => Tun.addTun Tun.start v :: addTuns [] vs
  | a :: as, v :: vs => Tun.addTun a v :: addTuns as vs

/-- An overflow policy by number (R83). -/
def ovfOf : Nat → Ovf
  | 0 => .sat
  | 1 => .inf
  | 2 => .nan
  | _ => .trap

/-- A rounding mode by number (R81). -/
def rmOf : Nat → Rm
  | 0 => .rne
  | 1 => .rtz
  | 2 => .rup
  | 3 => .rdn
  | 4 => .rna
  | _ => .stoch

/-- An accumulator drained under its reduction's target format, rounding and overflow policy, which are free values (R79, R371;
log 48); a drain to tun-128 keeps the value. -/
def reduceDrain (n : Nat) (draw : Half) (t : Tun) : BitVec 128 :=
  let x := Config.reduceTarget n
  match fmtOf [] (BitVec.ofNat 6 (x.1 % 64)) with
  | some f => BitVec.ofNat 128 (tunDrain t f (rmOf x.2.1) (ovfOf x.2.2) draw (.fin false 1 0) (.fin false 1 0)).bits
  | none => t.toBits

/-- REDUCE: values of reduction ARG[15:0] are added into the receiving unit's accumulators; with the root's final contribution,
ARG[16], each accumulator is drained once (R371). Where the results go is not stated: they stay with the reduction (log 48). -/
def execReduce (port : Fin 8) (m : Msg) (s : State) : Out :=
  .next (s.peerReceive port m fun _ s =>
    let n := (m.arg.extractLsb' 0 16).toNat
    let r := Sparse.get ⟨0, [], false, []⟩ s.reds n
    let acc := addTuns r.acc (tunsOf m.payload)
    let last := m.arg.getLsbD 16 && !r.final
    let out := if last then acc.map (reduceDrain n ((Config.freeWord s.turn).truncate 32)) else r.out
    let s1 : State := if last then { s with turn := s.turn + 1 } else s
    { s1 with reds := s1.reds.set n ⟨r.ports ||| 1 <<< port.val, acc, r.final || m.arg.getLsbD 16, out⟩ })

end Sys2Proof.Machine
end

