-- ==== Sys2Proof/Machine/Scalar.lean ====
section
/-!
DEFINITION. Register arithmetic and logic, immediates and addresses (R171 to R176): one meaning per instruction.
-/

namespace Sys2Proof.Machine

/-- ADD: X(A) := X(B) + X(C) (R172). -/
def execAdd (a b c : XReg) (s : State) : Out :=
  op3 (.add a b c) a b c (fun x y => x + y) s

/-- SUB: X(A) := X(B) - X(C) (R172). -/
def execSub (a b c : XReg) (s : State) : Out :=
  op3 (.sub a b c) a b c (fun x y => x - y) s

/-- MUL: low 64 bits of the product (R172). -/
def execMul (a b c : XReg) (s : State) : Out :=
  opLong (.mul a b c) .mul a b c s

/-- MULHS: high half of the signed product (R172). -/
def execMulhs (a b c : XReg) (s : State) : Out :=
  opLong (.mulhs a b c) .mulhs a b c s

/-- MULHU: high half of the unsigned product (R172). -/
def execMulhu (a b c : XReg) (s : State) : Out :=
  opLong (.mulhu a b c) .mulhu a b c s

/-- DIVS: signed quotient (R173). -/
def execDivs (a b c : XReg) (s : State) : Out :=
  opLong (.divs a b c) .divs a b c s

/-- DIVU: unsigned quotient (R173). -/
def execDivu (a b c : XReg) (s : State) : Out :=
  opLong (.divu a b c) .divu a b c s

/-- REMS: signed remainder (R173). -/
def execRems (a b c : XReg) (s : State) : Out :=
  opLong (.rems a b c) .rems a b c s

/-- REMU: unsigned remainder (R173). -/
def execRemu (a b c : XReg) (s : State) : Out :=
  opLong (.remu a b c) .remu a b c s

/-- MIN: the smaller of the signed values (R172). -/
def execMin (a b c : XReg) (s : State) : Out :=
  op3 (.min a b c) a b c (fun x y => if x.sle y then x else y) s

/-- MAX: the larger of the signed values (R172). -/
def execMax (a b c : XReg) (s : State) : Out :=
  op3 (.max a b c) a b c (fun x y => if x.sle y then y else x) s

/-- MINU: the smaller of the unsigned values (R172). -/
def execMinu (a b c : XReg) (s : State) : Out :=
  op3 (.minu a b c) a b c (fun x y => if x.ule y then x else y) s

/-- MAXU: the larger of the unsigned values (R172). -/
def execMaxu (a b c : XReg) (s : State) : Out :=
  op3 (.maxu a b c) a b c (fun x y => if x.ule y then y else x) s

/-- AND: bitwise and (R172). -/
def execAnd (a b c : XReg) (s : State) : Out :=
  op3 (.and a b c) a b c (fun x y => x &&& y) s

/-- OR: bitwise or (R172). -/
def execOr (a b c : XReg) (s : State) : Out :=
  op3 (.or a b c) a b c (fun x y => x ||| y) s

/-- XOR: bitwise exclusive or (R172). -/
def execXor (a b c : XReg) (s : State) : Out :=
  op3 (.xor a b c) a b c (fun x y => x ^^^ y) s

/-- ANDN: X(B) and not X(C) (R172). -/
def execAndn (a b c : XReg) (s : State) : Out :=
  op3 (.andn a b c) a b c (fun x y => x &&& ~~~y) s

/-- SHL: shift to the left by X(C)[5:0] (R172). -/
def execShl (a b c : XReg) (s : State) : Out :=
  op3 (.shl a b c) a b c (fun x y => x <<< amount y) s

/-- SHR: shift to the right with zeros (R172). -/
def execShr (a b c : XReg) (s : State) : Out :=
  op3 (.shr a b c) a b c (fun x y => x >>> amount y) s

/-- SRA: shift to the right with the sign (R172). -/
def execSra (a b c : XReg) (s : State) : Out :=
  op3 (.sra a b c) a b c (fun x y => x.sshiftRight (amount y)) s

/-- ROL: rotation to the left (R172). -/
def execRol (a b c : XReg) (s : State) : Out :=
  op3 (.rol a b c) a b c (fun x y => rolBy x (amount y)) s

/-- SEQ: 1 if equal, else 0 (R174). -/
def execSeq (a b c : XReg) (s : State) : Out :=
  op3 (.seq a b c) a b c (fun x y => flag01 (x == y)) s

/-- SLT: 1 if less, signed (R174). -/
def execSlt (a b c : XReg) (s : State) : Out :=
  op3 (.slt a b c) a b c (fun x y => flag01 (x.slt y)) s

/-- SLTU: 1 if less, unsigned (R174). -/
def execSltu (a b c : XReg) (s : State) : Out :=
  op3 (.sltu a b c) a b c (fun x y => flag01 (x.ult y)) s

/-- SEL: X(A) := X(B) if X(A) is not 0, else X(C) (R174). -/
def execSel (a b c : XReg) (s : State) : Out :=
  writeX (.sel a b c) [a, b, c] a (fun k => if k.x a != 0 then k.x b else k.x c) s

/-- CLZ: count of leading zero bits (R174). -/
def execClz (a b : XReg) (s : State) : Out :=
  op2 (.clz a b) a b (countLead) s

/-- CTZ: count of trailing zero bits (R174). -/
def execCtz (a b : XReg) (s : State) : Out :=
  op2 (.ctz a b) a b (countTrail) s

/-- POPC: count of one bits (R174). -/
def execPopc (a b : XReg) (s : State) : Out :=
  op2 (.popc a b) a b (countOnes) s

/-- MOV: X(A) := X(B) (R174). -/
def execMov (a b : XReg) (s : State) : Out :=
  op2 (.mov a b) a b (fun x => x) s

/-- EXTS: sign extension (R174). -/
def execExts (a b : XReg) (n : ExtWidth) (s : State) : Out :=
  op2 (.exts a b n) a b (signExt n) s

/-- EXTZ: zero extension (R174). -/
def execExtz (a b : XReg) (n : ExtWidth) (s : State) : Out :=
  op2 (.extz a b n) a b (zeroExt n) s

/-- ADDI: X(B) + sext(imm) (R175). -/
def execAddi (a b : XReg) (imm : BitVec 32) (s : State) : Out :=
  op2 (.addi a b imm) a b (fun x => x + sext32 imm) s

/-- ANDI: X(B) and sext(imm) (R175). -/
def execAndi (a b : XReg) (imm : BitVec 32) (s : State) : Out :=
  op2 (.andi a b imm) a b (fun x => x &&& sext32 imm) s

/-- ORI: X(B) or zext(imm) (R175). -/
def execOri (a b : XReg) (imm : BitVec 32) (s : State) : Out :=
  op2 (.ori a b imm) a b (fun x => x ||| zext32 imm) s

/-- XORI: X(B) exclusive or zext(imm) (R175). -/
def execXori (a b : XReg) (imm : BitVec 32) (s : State) : Out :=
  op2 (.xori a b imm) a b (fun x => x ^^^ zext32 imm) s

/-- SHLI: shift to the left by imm[5:0] (R175). -/
def execShli (a b : XReg) (n : BitVec 6) (s : State) : Out :=
  op2 (.shli a b n) a b (fun x => x <<< n.toNat) s

/-- SHRI: shift to the right with zeros (R175). -/
def execShri (a b : XReg) (n : BitVec 6) (s : State) : Out :=
  op2 (.shri a b n) a b (fun x => x >>> n.toNat) s

/-- SRAI: shift to the right with the sign (R175). -/
def execSrai (a b : XReg) (n : BitVec 6) (s : State) : Out :=
  op2 (.srai a b n) a b (fun x => x.sshiftRight n.toNat) s

/-- ROLI: rotation to the left (R175). -/
def execRoli (a b : XReg) (n : BitVec 6) (s : State) : Out :=
  op2 (.roli a b n) a b (fun x => rolBy x n.toNat) s

/-- LIMM: X(A) := sext(imm, 32) (R175). -/
def execLimm (a : XReg) (imm : BitVec 32) (s : State) : Out :=
  writeX (.limm a imm) [a] a (fun _ => sext32 imm) s

/-- LIMMH: the high half of X(A) becomes imm (R175). -/
def execLimmh (a : XReg) (imm : BitVec 32) (s : State) : Out :=
  writeX (.limmh a imm) [a] a (fun k => (zext32 imm <<< 32) ||| (k.x a &&& 0xFFFFFFFF)) s

/-- LEA: the effective address X(B) + X(C) x 2^SIZE + sext(disp) (R176). -/
def execLea (a base index : XReg) (size : Size) (disp : BitVec 32) (s : State) : Out :=
  writeX (.lea a base index size disp) [a, base, index] a
    (fun k => k.x base + k.x index * BitVec.ofNat 64 (sizeBytes size) + sext32 disp) s

end Sys2Proof.Machine
end

