-- ==== Sys2Proof/Machine/Dispatch.lean ====
section
/-!
DEFINITION. The meaning of every instruction: one arm per constructor of Instr.
-/

namespace Sys2Proof.Machine

/-- The meaning of an instruction on core cur, or of a device step. -/
def exec (i : Instr) (s : State) : Host.Outcome State Fault Refusal :=
  match i with
  | .add a b c => Sys2Proof.Machine.execAdd a b c s
  | .sub a b c => Sys2Proof.Machine.execSub a b c s
  | .mul a b c => Sys2Proof.Machine.execMul a b c s
  | .mulhs a b c => Sys2Proof.Machine.execMulhs a b c s
  | .mulhu a b c => Sys2Proof.Machine.execMulhu a b c s
  | .divs a b c => Sys2Proof.Machine.execDivs a b c s
  | .divu a b c => Sys2Proof.Machine.execDivu a b c s
  | .rems a b c => Sys2Proof.Machine.execRems a b c s
  | .remu a b c => Sys2Proof.Machine.execRemu a b c s
  | .min a b c => Sys2Proof.Machine.execMin a b c s
  | .max a b c => Sys2Proof.Machine.execMax a b c s
  | .minu a b c => Sys2Proof.Machine.execMinu a b c s
  | .maxu a b c => Sys2Proof.Machine.execMaxu a b c s
  | .and a b c => Sys2Proof.Machine.execAnd a b c s
  | .or a b c => Sys2Proof.Machine.execOr a b c s
  | .xor a b c => Sys2Proof.Machine.execXor a b c s
  | .andn a b c => Sys2Proof.Machine.execAndn a b c s
  | .shl a b c => Sys2Proof.Machine.execShl a b c s
  | .shr a b c => Sys2Proof.Machine.execShr a b c s
  | .sra a b c => Sys2Proof.Machine.execSra a b c s
  | .rol a b c => Sys2Proof.Machine.execRol a b c s
  | .seq a b c => Sys2Proof.Machine.execSeq a b c s
  | .slt a b c => Sys2Proof.Machine.execSlt a b c s
  | .sltu a b c => Sys2Proof.Machine.execSltu a b c s
  | .sel a b c => Sys2Proof.Machine.execSel a b c s
  | .clz a b => Sys2Proof.Machine.execClz a b s
  | .ctz a b => Sys2Proof.Machine.execCtz a b s
  | .popc a b => Sys2Proof.Machine.execPopc a b s
  | .mov a b => Sys2Proof.Machine.execMov a b s
  | .exts a b n => Sys2Proof.Machine.execExts a b n s
  | .extz a b n => Sys2Proof.Machine.execExtz a b n s
  | .addi a b imm => Sys2Proof.Machine.execAddi a b imm s
  | .andi a b imm => Sys2Proof.Machine.execAndi a b imm s
  | .ori a b imm => Sys2Proof.Machine.execOri a b imm s
  | .xori a b imm => Sys2Proof.Machine.execXori a b imm s
  | .shli a b n => Sys2Proof.Machine.execShli a b n s
  | .shri a b n => Sys2Proof.Machine.execShri a b n s
  | .srai a b n => Sys2Proof.Machine.execSrai a b n s
  | .roli a b n => Sys2Proof.Machine.execRoli a b n s
  | .limm a imm => Sys2Proof.Machine.execLimm a imm s
  | .limmh a imm => Sys2Proof.Machine.execLimmh a imm s
  | .lea a base index size disp => Sys2Proof.Machine.execLea a base index size disp s
  | .ldb a m => Sys2Proof.Machine.execLdb a m s
  | .ldh a m => Sys2Proof.Machine.execLdh a m s
  | .ldw a m => Sys2Proof.Machine.execLdw a m s
  | .ldd a m => Sys2Proof.Machine.execLdd a m s
  | .ldbu a m => Sys2Proof.Machine.execLdbu a m s
  | .ldhu a m => Sys2Proof.Machine.execLdhu a m s
  | .ldwu a m => Sys2Proof.Machine.execLdwu a m s
  | .stb a m => Sys2Proof.Machine.execStb a m s
  | .sth a m => Sys2Proof.Machine.execSth a m s
  | .stw a m => Sys2Proof.Machine.execStw a m s
  | .std a m => Sys2Proof.Machine.execStd a m s
  | .ldv a m => Sys2Proof.Machine.execLdv a m s
  | .stv a m => Sys2Proof.Machine.execStv a m s
  | .aadd a o => Sys2Proof.Machine.execAadd a o s
  | .axchg a o => Sys2Proof.Machine.execAxchg a o s
  | .aand a o => Sys2Proof.Machine.execAand a o s
  | .aor a o => Sys2Proof.Machine.execAor a o s
  | .axor a o => Sys2Proof.Machine.execAxor a o s
  | .acas a o => Sys2Proof.Machine.execAcas a o s
  | .amin a o => Sys2Proof.Machine.execAmin a o s
  | .aminu a o => Sys2Proof.Machine.execAminu a o s
  | .amax a o => Sys2Proof.Machine.execAmax a o s
  | .amaxu a o => Sys2Proof.Machine.execAmaxu a o s
  | .waita a base scope disp => Sys2Proof.Machine.execWaita a base scope disp s
  | .fence kind scope => Sys2Proof.Machine.execFence kind scope s
  | .cbar => Sys2Proof.Machine.execCbar s
  | .bez a t => Sys2Proof.Machine.execBez a t s
  | .bnz a t => Sys2Proof.Machine.execBnz a t s
  | .bltz a t => Sys2Proof.Machine.execBltz a t s
  | .bgez a t => Sys2Proof.Machine.execBgez a t s
  | .jmp t => Sys2Proof.Machine.execJmp t s
  | .call t => Sys2Proof.Machine.execCall t s
  | .jr b => Sys2Proof.Machine.execJr b s
  | .callr b => Sys2Proof.Machine.execCallr b s
  | .ret => Sys2Proof.Machine.execRet s
  | .trap code => Sys2Proof.Machine.execTrap code s
  | .endTask next => Sys2Proof.Machine.execEndTask next s
  | .vadd a b c f => Sys2Proof.Machine.execVadd a b c f s
  | .vsub a b c f => Sys2Proof.Machine.execVsub a b c f s
  | .vmul a b c f => Sys2Proof.Machine.execVmul a b c f s
  | .vfma a b c f => Sys2Proof.Machine.execVfma a b c f s
  | .vfms a b c f => Sys2Proof.Machine.execVfms a b c f s
  | .vmin a b c f => Sys2Proof.Machine.execVmin a b c f s
  | .vmax a b c f => Sys2Proof.Machine.execVmax a b c f s
  | .vabs a b f => Sys2Proof.Machine.execVabs a b f s
  | .vneg a b f => Sys2Proof.Machine.execVneg a b f s
  | .vdiv a b c f => Sys2Proof.Machine.execVdiv a b c f s
  | .vsqrt a b f => Sys2Proof.Machine.execVsqrt a b f s
  | .vrcp a b f => Sys2Proof.Machine.execVrcp a b f s
  | .vrsq a b f => Sys2Proof.Machine.execVrsq a b f s
  | .vcmpeq a b c pred sf u => Sys2Proof.Machine.execVcmpeq a b c pred sf u s
  | .vcmplt a b c pred sf u => Sys2Proof.Machine.execVcmplt a b c pred sf u s
  | .vcmple a b c pred sf u => Sys2Proof.Machine.execVcmple a b c pred sf u s
  | .vsel a b c pred => Sys2Proof.Machine.execVsel a b c pred s
  | .vand a b c pred => Sys2Proof.Machine.execVand a b c pred s
  | .vor a b c pred => Sys2Proof.Machine.execVor a b c pred s
  | .vxor a b c pred => Sys2Proof.Machine.execVxor a b c pred s
  | .vshl a b n pred => Sys2Proof.Machine.execVshl a b n pred s
  | .vshr a b n pred => Sys2Proof.Machine.execVshr a b n pred s
  | .vsra a b n pred => Sys2Proof.Machine.execVsra a b n pred s
  | .viadd a b c sat pred => Sys2Proof.Machine.execViadd a b c sat pred s
  | .visub a b c sat pred => Sys2Proof.Machine.execVisub a b c sat pred s
  | .vimul a b c sat pred => Sys2Proof.Machine.execVimul a b c sat pred s
  | .vperm a b c pred => Sys2Proof.Machine.execVperm a b c pred s
  | .vredadd a b f sat => Sys2Proof.Machine.execVredadd a b f sat s
  | .vredmax a b f sat => Sys2Proof.Machine.execVredmax a b f sat s
  | .vbcast a b k pred => Sys2Proof.Machine.execVbcast a b k pred s
  | .vmov a b pred => Sys2Proof.Machine.execVmov a b pred s
  | .vins a b k => Sys2Proof.Machine.execVins a b k s
  | .vext a b z k => Sys2Proof.Machine.execVext a b z k s
  | .vtag a b t => Sys2Proof.Machine.execVtag a b t s
  | .vflags a flag clr pred => Sys2Proof.Machine.execVflags a flag clr pred s
  | .vcvt a b t f ov dsel ssel => Sys2Proof.Machine.execVcvt a b t f ov dsel ssel s
  | .vrng a pred => Sys2Proof.Machine.execVrng a pred s
  | .ldt a b scope tr => Sys2Proof.Machine.execLdt a b scope tr s
  | .sbind pg b c cfg rep wtag => Sys2Proof.Machine.execSbind pg b c cfg rep wtag s
  | .sgate pg b start => Sys2Proof.Machine.execSgate pg b start s
  | .swait pg scope => Sys2Proof.Machine.execSwait pg scope s
  | .fload h index => Sys2Proof.Machine.execFload h index s
  | .fstart h => Sys2Proof.Machine.execFstart h s
  | .fbar scope => Sys2Proof.Machine.execFbar scope s
  | .fwait scope mask => Sys2Proof.Machine.execFwait scope mask s
  | .frestart h => Sys2Proof.Machine.execFrestart h s
  | .fqry a h item => Sys2Proof.Machine.execFqry a h item s
  | .acopy a b c e f scope disp => Sys2Proof.Machine.execAcopy a b c e f scope disp s
  | .binit b c disp scope => Sys2Proof.Machine.execBinit b c disp scope s
  | .bexpect b c disp scope => Sys2Proof.Machine.execBexpect b c disp scope s
  | .bwait b c disp scope => Sys2Proof.Machine.execBwait b c disp scope s
  | .rowopen a b => Sys2Proof.Machine.execRowopen a b s
  | .rowholdKeep a b => Sys2Proof.Machine.execRowholdKeep a b s
  | .rowholdDrop a b => Sys2Proof.Machine.execRowholdDrop a b s
  | .rowrel a b => Sys2Proof.Machine.execRowrel a b s
  | .rowqry a b => Sys2Proof.Machine.execRowqry a b s
  | .crd a num => Sys2Proof.Machine.execCrd a num s
  | .cwr a num => Sys2Proof.Machine.execCwr a num s
  | .rett => Sys2Proof.Machine.execRett s
  | .rqrd a b => Sys2Proof.Machine.execRqrd a b s
  | .rqinj b => Sys2Proof.Machine.execRqinj b s
  | .tlbinv b all scope => Sys2Proof.Machine.execTlbinv b all scope s
  | .idle b => Sys2Proof.Machine.execIdle b s
  | .brk => Sys2Proof.Machine.execBrk s
  | .qnop h => Sys2Proof.Machine.execQnop h s
  | .qadd o sat => Sys2Proof.Machine.execQadd o sat s
  | .qsub o sat => Sys2Proof.Machine.execQsub o sat s
  | .qmul o sat => Sys2Proof.Machine.execQmul o sat s
  | .qmac o sat => Sys2Proof.Machine.execQmac o sat s
  | .qand o => Sys2Proof.Machine.execQand o s
  | .qor o => Sys2Proof.Machine.execQor o s
  | .qxor o => Sys2Proof.Machine.execQxor o s
  | .qshl o n => Sys2Proof.Machine.execQshl o n s
  | .qshr o n => Sys2Proof.Machine.execQshr o n s
  | .qsra o n => Sys2Proof.Machine.execQsra o n s
  | .qmin o u => Sys2Proof.Machine.execQmin o u s
  | .qmax o u => Sys2Proof.Machine.execQmax o u s
  | .qcmp o cond => Sys2Proof.Machine.execQcmp o cond s
  | .qsel o => Sys2Proof.Machine.execQsel o s
  | .qfadd o rm => Sys2Proof.Machine.execQfadd o rm s
  | .qfmul o rm => Sys2Proof.Machine.execQfmul o rm s
  | .qfma o rm => Sys2Proof.Machine.execQfma o rm s
  | .qfmin o => Sys2Proof.Machine.execQfmin o s
  | .qfmax o => Sys2Proof.Machine.execQfmax o s
  | .qcvt o t rm ov dsel ssel => Sys2Proof.Machine.execQcvt o t rm ov dsel ssel s
  | .qrecv h dst p peek ep => Sys2Proof.Machine.execQrecv h dst p peek ep s
  | .qsend h p s1 gate e xoff ep => Sys2Proof.Machine.execQsend h p s1 gate e xoff ep s
  | .qlane h dst c xoff z => Sys2Proof.Machine.execQlane h dst c xoff z s
  | .qbcast h dst c lane => Sys2Proof.Machine.execQbcast h dst c lane s
  | .qredl h dst s1 op rm ep => Sys2Proof.Machine.execQredl h dst s1 op rm ep s
  | .qmov h dst f ep => Sys2Proof.Machine.execQmov h dst f ep s
  | .qtstep h p rep gb na lb za => Sys2Proof.Machine.execQtstep h p rep gb na lb za s
  | .qdrain h p n0 g ov rm pk => Sys2Proof.Machine.execQdrain h p n0 g ov rm pk s
  | .qscale h f => Sys2Proof.Machine.execQscale h f s
  | .qiter h dst item => Sys2Proof.Machine.execQiter h dst item s
  | .qempty h dst p c => Sys2Proof.Machine.execQempty h dst p c s
  | .qrsym h => Sys2Proof.Machine.execQrsym h s
  | .qrload h p e0 => Sys2Proof.Machine.execQrload h p e0 s
  | .qrdrain h p e0 ov rm => Sys2Proof.Machine.execQrdrain h p e0 ov rm s
  | .variableLatencyComplete core k => Sys2Proof.Machine.execVariableLatencyComplete core k s
  | .storePerform core second k => Sys2Proof.Machine.execStorePerform core second k s
  | .windowRack core => Sys2Proof.Machine.execWindowRack core s
  | .waiterProceed core => Sys2Proof.Machine.execWaiterProceed core s
  | .idleTimeout core => Sys2Proof.Machine.execIdleTimeout core s
  | .blockLoadComplete core h => Sys2Proof.Machine.execBlockLoadComplete core h s
  | .blockFirstIssue core h => Sys2Proof.Machine.execBlockFirstIssue core h s
  | .blockIssueFinish core h => Sys2Proof.Machine.execBlockIssueFinish core h s
  | .blockComplete core h => Sys2Proof.Machine.execBlockComplete core h s
  | .generatorReadReturn core g => Sys2Proof.Machine.execGeneratorReadReturn core g s
  | .generatorStore core g lane => Sys2Proof.Machine.execGeneratorStore core g lane s
  | .streamFinish core g => Sys2Proof.Machine.execStreamFinish core g s
  | .copyComplete core slot => Sys2Proof.Machine.execCopyComplete core slot s
  | .copyFault core slot => Sys2Proof.Machine.execCopyFault core slot s
  | .pageWalkComplete k => Sys2Proof.Machine.execPageWalkComplete k s
  | .takeAsyncTrap core => Sys2Proof.Machine.execTakeAsyncTrap core s
  | .watchdog core us => Sys2Proof.Machine.execWatchdog core us s
  | .rowRefresh stack pc => Sys2Proof.Machine.execRowRefresh stack pc s
  | .rowReopen stack pc slot => Sys2Proof.Machine.execRowReopen stack pc slot s
  | .preemption core => Sys2Proof.Machine.execPreemption core s
  | .swapComplete core => Sys2Proof.Machine.execSwapComplete core s
  | .bankSpillDone core => Sys2Proof.Machine.execBankSpillDone core s
  | .scratchpadBankExchange core b => Sys2Proof.Machine.execScratchpadBankExchange core b s
  | .quantumBoundary part => Sys2Proof.Machine.execQuantumBoundary part s
  | .taskDispatch part => Sys2Proof.Machine.execTaskDispatch part s
  | .fabricLoadEnd part graph => Sys2Proof.Machine.execFabricLoadEnd part graph s
  | .graphReady part graph => Sys2Proof.Machine.execGraphReady part graph s
  | .graphComplete part graph => Sys2Proof.Machine.execGraphComplete part graph s
  | .launch part q => Sys2Proof.Machine.execLaunch part q s
  | .nop part q => Sys2Proof.Machine.execNop part q s
  | .pageSetPlace core h => Sys2Proof.Machine.execPageSetPlace core h s
  | .pageSetMove core h => Sys2Proof.Machine.execPageSetMove core h s
  | .pageClear die page => Sys2Proof.Machine.execPageClear die page s
  | .opStep die => Sys2Proof.Machine.execOpStep die s
  | .diePark die => Sys2Proof.Machine.execDiePark die s
  | .dieGate die => Sys2Proof.Machine.execDieGate die s
  | .dieWakeDone die => Sys2Proof.Machine.execDieWakeDone die s
  | .checkpointDone badUnits headerError => Sys2Proof.Machine.execCheckpointDone badUnits headerError s
  | .loopContextAdvance core h => Sys2Proof.Machine.execLoopContextAdvance core h s
  | .write m => Sys2Proof.Machine.execWrite m s
  | .readReq m => Sys2Proof.Machine.execReadReq m s
  | .doorbell m => Sys2Proof.Machine.execDoorbell m s
  | .ack m => Sys2Proof.Machine.execAck m s
  | .nak m => Sys2Proof.Machine.execNak m s
  | .syncReq m => Sys2Proof.Machine.execSyncReq m s
  | .syncResp m => Sys2Proof.Machine.execSyncResp m s
  | .load m => Sys2Proof.Machine.execLoad m s
  | .firmwareLoad image => Sys2Proof.Machine.execFirmwareLoad image s
  | .mode m => Sys2Proof.Machine.execMode m s
  | .pcreate m => Sys2Proof.Machine.execPcreate m s
  | .preset m => Sys2Proof.Machine.execPreset m s
  | .pdestroy m => Sys2Proof.Machine.execPdestroy m s
  | .qdesc m => Sys2Proof.Machine.execQdesc m s
  | .flip m => Sys2Proof.Machine.execFlip m s
  | .faultAnswer m => Sys2Proof.Machine.execFaultAnswer m s
  | .taskResume m => Sys2Proof.Machine.execTaskResume m s
  | .ctxTeardown m => Sys2Proof.Machine.execCtxTeardown m s
  | .link m => Sys2Proof.Machine.execLink m s
  | .macsecKey m => Sys2Proof.Machine.execMacsecKey m s
  | .wdlimit m => Sys2Proof.Machine.execWdlimit m s
  | .devReadResp m => Sys2Proof.Machine.execDevReadResp m s
  | .flushDone m => Sys2Proof.Machine.execFlushDone m s
  | .peerWrite port m => Sys2Proof.Machine.execPeerWrite port m s
  | .peerReadReq port m => Sys2Proof.Machine.execPeerReadReq port m s
  | .peerReadResp port m => Sys2Proof.Machine.execPeerReadResp port m s
  | .reduce port m => Sys2Proof.Machine.execReduce port m s
  | .ackTimeout part chan => Sys2Proof.Machine.execAckTimeout part chan s
  | .retransmitTimeout part chan => Sys2Proof.Machine.execRetransmitTimeout part chan s
  | .linkRetrainStart die m => Sys2Proof.Machine.execLinkRetrainStart die m s
  | .linkRetrainDone die m => Sys2Proof.Machine.execLinkRetrainDone die m s
  | .linkRetrainTimeout die m => Sys2Proof.Machine.execLinkRetrainTimeout die m s
  | .deviceReset => Sys2Proof.Machine.execDeviceReset s
  | .cpMachineCheck => Sys2Proof.Machine.execCpMachineCheck s
  | .takeoverTimeout => Sys2Proof.Machine.execTakeoverTimeout s
  | .cproleTakeClear => Sys2Proof.Machine.execCproleTakeClear s
  | .kickClear part q => Sys2Proof.Machine.execKickClear part q s
  | .registerWrite off v => Sys2Proof.Machine.execRegisterWrite off v s
  | .dieOnline die => Sys2Proof.Machine.execDieOnline die s
  | .dieDrain die => Sys2Proof.Machine.execDieDrain die s
  | .dieGateRequest die => Sys2Proof.Machine.execDieGateRequest die s
  | .opselWrite die p => Sys2Proof.Machine.execOpselWrite die p s
  | .powerFloorStep slower => Sys2Proof.Machine.execPowerFloorStep slower s
  | .thermalFloorStep die slower => Sys2Proof.Machine.execThermalFloorStep die slower s
  | .thermalFault die => Sys2Proof.Machine.execThermalFault die s
  | .thermalCutoff => Sys2Proof.Machine.execThermalCutoff s
  | .hbmSelfRefresh part => Sys2Proof.Machine.execHbmSelfRefresh part s
  | .clusterRetain die k => Sys2Proof.Machine.execClusterRetain die k s
  | .clusterOff die k => Sys2Proof.Machine.execClusterOff die k s
  | .clusterWake die k => Sys2Proof.Machine.execClusterWake die k s
  | .clusterSaveStart die k => Sys2Proof.Machine.execClusterSaveStart die k s
  | .clusterSaveDone die k => Sys2Proof.Machine.execClusterSaveDone die k s
  | .clusterRailOffDone die k => Sys2Proof.Machine.execClusterRailOffDone die k s
  | .clusterRampDone die k => Sys2Proof.Machine.execClusterRampDone die k s
  | .clusterRestoreDone die k => Sys2Proof.Machine.execClusterRestoreDone die k s
  | .checkpointSave pmask => Sys2Proof.Machine.execCheckpointSave pmask s
  | .checkpointRestore pmask => Sys2Proof.Machine.execCheckpointRestore pmask s
  | .errorCorrected unit part addr => Sys2Proof.Machine.execErrorCorrected unit part addr s
  | .linePoisoned unit part addr => Sys2Proof.Machine.execLinePoisoned unit part addr s
  | .uncontainedError unit part => Sys2Proof.Machine.execUncontainedError unit part s
  | .scrub => Sys2Proof.Machine.execScrub s
  | .mainSupplyRemoved => Sys2Proof.Machine.execMainSupplyRemoved s
  | .frameDropped f => Sys2Proof.Machine.execFrameDropped f s
  | .messageRefused type m => Sys2Proof.Machine.execMessageRefused type m s
  | .controlRefused m => Sys2Proof.Machine.execControlRefused m s
  | .flitCrcError die m => Sys2Proof.Machine.execFlitCrcError die m s
  | .auxiliarySupplyRemoved => Sys2Proof.Machine.execAuxiliarySupplyRemoved s

end Sys2Proof.Machine
end

