-- ==== Sys2Proof/Machine/Sornen.lean ====
section
/-!
DEFINITION. Sornen functions as they run (R306, R309 to R313): one operation of a strip at a time, towards traps and
pre-emption like a sequence of instructions. A LOOP strip that R312 places on the fabric runs as the block of handle 7: its
streams are bound, the block is loaded, started and awaited, and TIMING may freeze it between iterations.
-/

namespace Sys2Proof.Machine

/-- The register that holds h (R306): h0 to h7 in w0 to w7, h8 to h23 in w9 to w24. -/
def sornenX (h : Nat) : XReg := .w (Fin.ofNat 32 (if h < 8 then h else h + 1))

/-- The value an operand field names (R308): a skipped operation reads 0. -/
def Context.sornenVal (c : Context) (x : Strip) (w32 : Bool) (f : Nat) : Word :=
  if f / 512 % 2 == 1 then
    let v := c.x (sornenX (f % 32))
    if w32 then v &&& 0xFFFFFFFF else v
  else Sparse.get 0 x.vals (f % 128)

/-- Values of the operations that access nothing (R309); none for the others. -/
def sornenPure (sop : Nat) (a b : Word) (imm : BitVec 32) : Option Word :=
  match sop with
  | 0x02 => some (imm.signExtend 64)
  | 0x03 => some a
  | 0x04 => some (a + b)
  | 0x05 => some (a - b)
  | 0x06 => some (a * b)
  | 0x07 => some (a &&& b)
  | 0x08 => some (a ||| b)
  | 0x09 => some (a ^^^ b)
  | 0x0A => some (a <<< amount b)
  | 0x0B => some (a >>> amount b)
  | 0x0C => some (a.sshiftRight (amount b))
  | 0x0D => some (flag01 (a == b))
  | 0x0E => some (flag01 (a.slt b))
  | 0x0F => some (flag01 (a.ult b))
  | 0x10 => some (a + imm.signExtend 64)
  | 0x20 => some ((f32Add .rne (a.truncate 32) (b.truncate 32)).1.zeroExtend 64)
  | 0x21 => some ((f32Mul .rne (a.truncate 32) (b.truncate 32)).1.zeroExtend 64)
  | _ => none

/-- Put the activation of the function. -/
def State.putStrip (s : State) (x : Strip) : State := s.mapCtx fun c => { c with strip := some x }

/-- The SETs of a strip or iteration take effect together (R310, R312). -/
def Context.applySets (c : Context) (x : Strip) : Context := x.sets.foldl (fun c e => c.setX (sornenX e.1) e.2) c

/-- The registers a translation uses for itself, w25 to w31, hold free values (R306; log 33). -/
def State.clobber (s : State) : State :=
  let put (c : Context) (k : Nat) : Context := c.setX (.w (Fin.ofNat 32 (25 + k))) (Config.freeWord (s.turn + k))
  { s with turn := s.turn + 7 }.mapCtx fun c => (List.range 7).foldl put c

/-- A LOOP strip is placed on the fabric (R312); f.fab holds the conditions on the tasks. -/
def SornenStrip.placed (st : SornenStrip) (f : SornenFun) : Bool := st.loop && f.fab && st.smask == 0

/-- The streams a placed strip binds: generator, descriptor, and whether it writes (R309, R312). -/
def SornenStrip.binds (st : SornenStrip) : List (Nat × Nat × Bool) :=
  (st.ops.filterMap fun o =>
    if o.sop == 0x28 || o.sop == 0x29 then some (o.imm.toNat / 16 % 4, o.imm.toNat % 16, o.sop == 0x29) else none).eraseDups

/-- Its generators have room for them: one read and one write stream each (R206, R318; log 33). -/
def SornenStrip.bindsFit (st : SornenStrip) : Bool := noRepeat (st.binds.map fun b => (b.1, b.2.2))

/-- A LOOP strip that the fabric runs names a generator on which a stream runs or is queued (R312). -/
def Context.streamsMeet (c : Context) (f : SornenFun) (st : SornenStrip) : Bool :=
  st.placed f && st.binds.any fun b => !(Sparse.get Gen.reset c.gens b.1).streams.isEmpty

/-- Strip j comes next, or the function returns (R310, R312). -/
def Strip.goto (x : Strip) (c : Context) (f : SornenFun) (j : Option Nat) : Strip :=
  match j with
  | none => { x with leaving := true }
  | some j =>
    let n := match f.strips[j]? with
      | some st => if st.loop then (c.x (sornenX 0)).toNat % 2 ^ 32 else 0
      | none => 0
    let wild := match f.strips[j]? with | some st => c.streamsMeet f st | none => false
    let fab : FabStep := match f.strips[j]? with
      | some st => if st.placed f && st.bindsFit && !wild then .bind 0 else .core
      | none => .core
    { x with strip := j, op := 0, issued := false, vals := [], sets := [], i := 0, n := n, wild := wild, fab := fab, fed := false }

/-- The strip ends: its SETs apply and control passes on. -/
def State.endStrip (s : State) (x : Strip) (f : SornenFun) (j : Option Nat) : State :=
  let c := s.ctx.applySets x
  s.setCtx { c with strip := some (x.goto c f j) }

/-- The block of a placed strip (R312). -/
def Context.loopBlock (c : Context) : Option Block := (c.handle 7).cur

/-- The block of a placed strip changes. -/
def Context.mapLoop (c : Context) (f : Block → Block) : Context :=
  match c.loopBlock with
  | some b => c.setBlock 7 false (f b)
  | none => c

/-- The iteration of a LOOP strip ends (R312). -/
def State.endIteration (s : State) (x : Strip) : State :=
  let c := s.ctx.applySets x
  let c1 := if x.fab == .run then
      c.mapLoop fun b => { b with lc := { b.lc with idx := b.lc.idx.set 0 (x.i + 1), inits := x.i + 1 } }
    else c
  s.setCtx { c1 with strip := some { x with op := 0, issued := false, vals := [], sets := [], i := x.i + 1, fed := false } }

/-- An operation is over: its value, if it has one, is kept. -/
def Strip.after (x : Strip) (v : Option Word) : Strip :=
  { x with op := x.op + 1, issued := false, vals := match v with | some w => x.vals.set x.op w | none => x.vals }

/-- Strip an operand field or IMM of an EXIT names: none returns (R309). -/
def exitTo (imm : BitVec 32) : Option Nat := if imm == 0xFFFFFFFF then none else some imm.toNat

/-- Every descriptor a LOOP strip names fits its iterations (R312). -/
def Context.loopFits (c : Context) (st : SornenStrip) (n : Nat) : Bool :=
  st.ops.all fun o =>
    if o.sop == 0x28 || o.sop == 0x29 then
      let d := c.desc (Fin.ofNat 16 o.imm.toNat)
      (dLvl d == 1 || dLvl d == 2) && containerOf c.ft (dTag d) == 32 && decide (n ≤ dRows d * dCols d)
    else true

/-- Address of element i of a descriptor, walked row by row (R312). -/
def elemAt (d : BitVec 128) (i : Nat) : Word := BitVec.ofNat 64 (dBase d + i / dCols d * dStride d + i % dCols d * 4)

/-- An operation that loads n bytes: the load issues, then its value is taken; one that R312 leaves undefined is a free
value (log 7). -/
def State.sornenLoad (s : State) (t : Task) (x : Strip) (ea : Word) (n : Nat) (signed w32 : Bool) : Res :=
  let c := s.ctx
  if c.hazard (keyX c.wp (.w 25)) then .stall
  else if x.issued then
    let v := if x.wild then Config.freeWord s.turn else c.x (.w 25)
    let s1 : State := if x.wild then { s with turn := s.turn + 1 } else s
    .done (s1.putStrip (x.after (some (if w32 then v &&& 0xFFFFFFFF else v))))
  else
    s.access t ea n n .load fun s1 p =>
      let i : Instr := .ldd (.w 25) ⟨.w 26, .g 0, .plain, .core, 0⟩
      .done ((s1.launch (s1.ctx.entry i (.load n signed (.w 25)) 0 ea 0 ea .plain .core [⟨p, n, false⟩])).putStrip
        { x with issued := true })

/-- An operation that stores n bytes. -/
def State.sornenStore (s : State) (t : Task) (x : Strip) (ea v : Word) (n : Nat) : Res :=
  s.access t ea n n .store fun s1 p =>
    let i : Instr := .std (.w 25) ⟨.w 26, .g 0, .plain, .core, 0⟩
    .done ((s1.launch (s1.ctx.entry i (.store n) v ea 0 ea .plain .core [⟨p, n, true⟩])).putStrip (x.after none))

/-! ### A LOOP strip on the fabric (R312, R313) -/

/-- The block of a placed strip: one page of stream mode, an initiation for each iteration. The words and routes are the
translation's and are not stated; the strip's own operations stand for them (log 33). -/
def loopProg (n : Nat) : Prog where
  pw := 0
  ph := 0
  ii := 0
  sc := 0
  modes := 1
  trips := [BitVec.ofNat 64 n, 1, 1, 1]
  nsrc := 0
  streams := []
  bufs := []
  cols := []

/-- The stream a placed strip binds to a generator (R205, R312). -/
def Context.loopStream (c : Context) (order : Nat) (d : Nat) (write : Bool) : Stream where
  cfg := { write := write, scope := .core, tr := .none, gath := false, mxs := false, wid := false, rsym := false,
           matb := false, stg := 0 }
  tile := c.desc (Fin.ofNat 16 d)
  idx := 0
  rep := 1
  wtag := 0
  fts := c.ft
  gate := 0xFFFF
  gateFrom := 0
  order := order
  tokBits := 0
  pos := []
  taken := []
  lines := []
  fault := none
  wait := 0
  packBlk := none
  packed := []
  msg := 0
  got := []
  rows := []
  packBad := false

/-- Bind stream k of a placed strip (R206, R312). -/
def State.loopBind (s : State) (x : Strip) (st : SornenStrip) (k : Nat) : Res :=
  match st.binds[k]? with
  | none => .done (s.putStrip { x with fab := .load })
  | some (g, d, wr) =>
    let c := s.ctx
    if Config.streamEntries ≤ s.streamEntries s.cur then .wait s wPortFull
    else if c.settling then .stall
    else
      let n := (s.core s.cur).engines
      let g1 := c.dropLines.gen g
      let s1 := s.setCtx (c.dropLines.setGen g { g1 with streams := g1.streams ++ [c.loopStream n d wr] })
      let s2 := s1.setCore s1.cur { s1.core s1.cur with engines := n + 1 }
      .done (s2.putStrip { x with fab := .bind (k + 1), order := if k = 0 then n else x.order })

/-- FLOAD of the block (R211, R312). -/
def State.loopLoad (s : State) (t : Task) (x : Strip) : Res :=
  match s.floadOf t 7 65536 (loopProg x.n) (Config.freeWord s.turn) with
  | .done s1 => .done ((s1.mapCtx fun c => c.mapLoop fun b => { b with held := true }).putStrip { x with fab := .start })
  | r => r

/-- FSTART of the block (R212, R312). -/
def State.loopStart (s : State) (x : Strip) : Res :=
  let c := s.ctx
  if s.setMoving s.cur (match c.task with | some t => t.serial | none => 0) 7 then .wait s wNoPage
  else if c.settling then .stall
  else
    .done (s.setCtx { (c.mapLoop fun b => c.started b 0) with
      gctr := c.gctr + 0x100000000, strip := some { x with fab := .run } })

/-- The streams of a placed strip have ended, and its block issues no more. -/
def Context.loopOver (c : Context) (x : Strip) : Context :=
  let c1 : Context := { c with gens := c.gens.map fun e => (e.1, { e.2 with streams := e.2.streams.filter fun y => decide (y.order < x.order) }) }
  c1.mapLoop fun b => { b with held := false, lc := { b.lc with more := false, sv := 0 } }

/-- A stream of the placed strip has still to wait for an older entry of the port scoreboard (R206, R337). -/
def State.loopHeld (s : State) (t : Task) (x : Strip) (d : Nat) (wr : Bool) : Bool :=
  x.fab == .run && s.boardHolds s.cur t x.order (s.ctx.loopStream x.order d wr).ranges wr

/-- An iteration of a placed strip begins: it waits until its block runs, and a word of it may find a token missing, which
freezes the block with TIMING (R53, R313): whether it does is a free choice, and the lane too. FRESTART runs the iteration
from its first word, a restart point. -/
def State.loopFeed (s : State) (x : Strip) (st : SornenStrip) : Res :=
  match s.ctx.loopBlock with
  | none => .done (s.putStrip { x with fed := true })
  | some b =>
    if b.st != .running then .wait s wBarrier
    else
      let s1 : State := { s with turn := s.turn + 2 }
      if !st.binds.isEmpty && Config.choose s.turn % 2 == 1 then
        let w : LaneWord := ⟨0, 0, 0, 0, Config.choose (s.turn + 1) % 16, 0, x.i, [x.i, 0, 0, 0], 0⟩
        .wait (s1.freezeAt s1.cur 7 false ⟨cTiming, 0, w⟩ false) wBarrier
      else .done (s1.putStrip { x with fed := true })

/-- One operation of a strip (R309). -/
def State.sornenOp (s : State) (t : Task) (x : Strip) (f : SornenFun) (st : SornenStrip) (o : SornenOp) : Res :=
  let c := s.ctx
  let va := c.sornenVal x st.w32 o.a
  let vb := c.sornenVal x st.w32 o.b
  let vp := c.sornenVal x st.w32 o.p
  let keep (v : Word) : Res := .done (s.putStrip (x.after (some (if st.w32 then v &&& 0xFFFFFFFF else v))))
  if (o.pm == 1 && vp == 0) || (o.pm == 2 && vp != 0) then .done (s.putStrip (x.after none))
  else
    match o.sop with
    | 0x11 => keep (if vp != 0 then va else vb)
    | 0x18 => s.sornenLoad t x (va + o.imm.signExtend 64) (2 ^ o.lsz) o.lsgn st.w32
    | 0x19 => s.sornenStore t x (va + o.imm.signExtend 64) vb (2 ^ o.lsz)
    | 0x28 =>
      if s.loopHeld t x (o.imm.toNat % 16) false then .wait s wBarrier
      else s.sornenLoad t x (elemAt (c.desc (Fin.ofNat 16 o.imm.toNat)) x.i) 4 false st.w32
    | 0x29 =>
      if s.loopHeld t x (o.imm.toNat % 16) true then .wait s wBarrier else
      let v := if x.wild then Config.freeWord s.turn else va
      let s1 : State := if x.wild then { s with turn := s.turn + 1 } else s
      s1.sornenStore t x (elemAt (c.desc (Fin.ofNat 16 o.imm.toNat)) x.i) v 4
    | 0x2A => keep (BitVec.ofNat 64 x.i)
    | 0x30 => .done (s.putStrip { x.after none with sets := x.sets.set (o.imm.toNat % 32) va })
    | 0x38 => .done (s.endStrip x f (exitTo o.imm))
    | sop =>
      match sornenPure sop va vb o.imm with
      | some v => keep v
      | none => .trap s cIllegal (Config.freeWord s.turn)

/-- The stack frame of a function's translation in bytes (log 33). -/
def Strip.frameBytes (x : Strip) (t : Task) : Nat := 8 * Config.sornenFrame (t.code % 65536) x.fn

/-- Move g14 over the frame: down at the call, up at the return (R306). -/
def State.moveFrame (s : State) (by_ : Word) : State := s.mapCtx fun c => c.setX (.g 14) (c.x (.g 14) + by_)

/-- The call of a function, a step at a time: the descriptors of its LOOP strips are checked (R312), the frame is allocated
below g14, and the translation stores free values in it (R306; log 33). -/
def State.sornenCall (s : State) (t : Task) (x : Strip) (f : SornenFun) : Res :=
  let c := s.ctx
  if x.frame = 0 then
    let n := (c.x (sornenX 0)).toNat % 2 ^ 32
    if c.hazard (keyX c.wp (.g 14) ++ (List.range 24).flatMap fun h => keyX c.wp (sornenX h)) then .stall
    else if !f.strips.all fun st => !st.loop || c.loopFits st n then .trap s cIllegal (Config.freeWord s.turn)
    else .done ((s.moveFrame (-(BitVec.ofNat 64 (x.frameBytes t)))).putStrip { x.goto c f (some 0) with frame := 1 })
  else
    let ea := c.x (.g 14) + BitVec.ofNat 64 (8 * (x.frame - 1))
    let i : Instr := .std (.w 25) ⟨.w 26, .g 0, .plain, .core, 0⟩
    s.access t ea 8 8 .store fun s1 p =>
      let s2 : State := { s1 with turn := s1.turn + 1 }
      .done ((s2.launch (s2.ctx.entry i (.store 8) (Config.freeWord s1.turn) ea 0 ea .plain .core [⟨p, 8, true⟩])).putStrip
        { x with frame := x.frame + 1 })

/-- What a Sornen function does next: an operation, the end of an iteration, a step of a strip's placement on the fabric
(R312), or its return, which moves the window as RET does (R187). A LOOP strip whose descriptors do not fit raises ILLEGAL_OP, also where a strip before it has changed h0 or a
descriptor (log 33); the word it records is a free value. -/
def State.sornenNext (s : State) (t : Task) (x : Strip) (f : SornenFun) : Res :=
  let c := s.ctx
  if x.frame = 0 || decide (8 * (x.frame - 1) < x.frameBytes t) then s.sornenCall t x f
  else if x.leaving then
    if c.hazard (keyX c.wp (.w 8)) then .stall
    else if c.wp == 0 then .trap s cWindowSpill (c.rkbase + BitVec.ofInt 64 (8 * ((c.lo : Int) - 24)))
    else if c.retRacks then .wait s wRacking
    else .jump (s.clobber.moveFrame (BitVec.ofNat 64 (x.frameBytes t))) ⟨c.x (.w 8), true, .ret, false⟩
  else
    match f.strips[x.strip]? with
    | none => .done (s.putStrip { x with leaving := true })
    | some st =>
      if c.hazard ((List.range 24).flatMap fun h => keyX c.wp (sornenX h)) then .stall
      else if st.loop && x.i == 0 && x.op == 0 && !x.issued && !c.loopFits st x.n then .trap s cIllegal (Config.freeWord s.turn)
      else
        let next (s : State) : State := s.putStrip (x.goto s.ctx f (if st.next == 0xFFFF then none else some st.next))
        match x.fab with
        | .bind k => s.loopBind x st k
        | .load => s.loopLoad t x
        | .start => s.loopStart x
        | .wait => if c.blocks.any fun e => e.1 == 7 && e.2.2.live then .wait s wBarrier else .done (next s)
        | fab =>
        if st.loop && decide (x.n ≤ x.i) then
          if fab == .run then .done (s.setCtx { c.loopOver x with strip := some { x with fab := .wait } }) else .done (next s)
        else if fab == .run && !x.fed then s.loopFeed x st
        else match st.ops[x.op]? with
        | none => .done (s.endIteration x)
        | some o => s.sornenOp t x f st o

/-- The Sornen function whose first line is at the program counter of a core, with its index (R307). -/
def State.sornenAt (s : State) (core : Nat) : Option (Nat × SornenFun) :=
  match (s.bank core).task with
  | none => none
  | some t =>
    match s.codeOf t with
    | none => none
    | some o =>
      ((List.range o.sornen.length).zip o.sornen).find? fun e => 128 * e.2.first + 8 == (s.bank core).pc

/-- Control reaches a Sornen function: its call begins (R307). -/
def State.sornenEnter (s : State) (core k : Nat) (f : SornenFun) : State :=
  let x : Strip := ⟨k, f.first, f.nlines, 0, 0, false, false, [], [], 0, 0, 0, false, 0, .core, 0, false⟩
  ({ s with cur := core } : State).clobber.mapCtx fun c => { c with strip := some x }

/-- An operation has issued: the watchdog count returns to 0, but for a strip on the fabric, whose core waits in FWAIT with
BARRIER while its block runs (R312, R356, R359). -/
def Context.stripIssued (c : Context) (x : Strip) : Context :=
  let c1 : Context := { c with atBound := false, walkTrap := none }
  if x.fab == .run then { c1 with wait := BitVec.ofNat 4 wBarrier, retry := true }
  else { c1 with wait := 0, retry := false, wdcnt := 0 }

/-- A step of the Sornen function that runs on core cur, at an instruction boundary as for any instruction (R310,
R344). -/
def State.sornenStep (s : State) : State :=
  let c := s.ctx
  match c.task, c.strip with
  | some t, some x =>
    let f := match s.codeOf t with | some o => o.sornen[x.fn]? | none => none
    if !s.issuing s.cur then s
    else if c.checkDue then s.markBound s.cur
    else match c.due with
    | some a => s.takeTrap s.cur t a
    | none =>
      match (match f with | some f => s.sornenNext t x f | none => .trap s cIllegal (Config.freeWord s.turn)) with
      | .done s1 =>
        if s.interrupted s.cur then s.markBound s.cur
        else s1.mapCtx fun d => d.stripIssued x
      | .jump s1 y =>
        if s.interrupted s.cur then s.markBound s.cur
        else (s1.mapCtx fun d => { d with strip := none, xfer := some y }).retire s.cur t c.pc
      | .trap s1 cause info => s1.syncTrap s.cur t cause info c.pc c.pc
      | .wait s1 code => s1.showWait s.cur code
      | .stall => if s.interrupted s.cur then s.markBound s.cur else if x.fab == .run then s else s.showWait s.cur 0
      | _ => s
  | _, _ => s

end Sys2Proof.Machine
end

