-- ==== Sys2Proof/Machine/Schedule.lean ====
section
/-!
DEFINITION. What a control core does when it issues, what comes due in a fabric cycle, and which steps of the device could
come next (log 4).
-/

namespace Sys2Proof.Machine

/-! ### A control core -/

/-- A control core does what stands at issue: the next operation of the Sornen function it runs, RETT on behalf of the
command processor (R351), the entry of a Sornen function (R307), or the instruction it fetches. -/
def State.runCore (s : State) (c : Nat) : Out :=
  let s1 := { s with cur := c }
  let b := s1.bank c
  if b.strip.isSome then .next s1.sornenStep
  else if b.resuming then exec .rett s1
  else
    match s1.sornenAt c with
    | some (k, f) => .next (s1.sornenEnter c k f)
    | none =>
      match s1.fetch c b.pc with
      | .ok i => exec i s1
      | .illegal w => .next (s1.fetchTrap c w)

/-! ### A fabric cycle in progress -/

/-- What is due next in the cycle. -/
def State.runDue (s : State) (d : Due) (rest : List Due) : Out :=
  match d with
  | .begin c h nxt => .next (s.beginCycle c h nxt rest)
  | .word _ _ _ _ op => exec op s
  | .close c h nxt => .next (s.closeCycle c h nxt rest)

/-! ### Power -/

/-- The module has its main supply and its rails (R419, R422). -/
def State.hasPower (s : State) : Bool := s.mainOn && !s.railsCut

/-- Steps that can come without power: a device reset, and the supplies going. -/
def Action.unpowered : Action → Bool
  | .event .deviceReset => true
  | .event .mainSupplyRemoved => true
  | .event .auxiliarySupplyRemoved => true
  | _ => false

/-- The next change of a cluster on its way (R414). -/
def State.clusterNext (s : State) (d : DieId) (k : ClusterId) : Out :=
  match (s.cluster d.val k.val).st with
  | .pend => execClusterSaveStart d k s
  | .saving => execClusterSaveDone d k s
  | .clkgated => execClusterRailOffDone d k s
  | .ramping => execClusterRampDone d k s
  | .restoring => execClusterRestoreDone d k s
  | _ => .next s

/-- What time does. -/
def Timed.run (t : Timed) (s : State) : Out :=
  match t with
  | .cluster d k => s.clusterNext (Fin.ofNat 12 d) (Fin.ofNat 8 k)
  | .takeover => execTakeoverTimeout s
  | .ack p c => execAckTimeout (BitVec.ofNat 8 p) (BitVec.ofNat 12 c) s
  | .resend p c => execRetransmitTimeout (BitVec.ofNat 8 p) (BitVec.ofNat 12 c) s
  | .retrained d m => execLinkRetrainDone (Fin.ofNat 16 d) (Fin.ofNat 24 m) s
  | .retrainFailed d m => execLinkRetrainTimeout (Fin.ofNat 16 d) (Fin.ofNat 24 m) s
  | .resetDone p => .next (s.resetEnds p)
  | .flashWritten => .next s.flashDone
  | .monitor => .next s.monitor
  | .release => .next s.releaseHost
  | .powerFloor slow => execPowerFloorStep slow s
  | .thermalFloor d slow => execThermalFloorStep (Fin.ofNat 12 d) slow s
  | .overheat d => execThermalFault (Fin.ofNat 12 d) s
  | .cutoff => execThermalCutoff s

/-- Perform one action. -/
def State.perform (s : State) (a : Action) : Out :=
  if !s.hasPower && !a.unpowered then .fault .poweredOff
  else
    match a with
    | .core c => s.runCore c
    | .event i => exec i s
    | .flip => .next s.advanceFlip
    | .control => .next s.nextControl
    | .timed t => t.run s

/-! ### What could come next -/

/-- Steps of a register bank's issued instructions. -/
def flySteps (c : CoreId) (second : Bool) (b : Context) : List Action :=
  (List.range (min 8 b.unfinished)).flatMap fun k =>
    (if second then [] else [.event (.variableLatencyComplete c (Fin.ofNat 8 k))])
      ++ [.event (.storePerform c second (Fin.ofNat 8 k))]

/-- Steps of the blocks of a core. -/
def blockSteps (c : CoreId) (b : Context) : List Action :=
  b.hs.flatMap fun e =>
    let h : Hnd := Fin.ofNat 8 e.1
    [.event (.loopContextAdvance c h), .event (.blockLoadComplete c h), .event (.blockFirstIssue c h),
      .event (.blockIssueFinish c h), .event (.blockComplete c h), .event (.pageSetPlace c h), .event (.pageSetMove c h)]

/-- Steps of the port generators of a core. -/
def genSteps (c : CoreId) (b : Context) : List Action :=
  (b.gens.filter fun e => !e.2.streams.isEmpty).flatMap fun e =>
    let g : Fin 4 := Fin.ofNat 4 e.1
    [.event (.generatorReadReturn c g), .event (.streamFinish c g)]
      ++ (List.range 16).map fun l => .event (.generatorStore c g (Fin.ofNat 16 l))

/-- Steps of one core. -/
def coreSteps (e : Nat × Core) : List Action :=
  let c : CoreId := Fin.ofNat 386 e.1
  let k := e.2
  let b := k.bank
  (if b.task.isSome && !b.stopped && b.idle.isNone && !k.swapping then [.core e.1] else [])
    ++ (if b.wait != 0 && !b.retry then [.event (.waiterProceed c)] else [])
    ++ (if b.wait != 0 then [.event (.windowRack c), .event (.watchdog c 1)] else [])
    ++ (if b.asyncs.isEmpty then [] else [.event (.takeAsyncTrap c)])
    ++ (if k.preq then [.event (.preemption c)] else [])
    ++ (if k.swapping then [.event (.swapComplete c)] else [])
    ++ (if k.spilling then [.event (.bankSpillDone c)] else [])
    ++ (if b.idle.isSome then [.event (.idleTimeout c)] else [])
    ++ ((List.range 64).filter fun j => b.task.isSome && k.foreign.getLsbD j && k.wanted.getLsbD j).map
        (fun j => .event (.scratchpadBankExchange c (Fin.ofNat 64 j)))
    ++ flySteps c false b ++ flySteps c true k.other ++ blockSteps c b ++ genSteps c b
    ++ k.copies.flatMap fun x => [.event (.copyComplete c (Fin.ofNat 512 x.1)), .event (.copyFault c (Fin.ofNat 512 x.1))]

/-- Steps of the command processor for a partition. -/
def State.partSteps (s : State) (e : Nat × Part) : List Action :=
  let p : PartId := Fin.ofNat 12 e.1
  if !e.2.live then []
  else if e.2.resetting.isSome then [.timed (.resetDone e.1)]
  else
    .event (.quantumBoundary p) :: (if e.2.select then [.event (.taskDispatch p)] else [])
      ++ ((s.queues.filter fun q => q.1 / 512 == e.1 && q.2.st == .active && q.2.avail != 0).flatMap fun q =>
          [.event (.launch p (Fin.ofNat 512 q.1)), .event (.nop p (Fin.ofNat 512 q.1))])
      ++ ((s.graphs.filter fun g => g.2.part == e.1).flatMap fun g =>
          match g.2.st with
          | .waiting => [.event (.graphReady p g.1)]
          | .running => [.event (.fabricLoadEnd p g.1)]
          | .completing => [.event (.graphComplete p g.1)]
          | _ => [])

/-- Steps of a die: pages to clear, power. -/
def dieSteps (e : Nat × Die) : List Action :=
  let d : DieId := Fin.ofNat 12 e.1
  (if e.2.st == .draining then [.event (.diePark d)] else [])
    ++ (if e.2.st == .parked then [.event (.dieGate d)] else [])
    ++ (if e.2.st == .waking then [.event (.dieWakeDone d)] else [])
    ++ (if e.2.opcur != slower e.2.opsel (slower e.2.thermFloor e.2.powFloor) then [.event (.opStep d)] else [])
    ++ ((e.2.clusters.filter fun x => x.2.st != .on && x.2.st != .railgated).map fun x => .timed (.cluster e.1 x.1))
    ++ (e.2.pages.filter fun x => x.2 == .dirty).map fun x => .event (.pageClear d (Fin.ofNat 256 x.1))

/-- Row slots whose row waits to be opened again (R116). -/
def rowSteps (e : Nat × RowSlot) : List Action :=
  if e.2.reserved then [.event (.rowReopen (Fin.ofNat 12 (e.1 / 256)) (Fin.ofNat 64 (e.1 / 4)) (Fin.ofNat 4 e.1))] else []

/-- Timers of a channel: of a host channel, or of a peer link, which the timers name as channel 0xFFD. -/
def chanSteps (e : Nat × Chan) : List Action :=
  let part := if e.1 < 2 ^ 20 then e.1 / 4096 else e.1 - 2 ^ 20
  let chan := if e.1 < 2 ^ 20 then e.1 % 4096 else 0xFFD
  .timed (.ack part chan) :: (if e.2.unacked.isEmpty then [] else [.timed (.resend part chan)])

/-- Ends of a module's retraining. -/
def linkSteps (e : Nat × LinkSt) : List Action :=
  if e.2.mode == .retrain then [.timed (.retrained (e.1 / 24) (e.1 % 24)), .timed (.retrainFailed (e.1 / 24) (e.1 % 24))] else []

/-- The active command-processor core has met a MACHINE_CHECK (R351, R396). -/
def State.cpStruck (s : State) : Bool :=
  (List.range 2).any fun k => Sparse.get Role.out s.roles k == .active
    && (s.bank (Config.cpCore + k)).asyncs.any fun a => a.cause.toNat == cMachineCheck

/-- A new active core that runs the model's own firmware has still to clear TAKE. -/
def State.firmwareTakes (s : State) : Bool :=
  (List.range 2).any fun k => Sparse.get false s.take k && (s.bank (Config.cpCore + k)).task.isNone

/-- What the module's heat and power bring (R409, R422). -/
def State.heatSteps (s : State) : List Action :=
  (if s.meltdown then [.timed .cutoff] else [])
    ++ (if s.modLimit == 0 then [] else [.timed (.powerFloor true), .timed (.powerFloor false)])
    ++ (List.range 12).flatMap fun n =>
      (if s.overheats n then [.timed (.overheat n)] else [])
        ++ (if s.heatCalls n true then [.timed (.thermalFloor n true)] else [])
        ++ (if s.heatCalls n false && (s.die n).thermFloor != 0 then [.timed (.thermalFloor n false)] else [])

/-- Every step that could come next without anything from outside. A step that cannot happen now leaves the state. -/
def State.enabled (s : State) : List Action :=
  s.cores.flatMap coreSteps ++ ((List.range s.walks.length).filter s.walkerFor).map (fun k => .event (.pageWalkComplete k))
    ++ s.parts.flatMap s.partSteps ++ s.dies.flatMap dieSteps
    ++ (if s.flips.isEmpty then [] else [.flip]) ++ (if s.heldCtl.isEmpty then [] else [.control])
    ++ s.rows.flatMap rowSteps ++ s.chans.flatMap chanSteps ++ s.links.flatMap linkSteps
    ++ (if s.take.any fun e => e.2 then [.timed .takeover] else [])
    ++ (if s.firmwareTakes then [.event .cproleTakeClear] else [])
    ++ (if s.cpStruck then [.event .cpMachineCheck] else [])
    ++ (if s.flashing.isSome then [.timed .flashWritten] else [])
    ++ (if s.heldHost.any fun h => !s.hostHeld h.2 h.1 then [.timed .release] else [])
    ++ s.heatSteps ++ (if s.hasPower then [.timed .monitor] else [])
    ++ (if s.ckState == 1 || s.ckState == 2 then [.event (.checkpointDone [] false)] else [])

/-! ### Placing one instruction -/

/-- A task that stands for the program placed on the selected core. -/
def probeTask : Task := ⟨0, 0, 0, 0, 0, 0, 0, 0, 0, 0, false, 0, 0, 0⟩

/-- The bank of a core ready to issue at word 0 of a line. -/
def Context.placed (b : Context) (l : Nat) : Context :=
  { b with task := some (b.task.getD probeTask), stopped := false, wait := 0, retry := false, xfer := none, owed := none, strip := none, resuming := false,
           pc := 128 * l + 8 }

end Sys2Proof.Machine
end

