-- ==== Sys2Proof/Machine/Step.lean ====
section
/-!
DEFINITION. One step of the device: what is due in a fabric cycle in progress, else the next entry of the agenda, else one
of the steps that could come next (log 4); and an instruction placed where the next step fetches.
-/

namespace Sys2Proof.Machine

/-- One step of the device. Where several could come, a free value chooses (log 4); where none could, time passes. -/
def step (s : State) : Host.Outcome State Fault Refusal :=
  match s.due with
  | d :: rest => s.runDue d rest
  | [] =>
    match s.agenda with
    | a :: rest => State.perform { s with agenda := rest } a
    | [] =>
      let t : State := { s with turn := s.turn + 1 }
      match s.enabled with
      | [] => if s.hasPower then .next t else .fault .poweredOff
      | a :: as => t.perform ((a :: as).getD (Config.choose s.turn % (as.length + 1)) a)

/-- Store an instruction where the selected core fetches next: word 0 of its line, with the line header of an entry line
whose word 0 is the only start and target, and a task that runs there. -/
def State.withFetchWord (s : State) (nbits w : Nat) : State :=
  let c := s.cur
  let l := (s.bank c).pc / 128
  let header : Nat := 2 * 2 ^ 60 + 2 ^ 30 + 1
  let line := bytesOf header 8 ++ tableBytes nbits w ++ List.replicate 104 0
  let s1 := s.putBytes (codePlace c (128 * l)) line
  { s1.setBank c ((s.bank c).placed l) with agenda := [.core c], due := [] }

end Sys2Proof.Machine
end

