-- ==== Sys2Proof/Safety.lean ====
section
/-!
DEFINITION. The terms in which claims are stated: when an instruction can issue, the state after an instruction has
issued, when a lane's word can run, and the invariant of memory.
-/

namespace Sys2Proof.Machine

/-- Memory is in its canonical form. -/
def State.memOk (s : State) : Bool := Memory.wf s.mem

/-- An instruction of a task can issue on the selected core (R143, R161, R162, R168, R169, R344): the task issues, no
asynchronous event and no trap that is owed comes first, its form is allowed where it stands, the racking engine owes no
window move, and the registers it names are free. -/
def State.canIssue (s : State) (t : Task) (i : Instr) (keys : List Nat) : Bool :=
  s.ctx.task == some t && s.issuing s.cur && !s.interrupted s.cur && s.ctx.due.isNone && i.wf
    && !(s.ctx.xfer.isSome && noSlot i) && s.ctx.slotRacks.isNone && !s.ctx.hazard (s.ctx.slotKeys keys)

/-- The state after instruction i, at issue in s, has made the effect s1: control passes on (R162, R344). -/
def State.after (s : State) (t : Task) (i : Instr) (s1 : State) : State :=
  s1.retire s.cur t (s.nextPc s.cur s.ctx.pc (words i))

/-- The state after an instruction whose whole effect is to write an integer register. -/
def State.wrote (s : State) (t : Task) (i : Instr) (a : XReg) (v : Word) : State :=
  s.after t i (s.mapCtx fun c => c.setX a v)

/-- The state after a transfer has issued: its delay slot is next (R162). -/
def State.afterJump (s : State) (i : Instr) (x : Xfer) : State :=
  s.retireJump s.cur (s.nextPc s.cur s.ctx.pc (words i)) x

/-- The state after an instruction has issued that stays unfinished. -/
def State.launched (s : State) (t : Task) (i : Instr) (e : Entry) : State := s.after t i (s.launch e)

/-- The trap of the instruction at issue (R347), which resumes at it. -/
def State.trapped (s : State) (t : Task) (i : Instr) (cause : Nat) (info : Word) : State :=
  s.syncTrap s.cur t cause info s.ctx.pc (s.nextPc s.cur s.ctx.pc (words i))

/-- The instruction at issue waits with a reason of R356. -/
def State.waits (s : State) (code : Nat) : State := s.showWait s.cur code

/-- Instruction i of task t answers the next state u whenever it can issue. -/
def Completes (s : State) (t : Task) (i : Instr) (keys : List Nat) (u : State) : Prop :=
  s.canIssue t i keys = true → exec i s = .next u

/-- Instruction i of task t writes v to X(a), and nothing else, whenever it can issue. -/
def Writes (s : State) (t : Task) (i : Instr) (keys : List Nat) (a : XReg) (v : Word) : Prop :=
  Completes s t i keys (s.wrote t i a v)

/-- Instruction i of task t traps with a cause and TINFO whenever it can issue. -/
def Traps (s : State) (t : Task) (i : Instr) (keys : List Nat) (cause : Nat) (info : Word) : Prop :=
  Completes s t i keys (s.trapped t i cause info)

/-- The entry of a multiplication or division, with its captured operands. -/
def longEntry (s : State) (i : Instr) (k : IntKind) (a b c : XReg) : Entry :=
  s.ctx.entry i (.int k a) 0 (s.ctx.x b) (s.ctx.x c) 0 .plain .core []

/-- The column word i that comes next in a fabric cycle in progress, with all it works on (R246). -/
def State.fabOf (s : State) (i : Instr) : Option Fab :=
  match s.due with
  | .word core h nxt w op :: rest =>
    if op != i then none
    else
      let s1 := { s with due := rest }
      match (s1.bank core).task, (s1.bank core).block h nxt with
      | some t, some b => some ⟨s1, core, h, nxt, t, w, (s1.bank core).handle h, b, (s1.bank core).gens⟩
      | _, _ => none
  | _ => none

/-- Column word i runs in its lane and leaves g, with the marks of poisoned lines that it carries along (R427). -/
def Runs (s : State) (i : Instr) (g : Fab) : Prop :=
  ∃ f, s.fabOf i = some f ∧ exec i s = .next ((f.carry g i).store g.s)

/-- Column word i of f meets a fabric trap (R251). -/
def Fails (s : State) (i : Instr) (f : Fab) (e : Nat × Word) : Prop :=
  exec i s = .next (f.s.fabTrap f.w e ((e.1 == cTranslation || e.1 == cAliasKind) && f.asked (inPorts i)))

/-- The instructions whose whole effect is to write one integer register at issue: the register, and the registers they
name (R171 to R176). -/
def plainDest : Instr → Option (XReg × List XReg)
  | .add a b c | .sub a b c | .min a b c | .max a b c | .minu a b c | .maxu a b c | .and a b c | .or a b c | .xor a b c
  | .andn a b c | .shl a b c | .shr a b c | .sra a b c | .rol a b c | .seq a b c | .slt a b c | .sltu a b c | .sel a b c
  | .lea a b c _ _ => some (a, [a, b, c])
  | .clz a b | .ctz a b | .popc a b | .mov a b | .exts a b _ | .extz a b _ | .addi a b _ | .andi a b _ | .ori a b _
  | .xori a b _ | .shli a b _ | .shri a b _ | .srai a b _ | .roli a b _ => some (a, [a, b])
  | .limm a _ | .limmh a _ => some (a, [a])
  | _ => none

end Sys2Proof.Machine
end

