-- ==== Sys2Proof/Certificates/Slice0/Obligations.lean ====
section
/-!
DEFINITION. The statements about the model, each from the rules it names.
-/

section

open Sys2Proof Sys2Proof.Machine

/-! ### Reset and the step -/

/-- R8, R142, R144, R145, R147, R338, R346: right after reset no core has a task, and every register of every core holds
the value the manual gives at task start: integer registers, vector registers under FT0, predicates, descriptors, VSTAT,
the trap frame and the window are zero, p0 reads 0xFFFF. The other reset values are the model's choice (log 3). -/
def Obligations.ResetState : Prop :=
  ∀ core : Nat,
    let c := State.reset.bank core
    c.task = none ∧ c.trapst = false ∧ c.fly = [] ∧ c.rq = []
      ∧ (∀ r : XReg, c.x r = 0) ∧ (∀ v : VReg, (c.vec v).tag = 0 ∧ ∀ l, l < 16 → (c.vec v).lane l = 0)
      ∧ c.pred 0 = 0xFFFF ∧ (∀ p : PReg, p ≠ 0 → c.pred p = 0) ∧ (∀ d : DReg, c.desc d = 0) ∧ c.vstat = 0 ∧ c.wp = 0
      ∧ c.tcause = 0

/-- The memory of the reset state is in canonical form: the invariant of StepKeepsMemoryCanonical holds there. That an
unlisted byte reads 0 is the model's choice (log 2). -/
def Obligations.ResetMemoryCanonical : Prop :=
  State.reset.memOk = true ∧ ∀ p : Nat, State.reset.byteAt p = 0

/-- Whatever step the device makes, memory keeps its canonical form: storage addresses rise strictly and no entry holds
what an unlisted byte reads as. -/
def Obligations.StepKeepsMemoryCanonical : Prop :=
  ∀ s u : State, s.memOk = true → step s = .next u → u.memOk = true

/-- R148 to R150, R161: where a core comes next and runs no Sornen function, the step fetches at its program counter: a
word of a line that may be fetched, whose start bit is set, and that decodes to an instruction, runs as that instruction
on that core; any other word raises ILLEGAL_OP. A device step that comes next runs as its instruction, and so does a word
of a fabric cycle in progress. -/
def Obligations.StepRunsDecoded : Prop :=
  ∀ (s : State) (rest : List Action),
    (∀ core : Nat, s.due = [] → s.agenda = .core core :: rest → s.hasPower = true →
      let u : State := { s with agenda := rest, cur := core }
      let pc := (s.bank core).pc
      let word (k : Nat) : Half := u.codeWord core (pc + 4 * k)
      let decoded := decodeWords (word 0) (word 1) (word 2) (word 3)
      (s.bank core).strip = none → (s.bank core).resuming = false → u.sornenAt core = none → pc < 0x40000 →
      ∀ k, wordIndex pc = some k →
        (∀ i, u.lineGood core (pc / 128) = true → hdrStart (u.lineHeader core (pc / 128)) k = true → decoded = .ok i →
          step s = exec i u)
        ∧ ((u.lineGood core (pc / 128) = false ∨ hdrStart (u.lineHeader core (pc / 128)) k = false
              ∨ ∃ e, decoded = .error e) →
          step s = .next (u.fetchTrap core ((word 0).zeroExtend 64))))
      ∧ (∀ i, s.due = [] → s.agenda = .event i :: rest → s.hasPower = true → step s = exec i { s with agenda := rest })
      ∧ (∀ core h nxt w op ds, s.due = .word core h nxt w op :: ds → step s = exec op s)

/-! ### Encoding -/

/-- R152 to R160, R203: the words of a control-core instruction of one word (CR and CB formats), two words (CI, CM and CV formats) or three or four words (CS format) decode to it, with whatever stands behind them. -/
def Obligations.SequentialWordRoundTrip : Prop :=
  (∀ (i : Instr) (rest : List Byte), (encode i).length = 1 → i.wf = true →
    decode ((encode i).flatMap bytes32 ++ rest) = .ok (i, rest)) ∧
  (∀ (i : Instr) (rest : List Byte), (encode i).length = 2 → i.wf = true →
    decode ((encode i).flatMap bytes32 ++ rest) = .ok (i, rest)) ∧
  (∀ (i : Instr) (rest : List Byte), 3 ≤ (encode i).length → i.wf = true →
    decode ((encode i).flatMap bytes32 ++ rest) = .ok (i, rest))

/-- R234, R241, R244, R283: the schedule word of a well-formed column operation decodes to it. -/
def Obligations.ScheduleWordRoundTrip : Prop :=
  ∀ i : Instr, i.isColumn = true → i.wf = true → decodeColumn (encodeColumn i).pack = .ok i

/-- Words written out from the manual's own examples decode to the instructions they stand for (R171, R174, R177, R180, R182 to
R184, R192, R201, R203, R212, R216, R219, R253, R257, R264). -/
def Obligations.ExampleWordsDecode : Prop :=
  (decodeWords 0x0118A301 0 0 0 = .ok (.sub (.g 3) (.w 5) (.w 6))
    ∧ decodeWords 0x05040007 0 0 0 = .ok (.mov (.g 0) (.g 0))
    ∧ decodeWords 0x4018A336 0x00000010 0 0 = .ok (.ldw (.w 3) ⟨.w 5, .w 6, .acq, .dev, 16⟩)
    ∧ decodeWords 0x642123BF 0x00000008 0 0 = .ok (.acas (.w 4) ⟨true, .w 9, .w 7, .acqRel, .dev, 8⟩)
    ∧ decodeWords 0x6E006600 0 0 0 = .ok (.fence 12 .dev)
    ∧ decodeWords 0x6E000001 0 0 0 = .ok .cbar
    ∧ decodeWords 0x7029FFE3 0 0 0 = .ok (.bnz (.w 5) ⟨0x7FF, 3⟩)) ∧
  (decodeWords 0x80084180 0x20020000 0 0 = .ok (.vadd 1 2 3 ⟨1, false, .rtz⟩)
    ∧ decodeWords 0xC0304000 0x00800000 0 0 = .ok (.vcvt 6 2 8 ⟨0, false, .rne⟩ .sat 0 0)
    ∧ decodeWords 0xE2180001 0 0 0 = .ok (.fstart 3)
    ∧ decodeWords 0x4A084000 1 0 0 = .ok (.ldt 1 2 .core .t8)
    ∧ decodeWords 0xE420A340 2 7 0x40 = .ok (.acopy (.w 4) (.w 5) (.w 6) (.w 7) none .clu 0x40)
    ∧ decodeWords 0xF8181280 0 0 0 = .ok (.crd (.w 3) 0x025)
    ∧ decodeColumn 0x0401510850000001 = .ok (.qmac ⟨⟨0, false⟩, .cell 5, .inp 1, .cell 2, .cell 5, 0, .absorb⟩ .signed)
    ∧ decodeColumn 0x1500810000080000 = .ok (.qcvt ⟨⟨0, false⟩, .cell 2, .cell 1, 0, .absorb⟩ 8 .rne .sat 0 0)
    ∧ decodeColumn 0x2401010000000000 = .ok (.qredl ⟨0, false⟩ (.cell 4) (.cell 1) .add .rne .absorb))

/-! ### Registers, control passing on -/

/-- R143, R144, R168: a register reads what was written to it last; g0 reads zero and drops what is written to it, and p0
reads 0xFFFF. Window register i of one position and register i + 24 of the position 24 lower are one register. -/
def Obligations.RegistersReadBack : Prop :=
  ∀ (c : Context) (a b : XReg) (p q : PReg) (v : Word) (m : Mask),
    (a ≠ .g 0 → (c.setX a v).x a = v) ∧ (c.setX a v).x (.g 0) = 0 ∧ c.setX (.g 0) v = c
      ∧ (b ≠ a → (c.setX a v).x b = c.x b)
      ∧ (p ≠ 0 → (c.setPred p m).pred p = m) ∧ (c.setPred p m).pred 0 = 0xFFFF ∧ c.setPred 0 m = c
      ∧ (q ≠ p → (c.setPred p m).pred q = c.pred q)
      ∧ ∀ i j : Fin 32, j.val = i.val + 24 → ∀ w, ({ c with wp := w + 24 } : Context).x (.w i) = ({ c with wp := w } : Context).x (.w j)

/-- R150, R151, R162, R184, R186, R187, R359: after an instruction that is in no delay slot, control is at NEXT: the word after
it if that has its start bit, else word 0 of the next line; the watchdog count is 0. A delay slot completes: a transfer that
is not taken goes on at NEXT; a taken one goes to its target, with the window move of a call or return, if the target is
marked (for a call, word 0 of an entry line), and else raises BAD_TARGET with the target, WP unchanged; where RETT set up
the transfer, that is a trap in trap state (log 60). R306, R308 to R310: in a Sornen function an operation whose condition fails is
skipped, another computes its value from earlier values and the registers, modulo 2^32 under W32, and the next operation follows;
a store issues at core scope; at EXIT the registers take the values of the SETs that have executed, all together, and the strip EXIT
names comes next, or the function returns. -/
def Obligations.ControlPassesOn : Prop :=
  (∀ (s s1 : State) (t : Task) (i : Instr), (s1.bank s.cur).xfer = none →
    let k := (s.ctx.pc % 128 - 8) / 4 + words i
    let next := if k < 30 ∧ hdrStart (s.lineHeader s.cur (s.ctx.pc / 128)) k = true then s.ctx.pc + 4 * words i
      else (s.ctx.pc / 128 + 1) * 128 + 8
    s.after t i s1 = s1.setBank s.cur
      { s1.bank s.cur with pc := next, wdcnt := 0, wait := 0, retry := false, atBound := false, walkTrap := none }) ∧
  (∀ (s s1 : State) (t : Task) (i : Instr) (x : Xfer), (s1.bank s.cur).xfer = some x →
    let nx := s.nextPc s.cur s.ctx.pc (words i)
    let c : Context :=
      { s1.bank s.cur with wdcnt := 0, wait := 0, retry := false, atBound := false, walkTrap := none, xfer := none }
    (x.taken = false → s.after t i s1 = s1.setBank s.cur { c with pc := nx })
      ∧ (x.taken = true → s1.targetOk s.cur x.target = true → x.move = .none →
          s.after t i s1 = s1.setBank s.cur { c with pc := x.target.toNat })
      ∧ (x.taken = true → s1.targetOk s.cur x.target = true → x.move = .ret →
          s.after t i s1 = s1.setBank s.cur { c with pc := x.target.toNat, wp := c.wp - 24 })
      ∧ (x.taken = true → s1.targetOk s.cur x.target = true → s1.entryLine s.cur x.target = true → x.move = .call →
          s.after t i s1 = s1.setBank s.cur
            { ({ c with wp := c.wp + 24 } : Context).setX (.w 8) (BitVec.ofNat 64 nx) with pc := x.target.toNat })
      ∧ (x.taken = true → (s1.targetOk s.cur x.target = false ∨ (x.move = .call ∧ s1.entryLine s.cur x.target = false)) →
          s.after t i s1 = (s1.setBank s.cur (if x.rett then { c with pc := nx, trapst := true }
            else { c with pc := nx })).syncTrap s.cur t cBadTarget x.target nx nx)) ∧
  (∀ (s : State) (t : Task) (o : Code) (f : SornenFun) (st : SornenStrip) (op : SornenOp) (x : Strip),
    let c := s.ctx
    let a := c.sornenVal x st.w32 op.a
    let b := c.sornenVal x st.w32 op.b
    let p := c.sornenVal x st.w32 op.p
    let ready := c.task = some t ∧ c.strip = some x ∧ s.codeOf t = some o ∧ o.sornen[x.fn]? = some f ∧ f.strips[x.strip]? = some st
      ∧ st.loop = false ∧ st.ops[x.op]? = some op ∧ x.fab = .core ∧ x.leaving = false ∧ x.frame ≠ 0
      ∧ x.frameBytes t ≤ 8 * (x.frame - 1) ∧ s.issuing s.cur = true ∧ c.checkDue = false ∧ c.due = none
      ∧ s.interrupted s.cur = false ∧ c.hazard ((List.range 24).flatMap fun h => keyX c.wp (sornenX h)) = false
    let runs := op.pm = 0 ∨ (op.pm = 1 ∧ p ≠ 0) ∨ (op.pm = 2 ∧ p = 0)
    let goes (u : State) : Prop := s.sornenStep = u.mapCtx fun d =>
      { d with atBound := false, walkTrap := none, wait := 0, retry := false, wdcnt := 0 }
    let past (vals : Sparse Word) : Strip := { x with op := x.op + 1, issued := false, vals := vals }
    let value (v : Word) : Prop := goes (s.putStrip (past (x.vals.set x.op (if st.w32 then v &&& 0xFFFFFFFF else v))))
    (ready → (op.pm = 1 ∧ p = 0) ∨ (op.pm = 2 ∧ p ≠ 0) → goes (s.putStrip (past x.vals)))
      ∧ (ready → runs →
          (op.sop = 0x02 → value (op.imm.signExtend 64)) ∧ (op.sop = 0x03 → value a) ∧ (op.sop = 0x04 → value (a + b))
          ∧ (op.sop = 0x05 → value (a - b)) ∧ (op.sop = 0x06 → value (a * b)) ∧ (op.sop = 0x07 → value (a &&& b))
          ∧ (op.sop = 0x08 → value (a ||| b)) ∧ (op.sop = 0x09 → value (a ^^^ b)) ∧ (op.sop = 0x0A → value (a <<< (b.toNat % 64)))
          ∧ (op.sop = 0x0B → value (a >>> (b.toNat % 64))) ∧ (op.sop = 0x0C → value (a.sshiftRight (b.toNat % 64)))
          ∧ (op.sop = 0x0D → value (if a = b then 1 else 0)) ∧ (op.sop = 0x0E → value (if a.toInt < b.toInt then 1 else 0))
          ∧ (op.sop = 0x0F → value (if a.toNat < b.toNat then 1 else 0)) ∧ (op.sop = 0x10 → value (a + op.imm.signExtend 64))
          ∧ (op.sop = 0x20 → value ((f32Add .rne (a.truncate 32) (b.truncate 32)).1.zeroExtend 64))
          ∧ (op.sop = 0x21 → value ((f32Mul .rne (a.truncate 32) (b.truncate 32)).1.zeroExtend 64))
          ∧ (op.sop = 0x30 → goes (s.putStrip { past x.vals with sets := x.sets.set (op.imm.toNat % 32) a })))
      ∧ (ready → op.pm = 0 → op.sop = 0x11 → value (if p ≠ 0 then a else b))
      ∧ (ready → runs → op.sop = 0x19 → t.clustered = false → ∀ q n, n = 2 ^ op.lsz →
          s.checkAccess s.cur t (a + op.imm.signExtend 64) n n .store = .ok q →
          goes ((s.launch (c.entry (.std (.w 25) ⟨.w 26, .g 0, .plain, .core, 0⟩) (.store n) b (a + op.imm.signExtend 64) 0
            (a + op.imm.signExtend 64) .plain .core [⟨q, n, true⟩])).putStrip (past x.vals)))
      ∧ (ready → runs → op.sop = 0x38 → x.sets.rising = true → (∀ e ∈ x.sets, e.1 < 24) →
          ∃ (d : Context) (y : Strip), goes (s.setCtx { d with strip := some y })
            ∧ (∀ h, h < 24 → d.x (sornenX h) = Sparse.get (c.x (sornenX h)) x.sets h)
            ∧ (op.imm = 0xFFFFFFFF → y = { x with leaving := true })
            ∧ (op.imm ≠ 0xFFFFFFFF → y.strip = op.imm.toNat ∧ y.op = 0 ∧ y.vals = [] ∧ y.sets = [] ∧ y.leaving = false)))

/-! ### Register arithmetic and logic (R172 to R176) -/

/-- R172, R174 to R176: the integer instructions of one cycle, of two sources, one source and an immediate, and LEA. n counts
zeros from the top for CLZ and from the bottom for CTZ; POPC gives the number of bits of a list that names each one bit
once. -/
def Obligations.SingleCycleResults : Prop :=
  (∀ (s : State) (t : Task) (a b c : XReg),
    let x := s.ctx.x b
    let y := s.ctx.x c
    let n := y.toNat % 64
    let ks := keysOf [a, b, c] s.ctx
    Writes s t (.add a b c) ks a (x + y)
      ∧ Writes s t (.sub a b c) ks a (x - y)
      ∧ Writes s t (.min a b c) ks a (if x.toInt ≤ y.toInt then x else y)
      ∧ Writes s t (.max a b c) ks a (if x.toInt ≤ y.toInt then y else x)
      ∧ Writes s t (.minu a b c) ks a (if x.toNat ≤ y.toNat then x else y)
      ∧ Writes s t (.maxu a b c) ks a (if x.toNat ≤ y.toNat then y else x)
      ∧ Writes s t (.and a b c) ks a (x &&& y)
      ∧ Writes s t (.or a b c) ks a (x ||| y)
      ∧ Writes s t (.xor a b c) ks a (x ^^^ y)
      ∧ Writes s t (.andn a b c) ks a (x &&& ~~~y)
      ∧ Writes s t (.shl a b c) ks a (BitVec.ofNat 64 (x.toNat * 2 ^ n))
      ∧ Writes s t (.shr a b c) ks a (BitVec.ofNat 64 (x.toNat / 2 ^ n))
      ∧ Writes s t (.sra a b c) ks a (BitVec.ofInt 64 (x.toInt / 2 ^ n))
      ∧ Writes s t (.rol a b c) ks a (BitVec.ofNat 64 (x.toNat * 2 ^ n + x.toNat / 2 ^ (64 - n)))
      ∧ Writes s t (.seq a b c) ks a (if x = y then 1 else 0)
      ∧ Writes s t (.slt a b c) ks a (if x.toInt < y.toInt then 1 else 0)
      ∧ Writes s t (.sltu a b c) ks a (if x.toNat < y.toNat then 1 else 0)
      ∧ Writes s t (.sel a b c) ks a (if s.ctx.x a ≠ 0 then x else y)) ∧
  (∀ (s : State) (t : Task) (a b : XReg),
    let x := s.ctx.x b
    let ks := keysOf [a, b] s.ctx
    (∀ n : Nat, n ≤ 64 → (∀ k, k < n → x.getLsbD (63 - k) = false) → (n < 64 → x.getLsbD (63 - n) = true) →
        Writes s t (.clz a b) ks a (BitVec.ofNat 64 n))
      ∧ (∀ n : Nat, n ≤ 64 → (∀ k, k < n → x.getLsbD k = false) → (n < 64 → x.getLsbD n = true) →
        Writes s t (.ctz a b) ks a (BitVec.ofNat 64 n))
      ∧ (∀ l : List Nat, l.Nodup → (∀ k, k ∈ l ↔ k < 64 ∧ x.getLsbD k = true) →
        Writes s t (.popc a b) ks a (BitVec.ofNat 64 l.length))
      ∧ Writes s t (.mov a b) ks a x
      ∧ Writes s t (.exts a b .w8) ks a ((x.extractLsb' 0 8).signExtend 64)
      ∧ Writes s t (.exts a b .w16) ks a ((x.extractLsb' 0 16).signExtend 64)
      ∧ Writes s t (.exts a b .w32) ks a ((x.extractLsb' 0 32).signExtend 64)
      ∧ Writes s t (.extz a b .w8) ks a (x &&& 0xFF)
      ∧ Writes s t (.extz a b .w16) ks a (x &&& 0xFFFF)
      ∧ Writes s t (.extz a b .w32) ks a (x &&& 0xFFFFFFFF)) ∧
  (∀ (s : State) (t : Task) (a b c : XReg) (imm : BitVec 32) (n : BitVec 6) (z : Size),
    let x := s.ctx.x b
    let sx : Word := imm.signExtend 64
    let zx : Word := imm.zeroExtend 64
    let ks := keysOf [a, b] s.ctx
    let size : Word := match z with | .b1 => 1 | .b2 => 2 | .b4 => 4 | .b8 => 8
    Writes s t (.addi a b imm) ks a (x + sx)
      ∧ Writes s t (.andi a b imm) ks a (x &&& sx)
      ∧ Writes s t (.ori a b imm) ks a (x ||| zx)
      ∧ Writes s t (.xori a b imm) ks a (x ^^^ zx)
      ∧ Writes s t (.shli a b n) ks a (BitVec.ofNat 64 (x.toNat * 2 ^ n.toNat))
      ∧ Writes s t (.shri a b n) ks a (BitVec.ofNat 64 (x.toNat / 2 ^ n.toNat))
      ∧ Writes s t (.srai a b n) ks a (BitVec.ofInt 64 (x.toInt / 2 ^ n.toNat))
      ∧ Writes s t (.roli a b n) ks a (BitVec.ofNat 64 (x.toNat * 2 ^ n.toNat + x.toNat / 2 ^ (64 - n.toNat)))
      ∧ Writes s t (.limm a imm) (keysOf [a] s.ctx) a sx
      ∧ Writes s t (.limmh a imm) (keysOf [a] s.ctx) a (imm ++ (s.ctx.x a).extractLsb' 0 32)
      ∧ Writes s t (.lea a b c z imm) (keysOf [a, b, c] s.ctx) a (x + s.ctx.x c * size + sx))

/-- R169, R170, R172, R173: multiplications and divisions issue with their operands captured; a division by zero traps DIV_ZERO
instead, at issue, with TINFO 0 and no entry. One that completes writes its result to its destination in the window it was
issued in and leaves the instructions in flight. A quotient is truncated towards zero, and the most negative number divided
by -1 gives itself. -/
def Obligations.LongOperations : Prop :=
  (∀ (s : State) (t : Task) (a b c : XReg),
    let ks := keysOf [a, b, c] s.ctx
    let put (i : Instr) (k : IntKind) : Prop :=
      Completes s t i ks (s.launched t i (longEntry s i k a b c))
    put (.mul a b c) .mul ∧ put (.mulhs a b c) .mulhs ∧ put (.mulhu a b c) .mulhu
      ∧ (s.ctx.x c ≠ 0 → put (.divs a b c) .divs ∧ put (.divu a b c) .divu ∧ put (.rems a b c) .rems
          ∧ put (.remu a b c) .remu)
      ∧ (s.ctx.x c = 0 → Traps s t (.divs a b c) ks cDivZero 0 ∧ Traps s t (.divu a b c) ks cDivZero 0
          ∧ Traps s t (.rems a b c) ks cDivZero 0 ∧ Traps s t (.remu a b c) ks cDivZero 0)) ∧
  (∀ (s : State) (core : CoreId) (n : Fin 8) (t : Task) (before after : List Entry) (e : Entry) (k : IntKind) (a : XReg),
    let c := s.bank core.val
    c.task = some t → (s.core core.val).swapping = false → splitEntry c.fly n.val = some (before, e, after) →
    e.op = .int k a →
    ∃ r : Word,
      exec (.variableLatencyComplete core n) s
          = .next (s.setBank core.val { c.setXAt e.wpe a r with fly := c.trim (before ++ after) })
        ∧ (match k with
          | .mul => r = e.opb * e.opc
          | .mulhs => r.toInt = e.opb.toInt * e.opc.toInt / 2 ^ 64
          | .mulhu => r.toNat = e.opb.toNat * e.opc.toNat / 2 ^ 64
          | .divs => e.opc ≠ 0 → r = if e.opb = BitVec.intMin 64 ∧ e.opc = -1 then e.opb
              else BitVec.ofInt 64 (e.opb.toInt.tdiv e.opc.toInt)
          | .divu => e.opc ≠ 0 → r.toNat = e.opb.toNat / e.opc.toNat
          | .rems => e.opc ≠ 0 → r.toInt = e.opb.toInt.tmod e.opc.toInt
          | .remu => e.opc ≠ 0 → r.toNat = e.opb.toNat % e.opc.toNat))

/-- The frame of the instructions that write one integer register in one cycle (R142, R168, R171 to R176): beside their
destination and control passing on they change nothing: no other register of the bank, no byte of memory, no other core. -/
def Obligations.RegisterInstructionsFrame : Prop :=
  ∀ (s : State) (t : Task) (i : Instr) (a : XReg) (names : List XReg), plainDest i = some (a, names) →
    s.canIssue t i (keysOf names s.ctx) = true →
    ∃ c : Context, exec i s = .next (s.after t i (s.setCtx c))
      ∧ c = { s.ctx with ring := c.ring, g := c.g } ∧ (∀ r : XReg, r ≠ a → c.x r = s.ctx.x r)
      ∧ (∀ k, (∀ j : Fin 32, a = .w j → k ≠ ringIndex s.ctx.wp j.val) → Sparse.get 0 c.ring k = Sparse.get 0 s.ctx.ring k)
      ∧ (s.setCtx c).mem = s.mem ∧ (∀ p, (s.setCtx c).byteAt p = s.byteAt p)
      ∧ (∀ core, core ≠ s.cur → (s.setCtx c).core core = s.core core)
      ∧ (s.ctx.xfer = none → ∀ u, exec i s = .next u → u.mem = s.mem ∧ (u.bank s.cur).vstat = s.ctx.vstat
          ∧ (∀ core, core ≠ s.cur → u.core core = s.core core) ∧ (∀ r : XReg, r ≠ a → (u.bank s.cur).x r = s.ctx.x r)
          ∧ ∀ p, u.byteAt p = s.byteAt p)

/-! ### Control flow (R184 to R188, R223) -/

/-- R143, R156, R162, R184 to R187: branches, JMP, JR, calls and returns issue: the condition is decided and the target read at
issue, and the next instruction is the delay slot. The window move of a call or return is due when control reaches the
target; one whose window is not in the ring waits with reason RACKING, and RET at logical position 0 traps WINDOW_SPILL. A
call also waits for the callee's w8, its destination (R169). -/
def Obligations.TransfersIssue : Prop :=
  (∀ (s : State) (t : Task) (a : XReg) (r : CodeRef),
    let x := s.ctx.x a
    let dest : Word := BitVec.ofNat 64 ((((s.ctx.pc / 128 : Nat) + r.delta.toInt) % 2048).toNat * 128 + 8 + 4 * r.word.toNat)
    let slot (i : Instr) (target : Word) (taken : Bool) : State :=
      s.setCtx { s.ctx with wdcnt := 0, wait := 0, retry := false, atBound := false, walkTrap := none,
                            pc := s.nextPc s.cur s.ctx.pc (words i), xfer := some ⟨target, taken, .none, false⟩ }
    let ks := keysOf [a] s.ctx
    Completes s t (.bez a r) ks (slot (.bez a r) dest (decide (x = 0)))
      ∧ Completes s t (.bnz a r) ks (slot (.bnz a r) dest (decide (x ≠ 0)))
      ∧ Completes s t (.bltz a r) ks (slot (.bltz a r) dest (decide (x.toInt < 0)))
      ∧ Completes s t (.bgez a r) ks (slot (.bgez a r) dest (decide (0 ≤ x.toInt)))
      ∧ Completes s t (.jmp r) [] (slot (.jmp r) dest true)
      ∧ Completes s t (.jr a) ks (slot (.jr a) x true)) ∧
  (∀ (s : State) (t : Task) (a : XReg) (r : CodeRef),
    let c := s.ctx
    let dest : Word := BitVec.ofNat 64 ((((c.pc / 128 : Nat) + r.delta.toInt) % 2048).toNat * 128 + 8 + 4 * r.word.toNat)
    let fits := c.wp + 24 + 32 - c.lo ≤ 256
    let ks := keysOf [a] c
    let kc := keyX (c.wp + 24) (.w 8)
    let kr := keysOf [.w 8] c
    (fits → Completes s t (.call r) kc (s.afterJump (.call r) ⟨dest, true, .call, false⟩)
        ∧ Completes s t (.callr a) (kc ++ ks) (s.afterJump (.callr a) ⟨c.x a, true, .call, false⟩))
      ∧ (¬ fits → Completes s t (.call r) kc (s.waits wRacking) ∧ Completes s t (.callr a) (kc ++ ks) (s.waits wRacking))
      ∧ (c.wp ≠ 0 → c.lo ≤ c.wp - 24 → Completes s t .ret kr (s.afterJump .ret ⟨c.x (.w 8), true, .ret, false⟩))
      ∧ (c.wp ≠ 0 → c.wp - 24 < c.lo → Completes s t .ret kr (s.waits wRacking))
      ∧ (c.wp = 0 → ∀ u, s.canIssue t .ret kr = true → exec .ret s = .next u →
          ∃ info, u = s.trapped t .ret cWindowSpill info))

/-- R162, R188, R223, R347: TRAP raises SYSCALL with its code, and BREAK raises BREAK with its own code offset; both resume at
NEXT. A synchronous trap of the instruction at issue resumes where it says; in a delay slot the frame records the transfer:
its target if taken and NEXT if not, and its window move. An instruction that transfers control, TRAP, RETT or END in a
delay slot raises ILLEGAL_OP with word 0. -/
def Obligations.SynchronousTraps : Prop :=
  (∀ (s : State) (t : Task) (code : BitVec 32),
    let nx (i : Instr) := s.nextPc s.cur s.ctx.pc (words i)
    Completes s t (.trap code) [] (s.syncTrap s.cur t cSyscall (code.zeroExtend 64) (nx (.trap code)) (nx (.trap code)))
      ∧ Completes s t .brk [] (s.syncTrap s.cur t cBreak (BitVec.ofNat 64 s.ctx.pc) (nx .brk) (nx .brk))) ∧
  (∀ (s : State) (core : Nat) (t : Task) (cause : Nat) (info : Word) (tpc nx : Nat),
    let record (dslot : Bool) (ttgt : Nat) (m : Move) : State :=
      s.takeTrap core t ⟨cause, info, tpc, false, false, 0, false, false, dslot, ttgt, m⟩
    ((s.bank core).xfer = none → s.syncTrap core t cause info tpc nx = record false 0 .none)
      ∧ (∀ x : Xfer, (s.bank core).xfer = some x →
          s.syncTrap core t cause info tpc nx = record true (if x.taken then x.target.toNat else nx) x.move)) ∧
  (∀ (s : State) (t : Task) (i : Instr), noSlot i = true → i.wf = true → s.ctx.xfer.isSome = true → s.ctx.task = some t →
    s.issuing s.cur = true → s.ctx.checkDue = false → s.ctx.due = none →
    exec i s = .next (s.syncTrap s.cur t cIllegal (((encode i).headD 0).zeroExtend 64) s.ctx.pc
      (s.nextPc s.cur s.ctx.pc (words i))))

/-! ### Exceptions (R344 to R351) -/

/-- R342, R346, R347, R348, R351: taking a trap that the task handles: unfinished instructions other than stores and atomics
join the replay queue, the frame records cause, kind, resume address, TINFO and WP, and of a delay slot the transfer (else TTGT
keeps its value), the window moves up by 48, the core is in
trap state, and control is at TVEC.ENTRY. A trap that goes to the driver (MACHINE_CHECK, WATCHDOG, or no handler) stops the
task: the frame describes it, the task issues nothing and is not in trap state. A trap taken in trap state stops the task
with its cause in CAUSE2, and the frame and the replay queue keep the first trap. -/
def Obligations.TrapEntry : Prop :=
  (∀ (s : State) (core : Nat) (t : Task) (a : TrapArg),
    let c := s.bank core
    let entry : Word := c.tvec &&& 0x3FFFF
    let queue := c.rq ++ (c.fly.filter fun e => !e.stays).map fun e => { e with msg := 0, got := [] }
    (core < 384 ∨ a.cause ≠ cMachineCheck) → c.trapst = false → c.strip = none → a.driver = false →
    a.cause ≠ cMachineCheck → a.cause ≠ cWatchdog → c.tvec.getLsbD 63 = true → s.entryLine core entry = true →
    c.wp + 48 + 32 - c.lo ≤ 256 →
    s.takeTrap core t a = s.setBank core
      { c with
        rq := queue, fly := ({ c with rq := queue } : Context).trim (c.fly.filter Entry.stays),
        xfer := none, wait := 0, retry := false, owed := if a.async then c.owed else none, idle := none, atBound := false,
        walkTrap := none, fillMsg := 0, fillData := [], cause2 := 0, strip := none, stripHeld := none, trapst := true, wp := c.wp + 48, pc := entry.toNat,
        frame := { cause := BitVec.ofNat 8 a.cause,
                   dxfer := if a.dslot then (match a.dxfer with | .none => 0 | .call => 1 | .ret => 2) else 0,
                   async := a.async, dslot := a.dslot, fab := a.fab, handle := a.handle, copy := a.copy,
                   tpc := BitVec.ofNat 64 (a.tpc % 2 ^ 18), ttgt := if a.dslot then BitVec.ofNat 64 a.ttgt else c.frame.ttgt,
                   tinfo := a.info, twp := BitVec.ofNat 64 c.wp } }) ∧
  (∀ (s : State) (core : Nat) (t : Task) (a : TrapArg), (core < 384 ∨ a.cause ≠ cMachineCheck) →
    let c := s.bank core
    let d := (s.takeTrap core t a).bank core
    (c.trapst = true → d.stopped = true ∧ d.cause2 = BitVec.ofNat 8 a.cause ∧ d.frame = c.frame ∧ d.rq = c.rq
        ∧ d.trapst = true ∧ (∀ r, d.x r = c.x r))
      ∧ (c.trapst = false → c.strip = none →
          (a.driver = true ∨ a.cause = cMachineCheck ∨ a.cause = cWatchdog ∨ c.tvec.getLsbD 63 = false
            ∨ s.entryLine core (c.tvec &&& 0x3FFFF) = false) →
          d.stopped = true ∧ d.trapst = false ∧ d.cause2 = 0 ∧ d.wp = c.wp ∧ d.pc = c.pc
            ∧ d.frame.cause = BitVec.ofNat 8 a.cause ∧ d.frame.tpc = BitVec.ofNat 64 (a.tpc % 2 ^ 18)
            ∧ d.frame.tinfo = a.info ∧ d.frame.twp = BitVec.ofNat 64 c.wp ∧ d.frame.dslot = a.dslot
            ∧ (∀ r, d.x r = c.x r)))

/-- R143, R151, R220, R349: RETT in trap state, with no entry left in the replay queue, no result of the handler's own due and the
ring holding the windows the task goes on with, resumes at TPC in the window TWP, out of trap state; with DSLOT set the
transfer of the slot goes on to TTGT with its window move. Entries of the replay queue that are integer or vector operations
go back in flight in queue order first, with their operands as the queue has them and CAUSE clear; a division whose divisor
has become zero traps DIV_ZERO within trap state, and stays in the queue with its cause. With the ring wanting a fill or a
spill RETT waits with reason RACKING. Outside trap state it raises ILLEGAL_OP, with a TPC that RETT may not resume at BAD_TARGET. The stores left in flight
keep their order, numbered afresh (the numbers are the model's own, log 38). -/
def Obligations.ReturnFromTrap : Prop :=
  ∀ (s : State) (t : Task),
    let c := s.ctx
    let f := c.frame
    let low := if f.dslot = true ∧ f.dxfer = 2 then f.twp.toNat - 24 else f.twp.toNat
    let fits := c.lo ≤ low ∧ (f.dslot = true → f.dxfer = 1 → f.twp.toNat + 24 + 32 - c.lo ≤ 256)
    let quiet := ∀ e ∈ c.fly, e.hand = true → e.stays = true
    let mayGo := c.trapst = true ∧ c.stripHeld = none ∧ s.resumeOk s.cur f.tpc = true
      ∧ ¬ (f.dslot = true ∧ f.dxfer = 2 ∧ f.twp = 0)
    let resumed (left : List Entry) : Context :=
      { c with
        rq := [], fly := left, issued := left.length, strip := none, stripHeld := none, trapst := false,
        resuming := false, wp := f.twp.toNat, pc := f.tpc.toNat, wait := 0, retry := false, atBound := false,
        walkTrap := none, wdcnt := 0, fillMsg := 0, fillData := [],
        xfer := if f.dslot then some ⟨f.ttgt, true, if f.dxfer = 1 then .call else if f.dxfer = 2 then .ret else .none, true⟩
                else none }
    let bare (e : Entry) : Entry := { e with seq := 0, hand := false }
    let again (e : Entry) : Prop := match e.op with
      | .int k _ => k.divides = true → e.opc ≠ 0
      | .vec .. | .pred .. | .flags .. | .ins .. | .toX .. => True
      | _ => False
    let held := ∀ e ∈ c.rq, ∀ n, e.destPos = some n → c.lo ≤ n
    (mayGo → fits → c.rq = [] → quiet →
        ∃ left : List Entry, left.map bare = c.fly.map bare ∧ Completes s t .rett [] (s.setCtx (resumed left)))
      ∧ (mayGo → fits → held → c.rq ≠ [] → c.rq.length ≤ 8 → c.fly = [] → (∀ e ∈ c.rq, again e) →
          (c.rq.Pairwise (fun x y => y.ahead x = false) → placeAll c.rq [] = c.rq)
          ∧ ∃ left : List Entry,
            left.map bare = (placeAll c.rq []).map (fun e => { bare e with cause := 0 })
              ∧ Completes s t .rett [] (s.setCtx (resumed left)))
      ∧ (∀ e k a, mayGo → fits → held → c.rq = [e] → c.fly = [] → e.op = .int k a → k.divides = true → e.opc = 0 →
          Completes s t .rett [] ((s.setCtx { c with rq := [{ e with cause := BitVec.ofNat 8 cDivZero }] }).syncTrap s.cur t
            cDivZero 0 c.pc (s.nextPc s.cur c.pc 1)))
      ∧ (mayGo → ¬ fits → c.rq = [] → quiet → Completes s t .rett [] (s.waits wRacking))
      ∧ (c.trapst = false → Traps s t .rett [] cIllegal (word0 .rett))
      ∧ (c.trapst = true → c.stripHeld = none → s.resumeOk s.cur f.tpc = false → Traps s t .rett [] cBadTarget f.tpc)

/-! ### Memory (R93, R120 to R128, R177 to R183) -/

/-- R3: memory is little-endian: a number read at a place has the byte there as its lowest eight bits and the byte n places on
as its n-th, and a number written at a place below the lofts puts its bytes there in that order. A byte reads what was
written to it last and every other byte is unchanged; writing keeps the canonical form, so that memories that read alike
are equal. The canonical form, the places memory has in storage and the bound below the lofts are the model's own (log 59), as is
that a byte nothing has written reads as zero (log 2). -/
def Obligations.MemoryReadsBack : Prop :=
  (∀ (s : State) (p n k : Nat), k < n → s.natAt p n / 256 ^ k % 256 = (s.byteAt (p + k)).toNat)
    ∧ (∀ (s : State) (p v n k : Nat), k < n → p + n ≤ 0x030000000000 → (s.writeNat p v n).byteAt (p + k) = BitVec.ofNat 8 (v / 256 ^ k))
    ∧ (∀ (s : State) (p v n : Nat), p + n ≤ 0x030000000000 → (s.writeNat p v n).natAt p n = v % 256 ^ n)
    ∧ (∀ (m : List Host.Cell) (a x : Nat) (b : Byte), memByte (memPut m a b) x = if x = a then b else memByte m x)
    ∧ (∀ (m : List Host.Cell) (a : Nat) (b : Byte), Memory.wf m = true → Memory.wf (memPut m a b) = true)
    ∧ (∀ m n : List Host.Cell, Memory.wf m = true → Memory.wf n = true → (∀ x, memByte m x = memByte n x) → m = n)

/-- R93, R121, R127, R170, R178, R354, R356, R383, R385, R423: the checks of an access, in order: MISALIGNED, TRANSLATION of a
reserved or unmapped range, PROTECTION across two windows: LDV and STV, whose 64 bytes are one access, trap PROTECTION where
they leave the own scratchpad or a member's slot for the next, TRANSLATION where they run on into the reserved range, and the
trap of the second page where their last word's page refuses it alone. The own scratchpad answers the core's own bytes, the
cluster window those of a live member of the task's cluster; an access to a bank that another task left waits with RACKING for
its exchange; a translated address goes by its cached leaf, and waits with reason LINK_RETRAIN while a die link on its path retrains. A load, store or atomic whose checks fail has no effect: it traps with
the cause and TINFO of the check, or waits with its reason; a missing translation asks for a page walk and waits with reason
TRANSLATION; a load or atomic that would use poisoned bytes traps MACHINE_CHECK. -/
def Obligations.AccessChecks : Prop :=
  (∀ (s : State) (core : Nat) (t : Task) (a : Word) (n : Nat) (kind : AccKind), core < 384 → n = 1 ∨ n = 2 ∨ n = 4 ∨ n = 8 →
    let x := a.toNat
    let chk := s.checkAccess core t a n n kind
    (x % n ≠ 0 → chk = .trap cMisaligned a)
      ∧ (x % n = 0 →
        (0x1400000 ≤ x ∧ x < 0x100000000 ∨ 0x1000000000000 ≤ x → chk = .trap cTranslation a)
        ∧ (x < 0x400000 → s.bankForeign core x = false → chk = .ok (spadPlace core x))
        ∧ (x < 0x400000 → s.bankForeign core x = true → chk = .away (spadPlace core x))
        ∧ (∀ m, m < 4 → 0x400000 * (m + 1) ≤ x → x < 0x400000 * (m + 2) →
            let far := core / 4 * 4 + m
            (t.clustered = false ∨ (s.bank far).isChain (t.serial - core % 4 + m) = false → chk = .trap cProtection a)
            ∧ (t.clustered = true → (s.bank far).isChain (t.serial - core % 4 + m) = true →
                chk = if s.bankForeign far (x % 0x400000) then .away (spadPlace far (x % 0x400000))
                  else .ok (spadPlace far (x % 0x400000))))
        ∧ (0x100000000 ≤ x → x < 0x1000000000000 → s.cached t.part t.ctx x = none → chk = .miss x)
        ∧ (∀ e, 0x100000000 ≤ x → x < 0x1000000000000 → s.cached t.part t.ctx x = some e →
            let pa := pteAddr e.leaf + (x - e.va)
            let granted := match kind with
              | .load | .sidecar => pteR e.leaf = true
              | .store => pteW e.leaf = true
              | .atomic => pteR e.leaf = true ∧ pteW e.leaf = true
            let place := if pteBias e.leaf then hostMark + t.part * 2 ^ 48 + pa else leafPlace t.part (pteKey e.leaf).toNat pa
            let goes := if s.pathHeld core place then Chk.wait wLinkRetrain else .ok place
            (¬ granted ∨ pteKind e.leaf ≠ 0 → chk = .trap cProtection a)
            ∧ (granted → pteKind e.leaf = 0 → s.flipping t.part pa = true → chk = .wait wBiasFlip)
            ∧ (granted → pteKind e.leaf = 0 → s.flipping t.part pa = false → pteBias e.leaf = true → kind = .atomic →
                chk = .trap cProtection a)
            ∧ (granted → pteKind e.leaf = 0 → s.flipping t.part pa = false → pteBias e.leaf = true → kind ≠ .atomic →
                chk = goes)
            ∧ (granted → pteKind e.leaf = 0 → s.flipping t.part pa = false → pteBias e.leaf = false → isSpad pa = false →
                pteHold e.leaf = false → chk = goes)))) ∧
  (∀ (s : State) (t : Task) (a : XReg) (m : MemOp) (o : AtOp),
    let x := s.ctx.x
    let address (n : Nat) : Word := x m.base + x m.index * BitVec.ofNat 64 n + m.disp.signExtend 64
    let size := if o.wide then 8 else 4
    let at0 : Word := x o.base + o.disp.signExtend 64
    let stops (i : Instr) (ks : List Nat) (ea : Word) (n : Nat) (kind : AccKind) : Prop :=
      (∀ cause info, s.checkAccess s.cur t ea n n kind = .trap cause info → Traps s t i ks cause info)
        ∧ (∀ code, s.checkAccess s.cur t ea n n kind = .wait code → Completes s t i ks (s.waits code))
        ∧ (∀ p, s.checkAccess s.cur t ea n n kind = .away p → Completes s t i ks ((s.touch p).waits wRacking))
        ∧ (∀ va, s.checkAccess s.cur t ea n n kind = .miss va → s.ctx.walkTrap = none →
            Completes s t i ks ((s.needWalk t.part t.ctx va kind (.instr s.cur)).waits wTranslation))
        ∧ (∀ p q, kind ≠ .store → s.checkAccess s.cur t ea n n kind = .ok p → t.clustered = false →
            s.poisonPast s.ctx.fly [⟨p, n, false⟩] = some q →
            Completes s t i ks ((s.logPoison t.part q).syncTrap s.cur t cMachineCheck (paOf q) s.ctx.pc
              (s.nextPc s.cur s.ctx.pc (words i))))
    let km := keysOf [a, m.base, m.index] s.ctx
    let ko := keysOf [a, o.base, o.src] s.ctx
    stops (.ldb a m) km (address 1) 1 .load ∧ stops (.ldh a m) km (address 2) 2 .load ∧ stops (.ldw a m) km (address 4) 4 .load
      ∧ stops (.ldd a m) km (address 8) 8 .load ∧ stops (.ldbu a m) km (address 1) 1 .load
      ∧ stops (.ldhu a m) km (address 2) 2 .load ∧ stops (.ldwu a m) km (address 4) 4 .load
      ∧ stops (.stb a m) km (address 1) 1 .store ∧ stops (.sth a m) km (address 2) 2 .store
      ∧ stops (.stw a m) km (address 4) 4 .store ∧ stops (.std a m) km (address 8) 8 .store
      ∧ stops (.aadd a o) ko at0 size .atomic ∧ stops (.axchg a o) ko at0 size .atomic ∧ stops (.aand a o) ko at0 size .atomic
      ∧ stops (.aor a o) ko at0 size .atomic ∧ stops (.axor a o) ko at0 size .atomic ∧ stops (.acas a o) ko at0 size .atomic
      ∧ stops (.amin a o) ko at0 size .atomic ∧ stops (.aminu a o) ko at0 size .atomic ∧ stops (.amax a o) ko at0 size .atomic
      ∧ stops (.amaxu a o) ko at0 size .atomic) ∧
  (∀ (s : State) (t : Task) (v : VReg) (m : MemOp), s.cur < 384 →
    let ea : Word := s.ctx.x m.base + s.ctx.x m.index * 4 + m.disp.signExtend 64
    let x := ea.toNat
    let wide (i : Instr) (kind : AccKind) : Prop :=
      let traps := Traps s t i (keyV v ++ keysOf [m.base, m.index] s.ctx)
      (x % 4 ≠ 0 → traps cMisaligned ea)
        ∧ (x % 4 = 0 → (0x13FFFC0 < x ∧ x < 0x100000000 ∨ 0xFFFFFFFFFFC0 < x) → traps cTranslation ea)
        ∧ (∀ n, 1 ≤ n → n ≤ 4 → x % 4 = 0 → 0x400000 * n < x + 64 → x < 0x400000 * n → traps cProtection ea)
        ∧ (∀ p cause info, cause ≠ cMachineCheck → s.checkAccess s.cur t ea 64 4 kind = .ok p →
            s.checkAccess s.cur t (ea + 60) 4 4 kind = .trap cause info → traps cause ea)
    wide (.ldv v m) .load ∧ wide (.stv v m) .store)

/-- R155, R169, R177 to R179: loads, stores and atomics issue: an access that its checks allow joins the instructions in flight
with its address, its bytes and its operands; loads and atomics only where the bytes are not poisoned. Index registers are
scaled by the access size, and ACAS captures the expected value of X(A). -/
def Obligations.AccessesIssue : Prop :=
  (∀ (s : State) (t : Task) (a : XReg) (v : VReg) (m : MemOp),
    let x := s.ctx.x
    let address (n : Nat) : Word := x m.base + x m.index * BitVec.ofNat 64 n + m.disp.signExtend 64
    let load (i : Instr) (n : Nat) (sg : Bool) : Prop :=
      ∀ p, s.checkAccess s.cur t (address n) n n .load = .ok p → s.poisonPast s.ctx.fly [⟨p, n, false⟩] = none →
        Completes s t i (keysOf [a, m.base, m.index] s.ctx)
          (s.after t i ((s.markRemote s.cur t (address n).toNat).launch
            (s.ctx.entry i (.load n sg a) 0 (x m.base) (x m.index) (address n) m.ord m.scope [⟨p, n, false⟩])))
    load (.ldb a m) 1 true ∧ load (.ldh a m) 2 true ∧ load (.ldw a m) 4 true ∧ load (.ldd a m) 8 true
      ∧ load (.ldbu a m) 1 false ∧ load (.ldhu a m) 2 false ∧ load (.ldwu a m) 4 false
      ∧ (∀ p, t.clustered = false → s.checkAccess s.cur t (address 4) 64 4 .load = .ok p →
          s.checkAccess s.cur t (address 4 + 60) 4 4 .load = .ok (p + 60) →
          s.poisonPast s.ctx.fly [⟨p, 64, false⟩] = none →
          Completes s t (.ldv v m) (keyV v ++ keysOf [m.base, m.index] s.ctx)
            (s.launched t (.ldv v m)
              (s.ctx.entry (.ldv v m) (.ldv v) 0 (x m.base) (x m.index) (address 4) m.ord m.scope [⟨p, 64, false⟩])))) ∧
  (∀ (s : State) (t : Task) (a : XReg) (v : VReg) (m : MemOp),
    let x := s.ctx.x
    let address (n : Nat) : Word := x m.base + x m.index * BitVec.ofNat 64 n + m.disp.signExtend 64
    let store (i : Instr) (n : Nat) : Prop :=
      ∀ p, s.checkAccess s.cur t (address n) n n .store = .ok p →
        Completes s t i (keysOf [a, m.base, m.index] s.ctx)
          (s.after t i ((s.markRemote s.cur t (address n).toNat).launch
            (s.ctx.entry i (.store n) (x a) (x m.base) (x m.index) (address n) m.ord m.scope [⟨p, n, true⟩])))
    store (.stb a m) 1 ∧ store (.sth a m) 2 ∧ store (.stw a m) 4 ∧ store (.std a m) 8
      ∧ (∀ p, t.clustered = false → s.checkAccess s.cur t (address 4) 64 4 .store = .ok p →
          s.checkAccess s.cur t (address 4 + 60) 4 4 .store = .ok (p + 60) →
          Completes s t (.stv v m) (keyV v ++ keysOf [m.base, m.index] s.ctx)
            (s.launched t (.stv v m) (s.ctx.entry (.stv v m) (.stv (s.ctx.vec v).lanes) 0 (x m.base) (x m.index)
              (address 4) m.ord m.scope [⟨p, 64, true⟩])))) ∧
  (∀ (s : State) (t : Task) (a : XReg) (o : AtOp),
    let x := s.ctx.x
    let n := if o.wide then 8 else 4
    let ea : Word := x o.base + o.disp.signExtend 64
    let atomic (i : Instr) (k : AtKind) (expect : Word) : Prop :=
      ∀ p, s.checkAccess s.cur t ea n n .atomic = .ok p → s.poisonPast s.ctx.fly [⟨p, n, false⟩] = none →
        Completes s t i (keysOf [a, o.base, o.src] s.ctx)
          (s.after t i ((s.markRemote s.cur t ea.toNat).launch
            (s.ctx.entry i (.atomic k n a) expect (x o.base) (x o.src) ea o.ord o.scope [⟨p, n, true⟩])))
    atomic (.aadd a o) .add 0 ∧ atomic (.axchg a o) .xchg 0 ∧ atomic (.aand a o) .and 0 ∧ atomic (.aor a o) .or 0
      ∧ atomic (.axor a o) .xor 0 ∧ atomic (.acas a o) .cas (x a) ∧ atomic (.amin a o) .min 0 ∧ atomic (.aminu a o) .minu 0
      ∧ atomic (.amax a o) .max 0 ∧ atomic (.amaxu a o) .maxu 0)

/-- R3, R122, R168, R177, R178: an issued load completes: each byte is that of the latest unperformed store of the task
before it that covers it, a store covering the bytes it will write, lowest first, else memory's; the value is extended with its sign or with zeros into its destination in the
window of its issue, LDV puts sixteen lanes under FT0; no byte of memory and no other register changes. -/
def Obligations.LoadsComplete : Prop :=
  ∀ (s : State) (core : CoreId) (k : Fin 8) (t : Task) (before after : List Entry) (e : Entry),
    let c := s.bank core.val
    let places := e.spans.flatMap fun x => (List.range x.n).map fun j => x.place + j
    let n := places.length
    c.task = some t → (s.core core.val).swapping = false → splitEntry c.fly k.val = some (before, e, after) →
    (∀ x ∈ e.spans, x.wr = false ∧ x.place < hostMark) → c.mayPerform (s.fstrOf t) e before = true →
    s.poisonPast before e.spans = none →
    let byte (j : Nat) : Byte := s.loadByte before (places.getD j 0)
    let value : Nat := (List.range n).foldl (fun v j => v + (byte j).toNat * 256 ^ j) 0
    let done (c1 : Context) : Prop :=
      ∃ u, exec (.variableLatencyComplete core k) s = .next u
        ∧ u.bank core.val = { c1 with fly := c.trim (before ++ after) } ∧ u.mem = s.mem
        ∧ ∀ j, j ≠ core.val → u.core j = s.core j
    (∀ j, before.all (fun b => (b.offers j).isNone) = true → isFw j = false → s.loadByte before j = s.byteAt j)
      ∧ (∀ xs b ys j v, before = xs ++ b :: ys → b.offers j = some v → (∀ y ∈ ys, y.offers j = none) → s.loadByte before j = v)
      ∧ (∀ (b : Entry) (p m j : Nat), b.op = .store m → b.spans = [⟨p, m, true⟩] →
          b.offers j = if p ≤ j ∧ j < p + m then some (BitVec.ofNat 8 (b.opa.toNat / 256 ^ (j - p))) else none)
      ∧ (∀ a, e.op = .load n false a → done (c.setXAt e.wpe a (BitVec.ofNat 64 value)))
      ∧ (∀ a, 1 ≤ n → n ≤ 8 → e.op = .load n true a →
          done (c.setXAt e.wpe a
            (BitVec.ofInt 64 (if 2 ^ (8 * n - 1) ≤ value then (value : Int) - 2 ^ (8 * n) else value))))
      ∧ (∀ v, n = 64 → e.op = .ldv v →
          ∃ r : VecReg, r.tag = 0
            ∧ (∀ l, l < 16 → r.lane l = byte (4 * l + 3) ++ byte (4 * l + 2) ++ byte (4 * l + 1) ++ byte (4 * l))
            ∧ done (c.setVec v r))

/-- R100, R120, R122, R127, R177 to R180: an issued store performs: its bytes, lowest first, go to memory at its place, and every byte
outside it is as before; it changes no register. It stays in flight while an access R124 orders before it has not performed.
An atomic performs as one access: its destination takes the old value, extended with its sign or, for AMINU and AMAXU, with
zeros; memory takes the new one. Where its compare fails, ACAS writes nothing and is held back only as a load with the
acquire half of its order would be. A loft line that a store or atomic touches is read and merged under the tenant key of its
page, and is under that key afterwards, so that where another key wrote it last its other bytes become what they read as under
the new one (R100; the keystream is a free value, log 8). -/
def Obligations.StoresAndAtomicsPerform : Prop :=
  (∀ (s : State) (core : CoreId) (second : Bool) (k : Fin 8) (t : Task) (before after : List Entry) (e : Entry)
    (bytes : List Byte),
    let c := s.bankOf core.val second
    let places := e.spans.flatMap fun x => (List.range x.n).map fun j => x.place + j
    let n := places.length
    let keyed := s.rekey (e.spans.flatMap fun x => linesOf x.place x.n)
    c.task = some t → splitEntry c.fly k.val = some (before, e, after) →
    (∀ x ∈ places, ∀ y ∈ places, isLoft x = true → isLoft y = true → s.drawOf x = s.drawOf y) →
    (∀ x ∈ e.spans, x.place < hostMark ∧ isFw x.place = false) → e.msg = 0 → (∀ x ∈ s.cores, ∀ y ∈ x.2.copies, y.2.signal.isSome = true) →
    (e.op = .store n ∧ bytes = (List.range n).map (fun j => BitVec.ofNat 8 (e.opa.toNat / 256 ^ j))
      ∨ ∃ v : Lanes, e.op = .stv v ∧ n = 64
        ∧ bytes = (List.range 64).map fun j => BitVec.ofNat 8 ((v.toList.getD (j / 4) 0).toNat / 256 ^ (j % 4))) →
    (c.mayPerform (s.fstrOf t) e before = false → exec (.storePerform core second k) s = .next s)
      ∧ (c.mayPerform (s.fstrOf t) e before = true →
          ∃ u, exec (.storePerform core second k) s = .next u
            ∧ u.mem = (List.range n).foldl (fun m j => memPut m (s.storage (places.getD j 0)) (bytes.getD j 0)) keyed.mem
            ∧ (∀ x, (∀ j, j < n → x ≠ s.storage (places.getD j 0)) → memByte u.mem x = memByte keyed.mem x)
            ∧ u.sliceMap = s.sliceMap
            ∧ (u.bankOf core.val second).fly = c.trim (before ++ after)
            ∧ ∀ j, (u.bankOf j second).ring = (s.bankOf j second).ring ∧ (u.bankOf j second).g = (s.bankOf j second).g
                ∧ (u.bankOf j second).v = (s.bankOf j second).v ∧ (u.bankOf j second).vstat = (s.bankOf j second).vstat)) ∧
  (∀ (s : State) (core : CoreId) (second : Bool) (k : Fin 8) (t : Task) (before after : List Entry) (e : Entry) (p n : Nat)
    (kind : AtKind) (a : XReg),
    let c := s.bankOf core.val second
    c.task = some t → splitEntry c.fly k.val = some (before, e, after) → e.spans = [⟨p, n, true⟩] → e.op = .atomic kind n a →
    n = 4 ∨ n = 8 → isFw p = false →
    (c.mayPerform (s.fstrOf t) e before = true
      ∨ (kind = .cas ∧ s.natAt p n ≠ e.opa.toNat % 2 ^ (8 * n) ∧ (∀ b ∈ before, b.isStore = true → b.overlaps e = false)
          ∧ c.mayPerform (s.fstrOf t) { e with op := .load 8 false (.g 0), ord := if ordAcq e.ord then .acq else .plain } before
              = true)) →
    s.poisonPast before e.spans = none →
    let m := 2 ^ (8 * n)
    let sg (x : Nat) : Int := if m / 2 ≤ x then (x : Int) - m else x
    let old := s.natAt p n
    let v := e.opc.toNat % m
    let new := match kind with
      | .add => (old + v) % m
      | .xchg => v
      | .and => old &&& v
      | .or => old ||| v
      | .xor => old ^^^ v
      | .cas => if old = e.opa.toNat % m then v else old
      | .min => if sg v < sg old then v else old
      | .max => if sg old < sg v then v else old
      | .minu => if v < old then v else old
      | .maxu => if old < v then v else old
    ∃ u, exec (.storePerform core second k) s = .next u
      ∧ (∀ x, memByte u.mem x = memByte (if kind = .cas ∧ old ≠ e.opa.toNat % m then s.mem else
          (List.range n).foldl (fun b j => memPut b (s.storage (p + j)) (BitVec.ofNat 8 (new / 256 ^ j)))
            (s.rekey (linesOf p n)).mem) x)
      ∧ ∃ idle wait gens, u.bankOf core.val second
          = { c with fly := c.trim (before ++ after), idle := idle, wait := wait, gens := gens }.setXAt e.wpe a
              (if kind = AtKind.minu ∨ kind = AtKind.maxu then BitVec.ofNat 64 old else BitVec.ofInt 64 (sg old))) ∧
  (∀ (s : State) (ls : List Nat) (x : Nat), (∀ l ∈ ls, s.drawOf (64 * l) = none ∨ x / 64 ≠ s.storage (64 * l) / 64) →
    memByte (s.rekey ls).mem x = memByte s.mem x) ∧
  (∀ (s : State) (l d j : Nat), j < 64 → s.drawOf (64 * l) = some d →
    memByte (s.rekey [l]).mem (s.storage (64 * l) + j) = s.byteAt (64 * l + j)
      ∧ (s.rekey [l]).byteAt (64 * l + j) = s.byteAt (64 * l + j)) ∧
  (∀ (s : State) (p : Nat), (∀ d, s.drawOf p = some d → s.foreignLine d (s.storage p) = false) →
    s.byteAt p = memByte s.mem (s.storage p))

/-- R126, R181, R182, R183: WAITA goes on when the doubleword at its address equals X(A) and else waits with reason SIGNAL;
it traps MISALIGNED, and outside the own scratchpad and the cluster window PROTECTION. FENCE stands among the accesses in
flight; with the sl bit it first waits for the earlier stores. CBAR of a task outside a cluster goes on once its accesses have performed; a member waits with reason
CLUSTER_BARRIER until the last arrives, whose arrival clears the remote bits of all and lets the others go on. -/
def Obligations.WaitFenceBarrier : Prop :=
  ∀ (s : State) (t : Task) (a b : XReg) (scope : Scope) (disp : BitVec 32) (kind : BitVec 4),
    let c := s.ctx
    let ea : Word := c.x b + disp.signExtend 64
    let w : Instr := .waita a b scope disp
    let ks := keysOf [a, b] c
    let quiet := ∀ e ∈ c.fly, e.isLoad = false ∧ e.isStore = false
    let s1 := s.markRemote s.cur t ea.toNat
    (ea.toNat % 8 ≠ 0 → Traps s t w ks cMisaligned ea)
      ∧ (ea.toNat % 8 = 0 → 0x1400000 ≤ ea.toNat → Traps s t w ks cProtection ea)
      ∧ (∀ p, ea.toNat % 8 = 0 → ea.toNat < 0x1400000 → s.checkAccess s.cur t ea 8 8 .load = .ok p →
          s.poisonPast c.fly [⟨p, 8, false⟩] = none → (∀ x ∈ s.cores, x.2.copies = []) →
          let look := c.entry w (.load 8 false (.g 0)) 0 0 0 ea .plain .core [⟨p, 8, false⟩]
          c.mayPerform (s.fstrOf t) look c.fly = true → (∀ x ∈ c.fly, x.isStore = true → x.overlaps look = false) →
          (BitVec.ofNat 64 (s.natAt p 8) = c.x a → Completes s t w ks (s.after t w s1))
            ∧ (BitVec.ofNat 64 (s.natAt p 8) ≠ c.x a → Completes s t w ks (s1.waits wSignal)))
      ∧ ((kind.getLsbD 2 = false ∨ ∀ e ∈ c.fly, e.isStore = false) → Completes s t (.fence kind scope) []
          (s.after t (.fence kind scope) (s.setCtx { c with issued := c.issued + 1, fly := c.trim (c.fly ++
            [c.entry (.fence kind scope) (.fence kind) 0 0 0 0 .plain scope []]) })))
      ∧ (kind.getLsbD 2 = true → (∃ e ∈ c.fly, e.isStore = true) → Completes s t (.fence kind scope) [] (s.waits 0))
      ∧ (quiet → t.clustered = false → Completes s t .cbar [] (s.after t .cbar s))
      ∧ (quiet → t.clustered = true → c.arrived = .released →
          Completes s t .cbar [] (s.after t .cbar (s.setCtx { c with arrived := .no })))
      ∧ (quiet → t.clustered = true → c.arrived ≠ .released →
          let s2 := s.setCtx { c with arrived := .yes }
          (((s2.members s.cur t).all fun j => (s2.bank j).arrived == .yes) = false → Completes s t .cbar [] (s2.waits wCluster))
          ∧ (((s2.members s.cur t).all fun j => (s2.bank j).arrived == .yes) = true → ∃ u,
              Completes s t .cbar [] (s.after t .cbar u)
                ∧ ∀ j, j ∈ s2.members s.cur t → (u.bank j).remote = false
                    ∧ (u.bank j).arrived = if j = s.cur then .no else .released))

/-! ### Vector instructions (R190 to R202) -/

/-- R88, R89, R190, R192: binary32 instructions read their lanes at issue, every source under FT5; the active lanes take
their results and raise their flags, unless SF suppresses them, and the destination takes FT5. A source under another tag
traps FORMAT_TAG with that tag. -/
def Obligations.VectorFloatIssues : Prop :=
  ∀ (s : State) (t : Task) (a b c : VReg) (f : VCtl),
    let v (r : VReg) (l : Nat) : Half := (s.ctx.vec r).lane l
    let tag (r : VReg) : Tag := (s.ctx.vec r).tag
    let m := s.ctx.pred f.pred
    let ks (srcs : List VReg) : List Nat := keysV (a :: srcs) f.pred
    let result (i : Instr) (srcs : List VReg) (op : Nat → Half × BitVec 5) : Prop :=
      (∀ r ∈ srcs, tag r = 5) → Completes s t i (ks srcs)
        (s.after t i (launchVec i a (fun l => (op l).1) m 5 (if f.sf then 0 else vecFlags false m fun l => (op l).2) s))
    result (.vadd a b c f) [b, c] (fun l => f32Add f.rm (v b l) (v c l))
      ∧ result (.vsub a b c f) [b, c] (fun l => f32Sub f.rm (v b l) (v c l))
      ∧ result (.vmul a b c f) [b, c] (fun l => f32Mul f.rm (v b l) (v c l))
      ∧ result (.vfma a b c f) [a, b, c] (fun l => f32Fma f.rm false (v a l) (v b l) (v c l))
      ∧ result (.vfms a b c f) [a, b, c] (fun l => f32Fma f.rm true (v a l) (v b l) (v c l))
      ∧ result (.vmin a b c f) [b, c] (fun l => f32Min (v b l) (v c l))
      ∧ result (.vmax a b c f) [b, c] (fun l => f32Max (v b l) (v c l))
      ∧ result (.vabs a b f) [b] (fun l => f32Abs (v b l))
      ∧ result (.vneg a b f) [b] (fun l => f32Neg (v b l))
      ∧ result (.vdiv a b c f) [b, c] (fun l => f32Div f.rm (v b l) (v c l))
      ∧ result (.vsqrt a b f) [b] (fun l => f32Sqrt f.rm (v b l))
      ∧ result (.vrcp a b f) [b] (fun l => f32Div f.rm 0x3F800000 (v b l))
      ∧ result (.vrsq a b f) [b] (fun l => f32Rsq f.rm (v b l))
      ∧ (tag b ≠ 5 → Traps s t (.vadd a b c f) (ks [b, c]) cFormatTag ((tag b).zeroExtend 64)
          ∧ Traps s t (.vsqrt a b f) (ks [b]) cFormatTag ((tag b).zeroExtend 64))
      ∧ (tag b = 5 → tag c ≠ 5 → Traps s t (.vmul a b c f) (ks [b, c]) cFormatTag ((tag c).zeroExtend 64))

/-- R66, R86, R89, R90, R192, R198, R201: binary32 results for all operands. Where the exact sum, difference, product, quotient,
square root or fused sum is a binary32 number it is the result, without a flag; an exact zero sum is -0 under RDN and +0 otherwise but
for a sum of zeros of one sign, and a zero product or quotient has the product sign; a NaN operand gives the canonical NaN, with
invalid if it is signalling; infinity - infinity, 0 x infinity, 0 / 0 and infinity / infinity are invalid, and a nonzero number
divided by zero is an infinity of the product sign with division by zero. And the manual's worked values of conversions, the exact
sum of a reduction, and the random generator. Numbers are written as multiples of the smallest subnormal, 2^-149. -/
def Obligations.BinaryArithmeticCases : Prop :=
  (∀ (rm : Rm) (x y a z : Half), rm ≠ .stoch →
    let exp (b : Half) : Nat := (b.extractLsb' 23 8).toNat
    let frac (b : Half) : Nat := (b.extractLsb' 0 23).toNat
    let num (b : Half) : Int := (if b.getLsbD 31 then -1 else 1) * (if exp b = 0 then (frac b : Int) else ((2 ^ 23 + frac b) * 2 ^ (exp b - 1) : Nat))
    let fin (b : Half) : Prop := exp b ≠ 255
    let inf (b : Half) : Prop := exp b = 255 ∧ frac b = 0
    let nan (b : Half) : Prop := exp b = 255 ∧ frac b ≠ 0
    let signalling (b : Half) : Prop := nan b ∧ b.getLsbD 22 = false
    let invalid : BitVec 5 := if signalling x ∨ signalling y then flNV else 0
    let sign : Half := (x ^^^ y) &&& 0x80000000
    let exact (n : Int) : Prop := fin z ∧ num z ≠ 0 ∧ num z = n
    (fin x → fin y → exact (num x + num y) → f32Add rm x y = (z, 0))
      ∧ (fin x → fin y → exact (num x - num y) → f32Sub rm x y = (z, 0))
      ∧ (fin x → fin y → fin z → num z ≠ 0 → num z * 2 ^ 149 = num x * num y → f32Mul rm x y = (z, 0))
      ∧ (fin x → fin y → fin z → num z ≠ 0 → num y ≠ 0 → num z * num y = num x * 2 ^ 149 → f32Div rm x y = (z, 0))
      ∧ (fin x → fin z → 0 < num z → num z * num z = num x * 2 ^ 149 → f32Sqrt rm x = (z, 0))
      ∧ (fin a → fin x → fin y → fin z → num z ≠ 0 → num z * 2 ^ 149 = num x * num y + num a * 2 ^ 149 →
          f32Fma rm false a x y = (z, 0))
      ∧ (fin x → fin y → num x + num y = 0 →
          f32Add rm x y = (if num x = 0 ∧ x = y then x else if rm = .rdn then 0x80000000 else 0, 0))
      ∧ (fin x → fin y → num x * num y = 0 → f32Mul rm x y = (sign, 0))
      ∧ (fin y → num x = 0 → num y ≠ 0 → f32Div rm x y = (sign, 0))
      ∧ (¬ nan y → f32Sub rm x y = f32Add rm x (y ^^^ 0x80000000))
      ∧ (nan x ∨ nan y → f32Add rm x y = (0x7FC00000, invalid) ∧ f32Sub rm x y = (0x7FC00000, invalid)
          ∧ f32Mul rm x y = (0x7FC00000, invalid) ∧ f32Div rm x y = (0x7FC00000, invalid)
          ∧ f32Min x y = (0x7FC00000, invalid) ∧ f32Max x y = (0x7FC00000, invalid))
      ∧ (inf x → fin y → f32Add rm x y = (x, 0) ∧ f32Add rm y x = (x, 0))
      ∧ (inf x → inf y → f32Add rm x y = if x = y then (x, 0) else (0x7FC00000, flNV))
      ∧ (inf x → ¬ nan y → f32Mul rm x y = if fin y ∧ num y = 0 then (0x7FC00000, flNV) else (sign ||| 0x7F800000, 0))
      ∧ (inf x → ¬ nan y → f32Div rm x y = if inf y then (0x7FC00000, flNV) else (sign ||| 0x7F800000, 0))
      ∧ (fin x → inf y → f32Div rm x y = (sign, 0))
      ∧ (fin x → fin y → num y = 0 → f32Div rm x y = if num x = 0 then (0x7FC00000, flNV) else (sign ||| 0x7F800000, flDZ))
      ∧ (fin x → fin y → num x < num y → f32Min x y = (x, 0) ∧ f32Max x y = (y, 0) ∧ f32Min y x = (x, 0) ∧ f32Max y x = (y, 0))
      ∧ (f32Min 0 0x80000000 = (0x80000000, 0) ∧ f32Min 0x80000000 0 = (0x80000000, 0)
          ∧ f32Max 0 0x80000000 = (0, 0) ∧ f32Max 0x80000000 0 = (0, 0))
      ∧ (f32Abs x = if nan x then (0x7FC00000, if signalling x then flNV else 0) else (x &&& 0x7FFFFFFF, 0))
      ∧ (f32Neg x = if nan x then (0x7FC00000, if signalling x then flNV else 0) else (x ^^^ 0x80000000, 0))) ∧
  (∀ rm : Rm, rm ≠ .stoch →
    f32Add rm 0x3F800000 0x3F800000 = (0x40000000, 0) ∧ f32Add rm 0x40490FDB 0 = (0x40490FDB, 0)
      ∧ f32Mul rm 0x40490FDB 0x3F800000 = (0x40490FDB, 0) ∧ f32Sub rm 0x40400000 0x3F800000 = (0x40000000, 0)
      ∧ f32Add rm 0x7FC00001 0x3F800000 = (0x7FC00000, 0) ∧ f32Add rm 0x7F800001 0x3F800000 = (0x7FC00000, flNV)
      ∧ f32Sub rm 0x7F800000 0x7F800000 = (0x7FC00000, flNV) ∧ f32Div rm 0x3F800000 0x80000000 = (0xFF800000, flDZ)
      ∧ f32Div rm 0 0 = (0x7FC00000, flNV) ∧ f32Fma rm false 0x3F800000 0x40000000 0x40400000 = (0x40E00000, 0)
      ∧ f32Sqrt rm 0x40800000 = (0x40000000, 0) ∧ f32Rsq rm 0x40800000 = (0x3F000000, 0)
      ∧ f32Sqrt rm 0xBF800000 = (0x7FC00000, flNV)
      ∧ f32Max 0x7FC00000 0x3F800000 = f32Max 0x3F800000 0x7FC00000) ∧
  ((∀ f, fmtOf [] 8 = some f →
    (convert (f32 0x3F880000) f .rne .sat 0).bits = 0x38 ∧ (convert (f32 0x43FA0000) f .rne .sat 0).bits = 0x7E
      ∧ (convert (f32 0x3B400000) f .rne .sat 0).bits = 0x02 ∧ (convert (f32 0x7FC00000) f .rne .sat 0).bits = 0x7F
      ∧ (convert (f32 0x3F880000) f .rne .sat 0).flags = flIX ∧ (convert (f32 0x43FA0000) f .rne .sat 0).flags = flOF ||| flIX
      ∧ (convert (f32 0x3B400000) f .rne .sat 0).flags = flUF ||| flIX)
    ∧ redAddF .rne [0x4B800000, 0x3F800000, 0x3F800000, 0xCB800000] = (0x40000000, 0)
    ∧ gen 0 0 = 0 ∧ gen 0 1 = 0x90218008 ∧ gen 0x100000000 0 = 0x8019C430)

/-- R195, R196, R197, R199: the lane-wise instructions without flags read their lanes at issue; the active lanes take their
results. Bitwise operations and shifts leave FT0, the integer operations FT3 (source lanes under FT3), and permutes and
moves the tag of their source. A source under an invalid format traps FORMAT_TAG, for VTAG too. -/
def Obligations.VectorLanesIssue : Prop :=
  ∀ (s : State) (t : Task) (a b c : VReg) (p : PReg) (n : BitVec 5) (k : BitVec 4) (tg : Tag),
    let v (r : VReg) (l : Nat) : Half := (s.ctx.vec r).lane l
    let tag (r : VReg) : Tag := (s.ctx.vec r).tag
    let m := s.ctx.pred p
    let valid (r : VReg) : Prop := classOf s.ctx.ft (tag r) ≠ .invalid
    let puts (i : Instr) (srcs : List VReg) (mask : Mask) (q : PReg) (result : Tag) (op : Nat → Half) : Prop :=
      Completes s t i (keysV (a :: srcs) q) (s.after t i (launchVec i a op mask result 0 s))
    let amount (l : Nat) : Nat := (v c l).toNat % 32
    let clampS (x : Int) : Half := BitVec.ofInt 32 (max (-(2 ^ 31)) (min x (2 ^ 31 - 1)))
    let clampU (x : Int) : Half := BitVec.ofInt 32 (max 0 (min x (2 ^ 32 - 1)))
    let int (op : Int → Int → Int) (i : Sat → Instr) : Prop :=
      puts (i .wrap) [b, c] m p 3 (fun l => BitVec.ofInt 32 (op (v b l).toInt (v c l).toInt))
        ∧ puts (i .signed) [b, c] m p 3 (fun l => clampS (op (v b l).toInt (v c l).toInt))
        ∧ puts (i .unsigned) [b, c] m p 3 (fun l => clampU (op (v b l).toNat (v c l).toNat))
    (valid b → valid c →
        puts (.vand a b c p) [b, c] m p 0 (fun l => v b l &&& v c l)
        ∧ puts (.vor a b c p) [b, c] m p 0 (fun l => v b l ||| v c l)
        ∧ puts (.vxor a b c p) [b, c] m p 0 (fun l => v b l ^^^ v c l)
        ∧ puts (.vshl a b (.reg c) p) [b, c] m p 0 (fun l => v b l <<< amount l)
        ∧ puts (.vshr a b (.reg c) p) [b, c] m p 0 (fun l => v b l >>> amount l)
        ∧ puts (.vsra a b (.reg c) p) [b, c] m p 0 (fun l => BitVec.ofInt 32 ((v b l).toInt / 2 ^ amount l)))
      ∧ (valid b →
        puts (.vshl a b (.imm n) p) [b] m p 0 (fun l => v b l <<< n.toNat)
        ∧ puts (.vshr a b (.imm n) p) [b] m p 0 (fun l => v b l >>> n.toNat)
        ∧ puts (.vsra a b (.imm n) p) [b] m p 0 (fun l => BitVec.ofInt 32 ((v b l).toInt / 2 ^ n.toNat))
        ∧ puts (.vperm a b c p) [b, c] m p (tag b) (fun l => v b ((v c l).toNat % 16))
        ∧ puts (.vbcast a b k p) [b] m p (tag b) (fun _ => v b k.toNat)
        ∧ puts (.vmov a b p) [b] m p (tag b) (fun l => v b l))
      ∧ (valid b → puts (.vtag a b tg) [b] 0xFFFF 0 tg (fun l => v b l))
      ∧ (¬ valid b → Traps s t (.vtag a b tg) (keysV [a, b] 0) cFormatTag ((tag b).zeroExtend 64))
      ∧ (tag b = 3 → tag c = 3 → int (· + ·) (fun z => .viadd a b c z p) ∧ int (· - ·) (fun z => .visub a b c z p)
          ∧ int (· * ·) (fun z => .vimul a b c z p))

/-- R82, R193, R194, R197, R198, R200, R202: comparisons, VSEL, VINS, VEXT, VFLAGS, VRNG and the reductions
issue with what they will write. A comparison sets a bit for each active lane in which it holds; VSEL writes every lane. -/
def Obligations.VectorSelectsIssue : Prop :=
  ∀ (s : State) (t : Task) (a b c : VReg) (p q : PReg) (x : XReg) (sf u z clr : Bool) (k : BitVec 4) (f : BitVec 3),
    let c0 := s.ctx
    let v (r : VReg) (l : Nat) : Half := (c0.vec r).lane l
    let tag (r : VReg) : Tag := (c0.vec r).tag
    let m := c0.pred q
    let bits (g : Nat → Bool) : Mask :=
      (List.range 16).foldl (fun (w : Mask) l => if m.getLsbD l && g l then w ||| ((1 : Mask) <<< l) else w) 0
    let sets (i : Instr) (mask : Mask) (flags : BitVec 80) : Prop :=
      Completes s t i (keyP p ++ keysV [b, c] q) (s.launched t i (c0.entry i (.pred p mask flags) 0 0 0 0 .plain .core []))
    let active := ((List.range 16).filter fun l => m.getLsbD l).map (v b)
    let plain : VCtl := ⟨q, false, .rne⟩
    let lane0 (i : Instr) (r : Half) (g : Tag) (fl : BitVec 5) : Prop :=
      Completes s t i (keysV [a, b] q)
        (s.after t i (launchVec i a (fun l => if l = 0 then r else 0) 0xFFFF g (laneFlags 0 fl) s))
    (tag b = 3 → tag c = 3 →
        sets (.vcmpeq p b c q sf u) (bits fun l => v b l == v c l) 0
        ∧ sets (.vcmplt p b c q sf false) (bits fun l => decide ((v b l).toInt < (v c l).toInt)) 0
        ∧ sets (.vcmplt p b c q sf true) (bits fun l => decide ((v b l).toNat < (v c l).toNat)) 0
        ∧ sets (.vcmple p b c q sf false) (bits fun l => decide ((v b l).toInt ≤ (v c l).toInt)) 0
        ∧ sets (.vcmple p b c q sf true) (bits fun l => decide ((v b l).toNat ≤ (v c l).toNat)) 0)
      ∧ (tag b = 5 → tag c = 5 →
        sets (.vcmpeq p b c q sf false) (bits fun l => (f32Cmp false Val.eqv (v b l) (v c l)).1)
            (vecFlags sf m fun l => (f32Cmp false Val.eqv (v b l) (v c l)).2)
        ∧ sets (.vcmplt p b c q sf false) (bits fun l => (f32Cmp true Val.lt (v b l) (v c l)).1)
            (vecFlags sf m fun l => (f32Cmp true Val.lt (v b l) (v c l)).2)
        ∧ Traps s t (.vcmplt p b c q sf true) (keyP p ++ keysV [b, c] q) cIllegal (word0 (.vcmplt p b c q sf true)))
      ∧ (tag b ≠ 3 → tag b ≠ 5 → Traps s t (.vcmpeq p b c q sf u) (keyP p ++ keysV [b, c] q) cFormatTag ((tag b).zeroExtend 64))
      ∧ (classOf c0.ft (tag b) ≠ .invalid → tag b = tag c →
          Completes s t (.vsel a b c q) (keysV [a, b, c] q)
            (s.after t (.vsel a b c q)
              (launchVec (.vsel a b c q) a (fun l => if m.getLsbD l then v b l else v c l) 0xFFFF (tag b) 0 s)))
      ∧ Completes s t (.vins a x k) (keyV a ++ keysOf [x] c0)
          (s.launched t (.vins a x k) (c0.entry (.vins a x k) (.ins a k) 0 (c0.x x) 0 0 .plain .core []))
      ∧ (classOf c0.ft (tag b) ≠ .invalid → Completes s t (.vext x b z k) (keyV b ++ keysOf [x] c0)
          (s.launched t (.vext x b z k) (c0.entry (.vext x b z k)
            (.toX x (if z then (v b k.toNat).zeroExtend 64 else (v b k.toNat).signExtend 64)) 0 0 0 0 .plain .core [])))
      ∧ Completes s t (.vflags x f clr q) (keysOf [x] c0 ++ keyP q)
          (s.launched t (.vflags x f clr q) (c0.entry (.vflags x f clr q) (.flags x f clr m) 0 0 0 0 .plain .core []))
      ∧ Completes s t (.vrng a q) (keysV [a] q)
          (s.after t (.vrng a q) ((launchVec (.vrng a q) a (fun l => gen c0.gkey (c0.gctr + BitVec.ofNat 128 l)) m 0 0 s).mapCtx
            fun d => { d with gctr := d.gctr + 16 }))
      ∧ (tag b = 3 →
          lane0 (.vredadd a b plain 0) (active.foldl (· + ·) 0) 3 0
          ∧ lane0 (.vredadd a b plain 2)
              (BitVec.ofInt 32 (max 0 (min (active.foldl (fun n y => n + (y.toNat : Int)) 0) (2 ^ 32 - 1)))) 3 0
          ∧ lane0 (.vredmax a b plain 0) (BitVec.ofInt 32 (active.foldl (fun n y => max n y.toInt) (-(2 ^ 31)))) 3 0
          ∧ lane0 (.vredmax a b plain 2) (BitVec.ofNat 32 (active.foldl (fun n y => max n y.toNat) 0)) 3 0)
      ∧ (tag b = 5 → lane0 (.vredmax a b plain 0) (redMaxF active).1 5 (redMaxF active).2
          ∧ (((s.ctxInfo t.part t.ctx).compat.getD 0).getLsbD 0 = false →
              lane0 (.vredadd a b plain 0) (redAddF .rne active).1 5 (redAddF .rne active).2))

/-- R82, R87, R201: VCVT converts one element of each active lane: the sub-container SSEL of the source becomes a value
under the source's tag, that value rounds to the target, and its code replaces sub-container DSEL; the target tag becomes
the destination's. Under STOCH the counter advances by 16. Under OV = TRAP an overflow in an active lane traps
CONVERT_OVERFLOW with the lanes that overflowed, and nothing else changes. A source that does not fit a lane traps
FORMAT_TAG. -/
def Obligations.VectorConversionIssues : Prop :=
  ∀ (s : State) (t : Task) (a b : VReg) (tg : Tag) (f : VCtl) (ov : Ovf) (ds ss : BitVec 3) (fs fd : Fmt),
    let c := s.ctx
    let i : Instr := .vcvt a b tg f ov ds ss
    let tb := (c.vec b).tag
    let m := c.pred f.pred
    let ws := containerOf c.ft tb
    let wd := containerOf c.ft tg
    let elem (l : Nat) : Nat := ((c.vec b).lane l).toNat / 2 ^ (ws * ss.toNat) % 2 ^ ws
    let y (l : Nat) : Conv := convert (fs.decode (elem l)) fd f.rm ov (gen c.gkey (c.gctr + BitVec.ofNat 128 l))
    let new (l : Nat) : Half :=
      let old := ((c.vec a).lane l).toNat
      BitVec.ofNat 32 (old % 2 ^ (wd * ds.toNat) + (y l).bits % 2 ^ wd * 2 ^ (wd * ds.toNat)
        + old / 2 ^ (wd * ds.toNat + wd) * 2 ^ (wd * ds.toNat + wd))
    let big (l : Nat) : Prop := m.getLsbD l = true ∧ (y l).ovf = true
    let ks := keysV [a, b] f.pred
    (cvtSource c.ft tb = none → Traps s t i ks cFormatTag (tb.zeroExtend 64))
      ∧ (cvtSource c.ft tb = some fs → fmtOf c.ft tg = none → Traps s t i ks cFormatTag (tg.zeroExtend 64))
      ∧ (cvtSource c.ft tb = some fs → fmtOf c.ft tg = some fd → ss.toNat < 32 / ws → ds.toNat < 32 / wd →
          ((ov ≠ .trap ∨ ∀ l, l < 16 → ¬ big l) →
            let s1 := launchVec i a new m tg (if f.sf then 0 else vecFlags false m fun l => (y l).flags) s
            Completes s t i ks (s.after t i (if f.rm = .stoch then s1.mapCtx fun d => { d with gctr := d.gctr + 16 } else s1)))
          ∧ (ov = .trap → ∀ w : Mask, w ≠ 0 → (∀ l, l < 16 → (w.getLsbD l = true ↔ big l)) →
              Traps s t i ks cConvert (w.zeroExtend 64)))

/-- R88, R89, R142, R168, R191, R197, R200: an unfinished vector instruction completes: the active lanes of its destination
take its results and the other lanes stay, its destination takes its tag, and its flags are added to VSTAT; VINS changes one
lane; a comparison writes its predicate; VEXT writes its register in the window of its issue; VFLAGS reads the flags of its
lanes and clears them if asked, once every earlier flag update is made. Memory and every other core stay as they were. -/
def Obligations.VectorCompletes : Prop :=
  ∀ (s : State) (core : CoreId) (k : Fin 8) (t : Task) (before after : List Entry) (e : Entry),
    let c := s.bank core.val
    c.task = some t → (s.core core.val).swapping = false → splitEntry c.fly k.val = some (before, e, after) →
    (∀ x ∈ before, x.usesFlags = false) →
    let done (c1 : Context) : Prop :=
      ∃ u, exec (.variableLatencyComplete core k) s = .next u
        ∧ u.bank core.val = { c1 with fly := c.trim (before ++ after) } ∧ u.mem = s.mem ∧ u.rows = s.rows
        ∧ ∀ j, j ≠ core.val → u.core j = s.core j
    (∀ d new m tag fl, e.op = .vec d new m tag fl → ∃ r : VecReg, r.tag = tag
          ∧ (∀ l : Fin 16, r.lanes[l] = if m.getLsbD l.val then new[l] else (c.vec d).lanes[l])
          ∧ done { c.setVec d r with vstat := c.vstat ||| fl })
      ∧ (∀ d j, e.op = .ins d j → ∃ r : VecReg, r.tag = (c.vec d).tag
          ∧ (∀ l : Fin 16, r.lanes[l] = if l.val = j.toNat then e.opb.truncate 32 else (c.vec d).lanes[l])
          ∧ done (c.setVec d r))
      ∧ (∀ d m fl, e.op = .pred d m fl → done { c.setPred d m with vstat := c.vstat ||| fl })
      ∧ (∀ d v, e.op = .toX d v → done (c.setXAt e.wpe d v))
      ∧ (∀ d f clr m, e.op = .flags d f clr m → f.toNat < 5 → ∃ st : BitVec 80,
          (∀ b, b < 80 → st.getLsbD b = (c.vstat.getLsbD b
            && !(clr && decide (16 * f.toNat ≤ b ∧ b < 16 * f.toNat + 16) && m.getLsbD (b - 16 * f.toNat))))
          ∧ done { c.setXAt e.wpe d ((c.vstat.extractLsb' (16 * f.toNat) 16 &&& m).zeroExtend 64) with vstat := st })

/-! ### Rows (R114 to R118, R218) -/

/-- R115, R116, R118, R218: ROWHOLD, ROWREL and ROWQRY on a handle that names an owned slot change its state and give 0 (ROWQRY
its state); on any other handle they give -1 and change no slot. ROWOPEN of an address of a holdable page joins the
instructions in flight, of any other address it traps; as it completes its destination takes the handle of the slot the task
already has on the row, or of a free slot in which it opens the row, or -1 where another task's row bars it. A refresh changes no slot, and a
pre-empted owner's row is open again once the owner is coming back. -/
def Obligations.RowInstructions : Prop :=
  (∀ (s : State) (t : Task) (a b : XReg),
    let h := s.ctx.x b
    let chan := h.toNat / 256 % 16 * 64 + h.toNat / 4 % 64
    let slot := s.rowSlot chan (h.toNat % 4)
    let mine := h.toNat / 2 ^ 32 = 0 ∧ h.toNat / 2 ^ 12 % 16 = 0 ∧ h.toNat / 256 % 16 < 12 ∧ slot.st ≠ .free
      ∧ slot.reserved = false ∧ slot.owner = t.serial ∧ slot.seq.toNat = h.toNat / 65536 % 65536
    let ks := keysOf [a, b] s.ctx
    let gives (i : Instr) (s1 : State) (v : Word) : Prop :=
      Completes s t i ks (s.after t i (s1.mapCtx fun c => c.setX a v))
    let put (r : RowSlot) : State := s.setRowSlot chan (h.toNat % 4) r
    (mine → gives (.rowholdKeep a b) (put { slot with st := .keep }) 0
        ∧ gives (.rowholdDrop a b) (put { slot with st := .drop }) 0
        ∧ gives (.rowrel a b) (put { slot with st := .free, reserved := false }) 0
        ∧ gives (.rowqry a b) (put slot) (match slot.st with | .opened => 1 | .keep => 2 | _ => 3))
      ∧ (¬ mine → gives (.rowholdKeep a b) s (-1) ∧ gives (.rowholdDrop a b) s (-1) ∧ gives (.rowrel a b) s (-1)
          ∧ gives (.rowqry a b) s (-1))
      ∧ (0x100000000 ≤ h.toNat → h.toNat < 0x1000000000000 → ∀ e, s.cached t.part t.ctx h.toNat = some e →
          (pteHold e.leaf = true → Completes s t (.rowopen a b) ks
              (s.launched t (.rowopen a b) (s.ctx.entry (.rowopen a b) (.rowOpen a) 0 h 0 0 .plain .core
                [⟨pteAddr e.leaf + (h.toNat - e.va), 0, false⟩])))
          ∧ (pteHold e.leaf = false → Traps s t (.rowopen a b) ks cProtection h))
      ∧ (h.toNat < 0x1400000 → Traps s t (.rowopen a b) ks cProtection h)
      ∧ (0x1400000 ≤ h.toNat → h.toNat < 0x100000000 → Traps s t (.rowopen a b) ks cTranslation h)) ∧
  ((∀ (s : State) (owner p k : Nat), k < 4 →
    let chan := rowChan p
    let r := s.rowSlot chan k
    let handle (q : BitVec 16) : Word := BitVec.ofNat 64 (k + chan % 64 * 4 + chan / 64 * 256 + q.toNat * 65536)
    (r.live = true → r.owner = owner → r.row = p / 1024 →
        (∀ j, j < k → ¬ ((s.rowSlot chan j).live = true ∧ (s.rowSlot chan j).owner = owner ∧ (s.rowSlot chan j).row = p / 1024)) →
        s.rowOpen owner p = (s, handle r.seq))
      ∧ ((∀ j, j < 4 → ((s.rowSlot chan j).st = .free ↔ k ≤ j)) →
          (∀ j, j < k → sameSub (s.rowSlot chan j).row (p / 1024) = false ∧ (s.rowSlot chan j).row ≠ p / 1024) →
          s.rowOpen owner p = (s.setRowSlot chan k ⟨.opened, owner, p / 1024, r.seq + 1, false⟩, handle (r.seq + 1)))
      ∧ (r.live = true → r.owner ≠ owner → r.row = p / 1024 →
          (∀ j, j < 4 → (s.rowSlot chan j).owner = owner → (s.rowSlot chan j).live = false) →
          s.rowOpen owner p = (s, -1)))
    ∧ (∀ (s : State) (core : CoreId) (n : Fin 8) (t : Task) (before after : List Entry) (e : Entry) (d : XReg) (p : Nat),
        let c := s.bank core.val
        let r := s.rowOpen t.serial p
        c.task = some t → (s.core core.val).swapping = false → splitEntry c.fly n.val = some (before, e, after) →
        e.op = .rowOpen d → e.spans = [⟨p, 0, false⟩] →
        ∃ u, exec (.variableLatencyComplete core n) s = .next u ∧ u.rows = r.1.rows ∧ u.mem = s.mem
          ∧ u.bank core.val = { c.setXAt e.wpe d r.2 with fly := c.trim (before ++ after) }
          ∧ ∀ j, j ≠ core.val → u.core j = s.core j)
    ∧ (∀ (s : State) (stack : Fin 12) (pc : Fin 64), ∃ u, exec (.rowRefresh stack pc) s = .next u
        ∧ ∀ c k, u.rowSlot c k = s.rowSlot c k)
    ∧ (∀ (s : State) (stack : Fin 12) (pc : Fin 64) (k : Fin 4),
        let chan := stack.val * 64 + pc.val
        let r := s.rowSlot chan k.val
        r.st = .keep → r.reserved = true → (s.cores.any fun e => e.2.swapping && e.2.bank.isChain r.owner) = true →
        (∀ j, j < 4 → j ≠ k.val → (s.rowSlot chan j).st = .free) →
        exec (.rowReopen stack pc k) s = .next (s.setRowSlot chan k.val { r with reserved := false })))

/-! ### Control registers and system instructions (R146, R219 to R222) -/

/-- R59, R62, R88, R91, R146, R219, R338, R345, R346, R348: CRD gives the register its number names, that of a tile descriptor
once no tile copy that writes it is unfinished, and in trap state a doubleword of the replay-queue entry that RQSEL names, 0
at or above the count; a number without a register raises ILLEGAL_OP. The registers of the command processor raise PROTECTION
on another core, and on its own cores give the role, TAKE and EPOCH, the kicked queues, the journal's base and cursors and
the count of quantum boundaries. CWR replaces the writable bits of the register its number names and nothing else: OPA, OPB,
OPC and ADDR of a replay-queue entry; a written KICK bit clears, and a written TAKE; a store still in flight holds a write of
JHEAD back (R395); a standby core may write CPROLE alone. A read-only register and a format register given no valid format
raise ILLEGAL_OP. What COREID gives on the two cores of the command processor is the model's choice (log 50). -/
def Obligations.ControlRegisters : Prop :=
  (∀ (s : State) (t : Task) (a : XReg),
    let c := s.ctx
    let gives (n : BitVec 12) (v : Word) : Prop := Writes s t (.crd a n) (keysOf [a] c) a v
    let traps (n : BitVec 12) : Prop := Traps s t (.crd a n) (keysOf [a] c) cIllegal (word0 (.crd a n))
    gives 0x000 (BitVec.ofNat 64 (s.cur / 32 * 256 + s.cur % 32)) ∧ gives 0x001 (BitVec.ofNat 64 t.ctx)
      ∧ gives 0x010 (BitVec.ofNat 64 c.wp) ∧ gives 0x011 c.rkbase ∧ gives 0x012 c.rklimit ∧ gives 0x013 (BitVec.ofNat 64 c.lo)
      ∧ ((∀ e ∈ c.fly, e.usesFlags = false) → gives 0x020 (c.vstat.extractLsb' 0 64)
          ∧ gives 0x021 ((c.vstat.extractLsb' 64 16).zeroExtend 64))
      ∧ gives 0x028 (BitVec.ofNat 64 ((s.ctxInfo t.part t.ctx).rev.toNat * 2 + (s.ctxInfo t.part t.ctx).fstr.toNat))
      ∧ gives 0x024 c.gkey ∧ gives 0x025 (c.gctr.extractLsb' 0 64) ∧ gives 0x026 (c.gctr.extractLsb' 64 64)
      ∧ (∀ k : Nat, k < 64 → gives (BitVec.ofNat 12 (0x40 + k)) ((ftRead c.ft k).zeroExtend 64))
      ∧ gives 0x080 c.tcause ∧ gives 0x081 c.frame.tpc ∧ gives 0x082 c.frame.ttgt ∧ gives 0x083 c.frame.tinfo
      ∧ gives 0x084 c.frame.twp ∧ gives 0x085 c.tvec ∧ gives 0x086 c.tsave0 ∧ gives 0x087 c.tsave1
      ∧ gives 0x0A8 (c.wdcnt.zeroExtend 64) ∧ gives 0x0A9 (c.wdlim.zeroExtend 64)
      ∧ (c.trapst = true → gives 0x088 (c.rqsel.zeroExtend 64) ∧ gives 0x089 (c.trsel.zeroExtend 64)
          ∧ gives 0x08A (Sparse.get 0 c.ring ((c.frame.twp.toNat + c.trsel.toNat) % 256)))
      ∧ (c.trapst = true → ∀ k : Nat, k < 8 → gives (BitVec.ofNat 12 (0x90 + k)) (match c.rq[c.rqsel.toNat]? with
          | none => 0
          | some e => match k with
            | 0 => BitVec.ofNat 64 ((e.words.getD 0 0).toNat * 2 ^ 32 + (e.words.length - 1) * 2 ^ 30 + e.cause.toNat * 2 ^ 18
                + e.pc % 2 ^ 18)
            | 1 => BitVec.ofNat 64 ((e.words.getD 1 0).toNat + (e.words.getD 2 0).toNat * 2 ^ 32)
            | 2 => BitVec.ofNat 64 (e.words.getD 3 0).toNat
            | 3 => e.opa
            | 4 => e.opb
            | 5 => e.opc
            | 6 => e.addr
            | _ => BitVec.ofNat 64 e.wpe))
      ∧ (c.trapst = false → traps 0x088 ∧ traps 0x08A ∧ ∀ k : Nat, k < 8 → traps (BitVec.ofNat 12 (0x90 + k)))
      ∧ (384 ≤ s.cur →
          gives 0x100 (BitVec.ofNat 64 ((s.part t.part).epoch.toNat * 256
            + (if Sparse.get false s.take (s.cur - 384) then 16 else 0)
            + (match s.role s.cur with | .active => 1 | .standby => 2 | .out => 0)))
          ∧ (∀ (k : Nat) (w : Word), k < 8 → (∀ b, b < 64 → w.getLsbD b = (s.queue t.part (64 * k + b)).kick) →
              gives (BitVec.ofNat 12 (0x110 + k)) w)
          ∧ gives 0x120 s.jbase ∧ gives 0x121 (s.jhead.zeroExtend 64) ∧ gives 0x122 (s.jtail.zeroExtend 64)
          ∧ gives 0x130 (s.part t.part).qtime ∧ traps 0x101 ∧ traps 0x118 ∧ traps 0x123 ∧ traps 0x1FF)
      ∧ (∀ k : Fin 16, (∀ e ∈ c.fly, e.dests.contains (1040 + k.val) = false) →
          gives (BitVec.ofNat 12 (0xC0 + 2 * k.val)) ((c.desc k).extractLsb' 0 64)
          ∧ gives (BitVec.ofNat 12 (0xC1 + 2 * k.val)) ((c.desc k).extractLsb' 64 64))
      ∧ traps 0x002 ∧ traps 0x0FF ∧ traps 0xFFF
      ∧ (s.cur < 384 → ∀ u, s.canIssue t (.crd a 0x100) (keysOf [a] c) = true → exec (.crd a 0x100) s = .next u →
          ∃ (s1 : State) (info : Word), u = s1.syncTrap s.cur t cProtection info c.pc (s.nextPc s.cur c.pc (words (.crd a 0x100))))) ∧
  (∀ (s : State) (t : Task) (a : XReg),
    let c := s.ctx
    let v := c.x a
    let puts (n : BitVec 12) (d : Context) : Prop :=
      Completes s t (.cwr a n) (keysOf [a] c) (s.after t (.cwr a n) (s.setCtx d))
    let traps (n : BitVec 12) : Prop := Traps s t (.cwr a n) (keysOf [a] c) cIllegal (word0 (.cwr a n))
    let free := ∀ e ∈ c.fly, e.usesFlags = false ∧ e.isLdt = false
    (c.wp = 0 → puts 0x011 { c with rkbase := v &&& ~~~7 }) ∧ (c.wp ≠ 0 → traps 0x011)
      ∧ puts 0x012 { c with rklimit := v &&& ~~~7 }
      ∧ (free → puts 0x020 { c with vstat := c.vstat.extractLsb' 64 16 ++ v }
          ∧ puts 0x021 { c with vstat := v.extractLsb' 0 16 ++ c.vstat.extractLsb' 0 64 })
      ∧ puts 0x024 { c with gkey := v } ∧ puts 0x025 { c with gctr := c.gctr.extractLsb' 64 64 ++ v }
      ∧ puts 0x026 { c with gctr := v ++ c.gctr.extractLsb' 0 64 }
      ∧ (∀ k : Nat, 16 ≤ k → k < 64 →
          (free → v.toNat < 2 ^ 32 → ftValid (v.truncate 32) = true →
            puts (BitVec.ofNat 12 (0x40 + k)) { c with ft := c.ft.set k (v.truncate 32) })
          ∧ (2 ^ 32 ≤ v.toNat ∨ ftValid (v.truncate 32) = false → traps (BitVec.ofNat 12 (0x40 + k))))
      ∧ (∀ k : Nat, k < 16 → traps (BitVec.ofNat 12 (0x40 + k)))
      ∧ puts 0x085 { c with tvec := v &&& 0x800000000003FFFF } ∧ puts 0x086 { c with tsave0 := v } ∧ puts 0x087 { c with tsave1 := v }
      ∧ (c.trapst = true →
          puts 0x081 { c with frame := { c.frame with tpc := v &&& 0x3FFFF } }
          ∧ puts 0x082 { c with frame := { c.frame with ttgt := v } }
          ∧ puts 0x088 { c with rqsel := v.extractLsb' 0 3 } ∧ puts 0x089 { c with trsel := v.extractLsb' 0 5 }
          ∧ puts 0x08A { c with ring := c.ring.set ((c.frame.twp.toNat + c.trsel.toNat) % 256) v }
          ∧ (v.extractLsb' 8 2 ≠ 3 → puts 0x080 { c with frame := { c.frame with dslot := v.getLsbD 13, dxfer := v.extractLsb' 8 2 } })
          ∧ (v.extractLsb' 8 2 = 3 → puts 0x080 { c with frame := { c.frame with dslot := v.getLsbD 13 } }))
      ∧ (c.trapst = true → ∀ e, c.rq[c.rqsel.toNat]? = some e →
          let entry (x : Entry) : Context := { c with rq := c.rq.set c.rqsel.toNat x }
          puts 0x093 (entry { e with opa := v }) ∧ puts 0x094 (entry { e with opb := v }) ∧ puts 0x095 (entry { e with opc := v })
            ∧ puts 0x096 (entry { e with addr := v }))
      ∧ traps 0x090 ∧ traps 0x091 ∧ traps 0x092 ∧ traps 0x097
      ∧ (c.trapst = false → traps 0x080 ∧ traps 0x081 ∧ traps 0x08A ∧ traps 0x093)
      ∧ (384 ≤ s.cur →
          let does (n : BitVec 12) (s1 : State) : Prop :=
            Completes s t (.cwr a n) (keysOf [a] c) (s.after t (.cwr a n) s1)
          let protects (n : BitVec 12) : Prop :=
            ∀ u, s.canIssue t (.cwr a n) (keysOf [a] c) = true → exec (.cwr a n) s = .next u →
              ∃ (s1 : State) (info : Word), u = s1.syncTrap s.cur t cProtection info c.pc (s.nextPc s.cur c.pc (words (.cwr a n)))
          (v.getLsbD 4 = false ∨ Sparse.get false s.take (s.cur - 384) = false → does 0x100 s)
            ∧ (v.getLsbD 4 = true → ∃ s1, does 0x100 s1 ∧ Sparse.get false s1.take (s.cur - 384) = false ∧ s1.mem = s.mem
                ∧ s1.cores = s.cores)
            ∧ (s.role s.cur ≠ .standby →
              does 0x120 { s with jbase := v } ∧ does 0x122 { s with jtail := v.extractLsb' 0 11 }
              ∧ ((∀ e ∈ c.fly, e.isStore = false) → does 0x121 { s with jhead := v.extractLsb' 0 11 })
              ∧ ((∃ e ∈ c.fly, e.isStore = true) → Completes s t (.cwr a 0x121) (keysOf [a] c) (s.waits 0))
              ∧ (∀ k : Nat, k < 8 → ∃ s1, does (BitVec.ofNat 12 (0x110 + k)) s1 ∧ s1.mem = s.mem ∧ s1.cores = s.cores
                  ∧ ∀ q, q < 512 → (s1.queue t.part q).kick = ((s.queue t.part q).kick && !(q / 64 == k && v.getLsbD (q % 64))))
              ∧ traps 0x130)
            ∧ (s.role s.cur = .standby → protects 0x120 ∧ protects 0x121 ∧ protects 0x122
                ∧ ∀ k : Nat, k < 8 → protects (BitVec.ofNat 12 (0x110 + k))))
      ∧ ((∀ e ∈ c.fly, e.isLdt = false) → ∀ k : Fin 16,
          puts (BitVec.ofNat 12 (0xC0 + 2 * k.val)) (c.setDesc k ((c.desc k).extractLsb' 64 64 ++ v))
          ∧ puts (BitVec.ofNat 12 (0xC1 + 2 * k.val)) (c.setDesc k (v ++ (c.desc k).extractLsb' 0 64)))
      ∧ traps 0x000 ∧ traps 0x010 ∧ traps 0x013 ∧ traps 0x028 ∧ traps 0x0A9 ∧ traps 0xFFF)

/-- R220, R221, R222, R349: RQRD reads a doubleword of a replay-queue entry, 0 above the count, in trap state only; RQINJ of a
captured integer operation or load, or of VEXT, whose window is in the ring completes it, with the operands and the address
the entry holds now and with the bytes memory has now, and removes its entry, and later entries keep their order; a division
whose divisor is zero stays, with its cause. What the handler's own instructions and other captured ones order before the
load is no part of this. TLBINV drops the translations of the address, or of the context, and the sidecar lines held by them, and goes on once
no access of the context is in flight in its scope, clu outside a cluster being core (that every core's are dropped whatever the scope is log 49); IDLE
stops issue with its time and reason POWER_WAKE. -/
def Obligations.SystemInstructions : Prop :=
  ∀ (s : State) (t : Task) (a b : XReg) (all : Bool) (scope : Scope),
    let c := s.ctx
    let v := c.x b
    (c.trapst = true → v.toNat < 64 → Writes s t (.rqrd a b) (keysOf [a, b] c) a
        (match c.rq[v.toNat / 8]? with | some e => e.dword (v.toNat % 8) | none => 0))
      ∧ (c.trapst = false ∨ 64 ≤ v.toNat → Traps s t (.rqrd a b) (keysOf [a, b] c) cIllegal (word0 (.rqrd a b)))
      ∧ (∀ e d r, c.trapst = true → v.toNat < 8 → c.rq[v.toNat]? = some e → e.op = .toX d r → c.fly = [] →
          (∀ n, e.destPos = some n → c.lo ≤ n) →
          Completes s t (.rqinj b) (keysOf [b] c) (s.after t (.rqinj b)
            (s.setCtx { c.setXAt e.wpe d r with fly := [], rq := c.rq.take v.toNat ++ c.rq.drop (v.toNat + 1) })))
      ∧ (∀ e k d, c.trapst = true → v.toNat < 8 → c.rq[v.toNat]? = some e → e.op = .int k d → c.fly = [] →
          (∀ n, e.destPos = some n → c.lo ≤ n) →
          (k.divides = true → e.opc = 0 → Completes s t (.rqinj b) (keysOf [b] c) (s.after t (.rqinj b)
            (s.setCtx { c with rq := c.rq.set v.toNat { e with cause := BitVec.ofNat 8 cDivZero } })))
          ∧ (k.divides = false ∨ e.opc ≠ 0 → ∃ r : Word, Completes s t (.rqinj b) (keysOf [b] c) (s.after t (.rqinj b)
            (s.setCtx { c.setXAt e.wpe d r with fly := [], rq := c.rq.take v.toNat ++ c.rq.drop (v.toNat + 1) }))
            ∧ (match k with
              | .mul => r = e.opb * e.opc
              | .mulhs => r.toInt = e.opb.toInt * e.opc.toInt / 2 ^ 64
              | .mulhu => r.toNat = e.opb.toNat * e.opc.toNat / 2 ^ 64
              | .divs => r = if e.opb = BitVec.intMin 64 ∧ e.opc = -1 then e.opb
                  else BitVec.ofInt 64 (e.opb.toInt.tdiv e.opc.toInt)
              | .divu => r.toNat = e.opb.toNat / e.opc.toNat
              | .rems => r.toInt = e.opb.toInt.tmod e.opc.toInt
              | .remu => r.toNat = e.opb.toNat % e.opc.toNat)))
      ∧ (∀ e n sg d p, c.trapst = true → v.toNat < 8 → c.rq[v.toNat]? = some e → e.op = .load n sg d → c.fly = [] → c.susp = [] →
          (∀ x ∈ c.rq, x.hand = false) → e.msg = 0 → e.got = [] → t.clustered = false → 1 ≤ n → n ≤ 8 →
          (∀ i, e.destPos = some i → c.lo ≤ i) → s.checkAccess s.cur t e.addr n n .load = .ok p →
          (∀ j, j < n → p + j < hostMark ∧ isFw (p + j) = false) → s.poisonPast [] [⟨p, n, false⟩] = none →
          let w := s.natAt p n
          let r : Word := if sg = true ∧ 2 ^ (8 * n - 1) ≤ w then BitVec.ofInt 64 ((w : Int) - 2 ^ (8 * n)) else BitVec.ofNat 64 w
          ∃ u, Completes s t (.rqinj b) (keysOf [b] c) (s.after t (.rqinj b) u) ∧ u.mem = s.mem
            ∧ u.ctx = { c.setXAt e.wpe d r with fly := [], rq := c.rq.take v.toNat ++ c.rq.drop (v.toNat + 1) }
            ∧ ∀ j, j ≠ s.cur → u.core j = s.core j)
      ∧ (c.trapst = false ∨ c.rq.length ≤ v.toNat → Traps s t (.rqinj b) (keysOf [b] c) cIllegal (word0 (.rqinj b)))
      ∧ (let near := if t.clustered = false ∧ scope = .clu then .core else scope
          let hit (e : TlbEntry) : Bool :=
            e.part == t.part && e.ctx == t.ctx && (all || (decide (e.va ≤ v.toNat) && decide (v.toNat < e.va + e.size)))
          let u : State := ({ s with tlb := s.tlb.filter fun e => !hit e } : State).dropLines near s.cur (s.tlb.filter hit)
          ((∀ x ∈ u.cores, inScope near s.cur x.1 = true → x.2.accessing t.part t.ctx = false) →
              Completes s t (.tlbinv b all scope) (keysOf [b] c) (s.after t (.tlbinv b all scope) u))
            ∧ ((∃ x ∈ u.cores, inScope near s.cur x.1 = true ∧ x.2.accessing t.part t.ctx = true) →
              Completes s t (.tlbinv b all scope) (keysOf [b] c) (u.waits 0)))
      ∧ (c.xfer = none → Completes s t (.idle b) (keysOf [b] c)
          (let u := s.after t (.idle b) s
           u.setCtx { u.ctx with idle := some (v.extractLsb' 0 32), wait := BitVec.ofNat 4 wPowerWake }))

/-! ### Tile copies and streams (R145, R204 to R209) -/

/-- R204, R336: LDT whose descriptors pass its checks, and whose rows are accessible, joins the instructions in flight with the
runs of bytes of both tiles; a destination that is not a scratchpad or scratch tile, or rows that do not agree, trap
ILLEGAL_OP, and a source tag without a valid format FORMAT_TAG. While the page set of a scratch tile moves it waits with
reason NO_CAPABLE_PAGE. An LDT in flight completes: each byte of each destination row takes the byte of the source that its copy or
transposition names, as a load there reads it, and with it the mark of a poisoned line (R102, R427); where a row of 4-bit elements
ends in half a byte the other half stays; no other byte changes, and the destination's descriptor takes the source's tag. -/
def Obligations.TileCopyIssues : Prop :=
  (∀ (s : State) (t : Task) (a b : DReg) (scope : Scope) (tr : Transp) (xs ys : List Span),
    let c := s.ctx
    let da := c.desc a
    let db := c.desc b
    let w := containerOf c.ft (dTag db)
    let i : Instr := .ldt a b scope tr
    let ks := keyD a ++ keyD b
    let moving := ∃ d ∈ [da, db], dLvl d = 0 ∧ s.setMoving s.cur t.serial (dHandle d) = true
    (ldtCheck c.ft da db tr = none → t.clustered = false → ¬ moving →
        s.tileSpans s.cur t db (elemBytes (dCols db) w) .load = .ok xs →
        s.tileSpans s.cur t da (elemBytes (dCols da) w) .store = .ok ys →
        Completes s t i ks (s.launched t i (c.entry i (.ldt a b da db tr) 0 0 0 0 .plain scope (xs ++ ys))))
      ∧ (ldtCheck c.ft da db tr = none → moving → Completes s t i ks (s.waits wNoPage))
      ∧ (2 ≤ dLvl da ∨ dLvl db = 3 ∨ (tr = .none ∧ (dRows da ≠ dRows db ∨ dCols da ≠ dCols db)) →
          Traps s t i ks cIllegal (word0 i))
      ∧ (dLvl da = 1 → dBad db = false → tr = .none → dRows da = dRows db → dCols da = dCols db →
          classOf c.ft (dTag db) = .invalid → Traps s t i ks cFormatTag ((dTag db).zeroExtend 64)))
    ∧ ∀ (s : State) (core : CoreId) (k : Fin 8) (t : Task) (before after : List Entry) (e : Entry) (d r : DReg)
        (da db : BitVec 128) (tr : Transp) (xs ys : List Span),
      let c := s.bank core.val
      let w := containerOf c.ft (dTag db)
      let nbs := elemBytes (dCols db) w
      let nbd := elemBytes (dCols da) w
      let src := spanBytes xs
      let dest := spanBytes ys
      let half (j : Nat) : Prop := dCols da * w % 8 = 4 ∧ j + 1 = nbd
      c.task = some t → (s.core core.val).swapping = false → splitEntry c.fly k.val = some (before, e, after) →
      e.op = .ldt d r da db tr → e.spans = xs ++ ys → (∀ x ∈ xs, x.wr = false) → (∀ y ∈ ys, y.wr = true) →
      (∀ x ∈ xs ++ ys, x.place + x.n ≤ hostMark) → (∀ p ∈ dest, isLoft p = false) → dest.Nodup →
      src.length = dRows db * nbs → dest.length = dRows da * nbd → c.mayPerform (s.fstrOf t) e before = true →
      (∀ b ∈ before, b.isStore = false) ∨ (∀ p ∈ src, s.poisoned p 1 = false) → ldtCheck c.ft da db tr = none →
      ∃ u : State, exec (.variableLatencyComplete core k) s = .next u
        ∧ (∀ i j, i < dRows da → j < nbd →
            let q := dest.getD (i * nbd + j) 0
            let p := src.getD (if tr = .none then i * nbs + j else j / (w / 8) * nbs + i * (w / 8) + j % (w / 8)) 0
            (¬ half j → u.byteAt q = s.loadByte before p)
              ∧ (half j → u.byteAt q = BitVec.ofNat 8 ((s.loadByte before p).toNat % 16 + (s.byteAt q).toNat / 16 * 16))
              ∧ (s.poisoned p 1 = true → u.poisoned q 1 = true))
        ∧ (∀ q, isLoft q = false → q ∉ dest → u.byteAt q = s.byteAt q)
        ∧ (u.bank core.val).desc d = dSetTag (c.desc d) (dTag db) ∧ dTag ((u.bank core.val).desc d) = dTag db
        ∧ (u.bank core.val).fly = c.trim (before ++ after)
        ∧ ((∀ y ∈ ys, isSpad y.place = false) → ∀ j, j ≠ core.val → u.core j = s.core j)

/-- R205 to R209, R107: SBIND puts a stream with its configuration, descriptors and formats behind the streams of its generator,
of which there may be two, and of which a core's scoreboard holds 32 (R337), and otherwise waits with reason PORT_FULL; a
descriptor its checks refuse traps, and the task's generators give up the sidecar lines they hold. SGATE sets the gate of the
newest stream, and without one only goes on (log 73); SWAIT goes on once the generator has no stream, and waits with reason
BARRIER while one runs and with PEER_FAULT while every one waits for the driver. -/
def Obligations.StreamCommands : Prop :=
  ∀ (s : State) (t : Task) (pg : Sys2Proof.Gen) (b c : DReg) (cfg : StreamCfg) (rep : BitVec 32) (wtag : Tag) (p : PReg)
    (start : BitVec 32) (scope : Scope),
    let k := s.ctx
    let g := k.gen pg.val
    let i : Instr := .sbind pg b c cfg rep wtag
    let ks := keyD b ++ (if cfg.gath then keyD c else [])
    let x : Stream :=
      { cfg := cfg, tile := k.desc b, idx := if cfg.gath then k.desc c else 0, rep := rep.toNat, wtag := wtag,
        fts := k.ft, gate := 0xFFFF, gateFrom := 0, order := (s.core s.cur).engines, tokBits := 0, pos := [], taken := [],
        lines := [], fault := none, wait := 0, packBlk := none, packed := [], msg := 0, got := [], rows := [],
        packBad := false }
    let bare (y : Stream) : Stream := { y with lines := [] }
    (∀ cause info, x.check k s.cur (word0 i) = some (cause, info) → Traps s t i ks cause info)
      ∧ (x.check k s.cur (word0 i) = none → 2 ≤ g.streams.length ∨ 32 ≤ s.streamEntries s.cur → Completes s t i ks (s.waits wPortFull))
      ∧ (x.check k s.cur (word0 i) = none → g.streams.length < 2 → s.streamEntries s.cur < 32 → k.settling = false →
          let u := s.setCtx (k.dropLines.setGen pg.val { k.dropLines.gen pg.val with streams := g.streams.map bare ++ [x] })
          Completes s t i ks (s.after t i (u.setCore s.cur { u.core s.cur with engines := (u.core s.cur).engines + 1 })))
      ∧ (∀ j, k.dropLines.gen j = { k.gen j with streams := (k.gen j).streams.map bare })
      ∧ (g.streams = [] → Completes s t (.sgate pg p start) (keyP p) (s.after t (.sgate pg p start) s)
          ∧ Completes s t (.swait pg scope) [] (s.after t (.swait pg scope) s))
      ∧ (∀ y, g.streams = [y] → ((s.ctxInfo t.part t.ctx).compat.getD 0).getLsbD 1 = false →
          Completes s t (.sgate pg p start) (keyP p) (s.after t (.sgate pg p start)
            (s.setCtx (k.setGen pg.val { g with streams := [{ y with gate := k.pred p, gateFrom := start.toNat }] }))))
      ∧ (∀ y ∈ g.streams, y.fault = none → Completes s t (.swait pg scope) [] (s.waits wBarrier))
      ∧ (g.streams ≠ [] → (∀ y ∈ g.streams, ∃ f, y.fault = some f ∧ f.asked = true) →
          Completes s t (.swait pg scope) [] (s.waits wPeerFault))

/-! ### Fabric blocks (R134, R210 to R215) -/

/-- R211, R333, R335, R336, R341: FLOAD of a block the checks accept loads it into its handle: behind the current block if that
has the same page-set size, else as the current one, in the page set the handle has or one placed at the first free rectangle
of the die, which with no other FLOAD waiting and no move under way is the first that no page set touches. A page set of
another size is given up first, once the task's accesses have performed. A block that does
not exist or breaks a rule traps ILLEGAL_OP, as does one of another size behind a current block; a claim above the task's
quota traps PROTECTION; while no rectangle is free and cleared
it joins the FLOADs that wait, for which the allocator compacts, with reason NO_CAPABLE_PAGE, as it does while its page set is
being moved; with two blocks in the handle it waits with reason BARRIER. -/
def Obligations.BlockLoads : Prop :=
  ∀ (s : State) (t : Task) (h : Hnd) (index : BitVec 16) (p : Prog),
    let c := s.ctx
    let hd := c.handle h.val
    let i : Instr := .fload h index
    let w := p.pw + 1
    let ht := p.ph + 1
    let free := c.slotsHeld h.val &&& p.edgeClaims = 0
    let load (u : State) : State := u.loadBlock s.cur h.val index.toNat p
    let die := s.cur / 32
    let place := s.rectFor die s.cur h.val w ht
    let moving := s.setMoving s.cur t.serial h.val
    (s.blockImage t index.toNat = none → Traps s t i [] cIllegal (word0 i))
      ∧ (s.blockImage t index.toNat = some p →
        (p.ok = false → Traps s t i [] cIllegal (word0 i))
        ∧ (p.ok = true → moving = true → Completes s t i [] (s.waits wNoPage))
        ∧ (p.ok = true → moving = false → hd.cur.isSome = true → hd.next.isSome = true → Completes s t i [] (s.waits wBarrier))
        ∧ (∀ q, p.ok = true → moving = false → hd.next = none → hd.pset = some q → q.w = w → q.h = ht → free → c.settling = false →
            c.pagesUsed h.val + w * ht ≤ t.quota → Completes s t i [] (s.after t i (load s)))
        ∧ (p.ok = true → moving = false → hd.cur = none → hd.pset = none → free → c.pagesUsed h.val + w * ht ≤ t.quota →
            c.settling = false →
            ((s.die die).waits = [] → (s.die die).moves = [] →
              place = (origins w ht).find? fun o => (rectPages o.1 o.2 w ht).all (s.vacant die))
            ∧ (∀ o, place = some o → (rectPages o.1 o.2 w ht).all (s.cleared die) = true →
              Completes s t i [] (s.after t i (load (s.placeAt s.cur t.serial h.val o.1 o.2 w ht))))
            ∧ ((place = none ∨ ∃ o, place = some o ∧ (rectPages o.1 o.2 w ht).all (s.cleared die) = false) →
              Completes s t i []
                (((s.joinWaits die s.cur t.serial h.val w ht).compact die s.cur h.val w ht).waits wNoPage)))
        ∧ (∀ q, p.ok = true → moving = false → hd.cur.isSome = true → hd.next = none → hd.pset = some q →
            ¬ (q.w = w ∧ q.h = ht) → Traps s t i [] cIllegal (word0 i))
        ∧ (∀ q, p.ok = true → moving = false → hd.cur = none → hd.pset = some q → ¬ (q.w = w ∧ q.h = ht) → free →
            c.pagesUsed h.val + w * ht ≤ t.quota →
            let s1 := (s.freePset die q).setCtx (c.setHandle h.val { hd with pset := none })
            (c.settling = true → Completes s t i [] (s.waits 0))
            ∧ (c.settling = false →
              (∀ o, s1.rectFor die s.cur h.val w ht = some o → (rectPages o.1 o.2 w ht).all (s1.cleared die) = true →
                Completes s t i [] (s.after t i (load (s1.placeAt s.cur t.serial h.val o.1 o.2 w ht))))
              ∧ ((s1.rectFor die s.cur h.val w ht = none
                  ∨ ∃ o, s1.rectFor die s.cur h.val w ht = some o ∧ (rectPages o.1 o.2 w ht).all (s1.cleared die) = false) →
                Completes s t i []
                  (((s1.joinWaits die s.cur t.serial h.val w ht).compact die s.cur h.val w ht).waits wNoPage))))
        ∧ (p.ok = true → moving = false → hd.cur = none → (¬ free ∨ t.quota < c.pagesUsed h.val + w * ht) → ∀ u,
            s.canIssue t i [] = true → exec i s = .next u →
            ∃ (s1 : State) (info : Word), u = s1.syncTrap s.cur t cProtection info c.pc (s.nextPc s.cur c.pc (words i))))

/-- R134, R212 to R215, R336: FSTART arms the loaded block with its trip counts, formats and draw key, and gives it a stretch of
2^32 draws, and waits with reason NO_CAPABLE_PAGE while its page set is being moved; FBAR opens a new phase, and the task's generators give up their sidecar lines; FWAIT goes on when no
block its mask names is started and not complete, and else waits with reason BARRIER, or with PEER_FAULT where every such block
is frozen for the driver; FRESTART sets a frozen block running again from its restart point, that of the next block where only that one is frozen (log 71),
and traps ILLEGAL_OP without one;
FQRY reads an item of a handle. -/
def Obligations.BlockCommands : Prop :=
  ∀ (s : State) (t : Task) (h : Hnd) (a : XReg) (item : BitVec 4) (scope : Scope) (mask : BitVec 8) (b : Block) (nxt : Bool),
    let c := s.ctx
    let hd := c.handle h.val
    let startKeys := keysOf b.prog.regs c ++ (b.prog.bufs.filter bufDsrc).flatMap fun w => keyD (bufReg w)
    let moving := s.setMoving s.cur t.serial h.val
    (moving = false → hd.startable = some (nxt, b) → c.startCheck s.cur h.val b.prog (word0 (.fstart h)) = none →
        c.settling = false →
        Completes s t (.fstart h) startKeys (s.after t (.fstart h) (s.setCtx
          { c.setBlock h.val nxt (c.started b (if b.prog.hasMatrix then (c.x (regOf (b.prog.nsrc.toNat % 64))).toNat else 0)) with gctr := c.gctr + 0x100000000 })))
      ∧ (moving = true → hd.startable = some (nxt, b) → Completes s t (.fstart h) startKeys (s.waits wNoPage))
      ∧ (moving = false → hd.startable = none → Traps s t (.fstart h) [] cIllegal (word0 (.fstart h)))
      ∧ (∀ cause info, moving = false → hd.startable = some (nxt, b) → c.startCheck s.cur h.val b.prog (word0 (.fstart h)) = some (cause, info) →
          Traps s t (.fstart h) startKeys cause info)
      ∧ Completes s t (.fbar scope) [] (s.after t (.fbar scope) (s.setCtx { c.dropLines with phase := c.phase + 1 }))
      ∧ ((∀ e ∈ c.blocks, mask.getLsbD e.1 = true → e.2.2.st = .loaded) →
          Completes s t (.fwait scope mask) [] (s.after t (.fwait scope mask) s))
      ∧ (∀ e ∈ c.blocks, mask.getLsbD e.1 = true → e.2.2.st = .running →
          (∀ g, g < 4 → ∀ y ∈ (c.gen g).streams, y.isCut = false) → Completes s t (.fwait scope mask) [] (s.waits wBarrier))
      ∧ ((∃ e ∈ c.blocks, mask.getLsbD e.1 = true ∧ e.2.2.st ≠ .loaded) →
          (∀ e ∈ c.blocks, mask.getLsbD e.1 = true → e.2.2.st ≠ .loaded → e.2.2.st = .frozen ∧ e.2.2.told = false) →
          Completes s t (.fwait scope mask) [] (s.waits wPeerFault))
      ∧ (hd.frozen = some (nxt, b) →
          Completes s t (.frestart h) [] (s.after t (.frestart h) (s.restart s.cur t h.val nxt b))
          ∧ (b.copies = [] → ∃ u, Completes s t (.frestart h) [] (s.after t (.frestart h) u)
              ∧ (u.ctx.handle h.val).block nxt = some { b with st := .running, trap := none, told := false, refill := true }))
      ∧ (hd.frozen = none → Traps s t (.frestart h) [] cIllegal (word0 (.frestart h)))
      ∧ Writes s t (.fqry a h item) (keysOf [a] c) a
          (if item = 0 then
            BitVec.ofNat 64 (Machine.optCode hd.cur + Machine.optCode hd.next * 2 ^ 3 + (match hd.cur with
              | some b => (match b.trap with | some x => if b.st = .frozen then x.cause else 0 | none => 0)
              | none => 0) * 2 ^ 8)
           else match hd.cur with | some b => BitVec.ofNat 64 (b.item item.toNat) | none => 0)

/-! ### Copies and barrier objects (R109 to R111, R216, R217) -/

/-- R109 to R111, R216: ACOPY of n bytes takes a free copy slot with its addresses, count and completion word; a copy of no
byte is credited or signalled at once. A count above 32 bits or overlapping ranges trap ILLEGAL_OP, a misaligned completion
word MISALIGNED, one outside the own scratchpad and the cluster window PROTECTION; with every slot taken it waits with
reason COPY_SLOTS. -/
def Obligations.CopiesIssue : Prop :=
  ∀ (s : State) (t : Task) (a b c e : XReg) (f : Option XReg) (scope : Scope) (disp : BitVec 32),
    let x := s.ctx
    let dst := x.x a
    let src := x.x b
    let n := (x.x c).toNat
    let w : Word := x.x e + disp.signExtend 64
    let u := if f.isSome then 8 else 16
    let i : Instr := .acopy a b c e f scope disp
    let ks := keysOf ([a, b, c, e] ++ f.toList) x
    let k := s.core s.cur
    let apart := n ≤ (dst - src).toNat ∧ n ≤ (src - dst).toNat
    let cp (p : Nat) : Copy := ⟨t.serial, t.part, t.ctx, t.clustered, t.graph, t.load, src, dst, n, f.map x.x, p, scope, 0,
      .moving, k.engines, none, 0, [], 0, [], []⟩
    (2 ^ 32 ≤ n ∨ ¬ apart → Traps s t i ks cIllegal (word0 i))
      ∧ (n < 2 ^ 32 → apart → w.toNat % u ≠ 0 → Traps s t i ks cMisaligned w)
      ∧ (n < 2 ^ 32 → apart → w.toNat % u = 0 → 0x1400000 ≤ w.toNat → Traps s t i ks cProtection w)
      ∧ (∀ p, n < 2 ^ 32 → apart → w.toNat % u = 0 → w.toNat < 0x1400000 → oneWindow src n = true → oneWindow dst n = true →
          s.checkAccess s.cur t w u u .store = .ok p →
          (∀ j, j < 512 → (Sparse.find k.copies j).isNone = true → (∀ m, m < j → (Sparse.find k.copies m).isSome = true) →
            x.settling = false →
            (n = 0 → Completes s t i ks (s.after t i (s.creditCopy (cp p))))
            ∧ (n ≠ 0 → Completes s t i ks (s.after t i
                (s.setCore s.cur { k with copies := k.copies.set j (cp p), engines := k.engines + 1 }))))
          ∧ ((∀ m, m < 512 → (Sparse.find k.copies m).isSome = true) →
              Completes s t i ks (s.waits wCopySlots)))

/-- R110, R217: BINIT, BEXPECT and BWAIT on a barrier object of sixteen bytes. BINIT sets it up, BEXPECT raises NEED and arms
it; when CREDIT reaches NEED the generation advances and NEED is taken from CREDIT. BWAIT goes on once the generation has
reached the named one, modulo 2^16, and else waits with reason BARRIER. -/
def Obligations.BarrierObjects : Prop :=
  ∀ (s : State) (t : Task) (b c : XReg) (disp : BitVec 32) (scope : Scope),
    let x := s.ctx
    let v := x.x c
    let ea : Word := x.x b + disp.signExtend 64
    let ks := keysOf [b, c] x
    let s1 := s.markRemote s.cur t ea.toNat
    let old (p : Nat) : BarObj := BarObj.ofBits (s.natAt p 16)
    let settle (o : BarObj) : BarObj :=
      if o.armed = true ∧ o.need.toNat ≤ o.credit.toNat then ⟨o.gen + 1, o.credit - o.need, false, 0⟩ else o
    let put (i : Instr) (p : Nat) (o : BarObj) : Prop :=
      Completes s t i ks (s.after t i (s1.writeNat p
        (o.gen.toNat * 2 ^ 112 + o.credit.toNat * 2 ^ 64 + o.armed.toNat * 2 ^ 48 + o.need.toNat) 16))
    let n := v.extractLsb' 0 48
    let first := x.fly = [] ∧ ∀ y ∈ x.rq ++ x.susp, x.trapst = true ∧ y.hand = false
    (2 ^ 48 ≤ v.toNat → Traps s t (.binit b c disp scope) ks cIllegal (word0 (.binit b c disp scope))
        ∧ Traps s t (.bexpect b c disp scope) ks cIllegal (word0 (.bexpect b c disp scope)))
      ∧ (2 ^ 16 ≤ v.toNat → Traps s t (.bwait b c disp scope) ks cIllegal (word0 (.bwait b c disp scope)))
      ∧ (v.toNat < 2 ^ 16 → ea.toNat % 16 ≠ 0 → Traps s t (.binit b c disp scope) ks cMisaligned ea
          ∧ Traps s t (.bexpect b c disp scope) ks cMisaligned ea ∧ Traps s t (.bwait b c disp scope) ks cMisaligned ea)
      ∧ (∀ p, v.toNat < 2 ^ 48 → ea.toNat % 16 = 0 → ea.toNat < 0x1400000 → first →
          (s.checkAccess s.cur t ea 16 16 .atomic = .ok p → s.poisonPast [] [⟨p, 16, false⟩] = none →
            put (.binit b c disp scope) p ⟨0, 0, decide (n ≠ 0), n⟩
            ∧ put (.bexpect b c disp scope) p (settle { old p with need := (old p).need + n, armed := true }))
          ∧ (s.checkAccess s.cur t ea 16 16 .load = .ok p → s.poisonPast [] [⟨p, 16, false⟩] = none → v.toNat < 2 ^ 16 →
            (((old p).gen.toNat + 2 ^ 16 - v.toNat) % 2 ^ 16 < 2 ^ 15 →
                Completes s t (.bwait b c disp scope) ks (s.after t (.bwait b c disp scope) s1))
            ∧ (2 ^ 15 ≤ ((old p).gen.toNat + 2 ^ 16 - v.toNat) % 2 ^ 16 → (∀ y ∈ s.cores, y.2.copies = []) →
                Completes s t (.bwait b c disp scope) ks (s1.waits wBarrier))))

/-! ### Column operations (R244 to R290) -/

/-- R34, R35, R49, R246, R247, R252 to R254: the integer and logic operations of a column take their operands and tokens,
and have their result one cycle later, QMUL two and QMAC three: wrapped to 32 bits or clamped under SAT; an operand empty
under the forward policy forwards an empty result; an operand that traps leaves the fabric trap. -/
def Obligations.ColumnIntegerOperations : Prop :=
  ∀ (s : State) (i : Instr) (f : Fab), s.fabOf i = some f →
    let gone (ep : Ep) (xs : List Opnd) : Bool := ep == .forward && xs.any Opnd.empty
    let put (o : QOp2) (lat : Nat) (tag : Tag) (v : Half) (xs : List Opnd) : Prop :=
      Runs s i ((f.consume i).give lat o.dst v fullMask tag (gone o.ep xs))
    let int2 (o : QOp2) (ident : Tag → Half) (v : Half → Half → Half) : Prop :=
      (∀ x y, f.opnds o.ep ident (fun _ => f.okInt) [(o.s1, o.xoff), (o.s2, 0)] = .ok [x, y] →
        ((o.ep = .forward ∧ (x.empty = true ∨ y.empty = true)) → Runs s i ((f.consume i).give 1 o.dst 0 fullMask 3 true))
        ∧ (¬ (o.ep = .forward ∧ (x.empty = true ∨ y.empty = true)) → put o 1 3 (v x.val y.val) [x, y]))
      ∧ ∀ e, f.opnds o.ep ident (fun _ => f.okInt) [(o.s1, o.xoff), (o.s2, 0)] = .error e → Fails s i f e
    let bit2 (o : QOp2) (ident : Half) (v : Half → Half → Half) : Prop :=
      ∀ x y, f.opnds o.ep (fun _ => ident) (fun _ => f.okAny) [(o.s1, o.xoff), (o.s2, 0)] = .ok [x, y] →
        put o 1 0 (v x.val y.val) [x, y]
    let clampS (x : Int) : Half := BitVec.ofInt 32 (max (-(2 ^ 31)) (min x (2 ^ 31 - 1)))
    let clampU (x : Int) : Half := BitVec.ofInt 32 (max 0 (min x (2 ^ 32 - 1)))
    let shift (o : QOp1) (v : Half → Nat → Half) (mk : QAmount → Instr) : Prop :=
      (∀ q x y, i = mk (.src q) → f.opnds o.ep (fun _ => 0) (fun _ => f.okAny) [(o.s1, o.xoff), (q, 0)] = .ok [x, y] →
          Runs s i ((f.consume i).give 1 o.dst (v x.val (y.val.toNat % 32)) fullMask 0 (gone o.ep [x, y])))
        ∧ ∀ n x, i = mk (.imm n) → f.opnds o.ep (fun _ => 0) (fun _ => f.okAny) [(o.s1, o.xoff)] = .ok [x] →
          Runs s i ((f.consume i).give 1 o.dst (v x.val n.toNat) fullMask 0 (gone o.ep [x]))
    (∀ o, (i = .qadd o .wrap → int2 o (fun _ => 0) fun x y => x + y)
        ∧ (i = .qadd o .signed → int2 o (fun _ => 0) fun x y => clampS (x.toInt + y.toInt))
        ∧ (i = .qadd o .unsigned → int2 o (fun _ => 0) fun x y => clampU (x.toNat + y.toNat))
        ∧ (i = .qsub o .wrap → int2 o (fun _ => 0) fun x y => x - y)
        ∧ (i = .qsub o .signed → int2 o (fun _ => 0) fun x y => clampS (x.toInt - y.toInt))
        ∧ (i = .qsub o .unsigned → int2 o (fun _ => 0) fun x y => clampU ((x.toNat : Int) - y.toNat))
        ∧ (i = .qmin o false → int2 o (extreme f.b.fts false true) fun x y => if x.toInt < y.toInt then x else y)
        ∧ (i = .qmin o true → int2 o (extreme f.b.fts true true) fun x y => if x.toNat < y.toNat then x else y)
        ∧ (i = .qmax o false → int2 o (extreme f.b.fts false false) fun x y => if x.toInt < y.toInt then y else x)
        ∧ (i = .qmax o true → int2 o (extreme f.b.fts true false) fun x y => if x.toNat < y.toNat then y else x)
        ∧ (i = .qcmp o .eq → int2 o (fun _ => 0) fun x y => if x = y then 1 else 0)
        ∧ (i = .qcmp o .lt → int2 o (fun _ => 0) fun x y => if x.toInt < y.toInt then 1 else 0)
        ∧ (i = .qcmp o .leu → int2 o (fun _ => 0) fun x y => if x.toNat ≤ y.toNat then 1 else 0)
        ∧ (i = .qand o → bit2 o 0xFFFFFFFF (· &&& ·)) ∧ (i = .qor o → bit2 o 0 (· ||| ·)) ∧ (i = .qxor o → bit2 o 0 (· ^^^ ·))
        ∧ (i = .qmul o .wrap → ∀ x y,
            f.opnds o.ep (fun _ => 0) f.okMul [(o.s1, o.xoff), (o.s2, 0)] = .ok [x, y] →
            put o 2 3 (BitVec.ofInt 32 (packedElem x.val (2 * fcwDa f.fcw) 0 (fcwSa f.fcw)
              * packedElem y.val (2 * fcwDb f.fcw) 0 (fcwSb f.fcw))) [x, y]))
      ∧ (∀ o, (∃ n, i = .qshl o n) → shift o (fun x n => x <<< n) (.qshl o))
      ∧ (∀ o, (∃ n, i = .qshr o n) → shift o (fun x n => x >>> n) (.qshr o))
      ∧ (∀ o, (∃ n, i = .qsra o n) → shift o (fun x n => BitVec.ofInt 32 (x.toInt / 2 ^ n)) (.qsra o))
      ∧ (∀ o x y z,
          (i = .qmac o .wrap → f.opnds o.ep (fun _ => 0) f.okMul [(o.s1, o.xoff), (o.s2, 0), (o.s3, 0)] = .ok [x, y, z] →
            Runs s i ((f.consume i).give 3 o.dst
              (BitVec.ofInt 32 (z.val.toInt + mulSum f.fcw x.val y.val (macTerms f.fcw))) fullMask 3 (gone o.ep [x, y, z])))
          ∧ (i = .qmac o .signed → f.opnds o.ep (fun _ => 0) f.okMul [(o.s1, o.xoff), (o.s2, 0), (o.s3, 0)] = .ok [x, y, z] →
            Runs s i ((f.consume i).give 3 o.dst
              (clampS (z.val.toInt + mulSum f.fcw x.val y.val (macTerms f.fcw))) fullMask 3 (gone o.ep [x, y, z])))
          ∧ (i = .qsel o →
            f.opnds o.ep (fun _ => 0) (fun _ => f.okAny) [(o.s1, o.xoff), (o.s2, 0), (o.s3, 0)] = .ok [x, y, z] →
            let r := if z.val = 0 then y else x
            Runs s i ((f.consume i).give 1 o.dst r.val fullMask r.tag (gone o.ep [x, y, z]))))

/-- R49, R246, R247, R255 to R257: the binary32 operations of a column take operands under FT5 and have their FT5 result
four cycles later, QFMIN and QFMAX one, whose identities are the infinities (log 27); QCVT writes one converted element two cycles later and leaves the other bits of the
register, and traps CONVERT_OVERFLOW where OV asks for it; QMOV moves a word, changes its tag, or writes part of a
constant. -/
def Obligations.ColumnFloatAndMoves : Prop :=
  ∀ (s : State) (i : Instr) (f : Fab), s.fabOf i = some f →
    let gone (ep : Ep) (xs : List Opnd) : Bool := ep == .forward && xs.any Opnd.empty
    let float2 (o : QOp2) (lat : Nat) (ident : Half) (v : Half → Half → Half) : Prop :=
      ∀ x y, f.opnds o.ep (fun _ => ident) (fun _ t => t == 5) [(o.s1, o.xoff), (o.s2, 0)] = .ok [x, y] →
        Runs s i ((f.consume i).give lat o.dst (v x.val y.val) fullMask 5 (gone o.ep [x, y]))
    (∀ o rm, (i = .qfadd o rm → float2 o 4 0 fun x y => (f32Add rm x y).1)
        ∧ (i = .qfmul o rm → float2 o 4 0 fun x y => (f32Mul rm x y).1)
        ∧ (i = .qfmin o → float2 o 1 0x7F800000 fun x y => (f32Min x y).1)
        ∧ (i = .qfmax o → float2 o 1 0xFF800000 fun x y => (f32Max x y).1))
      ∧ (∀ o rm x y z, i = .qfma o rm →
          f.opnds o.ep (fun _ => 0) (fun _ t => t == 5) [(o.s1, o.xoff), (o.s2, 0), (o.s3, 0)] = .ok [x, y, z] →
          Runs s i ((f.consume i).give 4 o.dst (f32Fma rm false z.val x.val y.val).1 fullMask 5 (gone o.ep [x, y, z])))
      ∧ (∀ o t rm ov ds ss x fs fd, i = .qcvt o t rm ov ds ss → x.empty = false →
          let ws := containerOf f.b.fts x.tag
          let wd := containerOf f.b.fts t
          f.opnds o.ep (fun _ => 0) (fun _ g => (cvtSource f.b.fts g).isSome && decide (ss.toNat < 32 / containerOf f.b.fts g))
              [(o.s1, o.xoff)] = .ok [x] →
          cvtSource f.b.fts x.tag = some fs → fmtOf f.b.fts t = some fd → ds.toNat < 32 / wd →
          let y := convert (fs.decode (x.val.toNat / 2 ^ (ws * ss.toNat) % 2 ^ ws)) fd rm ov 0
          ((y.ovf = false ∨ ov ≠ .trap) → Runs s i ((f.consume i).give 2 o.dst
              (BitVec.ofNat 32 (y.bits % 2 ^ wd * 2 ^ (wd * ds.toNat))) (BitVec.ofNat 32 ((2 ^ wd - 1) * 2 ^ (wd * ds.toNat))) t false))
          ∧ (y.ovf = true → ov = .trap → Fails s i f (cConvert, 1 <<< f.w.lane)))
      ∧ (∀ h d ep s1 xoff t x, f.opnds ep (fun _ => 0) (fun _ => f.okAny) [(s1, xoff)] = .ok [x] →
          (i = .qmov h d (.move s1 xoff) ep → Runs s i ((f.consume i).give 1 d x.val fullMask x.tag (gone ep [x])))
          ∧ (i = .qmov h d (.tag s1 xoff t) ep → Runs s i ((f.consume i).give 1 d x.val fullMask t (gone ep [x]))))
      ∧ (∀ h d ep (imm : BitVec 12) (b : BitVec 8),
          (i = .qmov h d (.lo imm) ep → Runs s i (f.give 1 d (imm.signExtend 32) fullMask 3 false))
          ∧ (i = .qmov h d (.mid imm) ep → Runs s i (f.give 1 d (imm.zeroExtend 32 <<< 12) 0x00FFF000 3 false))
          ∧ (i = .qmov h d (.hi b) ep → Runs s i (f.give 1 d (b.zeroExtend 32 <<< 24) 0xFF000000 3 false)))

/-- R40, R48, R49, R248, R258 to R264: QNOP does nothing; QRECV takes or peeks a token; the first token of a row whose index is out of range raises PROTECTION at the word that takes it (R207); QSEND sends one, an
empty one where its gate is 0 or E is set, and traps where S1 or the gate register has a tag that is not accepted; QEMPTY tests for an empty one; QITER gives an index of its iteration or its number; QLANE and
QBCAST read a register of another lane; QREDL combines the lanes from 0 up to its own. -/
def Obligations.ColumnPortsAndLanes : Prop :=
  ∀ (s : State) (i : Instr) (f : Fab), s.fabOf i = some f →
    let l := f.w.lane
    let back (k : Int) : Nat := (((l : Int) - k) % 16).toNat
    let moved (d : QDst) (c : Half × Tag) : Prop :=
      (f.okAny c.2 = true → Runs s i (f.give 1 d c.1 fullMask c.2 false))
        ∧ (f.okAny c.2 = false → Fails s i f (cFormatTag, c.2.zeroExtend 64))
    (∀ h, i = .qnop h → Runs s i f)
      ∧ (∀ h r p peek ep x, i = .qrecv h (some r) p peek ep →
          f.opnds ep (fun _ => 0) (fun _ => f.okAny) [(.inp p, 0)] = .ok [x] →
          Runs s i ((if peek then f else f.pop p.val 1).give 1 (.cell r) x.val fullMask x.tag
            (ep == .forward && x.empty)))
      ∧ (∀ e p k tok, f.b.prog.feeder f.w.tile p = some e → e.src.kind = 1 →
          (laneList (f.gen e.src.idx).rx l)[k]? = some tok →
          (tok.row = .first → f.peek p l k = .error (cProtection, 0)) ∧ (tok.row ≠ .first → f.peek p l k = .ok tok))
      ∧ (∀ h p s1 e xoff ep x, i = .qsend h p s1 none e xoff ep →
          f.opnds ep (fun _ => 0) (fun _ => f.okAny) [(s1, xoff)] = .ok [x] →
          Runs s i ((f.consume i).give 1 (.out p) x.val fullMask x.tag (e || (ep == .forward && x.empty))))
      ∧ (∀ h p s1 c e xoff ep, i = .qsend h p s1 (some c) e xoff ep →
          (∀ x g, f.opnds ep (fun _ => 0) (fun _ => f.okAny) [(s1, xoff), (.cell c, 0)] = .ok [x, g] →
            Runs s i ((f.consume i).give 1 (.out p) x.val fullMask x.tag (e || g.val == 0 || (ep == .forward && x.empty))))
          ∧ ∀ y, f.opnds ep (fun _ => 0) (fun _ => f.okAny) [(s1, xoff), (.cell c, 0)] = .error y → Fails s i f y)
      ∧ (∀ h r p c tok, i = .qempty h (some r) p c → f.head p.val = .ok tok →
          Runs s i ((if c then f.pop p.val 1 else f).give 1 (.cell r) (if tok.empty then 1 else 0) fullMask 3 false))
      ∧ (∀ h d item, i = .qiter h d item →
          (item.toNat < 4 → Runs s i (f.give 1 d (BitVec.ofNat 32 (f.w.iv.getD item.toNat 0)) fullMask 3 false))
          ∧ (4 ≤ item.toNat → Runs s i (f.give 1 d (BitVec.ofNat 32 f.w.init) fullMask 3 false)))
      ∧ (∀ h d c xoff z, i = .qlane h d c xoff z →
          (z = true → (l : Int) - xoff.toInt < 0 ∨ 15 < (l : Int) - xoff.toInt → moved d (0, 0))
          ∧ ((z = false ∨ (0 ≤ (l : Int) - xoff.toInt ∧ (l : Int) - xoff.toInt ≤ 15)) → moved d (f.cell (back xoff.toInt) c.val)))
      ∧ (∀ h d c k, i = .qbcast h d c k → moved d (f.cell k.toNat c.val))
      ∧ (∀ h d s1 rm ep x, i = .qredl h d s1 .add rm ep → (ep = .forward → x.empty = false) →
          f.opnds ep (fun _ => 0) (fun _ => f.okInt) [(s1, 0)] = .ok [x] →
          ∃ r : Half, (l = 0 → r = x.val) ∧ (∀ y, l ≠ 0 → Sparse.find f.b.red f.w.redKey = some y → r = y + x.val)
            ∧ Runs s i ((let g := f.consume i; { g with b := { g.b with red := g.b.red.set f.w.redKey r } }).give 1 d r fullMask 3 false))

/-- R69, R76, R79, R265 to R290: QSCALE writes a weight scale or the tensor scales; QDRAIN rounds accumulators to
the format of the stream on its port and sends them, said here of FT5, and it and QRDRAIN trap TIMING where the port has no stream
(log 31); what a QTSTEP adds is said of the operations its steps go through (log 30); QTSTEP, QRSYM, QRLOAD and QRDRAIN run in their
lane, and where they meet several causes the one that R251 puts first counts. An entry that QRLOAD writes is
there, and final, from the end of the cycle on. -/
def Obligations.ColumnTileOperations : Prop :=
  ∀ (s : State) (i : Instr) (f : Fab), s.fabOf i = some f →
    (∀ h s1 x, i = .qscale h (.lane s1) → f.opnds .absorb (fun _ => 0) (fun _ t => t == 13) [(s1, 0)] = .ok [x] →
        Runs s i ((f.consume i).giveStage 4 0 x.val 13))
      ∧ (∀ h p, i = .qscale h (.tensor p) →
          Runs s i ((f.giveStage 5 0 (f.tensorScale p.toNat) 5).giveStage 5 1 (f.tensorScale 4) 5))
      ∧ (∀ h p n0 g ov rm pk, i = .qdrain h p n0 g ov rm pk →
          (f.outTag p.val = none → Fails s i f (cTiming, 0))
          ∧ (f.outTag p.val = some 5 → f.slots p.val = 2 →
              let y := tunDrain (f.tun (16 * g.toNat + n0.toNat)) Fmt.fp32 rm ov (f.draw f.drainCount) (f.drainScale 0) (f.drainScale 1)
              (y.ovf = false ∨ ov ≠ .trap → Runs s i ((f.countDrained 1).sendAt (f.b.cyc + 1) p.val (y.bits % 2 ^ 32) 5 pk))
              ∧ (y.ovf = true → ov = .trap → Fails s i f (cConvert, 1 <<< f.w.lane))))
      ∧ (∀ h p rep gb na lb za f2 f3 j2, i = .qtstep h p rep gb na lb za → f.b.job f.w = none → f.w.rel = 0 →
          let j : Job := ⟨f.w, p.val, rep.toNat + 1, gb.toNat, na.toNat + 1, lb, za, f.interval, [], [], []⟩
          let f1 : Fab := { f with b := { f.b with jobs := f.b.jobs ++ [j] } }
          (∀ e, f1.stepStart j = .error e →
            (∀ g, f1.stepTake j = .ok g → Fails s i f e)
            ∧ ∀ e2, f1.stepTake j = .error e2 → Fails s i f (if causeRank e2.1 < causeRank e.1 then e2 else e))
          ∧ (f1.stepStart j = .ok f2 → f2.b.job f2.w = some j2 → 0 < j2.rep * j2.interval →
              (∀ e, f2.stepTake j2 = .error e → Fails s i f e) ∧ (f2.stepTake j2 = .ok f3 → Runs s i f3.addDue)))
      ∧ (∀ h tok, i = .qrsym h → f.peek 0 f.w.lane 0 = .ok tok →
          let word : Half := if tok.empty then 0 else BitVec.ofNat 32 (tok.val.toNat / 2 ^ (32 * f.w.col))
          (tok.rsym = false → Fails s i f (cProtection, 0))
          ∧ (∀ g, tok.rsym = true → f.parseWord word = .ok g → Runs s i (if f.w.col = 3 then g.pop 0 1 else g))
          ∧ (tok.rsym = true → Sparse.find f.b.parse f.laneKey = none → word.toNat % 2 ^ 16 = 0 → Fails s i f (cRuleOrder, 0)))
      ∧ (∀ h p e0 tok e, i = .qrload h p e0 → f.peek p.val f.w.lane 0 = .ok tok → f.b.prog.feeder f.w.tile p.val = some e →
          let k := e0.toNat + f.w.init
          (tok.tag ≠ 14 ∨ e.slots ≠ 4 → Fails s i f (cFormatTag, tok.tag.zeroExtend 64))
          ∧ (tok.tag = 14 → e.slots = 4 → tok.rsym = true ∨ 1024 ≤ k → Fails s i f (cProtection, 0))
          ∧ (tok.tag = 14 → e.slots = 4 → tok.rsym = false → k < 1024 →
              let g := f.pop p.val 1
              let v : Word := if tok.empty then 0 else tok.val.truncate 64
              Runs s i { g with b := { g.b with
                pend := g.b.pend ++ [.rule f.b.cyc f.w.tile f.w.lane k v, .final f.b.cyc f.w.tile f.w.lane k false],
                finG := Sparse.erase g.b.finG (f.markKey k) } }))
      ∧ (∀ h p e0 ov rm, i = .qrdrain h p e0 ov rm →
          let k := e0.toNat + f.w.init
          (f.outTag p.val = none → Fails s i f (cTiming, 0))
          ∧ (f.outTag p.val = some 14 → f.slots p.val = 4 → 1024 ≤ k → Fails s i f (cProtection, 0))
          ∧ (f.outTag p.val = some 14 → f.slots p.val = 4 → k < 1024 →
              ((f.mark k).1 = false → Fails s i f (cRuleOrder, 0))
              ∧ ((f.mark k).1 = true → (f.mark k).2 = true → Fails s i f (cRuleOverflow, 0))
              ∧ (f.mark k = (true, false) → fmtOf f.b.fts 14 = none →
                  Runs s i ((f.countDrained 1).sendAt (f.b.cyc + 1) p.val (f.entry k).toNat 14 false))))

/-! ### The life of a task (R16 to R25, R344, R352 to R355) -/

/-- R9, R21 to R25, R189, R333: END. Without successor the task is over: its bank starts afresh or is taken by the context of
a pending pre-emption, but for a member of a cluster, which comes with its mates (R19); its chain holds no row, no page and no place in its graph, and the selector looks again. With a
successor the bank goes on at that task's entry: w24 to w31 become w0 to w7, descriptors, formats, VSTAT, handles and
generators stay, vector and predicate registers are as at task start, and a pre-emption that is asked for comes before its
first instruction. A member that was accessed remotely traps
CLUSTER_EXIT, an index outside the task table ILLEGAL_OP, a bad entry BAD_TARGET, and END waits for running blocks. -/
def Obligations.EndOfTask : Prop :=
  ∀ (s : State) (t : Task) (next : BitVec 32),
    let k := s.core s.cur
    let c := s.ctx
    let i : Instr := .endTask next
    let ready := c.task = some t ∧ s.issuing s.cur = true ∧ c.xfer = none ∧ c.asyncs = [] ∧ c.fly = [] ∧ c.remote = false
      ∧ c.owed = none ∧ (c.atBound = true → k.preq = false) ∧ ∀ e ∈ c.blocks, e.2.2.st = .loaded
    (next = 0xFFFFFFFF → ready →
        ∃ u : State, exec i s = .next u
          ∧ u.bank s.cur =
              (if k.preq = true ∧ k.incoming = true ∧ k.other.cluster s.cur = none then k.other else Context.reset)
          ∧ (u.core s.cur).preq = (k.preq && k.incoming && (k.other.cluster s.cur).isSome)
          ∧ (k.preq = true → k.incoming = true → k.other.cluster s.cur = none → (u.core s.cur).swapping = true)
          ∧ (∀ e ∈ u.rows, e.2.st ≠ .free → e.2.owner ≠ t.serial)
          ∧ (∀ e ∈ u.graphs, ∀ l ∈ e.2.loads, ∀ x ∈ l, x.st ≠ .running t.serial)
          ∧ (∀ e ∈ c.psets, ∀ q ∈ e.2.pages, u.page (s.cur / 32) q = .dirty)
          ∧ (u.part t.part).select = true
          ∧ (t.clustered = true → s.matesLive s.cur t = true → ∀ j, j ≠ s.cur → u.core j = s.core j))
      ∧ (∀ (o : Code) (e : TaskEnt), next ≠ 0xFFFFFFFF → ready → s.codeOf t = some o → o.tasks[next.toNat]? = some e →
          (s.targetOk s.cur (BitVec.ofNat 64 (128 * e.entry + 8)) = true →
            ∃ d : Context, exec i s = .next (s.setCtx d)
              ∧ d.task = some { t with index := next.toNat } ∧ d.pc = 128 * e.entry + 8 ∧ d.wp = 0 ∧ d.lo = 0
              ∧ (∀ j : Fin 8, d.x (.w ⟨j.val, by omega⟩) = c.x (.w ⟨24 + j.val, by omega⟩))
              ∧ d.d = c.d ∧ d.ft = c.ft ∧ d.vstat = c.vstat ∧ d.gkey = c.gkey ∧ d.gctr = c.gctr ∧ d.tvec = c.tvec
              ∧ d.atBound = k.preq ∧ d.hs = c.hs ∧ d.gens = c.gens ∧ d.phase = c.phase ∧ d.v = [] ∧ d.p = []
              ∧ d.rklimit = d.rkbase + BitVec.ofNat 64 e.rksz)
          ∧ (s.targetOk s.cur (BitVec.ofNat 64 (128 * e.entry + 8)) = false →
              exec i s = .next (s.syncTrap s.cur t cBadTarget (BitVec.ofNat 64 (128 * e.entry + 8))
                (s.nextPc s.cur c.pc (words i)) (s.nextPc s.cur c.pc (words i)))))
      ∧ (next ≠ 0xFFFFFFFF → (∀ o, s.codeOf t = some o → o.tasks.length ≤ next.toNat) → Traps s t i [] cIllegal (word0 i))
      ∧ (next = 0xFFFFFFFF → c.remote = true → Traps s t i [] cClusterExit 0)
      ∧ (∀ e ∈ c.blocks, e.2.2.st = .running → next = 0xFFFFFFFF → c.remote = false →
          Completes s t i [] (s.waits wBarrier))

/-- R19, R352 to R355, R400: a pre-emption is taken when every core it concerns stands at a boundary, and not before: each
bank's task leaves with its unfinished instructions captured, and shows NO_CAPABLE_PAGE until it is back; the incoming context
or an empty bank comes to the front, and nothing issues until the swap is complete. It completes once the core has power and
the rows and unfinished instructions of the incoming task are back, for the members of a cluster in one step. The outgoing bank
is spilled to its save record. A scratchpad bank that holds another task's bytes is exchanged with what the active task saved of
it when that task touches it, and not before. -/
def Obligations.PreemptionAndSwap : Prop :=
  ∀ (s : State) (core : CoreId) (t : Task) (b : Fin 64),
    let c := core.val
    let k := s.core c
    let all := (s.together c).filter fun j => (s.core j).preq
    let back := (s.together c).filter fun j => (s.core j).swapping
    (k.preq = true → s.due = [] → (∀ j ∈ all, s.ready j = true) → (∀ j ∈ all, (s.core j).copies = []) →
        ∃ u : State, exec (.preemption core) s = .next u
          ∧ ∀ j ∈ all, (u.core j).swapping = true ∧ (u.core j).preq = false ∧ (u.core j).incoming = false
              ∧ (u.core j).spilling = (s.bank j).task.isSome
              ∧ u.bank j = (if (s.core j).incoming = true then { (s.core j).other with wait := 0 } else Context.reset)
              ∧ (let o := (u.core j).other
                 o.task = (s.bank j).task ∧ o.wait.toNat = wNoPage ∧ o.pc = (s.bank j).pc ∧ o.ring = (s.bank j).ring ∧ o.g = (s.bank j).g
                  ∧ o.v = (s.bank j).v ∧ o.p = (s.bank j).p ∧ o.d = (s.bank j).d ∧ o.hs = (s.bank j).hs ∧ o.rq = (s.bank j).rq
                  ∧ o.susp = (s.bank j).susp ++ (captureFly (s.bank j).fly).1))
      ∧ (k.preq = false ∨ (∃ j ∈ all, s.ready j = false) → exec (.preemption core) s = .next s)
      ∧ (k.swapping = false ∨ s.powered c = false → exec (.swapComplete core) s = .next s)
      ∧ (back = [c] → k.swapping = true → s.powered c = true → k.bank.task = some t → k.bank.stopped = false → k.bank.susp = [] → k.copies = [] →
          (s.rowsAway t.serial = false →
            ∃ u : State, exec (.swapComplete core) s = .next u
              ∧ u.core c = { k with
                  swapping := false,
                  bank := { k.bank with wait := 0, walkTrap := none } })
          ∧ (s.rowsAway t.serial = true →
              exec (.swapComplete core) s = .next (s.setBank c { k.bank with wait := BitVec.ofNat 4 wRowHeld })))
      ∧ (k.other.task = some t → k.spilling = true → k.swapping = false →
          ∃ u : State, exec (.bankSpillDone core) s = .next u ∧ (u.core c).spilling = false
            ∧ ∀ n, n < 256 → u.natAt (savePlace t.part (131072 * c + 0x1000 + 8 * n)) 8 = (s.savedReg c k.other t n).toNat)
      ∧ (k.foreign.getLsbD b.val = false ∨ k.wanted.getLsbD b.val = false →
          exec (.scratchpadBankExchange core b) s = .next s)
      ∧ (s.memOk = true → k.bank.task = some t → k.foreign.getLsbD b.val = true → k.wanted.getLsbD b.val = true →
          ∃ u : State, exec (.scratchpadBankExchange core b) s = .next u
            ∧ (∀ j : Fin 64, (u.core c).foreign.getLsbD j.val = (k.foreign.getLsbD j.val && decide (j ≠ b)))
            ∧ (∀ o n, Sparse.get 0 k.owners b.val = n + 1 → n ≠ t.serial → inBank b.val o = true →
                memByte u.mem (spadSave n o) = memByte s.mem (spadPlace c o)
                ∧ ((s.savedBanks t.serial).getLsbD b.val = true → memByte u.mem (spadPlace c o) = memByte s.mem (spadSave t.serial o))))

/-! ### Queues, graphs and the selector (R322 to R332, R366, R376) -/

/-- R322 to R327, R338, R339, R366, R376: the packet at RD of an ACTIVE queue. A packet that fails a check of R325 sets the queue to
ERROR and posts a COMPLETION with the error, that of the first check in the order the model takes, NLOAD 0 among the sizes (log 54);
NOP moves RD past it; an accepted LAUNCH becomes the next graph, and its queue
waits until the graph's condition holds. A waiting graph whose condition holds becomes READY, or where its queue is DISABLED
waits for that alone. A load whose tasks and copies
have all ended gives way to the next, or the graph completes: once the host can see its writes, CKIND is applied and its
COMPLETION posted. KICK is cleared before WR is read. Each change stands in the journal first, as a batch of records that
COMMIT ends and JHEAD counts; while no command-processor core serves, or the ring is full, it waits. -/
def Obligations.LaunchPackets : Prop :=
  ∀ (s : State) (part : PartId) (q : Fin 512) (graph : Nat) (g : Graph),
    let x : Queue := { s.queue part.val q.val with kick := false }
    let p := s.packet part.val x
    let err := s.packetErr part.val x p
    let i : Instr := if p.type = 0 then .nop part q else .launch part q
    let record (status : Nat) (tag : BitVec 16) (n : Nat) (v : Word) : List Byte :=
      bytesOf tag.toNat 2 ++ bytesOf n 2 ++ [(s.part part.val).epoch, BitVec.ofNat 8 status] ++ bytesOf 0 2 ++ bytesOf v.toNat 8
        ++ bytesOf 0 16
    let reading := (s.part part.val).live = true ∧ x.st = .active ∧ x.avail ≠ 0
    let rd : BitVec 32 := BitVec.ofNat 32 ((x.rd.toNat + p.size) % x.units)
    let y : Graph := ⟨part.val, q.val, p.gtag, p.code, p.ckind, p.cidx, p.cval, p.wkind, p.widx, p.wval, p.loads, .waiting, 0⟩
    (∀ rs s0, s.batch rs = some s0 →
        s0.jhead = BitVec.ofNat 11 (s.jhead.toNat + rs.length + 1) ∧ s0.queues = s.queues ∧ s0.graphs = s.graphs
          ∧ s0.graphNo = s.graphNo ∧ s0.parts = s.parts ∧ s0.counters = s.counters ∧ s0.barriers = s.barriers
          ∧ s0.chans = s.chans ∧ s0.sent = s.sent
          ∧ ∀ n r, (rs ++ [.commit])[n]? = some r → s0.natAt (jSlot (s.jhead.toNat + n)) 32
              = (r.kind + r.tag % 2 ^ 16 * 2 ^ 16 + r.index % 2 ^ 32 * 2 ^ 32 + r.value * 2 ^ 64) % 2 ^ 256)
      ∧ (s.cpServes = false → ∀ rs, s.batch rs = none)
      ∧ (reading → err ≠ 0 → ∀ s0, s.batch [.qread q.val x.rd] = some s0 → exec i s = .next
        ((s0.setQueue part.val q.val { x with st := .error }).emit part.val q.val mtCompletion 0 (record err p.gtag q.val 0)))
      ∧ (p.type ≠ 0 → p.type ≠ 1 → err = 1)
      ∧ (p.type = 0 → p.nload = 0 → x.avail < 2 → err = 2)
      ∧ (p.type = 1 → 2 ≤ x.avail → p.size ≤ x.avail → p.nload = 0 → err = 3)
      ∧ (p.type = 1 → 2 ≤ x.avail → p.size ≤ x.avail → 1 ≤ p.nload → p.nload ≤ 64 → p.size = p.len → p.bad = false →
          p.recBad = false → p.ckind ≠ 3 → p.wkind ≠ 3 → Sparse.find s.codes (65536 * part.val + p.code) = none → err = 4)
      ∧ (reading → err = 0 → p.type = 0 → ∀ s0, s.batch [.qread q.val rd] = some s0 →
          exec i s = .next (s0.setQueue part.val q.val { x with rd := rd }))
      ∧ (reading → err = 0 → p.type = 1 → ∀ s0, s.batch [.qread q.val rd, .gstate s.graphNo y] = some s0 →
          let w := s0.setQueue part.val q.val { x with rd := rd, st := .headWait }
          exec i s = exec (.graphReady part s.graphNo)
            { w with graphs := s.graphs.set s.graphNo y, graphNo := s.graphNo + 1 })
      ∧ (reading → s.cpServes = false → exec i s = .next s)
      ∧ (∀ y : Graph, (y.wkind = 0 → s.condHolds y = true)
          ∧ (y.wkind = 1 → s.condHolds y = decide (y.wval ≤ s.counter y.part y.widx)))
      ∧ (Sparse.find s.graphs graph = some g → g.part = part.val →
          (g.st = .waiting → s.condHolds g = false → exec (.graphReady part graph) s = .next s)
          ∧ (g.st = .waiting → s.cpServes = false → (s.queue g.part g.queue).st ≠ .disabled →
            exec (.graphReady part graph) s = .next s)
          ∧
          (g.st = .waiting → s.condHolds g = true → (s.queue g.part g.queue).st = .disabled →
            exec (.graphReady part graph) s = .next { s with graphs := s.graphs.set graph { g with wkind := 0 } })
          ∧ (∀ s0, g.st = .waiting → s.condHolds g = true → (s.queue g.part g.queue).st ≠ .disabled →
            s.batch [.gstate graph { g with st := .ready, k := 0 }] = some s0 →
            ∃ u : State, exec (.graphReady part graph) s = .next u ∧ Sparse.find u.graphs graph = some { g with st := .ready, k := 0 }
              ∧ ((s.queue g.part g.queue).st = .headWait → (u.queue g.part g.queue).st = .active))
          ∧ (g.st = .running → (∀ e ∈ g.load, e.st = .ended) → s.loadCopies graph g.k = false →
              let g1 : Graph := if g.k + 1 < g.loads.length then { g with st := .ready, k := g.k + 1 } else { g with st := .completing }
              (∀ s0, s.batch [.gstate graph g1] = some s0 →
                exec (.fabricLoadEnd part graph) s = .next { s0 with graphs := s.graphs.set graph g1 })
              ∧ (s.cpServes = false → exec (.fabricLoadEnd part graph) s = .next s))
          ∧ (∀ s0, g.st = .completing → s.writesVisible part.val = true → (s.part part.val).holding = false →
              s.batch (s.ckindRec g ++ [.gstate graph { g with st := .done }]) = some s0 →
              ∃ (u : State) (m : OutMsg), exec (.graphComplete part graph) s = .next u
                ∧ Sparse.find u.graphs graph = some { g with st := .done }
                ∧ (g.ckind = 1 → u.counter g.part g.cidx = s.counter g.part g.cidx + g.cval)
                ∧ (m ∈ u.sent ∨ m ∈ (u.chan (chanKey part.val g.queue)).queued) ∧ m.type = mtCompletion ∧ m.chan = g.queue
                ∧ m.payload = record 0 g.gtag (g.queue % 512)
                    (if g.ckind = 1 then s.counter g.part g.cidx + g.cval
                     else if g.ckind = 2 then (u.barrier g.part g.cidx).extractLsb' 64 64 else 0)))
      ∧ (s.cpServes = true → ∃ u : State, exec (.kickClear part q) s = .next u ∧ u.queue part.val q.val = x
          ∧ ∀ p2 q2, 512 * p2 + q2 ≠ 512 * part.val + q.val → u.queue p2 q2 = s.queue p2 q2)
      ∧ (s.cpServes = false → exec (.kickClear part q) s = .next s)

/-- R328, R329, R331, R338, R339, R399: at a quantum boundary QTIME rises by one and the age of every eligible unit that waits
rises by one; the selector then dispatches while something fits. Where nothing waits, or no command-processor core serves, QTIME
alone has changed. TASK_DISPATCH makes one choice: the urgent unit that fits and comes first by age, priority and queue; else,
by priority, one of the oldest graph of a queue, whose turn goes on until it has dispatched WEIGHT units; with nothing to choose
it stands still until it is asked again. A task dispatched inside a quantum counts its first whole quantum from the boundary
after the next (log 14). -/
def Obligations.SelectorSteps : Prop :=
  ∀ (s : State) (part : PartId) (u : DispUnit) (turn : Option (Nat × Nat)) (die : Nat) (cs : List Nat),
    let p := s.part part.val
    let serves := p.live = true ∧ s.cpServes = true ∧ p.freed = []
    let s1 := s.setPart part.val { p with qtime := p.qtime + 1, select := true }
    let grown := s1.growOld part.val
    let others (xs : List DispUnit) (pr : Nat) : List DispUnit := xs.filter fun v => decide (v.age < 3) && v.prio == pr
    (p.live = false → exec (.quantumBoundary part) s = .next s ∧ exec (.taskDispatch part) s = .next s)
      ∧ (p.live = true → s.cpServes = false →
          exec (.quantumBoundary part) s = .next s1 ∧ exec (.taskDispatch part) s = .next s)
      ∧ (serves → s.units part.val = [] →
        ∃ w : State, exec (.quantumBoundary part) s = .next w ∧ w.part part.val = { p with qtime := p.qtime + 1, select := false }
          ∧ w.cores = s.cores ∧ w.graphs = s.graphs)
      ∧ (serves → (∀ v ∈ grown.units part.val, v.age < 3) → grown.nextUnit part.val = none →
          exec (.quantumBoundary part) s = .next (grown.setPart part.val { p with qtime := p.qtime + 1, select := false }))
      ∧ (∀ (l r : List DispUnit) (g : Graph) (k : Nat) (e : LoadEnt) (n : Nat), s.units part.val = l ++ u :: r → u.back = [] →
          s.eligible part.val u = true → (∀ v ∈ l ++ r, v.back = [] → v.graph ≠ u.graph) →
          Sparse.find s.graphs u.graph = some g → g.load[k]? = some e → e.st = .waiting n → u.ents = [(k, e)] →
          ∃ y, Sparse.find (s.growOld part.val).graphs u.graph = some y ∧ y.load[k]? = some { e with st := .waiting (n + 1) }
            ∧ (∀ j, j ≠ k → y.load[j]? = g.load[j]?) ∧ y = { g with loads := y.loads })
      ∧ (∀ (l r : List DispUnit) (core n : Nat) (c : Context) (t : Task), s.units part.val = l ++ u :: r → u.back = [(core, n)] →
          s.eligible part.val u = true → (∀ v ∈ l ++ r, (core, n) ∉ v.back) → c ∈ s.outOf core → c.task = some t → t.serial = n →
          { c with task := some { t with age := t.age + 1 } } ∈ (s.growOld part.val).outOf core)
      ∧ ((∀ v ∈ s.units part.val, s.eligible part.val v = false) → s.growOld part.val = s)
      ∧ (s.nextUnit part.val = some (u, turn) →
          u ∈ s.units part.val ∧ s.fits part.val u = true
          ∧ (turn = none → 3 ≤ u.age ∧ ∀ v ∈ s.units part.val, 3 ≤ v.age → s.fits part.val v = true →
              v.age < u.age ∨ (v.age = u.age ∧ (u.prio < v.prio ∨ (u.prio = v.prio ∧ u.queue ≤ v.queue))))
          ∧ (∀ q n, turn = some (q, n) →
              (∀ v ∈ s.units part.val, 3 ≤ v.age → s.fits part.val v = false)
              ∧ (∀ pr j, pr < u.prio → j < 512 → ∀ v ∈ queueUnits (others (s.units part.val) pr) j, s.fits part.val v = false)
              ∧ u ∈ queueUnits (others (s.units part.val) u.prio) q
              ∧ (let now := Sparse.get (0, 0) p.turns u.prio
                 now.2 < (s.queue part.val now.1).weight.toNat →
                 (∃ v ∈ queueUnits (others (s.units part.val) u.prio) now.1, s.fits part.val v = true) →
                 q = now.1 ∧ n = now.2 + 1)))
      ∧ (serves → p.select = true → s.nextUnit part.val = none →
          exec (.taskDispatch part) s = .next (s.setPart part.val { p with select := false }))
      ∧ (serves → p.select = true → s.nextUnit part.val = some (u, turn) →
          let w := if u.back = [] then s.dispatchTo part.val u die cs (p.qtime.toNat + 1) else s.resumeUnit u (p.qtime.toNat + 1)
          (u.back = [] → s.placeFor part.val u = some (die, cs)) →
          exec (.taskDispatch part) s = .next (match turn with
            | none => w
            | some x => w.setPart part.val { w.part part.val with turns := (w.part part.val).turns.set u.prio x }))
      ∧ (∀ (g : Graph) (o : Code) (core : Nat) (e : LoadEnt) (x : TaskEnt) (n : Nat) (sj : State),
          Sparse.find s.graphs u.graph = some g → Sparse.find s.codes (65536 * part.val + g.code) = some o →
          u.ents = [(n, e)] → o.tasks[e.task]? = some x → (s.bank core).task = none → s.groupTaken core = false →
          (s.die die).st ≠ .gated → core / 32 = die →
          s.batch [.gstate u.graph (g.dispatched []), .place core (some e.task) x.quota] = some sj →
          let w := s.dispatchTo part.val u die [core] p.qtime.toNat
          (w.bank core).pc = 128 * x.entry + 8
          ∧ (∀ j : Fin 8, (w.bank core).x (.w ⟨j.val, by omega⟩) = e.args.getD j.val 0)
          ∧ (w.bank core).wait.toNat = (if s.powered core = true then 0 else wPowerWake) ∧ (w.bank core).wp = 0
          ∧ (∃ t : Task, (w.bank core).task = some t ∧ t.part = part.val ∧ t.ctx = o.ctx ∧ t.index = e.task ∧ t.quota = x.quota)
          ∧ (∃ y, Sparse.find w.graphs u.graph = some y ∧ y.st = .running))

/-- R26, R143, R222, R344, R347, R350, R354, R356, R359, R360, R384 to R386, R428: what ends a wait. A waiting instruction tries
again; the racking engine moves a group of 24 registers to or from the spill area, as accesses of the task in program order
(R130), after the exchange of a scratchpad bank where it needs one, or the instruction it serves traps WINDOW_SPILL; IDLE ends
after its time, never if that is 0; a page walk that has one of the 64 walkers gives back a translation, which serves every miss
on its page, PROTECTION, MACHINE_CHECK for a poisoned table line, or a fault record for the driver. An
asynchronous trap is taken at a boundary, MACHINE_CHECK first and then copy faults, and its frame is marked ASYNC; a synchronous
trap whose entry waits comes before every one but MACHINE_CHECK, and a pending pre-emption before the handler's first
instruction. The watchdog counts while an instruction waits and at its limit stops the task. -/
def Obligations.WaitsAndTimers : Prop :=
  ∀ (s : State) (core : CoreId) (t : Task) (n : BitVec 32) (k : Nat) (w : Walk) (a : Async) (ps : List Nat) (bad : Word),
    let c := s.bank core.val
    let addrs (pos : Nat) : List Word := (List.range 24).map fun j => c.rkbase + BitVec.ofNat 64 (8 * (pos + j))
    let racking := c.task = some t ∧ (s.core core.val).swapping = false ∧ c.stopped = false ∧ c.wait.toNat = wRacking
      ∧ c.checkDue = false
    let onDevice (spill : Bool) := (∀ p ∈ ps, p < hostMark) ∧ (spill = true → destIn c.fly c.lo = false)
      ∧ (∀ e ∈ c.fly, e.overlaps (c.rackEntry spill ps) = false)
      ∧ c.mayPerform (s.ctxInfo t.part t.ctx).fstr (c.rackEntry spill ps) c.fly = true
    (c.idle = none → c.stopped = false → s.powered core.val = true → c.wait.toNat ≠ wTranslation → c.wait.toNat ≠ wRacking →
        exec (.waiterProceed core) s = .next (s.setBank core.val { c with retry := decide (c.wait ≠ 0) }))
      ∧ (racking → s.rackNeed core.val = some true → s.rackPlaces core.val t c.rklimit .store (addrs c.lo) = .ok ps → onDevice true →
          ∃ u : State, exec (.windowRack core) s = .next u ∧ (u.bank core.val).lo = c.lo + 24 ∧ (u.bank core.val).wait = 0
            ∧ (u.bank core.val).ring = c.ring
            ∧ u.mem = ((List.range 24).foldl (fun (x : State) j =>
                x.writeNat (ps.getD j 0) (Sparse.get 0 c.ring ((c.lo + j) % 256)).toNat 8) s).mem)
      ∧ (racking → s.rackNeed core.val = some false → s.rackPlaces core.val t c.rklimit .load (addrs (c.lo - 24)) = .ok ps →
          onDevice false → (∀ p ∈ ps, s.poisoned p 8 = false) →
          ∃ u : State, exec (.windowRack core) s = .next u ∧ (u.bank core.val).lo = c.lo - 24 ∧ (u.bank core.val).wait = 0
            ∧ u.mem = s.mem
            ∧ ∀ j, j < 24 → Sparse.get 0 (u.bank core.val).ring ((c.lo - 24 + j) % 256) = BitVec.ofNat 64 (s.natAt (ps.getD j 0) 8))
      ∧ (racking → s.rackNeed core.val = some true → s.rackPlaces core.val t c.rklimit .store (addrs c.lo) = .error (.fail bad) →
          exec (.windowRack core) s = .next (s.syncTrap core.val t cWindowSpill bad c.pc c.pc))
      ∧ (∀ p, racking → s.rackNeed core.val = some true → s.rackPlaces core.val t c.rklimit .store (addrs c.lo) = .error (.away p) →
          exec (.windowRack core) s = .next (s.touch p)
          ∧ ((s.touch p).core (spadCore p)).wanted.getLsbD (p % 2 ^ 22 / 64 % 64) = true)
      ∧ (c.idle = some n →
          exec (.idleTimeout core) s = .next (if n = 0 then s else s.setBank core.val { c with idle := none, wait := 0 }))
      ∧ (s.walkerFor k = false → exec (.pageWalkComplete k) s = .next s)
      ∧ (∀ part ctx va, s.poisoned (placeOf part (64 * ctx)) 8 = true → s.walk part ctx va = .poison (placeOf part (64 * ctx)))
      ∧ (s.walks[k]? = some w → s.walkerFor k = true →
          let rest := s.walks.take k ++ s.walks.drop (k + 1)
          (∀ e va size lines, s.walk w.part w.ctx w.va = .leaf e va size lines →
            ∃ u : State, exec (.pageWalkComplete k) s = .next u ∧ u.walks = rest.filter (fun x => !w.on x va size)
              ∧ u.tlb = s.tlb ++ [⟨w.part, w.ctx, va, size, e, lines⟩]
              ∧ ∀ j, (.instr j ∈ w.agents ∨ ∃ x ∈ rest, w.on x va size = true ∧ .instr j ∈ x.agents) → (s.bank j).wait.toNat = wTranslation → (u.bank j).wait = 0)
          ∧ (s.walk w.part w.ctx w.va = .prot → w.agents = [.instr core.val] →
              exec (.pageWalkComplete k) s = .next (({ s with walks := rest } : State).setBank
                core.val { c with walkTrap := some (cProtection, w.va, BitVec.ofNat 64 w.va), wait := 0 }))
          ∧ (∀ p, s.walk w.part w.ctx w.va = .poison p → w.agents = [.instr core.val] →
              ∃ u : State, exec (.pageWalkComplete k) s = .next u ∧ u.walks = rest
                ∧ u.bank core.val = { c with walkTrap := some (cMachineCheck, w.va, paOf (p / 64 * 64)), wait := 0 })
          ∧ (s.walk w.part w.ctx w.va = .invalid → w.agents = [.instr core.val] →
              (s.part w.part).records.length < Config.faultRecords →
              ∃ u : State, exec (.pageWalkComplete k) s = .next u ∧ u.walks = rest
                ∧ u.bank core.val = c
                ∧ ∃ r ∈ (u.part w.part).records, r.ctx = w.ctx ∧ r.va / 2 ^ 19 = w.va / 2 ^ 19 ∧ r.reason = 1
                    ∧ .instr core.val ∈ r.agents))
      ∧ (c.task = some t → c.firstAsync = some a → c.xfer = none → c.trapst = false → c.stopped = false → c.halted = true →
          c.strip = none → (s.core core.val).swapping = false → (core.val < Config.cpCore ∨ a.cause.toNat ≠ cMachineCheck) →
          (c.owed = none ∨ a.cause.toNat = cMachineCheck) →
          c.wp + 80 ≤ 256 + c.lo →
          ∃ u : State, exec (.takeAsyncTrap core) s = .next u
            ∧ (let d := u.bank core.val
               d.frame.cause = a.cause ∧ d.frame.async = true ∧ d.frame.fab = a.fab ∧ d.frame.handle = a.handle
                ∧ d.frame.copy = a.copy ∧ d.frame.tinfo = a.info ∧ d.frame.tpc = BitVec.ofNat 64 (c.pc % 2 ^ 18)
                ∧ d.frame.dslot = false ∧ d.frame.twp = BitVec.ofNat 64 c.wp ∧ d.asyncs = dropAsync a c.asyncs
                ∧ d.rq = c.rq ++ (captureFly c.fly).1 ∧ d.owed = c.owed
                ∧ (d.stopped = false → d.atBound = (s.core core.val).preq)
                ∧ (if (a.driver || driverCause a.cause.toNat || !c.handlerOn || !s.entryLine core.val c.handlerEntry) = true then
                    d.stopped = true ∧ d.trapst = false ∧ d.wp = c.wp
                   else d.stopped = false ∧ d.trapst = true ∧ d.wp = c.wp + 48 ∧ d.pc = (c.tvec &&& 0x3FFFF).toNat)))
      ∧ (c.owed.isSome = true → (∀ x ∈ c.asyncs, x.cause.toNat ≠ cMachineCheck) → exec (.takeAsyncTrap core) s = .next s)
      ∧ ((∃ x ∈ c.asyncs, x.cause.toNat = cMachineCheck) → ∃ y, c.firstAsync = some y ∧ y.cause.toNat = cMachineCheck)
      ∧ ((∀ x ∈ c.asyncs, x.cause.toNat ≠ cMachineCheck) → (∃ x ∈ c.asyncs, x.copy = true) →
          ∃ y, c.firstAsync = some y ∧ y.copy = true)
      ∧ (c.task = some t → c.stopped = false → (s.core core.val).swapping = false → waitCounts c.wait.toNat = true →
          c.wdcnt.toNat + n.toNat < 2 ^ 32 →
          (c.wdlim = 0 ∨ c.wdcnt.toNat + n.toNat < c.wdlim.toNat ∨ c.owed.isSome = true →
            exec (.watchdog core n) s = .next (s.setBank core.val { c with wdcnt := c.wdcnt + n }))
          ∧ (c.wdlim ≠ 0 → c.wdlim.toNat ≤ c.wdcnt.toNat + n.toNat → c.xfer = none → c.checkDue = false → c.owed = none →
            ∃ u : State, exec (.watchdog core n) s = .next u ∧ (u.bank core.val).stopped = true
              ∧ (c.trapst = true → (u.bank core.val).cause2 = BitVec.ofNat 8 cWatchdog)
              ∧ (c.trapst = false → c.strip = none → (u.bank core.val).frame.cause = BitVec.ofNat 8 cWatchdog
                  ∧ (u.bank core.val).frame.async = true ∧ (u.bank core.val).frame.tinfo = c.wait.zeroExtend 64
                  ∧ (u.bank core.val).frame.tpc = BitVec.ofNat 64 (c.pc % 2 ^ 18))))

/-! ### Blocks, page sets, streams and copies -/

/-- R11 to R14, R56, R134, R210 to R212, R429: the life of a block. Its planes load; armed and loaded, with no block of an
earlier phase unfinished and its plane free, it runs; when no initiation is left and no stage holds one it drains, and a fault
that a write stream of it met while it ran freezes it then; when its words and stores are done it leaves its handle and the block behind becomes the current one. While it runs, a cycle of it is due
at each advance: at SLOT 0 the loop context starts an initiation if one is left, and SLOT counts modulo II + 1. -/
def Obligations.BlockLife : Prop :=
  ∀ (s : State) (core : CoreId) (h : Hnd) (t : Task) (b : Block) (x : LoopCtx),
    let c := s.bank core.val
    let hd := c.handle h.val
    let put (hd1 : Handle) : State := s.setBank core.val (c.setHandle h.val hd1)
    let still := (s.core core.val).swapping = false
    (still → hd.cur = some b → b.ready = false →
        exec (.blockLoadComplete core h) s = .next (put { hd with cur := some { b with ready := true } }))
      ∧ (∀ b0, still → hd.cur = some b0 → b0.ready = true → hd.next = some b → b.ready = false →
          exec (.blockLoadComplete core h) s = .next (put { hd with next := some { b with ready := true } }))
      ∧ (still → hd.cur = some b → b.st = .armed → b.ready = true → b.lc.finished = false →
          (∀ e ∈ c.blocks, e.2.2.st ≠ .loaded → b.phase ≤ e.2.2.phase) →
          ∃ u : State, exec (.blockFirstIssue core h) s = .next u
            ∧ ((u.bank core.val).handle h.val).cur = some { b with st := .running, copies := [⟨0, b.lc, [], [], []⟩] }
            ∧ ((u.bank core.val).handle h.val).cells = hd.cells)
      ∧ (hd.cur = some b → b.st = .armed → (∃ e ∈ c.blocks, e.2.2.st ≠ .loaded ∧ e.2.2.phase < b.phase) →
          exec (.blockFirstIssue core h) s = .next s)
      ∧ (s.due = [] → hd.cur = some b → b.st = .running → b.held = false → b.lc.sv = 0 → b.lc.more = false →
          ((∀ g y rest, g < 4 → (c.gen g).streams = y :: rest → y.cfg.write = true → y.fault = none) →
            exec (.blockIssueFinish core h) s = .next (put { hd with cur := some { b with st := .draining } }))
          ∧ (∀ g y rest f w, g < 4 → (c.gen g).streams = y :: rest → y.cfg.write = true → y.fault = some f → f.blk = b.serial →
              (∀ j, j < 4 → j ≠ g → (c.gen j).streams = []) →
              f.pos = some w → laneList (c.gen g).wx w.lane ≠ [] → f.asked = false →
              (∀ e ∈ c.blocks, e.2.2.serial = b.serial → e.1 = h.val ∧ e.2.1 = false) →
              ∃ (u : State) (a : Async), exec (.blockIssueFinish core h) s = .next u
                ∧ (∃ b1, ((u.bank core.val).handle h.val).cur = some b1 ∧ b1.st = .frozen ∧ b1.lc = b.lc)
                ∧ a ∈ (u.bank core.val).asyncs ∧ a.cause = BitVec.ofNat 8 f.cause ∧ a.fab = true ∧ a.handle.toNat = h.val))
      ∧ (still → s.due = [] → c.task = some t → c.idle = none → hd.cur = some b → b.st = .draining → b.busy = false →
          s.blockStored c t.part b = true →
          exec (.blockComplete core h) s = .next (put { hd with cur := hd.next, next := none }))
      ∧ (still → s.due = [] → c.task = some t → hd.cur = some b → hd.next = none → b.st = .running → b.lc.finished = false →
          b.refill = false → b.held = false → exec (.loopContextAdvance core h) s = .next { s with due := [.begin core.val h.val false] })
      ∧ (x.more = true → x.interval.sv = ((x.sv <<< 1) ||| 1) &&& BitVec.ofNat 16 (2 ^ (x.sc + 1) - 1)
          ∧ x.interval.inits = x.inits + 1 ∧ x.interval.ihist.head? = some x.idx)
      ∧ (x.more = false → x.interval.sv = (x.sv <<< 1) &&& BitVec.ofNat 16 (2 ^ (x.sc + 1) - 1)
          ∧ x.interval.inits = x.inits)
      ∧ x.advance = { x with slot := (x.slot + 1) % (x.ii + 1) }

/-- R333 to R336: the allocator of a floor. A page set that an FLOAD waits for is placed at the first origin whose rectangle
no page set touches and no earlier FLOAD or move has spoken for (log 68), once its pages are cleared, and its cells start empty
(log 42). Where there is none, compaction chooses a target and moves the sets in the way: a move completes once its destination
is cleared, no block is in its set and no LDT issued before it is unfinished, waits until then, and is given up where the set has gone with its task. A freed page is cleared, tiles
and loft slices alike, before it is free again. -/
def Obligations.PageSets : Prop :=
  ∀ (s : State) (core : CoreId) (h : Fin 8) (t : Task) (w ht : Nat) (o : Nat × Nat) (d : DieId) (page : Fin 256),
    let c := s.bank core.val
    let die := core.val / 32
    let move := (s.die die).moves.find? fun m => m.core == core.val && m.h == h.val
    (s.waitingLoad core.val h.val = some (t, w, ht) → (c.handle h.val).pset = none → s.rectFor die core.val h.val w ht = some o →
        (∀ k ∈ rectPages o.1 o.2 w ht, s.page die k = .free) →
        ∃ u : State, exec (.pageSetPlace core h) s = .next u
          ∧ ((u.bank core.val).handle h.val).pset = some ⟨o.1, o.2, w, ht, 0⟩ ∧ ((u.bank core.val).handle h.val).cells = []
          ∧ ∀ k, u.page die k = if k ∈ rectPages o.1 o.2 w ht then .owned t.serial core.val h.val else s.page die k)
      ∧ (s.findRect die w ht = some o → o.1 + w ≤ 16 ∧ o.2 + ht ≤ 16 ∧ ∀ k ∈ rectPages o.1 o.2 w ht, s.vacant die k = true)
      ∧ (s.floorWaits die = [] → (s.die die).moves = [] → s.rectFor die core.val h.val w ht = s.findRect die w ht)
      ∧ (s.waitingLoad core.val h.val = some (t, w, ht) → (c.handle h.val).pset = none → s.rectFor die core.val h.val w ht = none →
          (∀ e ∈ (s.die die).waits, e.target = none) →
          (∀ q ms, s.compaction die core.val h.val w ht = some (q, ms) →
            ∃ u : State, exec (.pageSetPlace core h) s = .next u ∧ (u.die die).moves = (s.die die).moves ++ ms
              ∧ ∀ e ∈ (u.die die).waits, e.core = core.val → e.h = h.val → e.target = some q)
          ∧ (s.compaction die core.val h.val w ht = none → exec (.pageSetPlace core h) s = .next s))
      ∧ (∀ (m : SetMove) (p : PageSet), move = some m → s.setOf m.core m.chain m.h = some (p, true) →
          (∀ k ∈ rectPages m.x m.y p.w p.h, s.page die k = .free) → c.isChain m.chain = true → c.ldtOn die p = false →
          ∃ u : State, exec (.pageSetMove core h) s = .next u
            ∧ ((u.bank core.val).handle h.val).pset = some { p with x0 := m.x, y0 := m.y }
            ∧ ((u.bank core.val).handle h.val).cells = (c.handle h.val).cells
            ∧ (u.die die).moves = (s.die die).moves.erase m
            ∧ ∀ k, u.page die k = if k ∈ rectPages m.x m.y p.w p.h then .owned m.chain core.val h.val
                else if k ∈ p.pages then .dirty else s.page die k)
      ∧ (∀ (m : SetMove) (p : PageSet) (b : Bool), move = some m → s.setOf m.core m.chain m.h = some (p, b) →
          (b = false ∨ c.ldtOn die p = true ∨ ∃ k ∈ rectPages m.x m.y p.w p.h, s.page die k ≠ .free) → exec (.pageSetMove core h) s = .next s)
      ∧ (∀ m : SetMove, move = some m → s.setOf m.core m.chain m.h = none →
          ∃ u : State, exec (.pageSetMove core h) s = .next u ∧ (u.die die).moves = (s.die die).moves.erase m ∧ u.cores = s.cores)
      ∧ (move = none → exec (.pageSetMove core h) s = .next s)
      ∧ (s.page d.val page.val = .dirty →
          ∃ u : State, exec (.pageClear d page) s = .next u ∧ u.page d.val page.val = .free
            ∧ (∀ k, k ≠ page.val → u.page d.val k = s.page d.val k)
            ∧ (∀ j n, j < 2 → n < 131072 → memByte u.mem (tilePlace d.val (2 * page.val + j) n) = 0)
            ∧ (∀ q ∈ pageSlices page.val, ∀ n, n < 2 ^ 21 → memByte u.mem (loftPlace d.val (q * 2 ^ 21 + n)) = 0))
      ∧ (s.page d.val page.val ≠ .dirty → exec (.pageClear d page) s = .next s)

/-- R109 to R112, R115, R205 to R209, R249, R250, R280: a read stream delivers its next token to the first lane in walk order
that has room, a group of a symbol stream to every lane, and the OPEN rows its reads pass by yield; a write stream stores a
lane's oldest token, and marks its lines where the token carries the mark of a poisoned line (R427); a finished stream gives way
to the one queued behind it, which takes over the sidecar lines the generator holds (R107). A copy moves
what is left of its count and then its completion word is signalled or credited, once, and its slot is free; a fault that
needs no answer cancels it, and its task takes an asynchronous trap. -/
def Obligations.StreamsAndCopies : Prop :=
  ∀ (s : State) (core : CoreId) (g : Fin 4) (lane : Fin 16) (slot : Fin 512) (t : Task) (x0 : Stream) (rest : List Stream)
      (h : Nat) (nxt : Bool) (blk : Block) (ent : StreamEnt) (l : Nat) (tok : Token) (y : Stream) (c : Copy) (ms : List Moved),
    let b := s.bank core.val
    let gen := b.gen g.val
    let k := core.val
    let x := x0.fix ent.slots
    let still := b.task = some t ∧ (s.core k).swapping = false ∧ gen.streams = x0 :: rest ∧ x0.fault = none
    let moving := s.copy k slot.val = some c ∧ c.st = .moving ∧ s.copyHeld k c = false
    let seated (u : State) : Prop := ∀ e ∈ (u.core k).copies, e.1 < 512
    (still → x0.cfg.write = false → b.binder g.val false = some (h, nxt, blk, ent) → x.tooWide x.tokBits = false →
        gen.nextLane x (s.fillTarget t blk ent) = some l → s.boardHolds k t x.order x.ranges false = false →
        s.readToken k t x (b.stageOf k h x ent.dst.idx) l (laneCount x.pos l) = .ok (tok, y) →
        ∃ u : State, exec (.generatorReadReturn core g) s = .next u ∧ u.mem = s.mem ∧ u.cores = (s.setGen k g.val (gen.deliver y l tok)).cores
          ∧ (y.rows = [] → u = s.setGen k g.val (gen.deliver y l tok)))
      ∧ (y.cfg.rsym = false →
          gen.deliver y l tok = { gen with
            streams := { y with pos := y.pos.set l (laneCount y.pos l + 1), wait := 0, got := [], rows := [] } :: gen.streams.drop 1,
            rx := gen.rx.set l (laneList gen.rx l ++ [tok]) })
      ∧ (∀ j, y.cfg.rsym = true → j < 16 → laneCount y.pos j = laneCount y.pos l →
          laneList (gen.deliver y l tok).rx j = laneList gen.rx j ++ [tok])
      ∧ (∀ depth, gen.nextLane x depth = some l → l < 16 ∧ x.laneDone l = false ∧ (laneList gen.rx l).length < depth
          ∧ ∀ j, j < (if x.cfg.rsym then 1 else 16) → x.laneDone j = false → (laneList gen.rx j).length < depth →
            16 * laneCount x.pos l + l ≤ 16 * laneCount x.pos j + j)
      ∧ (∀ (tk : SentTok) (more : List SentTok) (h1 : Nat) (n1 : Bool) (ps : List Loc),
          let n := laneCount x.pos lane.val
          let v := joinTokens ((tk :: more).take x.span)
          let bs := x.tokenBytes lane.val n v.1 v.2
          still → x0.cfg.write = true → laneList gen.wx lane.val = tk :: more → b.bySerial tk.blk = some (h1, n1, blk) →
          blk.prog.genEntry g.val true = some ent → x.laneDone lane.val = false → x.span ≤ (tk :: more).length →
          s.boardHolds k t x.order x.ranges true = false → x.disjoint = true → s.fstrOf t = false → x.packBlk = none →
          s.tokenPlaces k t x lane.val n v.2 bs = .ok ps → (∀ p ∈ ps, ∃ q, p = .place q ∧ q < hostMark) → tk.pk = false →
          ∃ u : State, exec (.generatorStore core g lane) s = .next u
            ∧ u.mem = (s.storePlaces t.part (ps.zip (bs.map fun z => z.2)) 0).1.mem
            ∧ (((tk :: more).take x.span).any (fun z => z.tok.poison) = true →
                ∀ p q, (.place p, q) ∈ ps.zip (bs.map fun z => z.2) → q.2.isSome = true → u.poisoned p 1 = true)
            ∧ laneList ((u.bank k).gen g.val).wx lane.val = (tk :: more).drop x.span
            ∧ ∃ z, ((u.bank k).gen g.val).streams.head? = some z ∧ laneCount z.pos lane.val = n + x.span)
      ∧ (still → x0.finished = true → x0.msg = 0 → ∀ z zs,
          (rest = [] → exec (.streamFinish core g) s = .next (s.setGen k g.val { gen with streams := [] }))
          ∧ (rest = z :: zs → exec (.streamFinish core g) s
              = .next (s.setGen k g.val { gen with streams := { z with lines := x0.lines } :: zs })))
      ∧ (still → x0.finished = false → exec (.streamFinish core g) s = .next s)
      ∧ (moving → c.fault = none → s.wordAway c = true → exec (.copyComplete core slot) s = .next (s.touch c.word))
      ∧ (moving → c.fault = none → s.wordAway c = false →
          (c.off = c.n → s.answered c.part c.msg = true →
            ∃ u : State, exec (.copyComplete core slot) s = .next u ∧ (seated s → u.copy k slot.val = none)
              ∧ u.mem = (s.creditCopy c).mem)
          ∧ (∀ v, c.off = c.n → s.answered c.part c.msg = true → c.signal = some v → isLoft c.word = false →
              isLoft (c.word + 7) = false →
              ∃ u : State, exec (.copyComplete core slot) s = .next u ∧ u.natAt c.word 8 = v.toNat)
          ∧ (c.off ≠ c.n → s.copyScan k c (c.n - c.off) c.off 0 = (ms, none) → (s.moveBytes c ms).2 = 0 →
              ∃ u : State, exec (.copyComplete core slot) s = .next u ∧ (seated (s.moveBytes c ms).1 → u.copy k slot.val = none)
                ∧ u.mem = ((s.moveBytes c ms).1.creditCopy c).mem))
      ∧ (∀ m ∈ s.copyValues c ms, (∃ x ∈ ms, m.1 = x.dst ∨ m.1 = x.src))
      ∧ (∀ x ∈ ms, x.dst ∉ ms.map (fun z => z.src) → x.dst ∉ c.reads → (x.dst, x.val) ∈ s.copyValues c ms)
      ∧ (∀ cause info, moving → c.fault = some (cause, info) → b.isChain c.owner = true →
          (∀ m ∈ (s.copyScan k c (c.n - c.off) c.off 0).1,
            isFw m.dst = false ∧ ((Sparse.find c.kept m.src).isSome = true → isFw m.src = false)) →
          ∃ u : State, exec (.copyFault core slot) s = .next u ∧ (seated s → u.copy k slot.val = none)
            ∧ ∃ z ∈ (u.bank k).asyncs, z.cause = BitVec.ofNat 8 cause ∧ z.copy = true ∧ z.info = info)

/-! ### Power, health and errors (R403 to R424) -/

/-- R407 to R411, R422: compute dies. REQ 00 brings a draining or parked die back ONLINE and wakes a gated one, 01 and 10 make
an ONLINE die drain; a draining die with nothing left on it parks; a parked die with REQ 10 is gated and loses its
scratchpads, tiles and loft; a woken die is ONLINE, its loft zero, REQ 00. OPCUR moves one point towards the slowest of
OPSEL and the floors. A die's thermal floor moves to a slower point where a sensor of it reads 100 degrees, to a faster one where
all read below 95; the power floors move to a slower point while MEAS is above LIMIT, to a faster one while it is below 95 % of
LIMIT or there is no limit; a floor moves one point and stays between OP0 and OP7. At 125 degrees every rail is cut; at 110 the die
is gated. That lost contents read as zero is the model's choice (log 2). -/
def Obligations.DiesAndPoints : Prop :=
  ∀ (s : State) (die : DieId) (p : BitVec 3) (slow : Bool) (part : PartId),
    let d := s.die die.val
    let moved (r : BitVec 2) (x : DieSt) : State := s.setDie die.val { d with req := r, st := x }
    let target := max d.opsel.toNat (max d.thermFloor.toNat d.powFloor.toNat)
    let mine := [3 * die.val, 3 * die.val + 1, 3 * die.val + 2]
    let reads (i : Nat) : Int := (Sparse.get 0 s.temp i).toInt
    let calls : Prop := if slow then s.modLimit ≠ 0 ∧ s.modLimit.toNat < s.modMeas.toNat
      else s.modLimit = 0 ∨ 100 * s.modMeas.toNat < 95 * s.modLimit.toNat
    exec (.dieOnline die) s = .next (moved 0 (if d.st = .draining ∨ d.st = .parked then .online else if d.st = .gated then .waking else d.st))
      ∧ exec (.dieDrain die) s = .next (moved 1 (if d.st = .online then .draining else d.st))
      ∧ exec (.dieGateRequest die) s = .next (moved 2 (if d.st = .online then .draining else d.st))
      ∧ exec (.opselWrite die p) s = .next (s.setDie die.val { d with opsel := p })
      ∧ (d.st = .draining → exec (.diePark die) s = .next (if s.dieEmpty die.val then s.setDie die.val { d with st := .parked } else s))
      ∧ (d.st = .parked → d.req = 2 →
          ∃ u : State, exec (.dieGate die) s = .next u ∧ (u.die die.val).st = .gated
            ∧ (∀ n, n < 2 ^ 30 → memByte u.mem (loftPlace die.val n) = 0)
            ∧ (∀ k n, k < 32 → n < 2 ^ 22 → memByte u.mem (spadPlace (32 * die.val + k) n) = 0))
      ∧ (d.st = .waking →
          ∃ u : State, exec (.dieWakeDone die) s = .next u ∧ (u.die die.val).st = .online ∧ (u.die die.val).req = 0
            ∧ (∀ n, n < 2 ^ 30 → memByte u.mem (loftPlace die.val n) = 0)
            ∧ ((s.part part.val).hasDie die.val = true → u.selfRefresh.getLsbD part.val = false))
      ∧ ((s.part part.val).live = true → (∀ k, k < 12 → (s.part part.val).hasDie k = true → (s.die k).st = .gated) →
          exec (.hbmSelfRefresh part) s = .next { s with selfRefresh := s.selfRefresh ||| ((1 : BitVec 12) <<< part.val) })
      ∧ (∃ u : State, exec (.opStep die) s = .next u
          ∧ (u.die die.val).opcur.toNat = (if d.opcur.toNat < target then d.opcur.toNat + 1
              else if target < d.opcur.toNat then d.opcur.toNat - 1 else d.opcur.toNat))
      ∧ ((∃ i ∈ mine, 1600 ≤ reads i) → ∃ u : State, exec (.thermalFloorStep die true) s = .next u
          ∧ (u.die die.val).thermFloor.toNat = min 7 (d.thermFloor.toNat + 1))
      ∧ ((∀ i ∈ mine, reads i < 1520) → ∃ u : State, exec (.thermalFloorStep die false) s = .next u
          ∧ (u.die die.val).thermFloor.toNat = d.thermFloor.toNat - 1)
      ∧ ((∀ i ∈ mine, reads i < 1600) → exec (.thermalFloorStep die true) s = .next s)
      ∧ ((∃ i ∈ mine, 1520 ≤ reads i) → exec (.thermalFloorStep die false) s = .next s)
      ∧ (calls → ∃ u : State, exec (.powerFloorStep slow) s = .next u
          ∧ ((d.st = .online ∨ d.st = .draining) →
              (u.die die.val).powFloor.toNat = (if slow then min 7 (d.powFloor.toNat + 1) else d.powFloor.toNat - 1)))
      ∧ (¬ calls → exec (.powerFloorStep slow) s = .next s)
      ∧ (s.flashing = none → (∃ i, i < 48 ∧ 2000 ≤ reads i) → exec .thermalCutoff s = .next { s with railsCut := true })
      ∧ ((∀ i, i < 48 → reads i < 2000) → exec .thermalCutoff s = .next s)
      ∧ (d.st ≠ .gated → (∃ i ∈ mine, 1760 ≤ reads i) →
          ∃ u : State, exec (.thermalFault die) s = .next u ∧ (u.die die.val).st = .gated)
      ∧ ((∀ i ∈ mine, reads i < 1760) → exec (.thermalFault die) s = .next s)

/-- R406, R407, R409, R413, R416, R421: a write of a power or health register: DIEPWR takes REQ, OPSEL and AUTOWAKE, MODPWR its
limit, CLPCTL a request, CLWAKE a wake if bit 0 is 1, TEMP clears its highest reading; read-only registers, unlisted and
misaligned offsets ignore it. -/
def Obligations.PowerRegisters : Prop :=
  ∀ (s : State) (off : BitVec 16) (v : Word) (die : DieId) (k : ClusterId) (j : Fin 48),
    let d := s.die die.val
    let w (o : Nat) (u : State) : Prop := exec (.registerWrite (BitVec.ofNat 16 o) v) s = .next u
    (v.extractLsb' 12 2 = 3 → w (8 * die.val) (s.setDie die.val { d with opsel := v.extractLsb' 0 3, autowake := v.getLsbD 16 }))
      ∧ (v.extractLsb' 12 2 ≠ 3 → w (8 * die.val) (s.setDie die.val
          { d with req := v.extractLsb' 12 2, st := dieNext d.st (v.extractLsb' 12 2), opsel := v.extractLsb' 0 3,
                   autowake := v.getLsbD 16 }))
      ∧ w 0x60 { s with modLimit := v.extractLsb' 32 16 }
      ∧ (exec (.clusterRetain die k) s = exec (.registerWrite (BitVec.ofNat 16 (0x100 + 64 * die.val + 8 * k.val)) 1) s)
      ∧ (exec (.clusterOff die k) s = exec (.registerWrite (BitVec.ofNat 16 (0x100 + 64 * die.val + 8 * k.val)) 2) s)
      ∧ (exec (.clusterWake die k) s = exec (.registerWrite (BitVec.ofNat 16 (0x800 + 64 * die.val + 8 * k.val)) 1) s)
      ∧ (v.getLsbD 0 = false → w (0x800 + 64 * die.val + 8 * k.val) s)
      ∧ (w (0x1100 + 8 * j.val) { s with maxTemp := s.maxTemp.set j.val 0 })
      ∧ (off.toNat % 8 ≠ 0 ∨ (0x400 ≤ off.toNat ∧ off.toNat < 0x800) ∨ off.toNat = 0x1008 ∨ 0x1280 ≤ off.toNat →
          exec (.registerWrite off v) s = .next s)

/-- R413 to R415: a cluster's way to retention or off and back. A request of an ON cluster makes it PEND; 11, a gated or waking
die and a checkpoint of its partition refuse it with their reasons. With no task left its state is saved; saved, its clocks
stop, or after a wake it is ON again; with REQ 10 its rail goes. A wake of a railgated cluster ramps the rail, restores the
state, and is ON. -/
def Obligations.ClusterSteps : Prop :=
  ∀ (s : State) (die : DieId) (k : ClusterId),
    let c := s.cluster die.val k.val
    let put (x : Cluster) : State := s.setCluster die.val k.val x
    let dieOn := (s.die die.val).st ≠ .gated ∧ (s.die die.val).st ≠ .waking
    let on (x : Cluster) : Cluster := { x with st := .on, saved := false, railoff := false, wake := false, held := none }
    (c.st = .on → dieOn → s.ckBusy die.val = false →
        exec (.clusterRetain die k) s = .next (put { c with req := 1, refused := false, st := .pend })
        ∧ exec (.clusterOff die k) s = .next (put { c with req := 2, refused := false, st := .pend }))
      ∧ (c.st = .on → exec (.registerWrite (BitVec.ofNat 16 (0x100 + 64 * die.val + 8 * k.val)) 3) s
          = .next (put { c with refused := true, reason := 1 }))
      ∧ (c.st = .on → (s.die die.val).st = .gated → exec (.clusterOff die k) s = .next (put { c with refused := true, reason := 2 }))
      ∧ (c.st = .on → dieOn → s.ckBusy die.val = true →
          exec (.clusterOff die k) s = .next (put { c with refused := true, reason := 3 }))
      ∧ (c.st = .restoring → exec (.clusterOff die k) s = .next (put { c with held := some 2 }))
      ∧ (c.st = .pend → exec (.clusterSaveStart die k) s = .next (if s.clusterQuiet die.val k.val then put { c with st := .saving } else s))
      ∧ (c.st = .saving → c.wake = false → exec (.clusterSaveDone die k) s = .next (put { c with st := .clkgated, saved := true }))
      ∧ (c.st = .saving → c.wake = true → c.held = none →
          ∃ u : State, exec (.clusterSaveDone die k) s = .next u ∧ u.cluster die.val k.val = on c)
      ∧ (c.st = .clkgated → c.req = 2 → exec (.clusterRailOffDone die k) s = .next (put { c with st := .railgated, railoff := true }))
      ∧ (c.st = .clkgated → c.held = none →
          ∃ u : State, exec (.clusterWake die k) s = .next u ∧ u.cluster die.val k.val = on { c with req := 0 })
      ∧ (c.st = .railgated →
          ∃ u : State, exec (.clusterWake die k) s = .next u ∧ u.cluster die.val k.val = { c with req := 0, st := .ramping, wake := true })
      ∧ (c.st = .ramping → exec (.clusterRampDone die k) s = .next (put { c with st := .restoring, railoff := false }))
      ∧ (c.st = .restoring → c.held = none →
          ∃ u : State, exec (.clusterRestoreDone die k) s = .next u ∧ u.cluster die.val k.val = on c)

/-- R416 to R420: checkpoint. SAVE and RESTORE run when every named partition is idle, else they are refused with reason 1; a
RESTORE without an image is refused with reason 3, of an image saved under other grants with reason 2. A SAVE keeps the HBM4
bytes and the poison marks of the named partitions; a RESTORE puts both back and changes no other byte or mark, poisons every line
of a unit whose CRC failed, and with a bad header it fails. The image outlives the main supply and is lost with the auxiliary one,
and the LPDDR6 with it. The number of a unit, and that lost memory reads as zero, are the model's choices (logs 20 and 2). -/
def Obligations.CheckpointSteps : Prop :=
  ∀ (s : State) (pm : BitVec 12) (bad : List Nat) (i : CkImage),
    let idle := (s.ckParts pm).all s.partIdle
    let resting := s.ckState ≠ 1 ∧ s.ckState ≠ 2
    let mine (x : State) (a : Nat) : Prop := ∃ p ∈ x.ckParts x.ckMask, x.isHbm p a = true
    (resting → exec (.checkpointSave pm) s = .next
        (if idle then { s with ckMask := pm, ckState := 1, ckReason := 0, ckMoved := 0 } else { s with ckMask := pm, ckState := 4, ckReason := 1 }))
      ∧ (resting → s.ckImage = none →
          exec (.checkpointRestore pm) s = .next { s with ckMask := pm, ckState := 4, ckReason := 3 })
      ∧ (resting → s.ckImage = some i → s.ckMatches i pm = false →
          exec (.checkpointRestore pm) s = .next { s with ckMask := pm, ckState := 4, ckReason := 2 })
      ∧ (resting → s.ckImage = some i → s.ckMatches i pm = true → idle = true →
          exec (.checkpointRestore pm) s = .next { s with ckMask := pm, ckState := 2, ckReason := 0, ckMoved := 0 })
      ∧ (resting → s.ckImage = some i → s.ckMatches i pm = true → idle = false →
          exec (.checkpointRestore pm) s = .next { s with ckMask := pm, ckState := 4, ckReason := 1 })
      ∧ (s.ckState = 1 →
          ∃ (u : State) (x : CkImage), exec (.checkpointDone bad false) s = .next u ∧ u.ckState = 3 ∧ u.ckImage = some x
            ∧ x.mode = s.mode ∧ u.mem = s.mem ∧ u.poison = s.poison ∧ (∀ a, mine s a → memByte x.cells a = memByte s.mem a)
            ∧ ∀ l, l ∈ x.poison ↔ l ∈ s.poison ∧ mine s (64 * l))
      ∧ (s.ckState = 2 → s.ckImage = some i → Memory.wf i.cells = true →
          ∃ u : State, exec (.checkpointDone [] false) s = .next u ∧ u.ckState = 3
            ∧ (∀ a, (mine s a → memByte u.mem a = memByte i.cells a) ∧ (¬ mine s a → memByte u.mem a = memByte s.mem a))
            ∧ ∀ l, (mine s (64 * l) → (l ∈ u.poison ↔ l ∈ i.poison)) ∧ (¬ mine s (64 * l) → (l ∈ u.poison ↔ l ∈ s.poison)))
      ∧ (s.ckState = 2 → s.ckImage = some i →
          ∃ u : State, exec (.checkpointDone bad false) s = .next u ∧ u.ckState = 3
            ∧ ∀ n ∈ bad, ∀ q, placeOf (n / 2 ^ 26) (n % 2 ^ 26 * 2 ^ 20) ≤ q →
                q < placeOf (n / 2 ^ 26) (n % 2 ^ 26 * 2 ^ 20) + 2 ^ 20 → u.poisoned q 1 = true)
      ∧ (s.ckState = 2 → exec (.checkpointDone bad true) s = .next { s with ckState := 5, ckReason := 4 })
      ∧ (s.flashing = none → exec .mainSupplyRemoved s = .next { s with mainOn := false })
      ∧ (∃ u : State, exec .auxiliarySupplyRemoved s = .next u ∧ u.auxOn = false ∧ u.ckImage = none
          ∧ ∀ a, memByte u.mem a = if isLpddr a then 0 else memByte s.mem a)

/-- R361 to R363, R373, R377, R423, R424, R427: errors. A corrected error is logged and changes nothing else; an uncorrectable
one marks its line, is logged with its line's address, and no scrub clears the mark; an uncontained error of a unit other than
the switch die is logged and is a partition fault, which ends all the partition's cores were doing; one of the switch die is either
that or a fault of the active command-processor core, by what it struck (logs 57 and 58). A flit that fails its CRC changes nothing.
A frame that uses an unsupported part, lacks what MACsec asks or carries no good header is dropped and counted. -/
def Obligations.ErrorSteps : Prop :=
  ∀ (s : State) (unit part : BitVec 8) (addr : Word) (die : Fin 16) (m : Fin 24) (f : EthFrame),
    let entry (sev : BitVec 2) (a : Word) : ErrEntry := ⟨a, 1, (s.part part.toNat).qtime, part, unit, sev, false⟩
    let logged := s.logError 3 unit part 0
    let dropped : Host.Outcome State Fault Refusal := .next { s with dropped := s.dropped + 1 }
    let udp : BitVec 16 := match Sparse.find s.udp f.port.val with | some x => x | none => 27218
    let fits := f.pause = false ∧ f.tags ≤ 1 ∧ f.len ≤ 9216 ∧ f.extra = false ∧ f.fragment = false
      ∧ (f.sumGood = true ∨ (f.v6 = false ∧ f.sum = 0)) ∧ f.dport = udp
    let rxKey (an : BitVec 2) : Option (List Byte) := Sparse.find s.macsec ((4 * f.port.val + an.toNat) * 2)
    ((∀ j, j < 256 → (s.errEntry j).sev = 1 → (s.errEntry j).part = part → (s.errEntry j).addr ≠ addr) →
        ∃ u : State, exec (.errorCorrected unit part addr) s = .next u ∧ u.errEntry s.errHead.toNat = entry 1 addr
          ∧ u.errHead = s.errHead + 1 ∧ u.mem = s.mem ∧ u.cores = s.cores ∧ u.parts = s.parts ∧ u.poison = s.poison)
      ∧ (∃ u : State, exec (.linePoisoned unit part addr) s = .next u ∧ u.poisoned (placeOf part.toNat addr.toNat) 1 = true
          ∧ u.errEntry s.errHead.toNat = entry 2 (addr &&& ~~~63) ∧ u.mem = s.mem ∧ u.cores = s.cores)
      ∧ (unit ≠ 12 → exec (.uncontainedError unit part) s = .next (logged.partitionFault part.toNat))
      ∧ (exec (.uncontainedError 12 part) s = .next ((s.logError 3 12 part 0).partitionFault part.toNat)
          ∨ exec (.uncontainedError 12 part) s = exec .cpMachineCheck (s.logError 3 12 part 0))
      ∧ (logged.errEntry s.errHead.toNat = entry 3 0 ∧ logged.errHead = s.errHead + 1 ∧ logged.cores = s.cores ∧ logged.mem = s.mem)
      ∧ (unit ≠ 12 → (s.part part.toNat).live = false →
          ∃ u : State, exec (.uncontainedError unit part) s = .next u ∧ u.errEntry s.errHead.toNat = entry 3 0 ∧ u.cores = s.cores)
      ∧ (unit ≠ 12 → part.toNat < 12 → (s.part part.toNat).live = true → (s.part part.toNat).failed = false →
          ∃ u : State, exec (.uncontainedError unit part) s = .next u ∧ (u.part part.toNat).failed = true
            ∧ ∀ c, c < Config.computeCores → (s.part part.toNat).hasDie (c / 32) = true → u.core c = Core.reset)
      ∧ exec .scrub s = .next s
      ∧ exec (.flitCrcError die m) s = .next s
      ∧ (¬ fits → exec (.frameDropped f) s = dropped)
      ∧ (f.sec = none → (∃ an, rxKey an ≠ none) → exec (.frameDropped f) s = dropped)
      ∧ (∀ t, f.sec = some t → (rxKey t.an = none ∨ t.pn < Sparse.get 0 s.macPn (4 * f.port.val + t.an.toNat)
            ∨ ∃ key, rxKey t.an = some key ∧ Config.icvValid key t.an.toNat t.pn f.data t.icv = false) →
          exec (.frameDropped f) s = dropped)
      ∧ (fits → f.sec = none → (∀ an, rxKey an = none) →
          exec (.frameDropped f) s = if s.headerOk f.port f.data then .next s else dropped)
      ∧ (∀ t key, fits → f.sec = some t → rxKey t.an = some key → Config.icvValid key t.an.toNat t.pn f.data t.icv = true →
          Sparse.get 0 s.macPn (4 * f.port.val + t.an.toNat) ≤ t.pn →
          ∃ u : State, exec (.frameDropped f) s = .next u ∧ u.dropped = (if s.headerOk f.port f.data then s.dropped else s.dropped + 1)
            ∧ Sparse.get 0 u.macPn (4 * f.port.val + t.an.toNat) = t.pn + 1 ∧ u.mem = s.mem ∧ u.cores = s.cores)
      ∧ (f.data.length < 32 ∨ headerBits f.data 96 14 ≠ 0 ∨ headerBits f.data 112 4 ≠ 1 ∨ headerBits f.data 144 16 ≠ f.data.length - 32 →
          s.headerOk f.port f.data = false)

/-- R330: on a partition fault every queue of the partition is DRAINING, every graph of it that was WAITING, READY, RUNNING or
COMPLETING is DISCARDED. No CKIND of a discarded graph is applied: no completion counter or barrier object changes then, and the
completion step of a discarded graph does nothing. Which events are partition faults is said of those events' own steps. -/
def Obligations.PartitionFault : Prop :=
  ∀ (s : State) (part : Nat), part < 12 → (s.part part).live = true → (s.part part).failed = false →
    let u := s.partitionFault part
    (∀ q, q < s.queueCount → (u.queue part q).st = .draining)
      ∧ (∀ n g, Sparse.find s.graphs n = some g → g.part = part →
          g.st = .waiting ∨ g.st = .ready ∨ g.st = .running ∨ g.st = .completing →
          ∃ g1, Sparse.find u.graphs n = some g1 ∧ g1.st = .discarded)
      ∧ (∀ n g, Sparse.find u.graphs n = some g → g.part = part → g.st = .done ∨ g.st = .discarded)
      ∧ u.counters = s.counters ∧ u.barriers = s.barriers
      ∧ (∀ (v : State) (n : Nat) (g : Graph) (p : PartId), Sparse.find v.graphs n = some g → g.st = .discarded →
          exec (.graphComplete p n) v = .next v)

/-- R432: the record of a task that stops: 56 bytes with the status word, the die and the core, six zero bytes, and TCAUSE, TPC,
TTGT, TINFO and TWP; it goes out as EVENT kind 3 on the control channel of the task's partition. -/
def Obligations.StopRecord : Prop :=
  ∀ (s : State) (core : Nat) (t : Task), (s.bank core).task = some t → core < 386 →
    let u := s.stopTask core
    let b := u.bank core
    ∃ m : OutMsg, (m ∈ u.sent ∨ m ∈ (u.chan (chanKey t.part 0xFFF)).queued) ∧ m.type = 0x0E ∧ m.part = t.part ∧ m.chan = 0xFFF
      ∧ m.arg = 3 ∧ m.payload.length = 56
      ∧ natOf (m.payload.take 8) = u.statusWord core
      ∧ natOf ((m.payload.drop 8).take 1) = core / 32 ∧ natOf ((m.payload.drop 9).take 1) = core % 32
      ∧ (∀ j, 10 ≤ j → j < 16 → m.payload.getD j 1 = 0)
      ∧ natOf ((m.payload.drop 16).take 8) = b.tcause.toNat ∧ natOf ((m.payload.drop 24).take 8) = b.frame.tpc.toNat
      ∧ natOf ((m.payload.drop 32).take 8) = b.frame.ttgt.toNat ∧ natOf ((m.payload.drop 40).take 8) = b.frame.tinfo.toNat
      ∧ natOf ((m.payload.drop 48).take 8) = b.frame.twp.toNat

/-! ### The host (R138, R139, R363 to R378) -/

/-- R363, R365, R367, R368, R372, R374, R392: the order of a channel. A sequenced message at E is taken and E rises by one; one before E is a
duplicate, answered with ACK, one after it a gap, answered with NAK of E, and neither has another effect. Numbers below an
acknowledged one leave the retransmission buffer. A NAK has the rest sent again, a SYNC_REQ is answered and has them sent
again, a timer of the device acknowledges or resends. When 64 messages have been accepted that nothing sent has acknowledged,
an ACK goes out. A message of a partition that is being reset is answered with NAK of reason 2. A message of a type its channel
does not allow raises EVENT kind 5; an operation outside the table of R367 is refused; a message of an unknown type or one that names
no channel, and in recovery every message, is dropped and counted. That a SYNC_REQ without RST is answered alike is log 55. -/
def Obligations.ChannelOrder : Prop :=
  ∀ (s : State) (m : Msg) (type : BitVec 8),
    let k := msgKey m
    let c := s.chan k
    let mine : Nat → OutMsg → Prop := fun ty x => x.type = BitVec.ofNat 8 ty ∧ x.part = m.part.toNat ∧ x.chan = m.chan.toNat
    let dropped : Host.Outcome State Fault Refusal := .next { s with dropped := s.dropped + 1 }
    let plain := s.hostOk m = true ∧ s.recovery = false
    let calm := plain ∧ m.ackv = false ∧ (s.part m.part.toNat).resetting = none
    let normal := calm ∧ knownType type.toNat = true
    let early := (c.expect + 1 - c.told).toNat < 64
    let heard := m.seq = c.expect ∧ c.frag = [] ∧ early
    let took := s.setChan k { c with expect := c.expect + 1 }
    let sentOne (u : State) (x : OutMsg) : Prop := u = { s.setChan k { c with told := c.expect } with sent := s.sent ++ [x] }
    (normal → heard → exec (.messageRefused type m) s = .next (took.event m.part.toNat 5
        (bytesOf m.chan.toNat 2 ++ [type] ++ bytesOf 0 5 ++ bytesOf m.seq.toNat 6 ++ bytesOf 0 2)))
      ∧ (normal → m.seq = c.expect → c.frag = [] → ¬ early → m.chan.toNat ≠ ctlChan →
          ∃ (u : State) (x : OutMsg), exec (.messageRefused type m) s = .next u ∧ x ∈ u.sent ∧ mine 0x06 x ∧ x.ack = c.expect + 1
            ∧ (u.chan k).expect = c.expect + 1 ∧ (u.chan k).told = c.expect + 1)
      ∧ (normal → seqBefore m.seq c.expect = true →
          ∃ (u : State) (x : OutMsg), exec (.messageRefused type m) s = .next u ∧ sentOne u x ∧ mine 0x06 x ∧ x.ack = c.expect)
      ∧ (normal → m.seq ≠ c.expect → seqBefore m.seq c.expect = false →
          ∃ (u : State) (x : OutMsg), exec (.messageRefused type m) s = .next u ∧ sentOne u x ∧ mine 0x07 x
            ∧ x.arg = BitVec.ofNat 96 (c.expect.toNat + 2 ^ 48))
      ∧ (plain → m.ackv = false → knownType type.toNat = true → (s.part m.part.toNat).resetting ≠ none →
          ∃ (u : State) (x : OutMsg), exec (.messageRefused type m) s = .next u ∧ sentOne u x ∧ mine 0x07 x
            ∧ x.arg = BitVec.ofNat 96 (c.expect.toNat + 2 * 2 ^ 48))
      ∧ (s.hostOk m = false ∨ s.recovery = true →
          exec (.messageRefused type m) s = dropped ∧ exec (.ack m) s = dropped ∧ exec (.nak m) s = dropped
            ∧ exec (.syncReq m) s = dropped ∧ exec (.syncResp m) s = dropped)
      ∧ (type = 0 ∨ type = 0x0F ∨ 0x15 ≤ type.toNat ∧ type.toNat < 0x20 ∨ 0x24 ≤ type.toNat → exec (.messageRefused type m) s = dropped)
      ∧ (plain → m.ackv = true → c.queued = [] → exec (.ack m) s = .next
          (s.setChan k { c with unacked := c.unacked.filter fun x => !seqBefore x.seq m.ack }))
      ∧ (plain → m.ackv = false → c.queued = [] →
          (let left := c.unacked.filter fun x => !seqBefore x.seq (m.arg.extractLsb' 0 48)
           exec (.nak m) s = .next (if left = [] then s.setChan k { c with unacked := [] }
             else { s.setChan k { c with unacked := left, told := c.expect } with
               sent := s.sent ++ left.map fun x => { x with ack := c.expect } })))
      ∧ (plain → m.ackv = false → c.frag = [] →
          ∃ (u : State) (x : OutMsg), exec (.syncReq m) s = .next u ∧ mine 0x09 x
            ∧ x.arg = (c.next - 1) ++ (c.expect - 1)
            ∧ u.sent = s.sent ++ x :: c.unacked.map fun x => { x with ack := c.expect })
      ∧ (plain → m.ackv = false → m.chan.toNat = ctlChan → (s.part m.part.toNat).holding = true → s.take = [] →
          ∃ u : State, exec (.syncResp m) s = .next u ∧ (u.part m.part.toNat).holding = false
            ∧ (u.part m.part.toNat).heldMsgs = [])
      ∧ (plain → m.ackv = false → (s.part m.part.toNat).holding = false → exec (.syncResp m) s = .next s)
      ∧ (∀ kk p, s.timerKey m.part m.chan = some (kk, p) →
          let d := s.chan kk
          (∃ (u : State) (x : OutMsg), exec (.ackTimeout m.part m.chan) s = .next u ∧ u.sent = s.sent ++ [x]
            ∧ u.chan kk = { d with told := d.expect } ∧ x.type = 0x06 ∧ x.part = p ∧ x.chan = m.chan.toNat ∧ x.ack = d.expect)
          ∧ (∃ u : State, exec (.retransmitTimeout m.part m.chan) s = .next u
            ∧ u.sent = s.sent ++ d.unacked.map (fun x => { x with ack := d.expect }) ∧ u.mem = s.mem ∧ u.cores = s.cores))
      ∧ (m.port = 8 → s.hostChan m.part.toNat m.chan.toNat = true → s.timerKey m.part m.chan = some (k, m.part.toNat))
      ∧ (calm → heard → m.chan.toNat = ctlChan → s.ctlHeld = false →
          exec (.controlRefused m) s = .next (took.emit m.part.toNat ctlChan mtControlDone (BitVec.ofNat 96 (m.seq.toNat + 2 ^ 48)) []))

/-- R138, R322, R326, R338, R365, R373, R375, R377, R417: what the host asks of memory on a queue channel. A WRITE puts its bytes at
its address, a READ_REQ is answered with the bytes there, a DOORBELL sets WR and KICK of its queue, and after a partition fault it
is accepted and discarded. An access to a page that is being flipped is held, and so is a WRITE of the memory channel (log 55)
unless it writes back a page that is being flushed; while a checkpoint copies the partition's memory, or a link on the way
retrains, every access is held. A DEV_READ_RESP gives its bytes to the access that asked, and a FLUSH_DONE ends its flip. The host's
addresses of the tables are free values (log 37); the places of memory in the model's storage are its own (log 59). -/
def Obligations.HostMemory : Prop :=
  ∀ (s : State) (m : Msg) (p : Nat),
    let k := msgKey m
    let c := s.chan k
    let part := m.part.toNat
    let a := (m.arg.extractLsb' 0 64).toNat
    let n := (m.arg.extractLsb' 64 16).toNat
    let took := s.setChan k { c with expect := c.expect + 1 }
    let early := (c.expect + 1 - c.told).toNat < 64
    let heard := s.hostOk m = true ∧ s.recovery = false ∧ m.ackv = false ∧ m.seq = c.expect ∧ c.frag = [] ∧ early ∧ part ≠ mgrPart
      ∧ (s.part part).resetting = none
    let copied := (s.ckState = 1 ∨ s.ckState = 2) ∧ s.ckMask.getLsbD part = true
    let open' (wr : Bool) : Prop := ¬ copied ∧ s.behindLink m wr = false ∧ s.heldHost = []
    let held (wr : Bool) : Host.Outcome State Fault Refusal := .next { took with heldHost := s.heldHost ++ [(wr, m)] }
    let plain (len : Nat) := ∀ j, j < len → s.hostLoc part (a + j) = .memory (p + j) ∧ isLoft (p + j) = false ∧ isDirect (p + j) = false
    (heard → m.chan.toNat < s.queueCount → open' true → s.namesFlip m true = false → plain m.payload.length →
        ∃ u : State, exec (.write m) s = .next u
          ∧ (∀ j, j < m.payload.length → u.byteAt (p + j) = m.payload.getD j 0)
          ∧ (∀ x, isLoft x = false → x < p ∨ p + m.payload.length ≤ x → u.byteAt x = s.byteAt x)
          ∧ u.chans = took.chans)
      ∧ (heard → m.chan.toNat < s.queueCount → open' false → s.namesFlip m false = false → 1 ≤ n → n ≤ 8192 → plain n →
          (∀ j, j < n → s.poisoned (p + j) 1 = false) → c.unacked = [] → c.queued = [] →
          ∃ (u : State) (x : OutMsg), exec (.readReq m) s = .next u ∧ u.sent = s.sent ++ [x] ∧ x.type = 0x03
            ∧ x.chan = m.chan.toNat ∧ x.arg = m.seq.zeroExtend 96 ∧ x.payload.length = n ∧ u.mem = s.mem
            ∧ ∀ j, j < n → x.payload.getD j 0 = s.byteAt (p + j))
      ∧ (heard → m.chan.toNat < s.queueCount → s.namesFlip m true = true → exec (.write m) s = held true)
      ∧ (heard → m.chan.toNat < s.queueCount → 1 ≤ n → n ≤ 8192 → s.namesFlip m false = true → exec (.readReq m) s = held false)
      ∧ (heard → m.chan.toNat = memChan → s.namesFlip m true = true → s.writesBack m = false → exec (.write m) s = held true)
      ∧ (heard → m.chan.toNat < s.queueCount ∨ m.chan.toNat = memChan → copied ∨ s.behindLink m true = true → exec (.write m) s = held true)
      ∧ (heard → m.chan.toNat < s.queueCount → 1 ≤ n → n ≤ 8192 → copied ∨ s.behindLink m false = true → exec (.readReq m) s = held false)
      ∧ (heard → m.chan.toNat = memChan → open' true → s.namesFlip m true = false ∨ s.writesBack m = true → plain m.payload.length →
          ∃ u : State, exec (.write m) s = .next u ∧ ∀ j, j < m.payload.length → u.byteAt (p + j) = m.payload.getD j 0)
      ∧ (heard → m.chan.toNat < s.queueCount → (s.part part).failed = false →
          ∃ u : State, exec (.doorbell m) s = .next u ∧ (u.queue part m.chan.toNat).wr = m.arg.extractLsb' 0 32
            ∧ (u.queue part m.chan.toNat).kick = true)
      ∧ (heard → m.chan.toNat < s.queueCount → (s.part part).failed = true → exec (.doorbell m) s = .next took)
      ∧ (∀ (x : OutMsg) (core : Nat), heard → m.chan.toNat = memChan →
          s.asked mtDevRead part (m.arg.extractLsb' 0 48) = some x →
          ∃ u : State, exec (.devReadResp m) s = .next u
            ∧ (∀ (j : Nat) (e : Entry), (s.bank core).fly[j]? = some e → e.msg = x.tag →
                ∃ y, (u.bank core).fly[j]? = some y ∧ y = { e with msg := 0, got := e.got ++ m.payload })
            ∧ u.mem = s.mem)
      ∧ (∀ (x : OutMsg) (f : Flip), heard → m.chan.toNat = memChan →
          s.asked mtFlush part (m.arg.extractLsb' 0 48) = some x →
          s.flips = [f] → f.part = part → f.st = .flushing → f.msg = x.tag → s.heldHost = [] →
          ∃ u : State, exec (.flushDone m) s = .next u ∧ u.flips = [])
      ∧ (∀ (ty : BitVec 8) (x : OutMsg) (old new : List OutMsg), s.sent = old ++ x :: new → x.type = ty → x.part = part →
          x.chan = memChan → x.seq = m.arg.extractLsb' 0 48 → x.tag ≠ 0 →
          (∀ y ∈ new, ¬ (y.type = ty ∧ y.part = part ∧ y.chan = memChan ∧ y.seq = m.arg.extractLsb' 0 48 ∧ y.tag ≠ 0)) →
          s.asked ty part (m.arg.extractLsb' 0 48) = some x)

/-- R28, R139, R140, R322, R323, R341, R350, R351, R359, R362, R367 to R370, R372, R375, R378, R387: CONTROL operations. Each is
answered with CONTROL_DONE: status 0 when it is done, 1 when it is refused. The manager sets the mode while no partition
exists, creates a partition of the mode's dies, trains links and sets keys; a partition's driver resets or ends its
partition, sets queue descriptors, answers faults, resumes stopped tasks, tears contexts down, sets watchdog limits and
flips pages. Until a reset is answered the partition's messages are not accepted; then CONTROL_DONE is the first message of its new
control channel. While a take-over runs CONTROL messages wait (R396, R399). The places of the operands of MODE, PCREATE, QDESC and FLIP
in ARG, that LOGSZ 0 disables a queue, that FLIP toggles and that an unknown context is answered with status 1 are the model's choices
(log 12), as are what a reset leaves of a queue's descriptor (log 58) and the key an empty payload retires (log 37). -/
def Obligations.ControlOperations : Prop :=
  ∀ (s : State) (m : Msg),
    let k := msgKey m
    let c := s.chan k
    let part := m.part.toNat
    let p := s.part part
    let field (lo n : Nat) : Nat := (m.arg.extractLsb' lo n).toNat
    let took := s.setChan k { c with expect := c.expect + 1 }
    let early := (c.expect + 1 - c.told).toNat < 64
    let heard := s.hostOk m = true ∧ s.recovery = false ∧ m.ackv = false ∧ m.seq = c.expect ∧ c.frag = [] ∧ early
      ∧ m.chan.toNat = ctlChan ∧ p.resetting = none
    let now := heard ∧ s.ctlHeld = false
    let manager := part = mgrPart
    let driver := part ≠ mgrPart
    let answer (u : State) (status : Nat) : State := u.emit part ctlChan mtControlDone (BitVec.ofNat 96 (m.seq.toNat + status * 2 ^ 48)) []
    let noParts := ∀ q, q < 12 → (s.part q).live = false
    let told (u : State) (status : Nat) : Prop := ∃ x : OutMsg, (x ∈ u.sent ∨ x ∈ (u.chan (chanKey part ctlChan)).queued)
      ∧ x.type = mtControlDone ∧ x.arg = BitVec.ofNat 96 (m.seq.toNat + status * 2 ^ 48)
    let first (u : State) : Prop := ∃ x ∈ u.sent, x.type = mtControlDone ∧ x.part = part ∧ x.chan = ctlChan ∧ x.seq = 0
      ∧ x.arg = m.seq.zeroExtend 96
    (heard → s.ctlHeld = true → exec (.mode m) s = .next { took with heldCtl := s.heldCtl ++ [(1, m)] })
      ∧ (now → manager → noParts → field 8 8 ≤ 2 → exec (.mode m) s = .next (answer { took with mode := BitVec.ofNat 2 (field 8 8) } 0))
      ∧ (now → manager → (∃ q, q < 12 ∧ (s.part q).live = true) → exec (.mode m) s = .next (answer took 1))
      ∧ (now → driver → exec (.mode m) s = .next (answer took 1))
      ∧ (now → manager → modeDies s.mode (field 8 8) ≠ 0 → (s.part (field 8 8)).live = false → field 24 6 ≤ 32 →
          (∀ q, q < 12 → (s.part q).live = true → (s.part q).ports &&& m.arg.extractLsb' 16 8 = 0) →
          ∃ u : State, exec (.pcreate m) s = .next u ∧ told u 0
            ∧ (let y := u.part (field 8 8)
               y.live = true ∧ y.dies = modeDies s.mode (field 8 8) ∧ y.ports = m.arg.extractLsb' 16 8 ∧ y.hsets = field 24 6
                ∧ y.records = [] ∧ y.epoch = 0 ∧ y.qtime = 0))
      ∧ (now → manager → (s.part (field 8 8)).live = true → exec (.pcreate m) s = .next (answer took 1))
      ∧ (now → driver →
          (∃ u : State, exec (.preset m) s = .next u ∧ (u.part part).resetting = some (m.seq, false) ∧ (u.part part).live = true
            ∧ (u.part part).dies = p.dies ∧ (∀ q, q < 512 → u.queue part q = Queue.reset)
            ∧ (∀ d, d < 12 → p.hasDie d = true → (u.die d).clusters = [] ∧ (u.die d).pages = [] ∧ (u.die d).waits = [] ∧ (u.die d).moves = [])
            ∧ ((∀ j, (s.core j).bank.fly = [] ∧ (s.core j).other.fly = [] ∧ ∀ x ∈ Sparse.get [] s.saved j, x.fly = []) →
                ∀ d, d < 12 → p.hasDie d = true →
                  u.die d = { s.die d with clusters := [], pages := [], waits := [], moves := [] })
            ∧ (∀ j, j < Config.computeCores → p.hasDie (j / 32) = true → u.core j = Core.reset)
            ∧ first (u.resetEnds part) ∧ ((u.resetEnds part).part part).live = true ∧ ((u.resetEnds part).part part).resetting = none)
          ∧ (∃ u : State, exec (.pdestroy m) s = .next u ∧ (u.part part).resetting = some (m.seq, true)
            ∧ first (u.resetEnds part) ∧ (u.resetEnds part).part part = Machine.Part.none))
      ∧ (now → driver → field 16 9 < s.queueCount → m.payload.length = 32 → (s.queue part (field 16 9)).st ≠ .draining →
          ∀ d, d = natOf m.payload →
          (BitVec.ofNat 5 (d / 2 ^ 16) = (0 : BitVec 5) → ∃ u : State, exec (.qdesc m) s = .next u ∧ told u 0
            ∧ (u.queue part (field 16 9)).st = .disabled)
          ∧ (8 ≤ d / 2 ^ 16 % 32 → d / 2 ^ 16 % 32 ≤ 20 → d / 2 ^ 8 % 16 ≠ 0 → d / 2 ^ 192 % 2 ^ 64 % 2 ^ (d / 2 ^ 16 % 32) = 0 →
              (s.queue part (field 16 9)).st = .disabled → s.graphs = [] →
              ∃ u : State, exec (.qdesc m) s = .next u ∧ told u 0
                ∧ (let q := u.queue part (field 16 9)
                   q.st = .active ∧ q.base = BitVec.ofNat 64 (d / 2 ^ 192) ∧ q.wr = BitVec.ofNat 32 (d / 2 ^ 160)
                    ∧ q.logsz = BitVec.ofNat 5 (d / 2 ^ 16) ∧ q.weight = BitVec.ofNat 4 (d / 2 ^ 8)
                    ∧ q.prio = BitVec.ofNat 2 (d / 2 ^ 6) ∧ q.rd = (s.queue part (field 16 9)).rd)))
      ∧ (∀ (r : FaultRec) (core : Nat), now → driver → p.records = [r] → r.recno = field 16 32 → r.agents = [.instr core] →
          (s.bank core).wait.toNat = wTranslation →
          ∃ u : State, exec (.faultAnswer m) s = .next u ∧ told u 0 ∧ (u.part part).records = []
            ∧ u.bank core = (if m.arg.getLsbD 8 then
                { s.bank core with walkTrap := some (cTranslation, r.va, BitVec.ofNat 64 r.va), wait := 0 }
              else { s.bank core with wait := 0 }))
      ∧ (now → driver → (∀ r ∈ p.records, r.recno ≠ field 16 32) → exec (.faultAnswer m) s = .next (answer took 1))
      ∧ (let core := 32 * field 24 4 + field 16 5
         let b := s.bank core
         (now → driver → core < Config.computeCores → b.stoppedOf part = true → ∃ u : State, exec (.taskResume m) s = .next u ∧ told u 0
            ∧ u.bank core = { b with stopped := false, trapst := true, resuming := true, wait := 0 })
          ∧ (now → driver → Config.computeCores ≤ core ∨ b.stoppedOf part = false ∧ (s.core core).other.stoppedOf part = false →
              exec (.taskResume m) s = .next (answer took 1)))
      ∧ (now → driver → s.hasCtx part (field 16 16) = true →
          (∃ u : State, exec (.wdlimit m) s = .next u ∧ told u 0
            ∧ (u.ctxInfo part (field 16 16)).wdlim = m.arg.extractLsb' 32 32
            ∧ (∀ e ∈ u.cores, ∀ t, e.2.bank.task = some t → t.part = part → t.ctx = field 16 16 →
                e.2.bank.wdlim = m.arg.extractLsb' 32 32))
          ∧ (∃ u : State, exec (.ctxTeardown m) s = .next u ∧ told u 0
            ∧ (u.ctxInfo part (field 16 16)).live = false
            ∧ (∀ j t, (u.bank j).task = some t → ¬ (t.part = part ∧ t.ctx = field 16 16))
            ∧ ((∀ e ∈ s.ctxs, e.1 / 65536 = part → e.2.live = true → e.1 % 65536 = field 16 16) →
                Sparse.find u.keys (256 * part + (s.tenantOf part (field 16 16)).toNat) = none)
            ∧ (∀ e ∈ u.tlb, ¬ (e.part = part ∧ e.ctx = field 16 16)) ∧ (∀ w ∈ u.walks, ¬ (w.part = part ∧ w.ctx = field 16 16))
            ∧ (∀ e ∈ u.codes, ¬ (e.1 / 65536 % 4096 = part ∧ e.2.ctx = field 16 16))))
      ∧ (now → driver → s.hasCtx part (field 16 16) = false → exec (.wdlimit m) s = .next (answer took 1)
          ∧ exec (.ctxTeardown m) s = .next (answer took 1))
      ∧ (now → manager → field 8 4 ≤ 8 → exec (.macsecKey m) s = .next
          (answer { took with
            macsec := (let key := 2 * (4 * field 8 4 + field 12 2) + field 14 1
              if m.payload = [] then Sparse.erase s.macsec key else s.macsec.set key m.payload),
            macPn := if field 14 1 = 0 then Sparse.erase s.macPn (4 * field 8 4 + field 12 2) else s.macPn } 0))
      ∧ (now → manager → 8 < field 8 4 → exec (.macsecKey m) s = .next (answer took 1))
      ∧ (let x := s.linkAt (field 8 8) (field 16 8)
         (now → manager → moduleOk (field 8 8) (field 16 8) = true → x.mode = .active → x.waiting = [] →
            m.arg.extractLsb' 24 2 ≠ 3 → ∃ u : State, exec (.link m) s = .next u
            ∧ u.linkAt (field 8 8) (field 16 8) = { x with
                mode := .retrain, cur := some ⟨m.seq, m.arg.extractLsb' 24 2, m.arg.extractLsb' 26 2, 0⟩ })
          ∧ (now → manager → moduleOk (field 8 8) (field 16 8) = false ∨ x.mode = .failed ∨ x.mode = .disabled →
              exec (.link m) s = .next (answer took 1)))
      ∧ (∀ (pl size : Nat) (rest : List (Nat × Nat)), now → driver → s.leavesOf part (field 8 64) = (pl, size) :: rest → s.flips = [] →
          exec (.flip m) s = .next { took with flips := [⟨part, field 8 64, size, !s.biasAt pl, m.seq, .flipping, 0⟩] })
      ∧ (now → driver → s.leavesOf part (field 8 64) = [] → exec (.flip m) s = .next (answer took 1))

/-- R140, R298, R314, R338, R340, R365, R371 to R373, R377, R378, R391, R392, R396, R397, R399: loading, reset, take-over, links and
peers. A LOAD's fragments gather until the last, and the whole object is accepted or refused with its record; a good
firmware image is written to flash, a bad one is refused with its code; the order of those checks, and that the image the module
is shipped with passes them, are log 9. A device reset leaves main memory, the flash and the checkpoint image and little else
(log 51), and enters recovery where the flash holds no good image or its writing was broken off. When the active command-processor core faults the standby takes over, its epoch rises,
and COMPLETION messages are held; before it clears TAKE the new active core applies the journal's committed records and drops later
ones; a take-over that lasts too long is a fault of every partition. A module retrains, comes back or fails, and its failure is told
to the partitions that hold the die. A peer's write and read reach the partition its port belongs to, a message that names another
partition is dropped, a PEER_READ_RESP has no effect but its number, and a reduction gathers its values and its ports and drains
them with the root's final contribution, to a format that is a free value (log 48). -/
def Obligations.DeviceWideSteps : Prop :=
  ∀ (s : State) (m : Msg) (image : List Byte) (die : Fin 16) (md : Fin 24) (port : Fin 8) (p : Nat),
    let k := msgKey m
    let c := s.chan k
    let early := (c.expect + 1 - c.told).toNat < 64
    let heard := s.hostOk m = true ∧ s.recovery = false ∧ m.ackv = false ∧ m.seq = c.expect ∧ early ∧ m.chan.toNat = ctlChan
      ∧ (s.part m.part.toNat).resetting = none
    let o := c.frag ++ m.payload
    let handle := (m.arg.extractLsb' 0 16).toNat
    let ctx := (m.arg.extractLsb' 32 16).toNat
    let part := m.part.toNat
    let whole := { c with expect := c.expect + 1, frag := [] }
    let x := s.linkAt die.val md.val
    let pc := s.chan (peerKey port.val)
    let peer := s.portHolder port.val = some p ∧ part = p ∧ m.chan = 0xFFD ∧ m.payload.length ≤ 8192 ∧ s.recovery = false
      ∧ m.ackv = false ∧ m.seq = pc.expect ∧ pc.frag = [] ∧ (pc.expect + 1 - pc.told).toNat < 64
      ∧ (s.part p).resetting = none
    let open' (wr : Bool) : Prop := s.behindLink m wr = false ∧ s.heldHost = []
    let r := Sparse.get ⟨0, [], false, []⟩ s.reds ((m.arg.extractLsb' 0 16).toNat)
    let drain (acc : List Tun) : List (BitVec 128) :=
      acc.map (reduceDrain (m.arg.extractLsb' 0 16).toNat ((Config.freeWord s.turn).truncate 32))
    let tookPeer := s.setChan (peerKey port.val) { pc with expect := pc.expect + 1 }
    let a := (m.arg.extractLsb' 0 64).toNat
    let n := (m.arg.extractLsb' 64 16).toNat
    let plain (len : Nat) := ∀ j, j < len → (s.part p).populated (a + j) = true ∧ isLoft (placeOf p (a + j)) = false
      ∧ isDirect (placeOf p (a + j)) = false ∧ placeOf p (a + j) = placeOf p a + j
    (heard → part ≠ mgrPart → m.arg.getLsbD 16 = false →
        exec (.load m) s = .next (s.setChan k { c with expect := c.expect + 1, frag := o }))
      ∧ (heard → part ≠ mgrPart → m.arg.getLsbD 16 = true →
          (let w := s.setChan k whole
           (∀ e, loadErr o (w.loadEnv part ctx handle o) = some e → exec (.load m) s = .next (w.loadDone part handle e.word))
            ∧ (loadErr o (w.loadEnv part ctx handle o) = none →
                ∃ u : State, exec (.load m) s = .next u
                  ∧ Sparse.find u.codes (65536 * part + handle) = some ((codeFrom o ctx).over (Sparse.find s.codes (65536 * part + handle)))
                  ∧ (u.ctxInfo part ctx).live = true)))
      ∧ (imageErr image ≠ 0 → exec (.firmwareLoad image) s = .next (s.loadDone mgrPart 0xFFFF (imageErr image)))
      ∧ (imageErr image = 0 → exec (.firmwareLoad image) s = .next (({ s with flashing := some image } : State).loadDone mgrPart 0xFFFF 0))
      ∧ (imageForm image = false → imageErr image = 0x22)
      ∧ (heard → part = mgrPart → handle = 0xFFFF → m.arg.getLsbD 16 = true →
          exec (.load m) s = exec (.firmwareLoad o) (s.setChan k whole))
      ∧ (s.flashing = some image →
          s.flashDone = (let u : State := { s with flash := .bytes image, flashing := none }
            if s.recovery then u.resetDevice else u))
      ∧ (∃ u : State, exec .deviceReset s = .next u ∧ u.cores = [] ∧ u.parts = [] ∧ u.dies = [] ∧ u.queues = [] ∧ u.tlb = []
          ∧ u.flash = (if s.flashing = none then s.flash else .bytes []) ∧ u.ckImage = s.ckImage ∧ u.xmss = s.xmss ∧ u.mode = 0
          ∧ u.mainOn = true ∧ (s.flashing ≠ none → u.recovery = true)
          ∧ (s.flashing = none → s.flash = .shipped → u.recovery = false ∧ u.jbase = 0x200100000)
          ∧ (s.flashing = none → s.flash = .bytes image → (u.recovery = false ↔ imageErr image = 0))
          ∧ (∀ a, s.survives a = true → memByte u.mem a = memByte s.mem a) ∧ (∀ a, isLoft a = true → memByte u.mem a = 0))
      ∧ (s.roles = [(0, .active), (1, .standby)] → s.take = [] →
          ∃ u : State, exec .cpMachineCheck s = .next u ∧ Sparse.get Role.out u.roles 0 = .out
            ∧ Sparse.get Role.out u.roles 1 = .active ∧ Sparse.get false u.take 1 = true
            ∧ ∀ q, (s.part q).live = true → (u.part q).holding = true ∧ (u.part q).epoch = (s.part q).epoch + 1)
      ∧ ((∀ e ∈ s.take, e.2 = false) → exec .takeoverTimeout s = .next s)
      ∧ ((∃ e ∈ s.take, e.2 = true) → ∃ u : State, exec .takeoverTimeout s = .next u ∧ u.take = []
          ∧ ∀ q, q < 12 → (s.part q).live = true → (u.part q).failed = true)
      ∧ (∃ u : State, exec .cproleTakeClear s = .next u ∧ Sparse.get false u.take 0 = false ∧ Sparse.get false u.take 1 = false)
      ∧ (∀ j, j < 2 → Sparse.get false s.take j = true → Sparse.get false s.take (1 - j) = false →
          (s.bank (Config.cpCore + j)).task = none →
          ∃ u : State, exec .cproleTakeClear s = .next u ∧ u.jtail = u.jhead
            ∧ ((∀ i ∈ s.jBelow s.cursor, (s.jRec i).kind ≠ 5) → u.queues = s.queues ∧ u.graphs = s.graphs ∧ u.counters = s.counters
                ∧ u.jhead = BitVec.ofNat 11 s.cursor)
            ∧ ∀ i l rest, s.jBelow s.cursor = i :: l :: rest → (s.jRec i).kind = 1 → (s.jRec l).kind = 5 →
                (∀ x ∈ rest, (s.jRec x).kind ≠ 5) → (s.part 0).live = true →
                (u.queue 0 ((s.jRec i).index % 512)).rd = BitVec.ofNat 32 (s.jRec i).value
                  ∧ u.jhead = BitVec.ofNat 11 ((s.cursor + 2) % 2048))
      ∧ (moduleOk die.val md.val = true → x.mode = .active →
          exec (.linkRetrainStart die md) s = .next (s.setLink die.val md.val { x with mode := .retrain }))
      ∧ (x.mode = .retrain → x.cur = none → x.waiting = [] →
          exec (.linkRetrainDone die md) s = .next (s.setLink die.val md.val { x with mode := .active }))
      ∧ (∀ r, x.mode = .retrain → x.cur = some r → r.step = 1 → x.waiting = [] → ∃ u : State,
          exec (.linkRetrainDone die md) s = .next u
            ∧ u.linkAt die.val md.val = { x with mode := .active, rate := r.rate, cur := none })
      ∧ (x.mode = .retrain → ∃ u : State, exec (.linkRetrainTimeout die md) s = .next u
          ∧ u.linkAt die.val md.val = { x with mode := .failed, cur := none, waiting := [] }
          ∧ ∀ q, (q ∈ s.holders die.val ∨ (s.holders die.val = [] ∧ q = mgrPart)) →
              ∃ y : OutMsg, (y ∈ u.sent ∨ y ∈ (u.chan (chanKey q ctlChan)).queued) ∧ y.type = mtEvent ∧ y.part = q ∧ y.arg = 4
                ∧ y.payload = [BitVec.ofNat 8 die.val, BitVec.ofNat 8 md.val])
      ∧ (peer → s.behindLink m true = true →
          exec (.peerWrite port m) s = .next { tookPeer with heldHost := s.heldHost ++ [(true, { m with port := port.castSucc })] })
      ∧ (peer → open' true → plain m.payload.length →
          ∃ u : State, exec (.peerWrite port m) s = .next u
            ∧ (∀ j, j < m.payload.length → u.byteAt (placeOf p a + j) = m.payload.getD j 0)
            ∧ (∀ y, isLoft y = false → y < placeOf p a ∨ placeOf p a + m.payload.length ≤ y → u.byteAt y = s.byteAt y))
      ∧ (peer → open' false → 1 ≤ n → n ≤ 8192 → plain n → (∀ j, j < n → s.poisoned (placeOf p a + j) 1 = false) → pc.unacked = [] → pc.queued = [] →
          ∃ (u : State) (y : OutMsg), exec (.peerReadReq port m) s = .next u ∧ u.sent = s.sent ++ [y] ∧ y.type = 0x22
            ∧ y.part = p ∧ y.port = port.val ∧ y.chan = 0xFFD ∧ y.arg = m.seq.zeroExtend 96 ∧ y.payload.length = n ∧ u.mem = s.mem
            ∧ ∀ j, j < n → y.payload.getD j 0 = s.byteAt (placeOf p a + j))
      ∧ (peer → exec (.peerReadResp port m) s = .next tookPeer)
      ∧ (peer → m.payload = [] → m.arg.getLsbD 16 = false ∨ r.final = true → exec (.reduce port m) s = .next { tookPeer with
          reds := s.reds.set handle { r with ports := r.ports ||| 1 <<< port.val } })
      ∧ (peer → m.payload = [] → m.arg.getLsbD 16 = true → r.final = false → ∃ u : State, exec (.reduce port m) s = .next u
          ∧ Sparse.find u.reds handle = some ⟨r.ports ||| 1 <<< port.val, r.acc, true, drain r.acc⟩ ∧ u.mem = s.mem)
      ∧ (peer → Sparse.find s.reds handle = none → m.payload.length = 16 → ∃ u : State, exec (.reduce port m) s = .next u
          ∧ (let acc := [Tun.addTun Tun.start (Tun.ofBits (BitVec.ofNat 128 (natOf m.payload)))]
             Sparse.find u.reds handle
              = some ⟨1 <<< port.val, acc, m.arg.getLsbD 16, if m.arg.getLsbD 16 then drain acc else []⟩))
      ∧ (s.portHolder port.val ≠ some part → exec (.peerWrite port m) s = .next { s with dropped := s.dropped + 1 })

end
end

