-- ==== Sys2Proof/Laws/Issue.lean ====
section
/-!
SUPPORT. What issue does, once for every instruction: with State.canIssue it carries out the outcome of the instruction's
own checks and effect.
-/

namespace Sys2Proof.Machine

theorem State.canIssue_iff (s : State) (t : Task) (i : Instr) (keys : List Nat) :
    s.canIssue t i keys = true ↔ s.ctx.task = some t ∧ s.issuing s.cur = true ∧ s.interrupted s.cur = false
      ∧ s.ctx.due = none ∧ i.wf = true ∧ (s.ctx.xfer.isSome && noSlot i) = false ∧ s.ctx.slotRacks = none
      ∧ s.ctx.hazard (s.ctx.slotKeys keys) = false := by
  simp only [State.canIssue, Bool.and_eq_true, Bool.not_eq_true', beq_iff_eq, and_assoc, Option.isNone_iff_eq_none]

theorem State.checkDue_of_interrupted {s : State} (h : s.interrupted s.cur = false) : s.ctx.checkDue = false := by
  have h1 : s.ctx.asyncDue = false := (Bool.or_eq_false_iff.1 h).1
  simp [Context.checkDue, h1]

/-- An instruction that can issue does what its body says. -/
theorem issue_settles {i : Instr} {keys : Context → List Nat} {body : State → Task → Res} {s : State} {t : Task}
    (h : s.canIssue t i (keys s.ctx) = true) : issue i keys body s = s.settle s.cur t i (body s t) := by
  obtain ⟨ht, hi, hn, ho, hw, hx, hr, hz⟩ := (State.canIssue_iff s t i _).1 h
  have hc := State.checkDue_of_interrupted hn
  unfold issue
  simp only [ht, hi, hn, hc, ho, hw, hx, hr, hz, Bool.and_false]
  rfl

theorem State.interrupted_of_canIssue {s : State} {t : Task} {i : Instr} {keys : List Nat}
    (h : s.canIssue t i keys = true) : s.interrupted s.cur = false := ((State.canIssue_iff s t i keys).1 h).2.2.1

theorem issue_done {i : Instr} {keys : Context → List Nat} {body : State → Task → Res} {s s1 : State} {t : Task}
    (h : s.canIssue t i (keys s.ctx) = true) (hb : body s t = .done s1) : issue i keys body s = s.after t i s1 := by
  have hn := State.interrupted_of_canIssue h
  rw [issue_settles h, hb]
  unfold State.settle State.after
  simp only [hn]
  rfl

theorem issue_jump {i : Instr} {keys : Context → List Nat} {body : State → Task → Res} {s : State} {t : Task} {x : Xfer}
    (h : s.canIssue t i (keys s.ctx) = true) (hb : body s t = .jump s x) : issue i keys body s = s.afterJump i x := by
  have hn := State.interrupted_of_canIssue h
  rw [issue_settles h, hb]
  unfold State.settle State.afterJump
  simp only [hn]
  rfl

theorem issue_trap {i : Instr} {keys : Context → List Nat} {body : State → Task → Res} {s : State} {t : Task} {c : Nat}
    {v : Word} (h : s.canIssue t i (keys s.ctx) = true) (hb : body s t = .trap s c v) :
    issue i keys body s = s.trapped t i c v := by
  rw [issue_settles h, hb]
  rfl

theorem issue_wait {i : Instr} {keys : Context → List Nat} {body : State → Task → Res} {s : State} {t : Task} {c : Nat}
    (h : s.canIssue t i (keys s.ctx) = true) (hb : body s t = .wait s c) : issue i keys body s = s.waits c := by
  rw [issue_settles h, hb]
  rfl

end Sys2Proof.Machine
end

