-- ==== Sys2Proof/Laws/Sparse.lean ====
section
/-!
SUPPORT. The laws of sparse tables: reading after writing, and that writing keeps the canonical form.
-/

namespace Sys2Proof.Machine

@[simp] theorem Sparse.get_set_self {α : Type} (d : α) (m : Sparse α) (k : Nat) (v : α) :
    Sparse.get d (m.set k v) k = v := by
  induction m with
  | nil => simp [Sparse.set, Sparse.get]
  | cons e t ih =>
    obtain ⟨a, x⟩ := e
    simp only [Sparse.set]
    split
    · simp [Sparse.get]
    · split
      · simp [Sparse.get]
      · rename_i h _
        simp [Sparse.get, h, ih]

theorem Sparse.get_set_ne {α : Type} (d : α) (m : Sparse α) {k j : Nat} (v : α) (h : j ≠ k) :
    Sparse.get d (m.set k v) j = Sparse.get d m j := by
  induction m with
  | nil => simp [Sparse.set, Sparse.get, h.symm]
  | cons e t ih =>
    obtain ⟨a, x⟩ := e
    simp only [Sparse.set]
    split
    · rename_i hk
      subst hk
      simp [Sparse.get, h.symm]
    · split
      · simp [Sparse.get, h.symm]
      · simp [Sparse.get, ih]

theorem Sparse.get_set {α : Type} (d : α) (m : Sparse α) (k j : Nat) (v : α) :
    Sparse.get d (m.set k v) j = if j = k then v else Sparse.get d m j := by
  split
  · rename_i h; subst h; exact Sparse.get_set_self d m j v
  · rename_i h; exact Sparse.get_set_ne d m v h

@[simp] theorem Sparse.get_erase_self {α : Type} (d : α) (m : Sparse α) (k : Nat) :
    Sparse.get d (m.erase k) k = d := by
  induction m with
  | nil => rfl
  | cons e t ih =>
    obtain ⟨a, x⟩ := e
    simp only [Sparse.erase]
    split
    · exact ih
    · rename_i h; simp [Sparse.get, h, ih]

theorem Sparse.get_erase_ne {α : Type} (d : α) (m : Sparse α) {k j : Nat} (h : j ≠ k) :
    Sparse.get d (m.erase k) j = Sparse.get d m j := by
  induction m with
  | nil => rfl
  | cons e t ih =>
    obtain ⟨a, x⟩ := e
    simp only [Sparse.erase]
    split
    · rename_i hk; subst hk; simp [Sparse.get, h.symm, ih]
    · simp [Sparse.get, ih]

/-- Reading any key after writing one. -/
theorem Sparse.get_put {α : Type} [DecidableEq α] (d : α) (m : Sparse α) (k j : Nat) (v : α) :
    Sparse.get d (Sparse.put d m k v) j = if j = k then v else Sparse.get d m j := by
  unfold Sparse.put
  split
  · rename_i hv
    subst hv
    split
    · rename_i h; subst h; simp
    · rename_i h; exact Sparse.get_erase_ne v m h
  · exact Sparse.get_set d m k j v

/-- Every key of the table is above a bound. -/
def Sparse.above {α : Type} (b : Nat) (m : Sparse α) : Bool := m.all (fun e => decide (b < e.1))

theorem Sparse.rising_cons {α : Type} (a : Nat) (x : α) (t : Sparse α) :
    Sparse.rising ((a, x) :: t) = (Sparse.above a t && Sparse.rising t) := by
  induction t generalizing a x with
  | nil => rfl
  | cons e t ih =>
    obtain ⟨b, y⟩ := e
    have hr : Sparse.rising ((a, x) :: (b, y) :: t) = (decide (a < b) && Sparse.rising ((b, y) :: t)) := rfl
    rw [hr, ih b y]
    simp only [Sparse.above, List.all_cons]
    by_cases hab : a < b
    · by_cases hb : (t.all fun e => decide (b < e.1)) = true
      · have : (t.all fun e => decide (a < e.1)) = true := by
          rw [List.all_eq_true] at hb ⊢
          intro z hz
          have := hb z hz
          simp only [decide_eq_true_eq] at this ⊢
          omega
        simp [hab, hb, this]
      · simp [hab, hb]
    · simp [hab]

theorem Sparse.mem_set {α : Type} (m : Sparse α) (k : Nat) (v : α) (e : Nat × α) (h : e ∈ m.set k v) :
    e = (k, v) ∨ e ∈ m := by
  induction m with
  | nil => simp [Sparse.set] at h; exact .inl h
  | cons z t ih =>
    obtain ⟨a, x⟩ := z
    simp only [Sparse.set] at h
    split at h
    · rcases List.mem_cons.1 h with h | h
      · exact .inl h
      · exact .inr (List.mem_cons_of_mem _ h)
    · split at h
      · rcases List.mem_cons.1 h with h | h
        · exact .inl h
        · exact .inr h
      · rcases List.mem_cons.1 h with h | h
        · exact .inr (h ▸ List.mem_cons_self)
        · rcases ih h with h | h
          · exact .inl h
          · exact .inr (List.mem_cons_of_mem _ h)

theorem Sparse.mem_erase {α : Type} (m : Sparse α) (k : Nat) (e : Nat × α) (h : e ∈ m.erase k) : e ∈ m := by
  induction m with
  | nil => exact h
  | cons z t ih =>
    obtain ⟨a, x⟩ := z
    simp only [Sparse.erase] at h
    split at h
    · exact List.mem_cons_of_mem _ (ih h)
    · rcases List.mem_cons.1 h with h | h
      · exact h ▸ List.mem_cons_self
      · exact List.mem_cons_of_mem _ (ih h)

theorem Sparse.rising_set {α : Type} (m : Sparse α) (k : Nat) (v : α) (h : m.rising = true) :
    (m.set k v).rising = true := by
  induction m with
  | nil => rfl
  | cons z t ih =>
    obtain ⟨a, x⟩ := z
    rw [Sparse.rising_cons, Bool.and_eq_true] at h
    simp only [Sparse.set]
    split
    · rename_i hk
      subst hk
      rw [Sparse.rising_cons, Bool.and_eq_true]
      exact h
    · split
      · rename_i hlt
        rw [Sparse.rising_cons, Sparse.rising_cons, Bool.and_eq_true, Bool.and_eq_true]
        refine ⟨?_, h⟩
        have ha := h.1
        unfold Sparse.above at ha ⊢
        rw [List.all_eq_true] at ha ⊢
        intro e he
        rcases List.mem_cons.1 he with rfl | he
        · simpa using hlt
        · have := ha e he
          simp only [decide_eq_true_eq] at this ⊢
          omega
      · rename_i hne hlt
        rw [Sparse.rising_cons, Bool.and_eq_true]
        refine ⟨?_, ih h.2⟩
        have ha := h.1
        unfold Sparse.above at ha ⊢
        rw [List.all_eq_true] at ha ⊢
        intro e he
        rcases Sparse.mem_set t k v e he with rfl | he
        · simp only [decide_eq_true_eq]; omega
        · exact ha e he

theorem Sparse.rising_erase {α : Type} (m : Sparse α) (k : Nat) (h : m.rising = true) :
    (m.erase k).rising = true := by
  induction m with
  | nil => rfl
  | cons z t ih =>
    obtain ⟨a, x⟩ := z
    rw [Sparse.rising_cons, Bool.and_eq_true] at h
    simp only [Sparse.erase]
    split
    · exact ih h.2
    · rw [Sparse.rising_cons, Bool.and_eq_true]
      refine ⟨?_, ih h.2⟩
      have ha := h.1
      unfold Sparse.above at ha ⊢
      rw [List.all_eq_true] at ha ⊢
      exact fun e he => ha e (Sparse.mem_erase t k e he)

/-- Writing keeps the canonical form. -/
theorem Sparse.canonical_put {α : Type} [DecidableEq α] (d : α) (m : Sparse α) (k : Nat) (v : α)
    (h : Sparse.canonical d m = true) : Sparse.canonical d (Sparse.put d m k v) = true := by
  unfold Sparse.canonical at h ⊢
  rw [Bool.and_eq_true] at h ⊢
  unfold Sparse.put
  split
  · refine ⟨Sparse.rising_erase m k h.1, ?_⟩
    rw [List.all_eq_true] at h ⊢
    exact fun e he => h.2 e (Sparse.mem_erase m k e he)
  · rename_i hv
    refine ⟨Sparse.rising_set m k v h.1, ?_⟩
    rw [List.all_eq_true] at h ⊢
    intro e he
    rcases Sparse.mem_set m k v e he with rfl | he
    · simpa using hv
    · exact h.2 e he

end Sys2Proof.Machine
end

