-- ==== Sys2Proof/Laws/State.lean ====
section
/-!
SUPPORT. Every field of the device after every update of a part of it, and of a bank after every update of a register; what
is read of a part that has been put, and of the others.
-/

namespace Sys2Proof.Machine

/-! ### Fields after setCore -/

@[simp] theorem State.setCore_cur (s : State) (c : Nat) (x : Core) : (s.setCore c x).cur = s.cur := rfl
@[simp] theorem State.setCore_agenda (s : State) (c : Nat) (x : Core) : (s.setCore c x).agenda = s.agenda := rfl
@[simp] theorem State.setCore_turn (s : State) (c : Nat) (x : Core) : (s.setCore c x).turn = s.turn := rfl
@[simp] theorem State.setCore_saved (s : State) (c : Nat) (x : Core) : (s.setCore c x).saved = s.saved := rfl
@[simp] theorem State.setCore_spads (s : State) (c : Nat) (x : Core) : (s.setCore c x).spads = s.spads := rfl
@[simp] theorem State.setCore_mem (s : State) (c : Nat) (x : Core) : (s.setCore c x).mem = s.mem := rfl
@[simp] theorem State.setCore_loftGen (s : State) (c : Nat) (x : Core) : (s.setCore c x).loftGen = s.loftGen := rfl
@[simp] theorem State.setCore_loftKey (s : State) (c : Nat) (x : Core) : (s.setCore c x).loftKey = s.loftKey := rfl
@[simp] theorem State.setCore_poison (s : State) (c : Nat) (x : Core) : (s.setCore c x).poison = s.poison := rfl
@[simp] theorem State.setCore_sliceMap (s : State) (c : Nat) (x : Core) : (s.setCore c x).sliceMap = s.sliceMap := rfl
@[simp] theorem State.setCore_tlb (s : State) (c : Nat) (x : Core) : (s.setCore c x).tlb = s.tlb := rfl
@[simp] theorem State.setCore_walks (s : State) (c : Nat) (x : Core) : (s.setCore c x).walks = s.walks := rfl
@[simp] theorem State.setCore_parts (s : State) (c : Nat) (x : Core) : (s.setCore c x).parts = s.parts := rfl
@[simp] theorem State.setCore_ctxs (s : State) (c : Nat) (x : Core) : (s.setCore c x).ctxs = s.ctxs := rfl
@[simp] theorem State.setCore_rows (s : State) (c : Nat) (x : Core) : (s.setCore c x).rows = s.rows := rfl
@[simp] theorem State.setCore_chans (s : State) (c : Nat) (x : Core) : (s.setCore c x).chans = s.chans := rfl
@[simp] theorem State.setCore_sent (s : State) (c : Nat) (x : Core) : (s.setCore c x).sent = s.sent := rfl
@[simp] theorem State.setCore_dropped (s : State) (c : Nat) (x : Core) : (s.setCore c x).dropped = s.dropped := rfl
@[simp] theorem State.setCore_errHead (s : State) (c : Nat) (x : Core) : (s.setCore c x).errHead = s.errHead := rfl
@[simp] theorem State.setCore_errLost (s : State) (c : Nat) (x : Core) : (s.setCore c x).errLost = s.errLost := rfl
@[simp] theorem State.setCore_errLog (s : State) (c : Nat) (x : Core) : (s.setCore c x).errLog = s.errLog := rfl
@[simp] theorem State.setCore_dies (s : State) (c : Nat) (x : Core) : (s.setCore c x).dies = s.dies := rfl
@[simp] theorem State.setCore_mode (s : State) (c : Nat) (x : Core) : (s.setCore c x).mode = s.mode := rfl
@[simp] theorem State.setCore_modLimit (s : State) (c : Nat) (x : Core) : (s.setCore c x).modLimit = s.modLimit := rfl
@[simp] theorem State.setCore_modMeas (s : State) (c : Nat) (x : Core) : (s.setCore c x).modMeas = s.modMeas := rfl
@[simp] theorem State.setCore_ckMask (s : State) (c : Nat) (x : Core) : (s.setCore c x).ckMask = s.ckMask := rfl
@[simp] theorem State.setCore_ckState (s : State) (c : Nat) (x : Core) : (s.setCore c x).ckState = s.ckState := rfl
@[simp] theorem State.setCore_ckReason (s : State) (c : Nat) (x : Core) : (s.setCore c x).ckReason = s.ckReason := rfl
@[simp] theorem State.setCore_ckMoved (s : State) (c : Nat) (x : Core) : (s.setCore c x).ckMoved = s.ckMoved := rfl
@[simp] theorem State.setCore_ckImage (s : State) (c : Nat) (x : Core) : (s.setCore c x).ckImage = s.ckImage := rfl
@[simp] theorem State.setCore_temp (s : State) (c : Nat) (x : Core) : (s.setCore c x).temp = s.temp := rfl
@[simp] theorem State.setCore_maxTemp (s : State) (c : Nat) (x : Core) : (s.setCore c x).maxTemp = s.maxTemp := rfl
@[simp] theorem State.setCore_volt (s : State) (c : Nat) (x : Core) : (s.setCore c x).volt = s.volt := rfl
@[simp] theorem State.setCore_proc (s : State) (c : Nat) (x : Core) : (s.setCore c x).proc = s.proc := rfl
@[simp] theorem State.setCore_mainOn (s : State) (c : Nat) (x : Core) : (s.setCore c x).mainOn = s.mainOn := rfl
@[simp] theorem State.setCore_auxOn (s : State) (c : Nat) (x : Core) : (s.setCore c x).auxOn = s.auxOn := rfl
@[simp] theorem State.setCore_railsCut (s : State) (c : Nat) (x : Core) : (s.setCore c x).railsCut = s.railsCut := rfl
@[simp] theorem State.setCore_selfRefresh (s : State) (c : Nat) (x : Core) : (s.setCore c x).selfRefresh = s.selfRefresh := rfl
@[simp] theorem State.setCore_queues (s : State) (c : Nat) (x : Core) : (s.setCore c x).queues = s.queues := rfl
@[simp] theorem State.setCore_graphs (s : State) (c : Nat) (x : Core) : (s.setCore c x).graphs = s.graphs := rfl
@[simp] theorem State.setCore_graphNo (s : State) (c : Nat) (x : Core) : (s.setCore c x).graphNo = s.graphNo := rfl
@[simp] theorem State.setCore_counters (s : State) (c : Nat) (x : Core) : (s.setCore c x).counters = s.counters := rfl
@[simp] theorem State.setCore_barriers (s : State) (c : Nat) (x : Core) : (s.setCore c x).barriers = s.barriers := rfl
@[simp] theorem State.setCore_codes (s : State) (c : Nat) (x : Core) : (s.setCore c x).codes = s.codes := rfl
@[simp] theorem State.setCore_flips (s : State) (c : Nat) (x : Core) : (s.setCore c x).flips = s.flips := rfl
@[simp] theorem State.setCore_heldHost (s : State) (c : Nat) (x : Core) : (s.setCore c x).heldHost = s.heldHost := rfl
@[simp] theorem State.setCore_heldCtl (s : State) (c : Nat) (x : Core) : (s.setCore c x).heldCtl = s.heldCtl := rfl
@[simp] theorem State.setCore_keys (s : State) (c : Nat) (x : Core) : (s.setCore c x).keys = s.keys := rfl
@[simp] theorem State.setCore_links (s : State) (c : Nat) (x : Core) : (s.setCore c x).links = s.links := rfl
@[simp] theorem State.setCore_macsec (s : State) (c : Nat) (x : Core) : (s.setCore c x).macsec = s.macsec := rfl
@[simp] theorem State.setCore_udp (s : State) (c : Nat) (x : Core) : (s.setCore c x).udp = s.udp := rfl
@[simp] theorem State.setCore_reds (s : State) (c : Nat) (x : Core) : (s.setCore c x).reds = s.reds := rfl
@[simp] theorem State.setCore_flash (s : State) (c : Nat) (x : Core) : (s.setCore c x).flash = s.flash := rfl
@[simp] theorem State.setCore_firmware (s : State) (c : Nat) (x : Core) : (s.setCore c x).firmware = s.firmware := rfl
@[simp] theorem State.setCore_recovery (s : State) (c : Nat) (x : Core) : (s.setCore c x).recovery = s.recovery := rfl
@[simp] theorem State.setCore_xmss (s : State) (c : Nat) (x : Core) : (s.setCore c x).xmss = s.xmss := rfl
@[simp] theorem State.setCore_flashing (s : State) (c : Nat) (x : Core) : (s.setCore c x).flashing = s.flashing := rfl
@[simp] theorem State.setCore_macPn (s : State) (c : Nat) (x : Core) : (s.setCore c x).macPn = s.macPn := rfl
@[simp] theorem State.setCore_due (s : State) (c : Nat) (x : Core) : (s.setCore c x).due = s.due := rfl
@[simp] theorem State.setCore_work (s : State) (c : Nat) (x : Core) : (s.setCore c x).work = s.work := rfl
@[simp] theorem State.setCore_roles (s : State) (c : Nat) (x : Core) : (s.setCore c x).roles = s.roles := rfl
@[simp] theorem State.setCore_take (s : State) (c : Nat) (x : Core) : (s.setCore c x).take = s.take := rfl
@[simp] theorem State.setCore_jbase (s : State) (c : Nat) (x : Core) : (s.setCore c x).jbase = s.jbase := rfl
@[simp] theorem State.setCore_jhead (s : State) (c : Nat) (x : Core) : (s.setCore c x).jhead = s.jhead := rfl
@[simp] theorem State.setCore_jtail (s : State) (c : Nat) (x : Core) : (s.setCore c x).jtail = s.jtail := rfl

/-! ### Fields after setBank -/

@[simp] theorem State.setBank_cur (s : State) (c : Nat) (x : Context) : (s.setBank c x).cur = s.cur := rfl
@[simp] theorem State.setBank_agenda (s : State) (c : Nat) (x : Context) : (s.setBank c x).agenda = s.agenda := rfl
@[simp] theorem State.setBank_turn (s : State) (c : Nat) (x : Context) : (s.setBank c x).turn = s.turn := rfl
@[simp] theorem State.setBank_saved (s : State) (c : Nat) (x : Context) : (s.setBank c x).saved = s.saved := rfl
@[simp] theorem State.setBank_spads (s : State) (c : Nat) (x : Context) : (s.setBank c x).spads = s.spads := rfl
@[simp] theorem State.setBank_mem (s : State) (c : Nat) (x : Context) : (s.setBank c x).mem = s.mem := rfl
@[simp] theorem State.setBank_loftGen (s : State) (c : Nat) (x : Context) : (s.setBank c x).loftGen = s.loftGen := rfl
@[simp] theorem State.setBank_loftKey (s : State) (c : Nat) (x : Context) : (s.setBank c x).loftKey = s.loftKey := rfl
@[simp] theorem State.setBank_poison (s : State) (c : Nat) (x : Context) : (s.setBank c x).poison = s.poison := rfl
@[simp] theorem State.setBank_sliceMap (s : State) (c : Nat) (x : Context) : (s.setBank c x).sliceMap = s.sliceMap := rfl
@[simp] theorem State.setBank_tlb (s : State) (c : Nat) (x : Context) : (s.setBank c x).tlb = s.tlb := rfl
@[simp] theorem State.setBank_walks (s : State) (c : Nat) (x : Context) : (s.setBank c x).walks = s.walks := rfl
@[simp] theorem State.setBank_parts (s : State) (c : Nat) (x : Context) : (s.setBank c x).parts = s.parts := rfl
@[simp] theorem State.setBank_ctxs (s : State) (c : Nat) (x : Context) : (s.setBank c x).ctxs = s.ctxs := rfl
@[simp] theorem State.setBank_rows (s : State) (c : Nat) (x : Context) : (s.setBank c x).rows = s.rows := rfl
@[simp] theorem State.setBank_chans (s : State) (c : Nat) (x : Context) : (s.setBank c x).chans = s.chans := rfl
@[simp] theorem State.setBank_sent (s : State) (c : Nat) (x : Context) : (s.setBank c x).sent = s.sent := rfl
@[simp] theorem State.setBank_dropped (s : State) (c : Nat) (x : Context) : (s.setBank c x).dropped = s.dropped := rfl
@[simp] theorem State.setBank_errHead (s : State) (c : Nat) (x : Context) : (s.setBank c x).errHead = s.errHead := rfl
@[simp] theorem State.setBank_errLost (s : State) (c : Nat) (x : Context) : (s.setBank c x).errLost = s.errLost := rfl
@[simp] theorem State.setBank_errLog (s : State) (c : Nat) (x : Context) : (s.setBank c x).errLog = s.errLog := rfl
@[simp] theorem State.setBank_dies (s : State) (c : Nat) (x : Context) : (s.setBank c x).dies = s.dies := rfl
@[simp] theorem State.setBank_mode (s : State) (c : Nat) (x : Context) : (s.setBank c x).mode = s.mode := rfl
@[simp] theorem State.setBank_modLimit (s : State) (c : Nat) (x : Context) : (s.setBank c x).modLimit = s.modLimit := rfl
@[simp] theorem State.setBank_modMeas (s : State) (c : Nat) (x : Context) : (s.setBank c x).modMeas = s.modMeas := rfl
@[simp] theorem State.setBank_ckMask (s : State) (c : Nat) (x : Context) : (s.setBank c x).ckMask = s.ckMask := rfl
@[simp] theorem State.setBank_ckState (s : State) (c : Nat) (x : Context) : (s.setBank c x).ckState = s.ckState := rfl
@[simp] theorem State.setBank_ckReason (s : State) (c : Nat) (x : Context) : (s.setBank c x).ckReason = s.ckReason := rfl
@[simp] theorem State.setBank_ckMoved (s : State) (c : Nat) (x : Context) : (s.setBank c x).ckMoved = s.ckMoved := rfl
@[simp] theorem State.setBank_ckImage (s : State) (c : Nat) (x : Context) : (s.setBank c x).ckImage = s.ckImage := rfl
@[simp] theorem State.setBank_temp (s : State) (c : Nat) (x : Context) : (s.setBank c x).temp = s.temp := rfl
@[simp] theorem State.setBank_maxTemp (s : State) (c : Nat) (x : Context) : (s.setBank c x).maxTemp = s.maxTemp := rfl
@[simp] theorem State.setBank_volt (s : State) (c : Nat) (x : Context) : (s.setBank c x).volt = s.volt := rfl
@[simp] theorem State.setBank_proc (s : State) (c : Nat) (x : Context) : (s.setBank c x).proc = s.proc := rfl
@[simp] theorem State.setBank_mainOn (s : State) (c : Nat) (x : Context) : (s.setBank c x).mainOn = s.mainOn := rfl
@[simp] theorem State.setBank_auxOn (s : State) (c : Nat) (x : Context) : (s.setBank c x).auxOn = s.auxOn := rfl
@[simp] theorem State.setBank_railsCut (s : State) (c : Nat) (x : Context) : (s.setBank c x).railsCut = s.railsCut := rfl
@[simp] theorem State.setBank_selfRefresh (s : State) (c : Nat) (x : Context) : (s.setBank c x).selfRefresh = s.selfRefresh := rfl
@[simp] theorem State.setBank_queues (s : State) (c : Nat) (x : Context) : (s.setBank c x).queues = s.queues := rfl
@[simp] theorem State.setBank_graphs (s : State) (c : Nat) (x : Context) : (s.setBank c x).graphs = s.graphs := rfl
@[simp] theorem State.setBank_graphNo (s : State) (c : Nat) (x : Context) : (s.setBank c x).graphNo = s.graphNo := rfl
@[simp] theorem State.setBank_counters (s : State) (c : Nat) (x : Context) : (s.setBank c x).counters = s.counters := rfl
@[simp] theorem State.setBank_barriers (s : State) (c : Nat) (x : Context) : (s.setBank c x).barriers = s.barriers := rfl
@[simp] theorem State.setBank_codes (s : State) (c : Nat) (x : Context) : (s.setBank c x).codes = s.codes := rfl
@[simp] theorem State.setBank_flips (s : State) (c : Nat) (x : Context) : (s.setBank c x).flips = s.flips := rfl
@[simp] theorem State.setBank_heldHost (s : State) (c : Nat) (x : Context) : (s.setBank c x).heldHost = s.heldHost := rfl
@[simp] theorem State.setBank_heldCtl (s : State) (c : Nat) (x : Context) : (s.setBank c x).heldCtl = s.heldCtl := rfl
@[simp] theorem State.setBank_keys (s : State) (c : Nat) (x : Context) : (s.setBank c x).keys = s.keys := rfl
@[simp] theorem State.setBank_links (s : State) (c : Nat) (x : Context) : (s.setBank c x).links = s.links := rfl
@[simp] theorem State.setBank_macsec (s : State) (c : Nat) (x : Context) : (s.setBank c x).macsec = s.macsec := rfl
@[simp] theorem State.setBank_udp (s : State) (c : Nat) (x : Context) : (s.setBank c x).udp = s.udp := rfl
@[simp] theorem State.setBank_reds (s : State) (c : Nat) (x : Context) : (s.setBank c x).reds = s.reds := rfl
@[simp] theorem State.setBank_flash (s : State) (c : Nat) (x : Context) : (s.setBank c x).flash = s.flash := rfl
@[simp] theorem State.setBank_firmware (s : State) (c : Nat) (x : Context) : (s.setBank c x).firmware = s.firmware := rfl
@[simp] theorem State.setBank_recovery (s : State) (c : Nat) (x : Context) : (s.setBank c x).recovery = s.recovery := rfl
@[simp] theorem State.setBank_xmss (s : State) (c : Nat) (x : Context) : (s.setBank c x).xmss = s.xmss := rfl
@[simp] theorem State.setBank_flashing (s : State) (c : Nat) (x : Context) : (s.setBank c x).flashing = s.flashing := rfl
@[simp] theorem State.setBank_macPn (s : State) (c : Nat) (x : Context) : (s.setBank c x).macPn = s.macPn := rfl
@[simp] theorem State.setBank_due (s : State) (c : Nat) (x : Context) : (s.setBank c x).due = s.due := rfl
@[simp] theorem State.setBank_work (s : State) (c : Nat) (x : Context) : (s.setBank c x).work = s.work := rfl
@[simp] theorem State.setBank_roles (s : State) (c : Nat) (x : Context) : (s.setBank c x).roles = s.roles := rfl
@[simp] theorem State.setBank_take (s : State) (c : Nat) (x : Context) : (s.setBank c x).take = s.take := rfl
@[simp] theorem State.setBank_jbase (s : State) (c : Nat) (x : Context) : (s.setBank c x).jbase = s.jbase := rfl
@[simp] theorem State.setBank_jhead (s : State) (c : Nat) (x : Context) : (s.setBank c x).jhead = s.jhead := rfl
@[simp] theorem State.setBank_jtail (s : State) (c : Nat) (x : Context) : (s.setBank c x).jtail = s.jtail := rfl

/-! ### Fields after setCtx -/

@[simp] theorem State.setCtx_cur (s : State) (x : Context) : (s.setCtx x).cur = s.cur := rfl
@[simp] theorem State.setCtx_agenda (s : State) (x : Context) : (s.setCtx x).agenda = s.agenda := rfl
@[simp] theorem State.setCtx_turn (s : State) (x : Context) : (s.setCtx x).turn = s.turn := rfl
@[simp] theorem State.setCtx_saved (s : State) (x : Context) : (s.setCtx x).saved = s.saved := rfl
@[simp] theorem State.setCtx_spads (s : State) (x : Context) : (s.setCtx x).spads = s.spads := rfl
@[simp] theorem State.setCtx_mem (s : State) (x : Context) : (s.setCtx x).mem = s.mem := rfl
@[simp] theorem State.setCtx_loftGen (s : State) (x : Context) : (s.setCtx x).loftGen = s.loftGen := rfl
@[simp] theorem State.setCtx_loftKey (s : State) (x : Context) : (s.setCtx x).loftKey = s.loftKey := rfl
@[simp] theorem State.setCtx_poison (s : State) (x : Context) : (s.setCtx x).poison = s.poison := rfl
@[simp] theorem State.setCtx_sliceMap (s : State) (x : Context) : (s.setCtx x).sliceMap = s.sliceMap := rfl
@[simp] theorem State.setCtx_tlb (s : State) (x : Context) : (s.setCtx x).tlb = s.tlb := rfl
@[simp] theorem State.setCtx_walks (s : State) (x : Context) : (s.setCtx x).walks = s.walks := rfl
@[simp] theorem State.setCtx_parts (s : State) (x : Context) : (s.setCtx x).parts = s.parts := rfl
@[simp] theorem State.setCtx_ctxs (s : State) (x : Context) : (s.setCtx x).ctxs = s.ctxs := rfl
@[simp] theorem State.setCtx_rows (s : State) (x : Context) : (s.setCtx x).rows = s.rows := rfl
@[simp] theorem State.setCtx_chans (s : State) (x : Context) : (s.setCtx x).chans = s.chans := rfl
@[simp] theorem State.setCtx_sent (s : State) (x : Context) : (s.setCtx x).sent = s.sent := rfl
@[simp] theorem State.setCtx_dropped (s : State) (x : Context) : (s.setCtx x).dropped = s.dropped := rfl
@[simp] theorem State.setCtx_errHead (s : State) (x : Context) : (s.setCtx x).errHead = s.errHead := rfl
@[simp] theorem State.setCtx_errLost (s : State) (x : Context) : (s.setCtx x).errLost = s.errLost := rfl
@[simp] theorem State.setCtx_errLog (s : State) (x : Context) : (s.setCtx x).errLog = s.errLog := rfl
@[simp] theorem State.setCtx_dies (s : State) (x : Context) : (s.setCtx x).dies = s.dies := rfl
@[simp] theorem State.setCtx_mode (s : State) (x : Context) : (s.setCtx x).mode = s.mode := rfl
@[simp] theorem State.setCtx_modLimit (s : State) (x : Context) : (s.setCtx x).modLimit = s.modLimit := rfl
@[simp] theorem State.setCtx_modMeas (s : State) (x : Context) : (s.setCtx x).modMeas = s.modMeas := rfl
@[simp] theorem State.setCtx_ckMask (s : State) (x : Context) : (s.setCtx x).ckMask = s.ckMask := rfl
@[simp] theorem State.setCtx_ckState (s : State) (x : Context) : (s.setCtx x).ckState = s.ckState := rfl
@[simp] theorem State.setCtx_ckReason (s : State) (x : Context) : (s.setCtx x).ckReason = s.ckReason := rfl
@[simp] theorem State.setCtx_ckMoved (s : State) (x : Context) : (s.setCtx x).ckMoved = s.ckMoved := rfl
@[simp] theorem State.setCtx_ckImage (s : State) (x : Context) : (s.setCtx x).ckImage = s.ckImage := rfl
@[simp] theorem State.setCtx_temp (s : State) (x : Context) : (s.setCtx x).temp = s.temp := rfl
@[simp] theorem State.setCtx_maxTemp (s : State) (x : Context) : (s.setCtx x).maxTemp = s.maxTemp := rfl
@[simp] theorem State.setCtx_volt (s : State) (x : Context) : (s.setCtx x).volt = s.volt := rfl
@[simp] theorem State.setCtx_proc (s : State) (x : Context) : (s.setCtx x).proc = s.proc := rfl
@[simp] theorem State.setCtx_mainOn (s : State) (x : Context) : (s.setCtx x).mainOn = s.mainOn := rfl
@[simp] theorem State.setCtx_auxOn (s : State) (x : Context) : (s.setCtx x).auxOn = s.auxOn := rfl
@[simp] theorem State.setCtx_railsCut (s : State) (x : Context) : (s.setCtx x).railsCut = s.railsCut := rfl
@[simp] theorem State.setCtx_selfRefresh (s : State) (x : Context) : (s.setCtx x).selfRefresh = s.selfRefresh := rfl
@[simp] theorem State.setCtx_queues (s : State) (x : Context) : (s.setCtx x).queues = s.queues := rfl
@[simp] theorem State.setCtx_graphs (s : State) (x : Context) : (s.setCtx x).graphs = s.graphs := rfl
@[simp] theorem State.setCtx_graphNo (s : State) (x : Context) : (s.setCtx x).graphNo = s.graphNo := rfl
@[simp] theorem State.setCtx_counters (s : State) (x : Context) : (s.setCtx x).counters = s.counters := rfl
@[simp] theorem State.setCtx_barriers (s : State) (x : Context) : (s.setCtx x).barriers = s.barriers := rfl
@[simp] theorem State.setCtx_codes (s : State) (x : Context) : (s.setCtx x).codes = s.codes := rfl
@[simp] theorem State.setCtx_flips (s : State) (x : Context) : (s.setCtx x).flips = s.flips := rfl
@[simp] theorem State.setCtx_heldHost (s : State) (x : Context) : (s.setCtx x).heldHost = s.heldHost := rfl
@[simp] theorem State.setCtx_heldCtl (s : State) (x : Context) : (s.setCtx x).heldCtl = s.heldCtl := rfl
@[simp] theorem State.setCtx_keys (s : State) (x : Context) : (s.setCtx x).keys = s.keys := rfl
@[simp] theorem State.setCtx_links (s : State) (x : Context) : (s.setCtx x).links = s.links := rfl
@[simp] theorem State.setCtx_macsec (s : State) (x : Context) : (s.setCtx x).macsec = s.macsec := rfl
@[simp] theorem State.setCtx_udp (s : State) (x : Context) : (s.setCtx x).udp = s.udp := rfl
@[simp] theorem State.setCtx_reds (s : State) (x : Context) : (s.setCtx x).reds = s.reds := rfl
@[simp] theorem State.setCtx_flash (s : State) (x : Context) : (s.setCtx x).flash = s.flash := rfl
@[simp] theorem State.setCtx_firmware (s : State) (x : Context) : (s.setCtx x).firmware = s.firmware := rfl
@[simp] theorem State.setCtx_recovery (s : State) (x : Context) : (s.setCtx x).recovery = s.recovery := rfl
@[simp] theorem State.setCtx_xmss (s : State) (x : Context) : (s.setCtx x).xmss = s.xmss := rfl
@[simp] theorem State.setCtx_flashing (s : State) (x : Context) : (s.setCtx x).flashing = s.flashing := rfl
@[simp] theorem State.setCtx_macPn (s : State) (x : Context) : (s.setCtx x).macPn = s.macPn := rfl
@[simp] theorem State.setCtx_due (s : State) (x : Context) : (s.setCtx x).due = s.due := rfl
@[simp] theorem State.setCtx_work (s : State) (x : Context) : (s.setCtx x).work = s.work := rfl
@[simp] theorem State.setCtx_roles (s : State) (x : Context) : (s.setCtx x).roles = s.roles := rfl
@[simp] theorem State.setCtx_take (s : State) (x : Context) : (s.setCtx x).take = s.take := rfl
@[simp] theorem State.setCtx_jbase (s : State) (x : Context) : (s.setCtx x).jbase = s.jbase := rfl
@[simp] theorem State.setCtx_jhead (s : State) (x : Context) : (s.setCtx x).jhead = s.jhead := rfl
@[simp] theorem State.setCtx_jtail (s : State) (x : Context) : (s.setCtx x).jtail = s.jtail := rfl

/-! ### Fields after setPart -/

@[simp] theorem State.setPart_cur (s : State) (p : Nat) (x : Part) : (s.setPart p x).cur = s.cur := rfl
@[simp] theorem State.setPart_agenda (s : State) (p : Nat) (x : Part) : (s.setPart p x).agenda = s.agenda := rfl
@[simp] theorem State.setPart_turn (s : State) (p : Nat) (x : Part) : (s.setPart p x).turn = s.turn := rfl
@[simp] theorem State.setPart_cores (s : State) (p : Nat) (x : Part) : (s.setPart p x).cores = s.cores := rfl
@[simp] theorem State.setPart_saved (s : State) (p : Nat) (x : Part) : (s.setPart p x).saved = s.saved := rfl
@[simp] theorem State.setPart_spads (s : State) (p : Nat) (x : Part) : (s.setPart p x).spads = s.spads := rfl
@[simp] theorem State.setPart_mem (s : State) (p : Nat) (x : Part) : (s.setPart p x).mem = s.mem := rfl
@[simp] theorem State.setPart_loftGen (s : State) (p : Nat) (x : Part) : (s.setPart p x).loftGen = s.loftGen := rfl
@[simp] theorem State.setPart_loftKey (s : State) (p : Nat) (x : Part) : (s.setPart p x).loftKey = s.loftKey := rfl
@[simp] theorem State.setPart_poison (s : State) (p : Nat) (x : Part) : (s.setPart p x).poison = s.poison := rfl
@[simp] theorem State.setPart_sliceMap (s : State) (p : Nat) (x : Part) : (s.setPart p x).sliceMap = s.sliceMap := rfl
@[simp] theorem State.setPart_tlb (s : State) (p : Nat) (x : Part) : (s.setPart p x).tlb = s.tlb := rfl
@[simp] theorem State.setPart_walks (s : State) (p : Nat) (x : Part) : (s.setPart p x).walks = s.walks := rfl
@[simp] theorem State.setPart_ctxs (s : State) (p : Nat) (x : Part) : (s.setPart p x).ctxs = s.ctxs := rfl
@[simp] theorem State.setPart_rows (s : State) (p : Nat) (x : Part) : (s.setPart p x).rows = s.rows := rfl
@[simp] theorem State.setPart_chans (s : State) (p : Nat) (x : Part) : (s.setPart p x).chans = s.chans := rfl
@[simp] theorem State.setPart_sent (s : State) (p : Nat) (x : Part) : (s.setPart p x).sent = s.sent := rfl
@[simp] theorem State.setPart_dropped (s : State) (p : Nat) (x : Part) : (s.setPart p x).dropped = s.dropped := rfl
@[simp] theorem State.setPart_errHead (s : State) (p : Nat) (x : Part) : (s.setPart p x).errHead = s.errHead := rfl
@[simp] theorem State.setPart_errLost (s : State) (p : Nat) (x : Part) : (s.setPart p x).errLost = s.errLost := rfl
@[simp] theorem State.setPart_errLog (s : State) (p : Nat) (x : Part) : (s.setPart p x).errLog = s.errLog := rfl
@[simp] theorem State.setPart_dies (s : State) (p : Nat) (x : Part) : (s.setPart p x).dies = s.dies := rfl
@[simp] theorem State.setPart_mode (s : State) (p : Nat) (x : Part) : (s.setPart p x).mode = s.mode := rfl
@[simp] theorem State.setPart_modLimit (s : State) (p : Nat) (x : Part) : (s.setPart p x).modLimit = s.modLimit := rfl
@[simp] theorem State.setPart_modMeas (s : State) (p : Nat) (x : Part) : (s.setPart p x).modMeas = s.modMeas := rfl
@[simp] theorem State.setPart_ckMask (s : State) (p : Nat) (x : Part) : (s.setPart p x).ckMask = s.ckMask := rfl
@[simp] theorem State.setPart_ckState (s : State) (p : Nat) (x : Part) : (s.setPart p x).ckState = s.ckState := rfl
@[simp] theorem State.setPart_ckReason (s : State) (p : Nat) (x : Part) : (s.setPart p x).ckReason = s.ckReason := rfl
@[simp] theorem State.setPart_ckMoved (s : State) (p : Nat) (x : Part) : (s.setPart p x).ckMoved = s.ckMoved := rfl
@[simp] theorem State.setPart_ckImage (s : State) (p : Nat) (x : Part) : (s.setPart p x).ckImage = s.ckImage := rfl
@[simp] theorem State.setPart_temp (s : State) (p : Nat) (x : Part) : (s.setPart p x).temp = s.temp := rfl
@[simp] theorem State.setPart_maxTemp (s : State) (p : Nat) (x : Part) : (s.setPart p x).maxTemp = s.maxTemp := rfl
@[simp] theorem State.setPart_volt (s : State) (p : Nat) (x : Part) : (s.setPart p x).volt = s.volt := rfl
@[simp] theorem State.setPart_proc (s : State) (p : Nat) (x : Part) : (s.setPart p x).proc = s.proc := rfl
@[simp] theorem State.setPart_mainOn (s : State) (p : Nat) (x : Part) : (s.setPart p x).mainOn = s.mainOn := rfl
@[simp] theorem State.setPart_auxOn (s : State) (p : Nat) (x : Part) : (s.setPart p x).auxOn = s.auxOn := rfl
@[simp] theorem State.setPart_railsCut (s : State) (p : Nat) (x : Part) : (s.setPart p x).railsCut = s.railsCut := rfl
@[simp] theorem State.setPart_selfRefresh (s : State) (p : Nat) (x : Part) : (s.setPart p x).selfRefresh = s.selfRefresh := rfl
@[simp] theorem State.setPart_queues (s : State) (p : Nat) (x : Part) : (s.setPart p x).queues = s.queues := rfl
@[simp] theorem State.setPart_graphs (s : State) (p : Nat) (x : Part) : (s.setPart p x).graphs = s.graphs := rfl
@[simp] theorem State.setPart_graphNo (s : State) (p : Nat) (x : Part) : (s.setPart p x).graphNo = s.graphNo := rfl
@[simp] theorem State.setPart_counters (s : State) (p : Nat) (x : Part) : (s.setPart p x).counters = s.counters := rfl
@[simp] theorem State.setPart_barriers (s : State) (p : Nat) (x : Part) : (s.setPart p x).barriers = s.barriers := rfl
@[simp] theorem State.setPart_codes (s : State) (p : Nat) (x : Part) : (s.setPart p x).codes = s.codes := rfl
@[simp] theorem State.setPart_flips (s : State) (p : Nat) (x : Part) : (s.setPart p x).flips = s.flips := rfl
@[simp] theorem State.setPart_heldHost (s : State) (p : Nat) (x : Part) : (s.setPart p x).heldHost = s.heldHost := rfl
@[simp] theorem State.setPart_heldCtl (s : State) (p : Nat) (x : Part) : (s.setPart p x).heldCtl = s.heldCtl := rfl
@[simp] theorem State.setPart_keys (s : State) (p : Nat) (x : Part) : (s.setPart p x).keys = s.keys := rfl
@[simp] theorem State.setPart_links (s : State) (p : Nat) (x : Part) : (s.setPart p x).links = s.links := rfl
@[simp] theorem State.setPart_macsec (s : State) (p : Nat) (x : Part) : (s.setPart p x).macsec = s.macsec := rfl
@[simp] theorem State.setPart_udp (s : State) (p : Nat) (x : Part) : (s.setPart p x).udp = s.udp := rfl
@[simp] theorem State.setPart_reds (s : State) (p : Nat) (x : Part) : (s.setPart p x).reds = s.reds := rfl
@[simp] theorem State.setPart_flash (s : State) (p : Nat) (x : Part) : (s.setPart p x).flash = s.flash := rfl
@[simp] theorem State.setPart_firmware (s : State) (p : Nat) (x : Part) : (s.setPart p x).firmware = s.firmware := rfl
@[simp] theorem State.setPart_recovery (s : State) (p : Nat) (x : Part) : (s.setPart p x).recovery = s.recovery := rfl
@[simp] theorem State.setPart_xmss (s : State) (p : Nat) (x : Part) : (s.setPart p x).xmss = s.xmss := rfl
@[simp] theorem State.setPart_flashing (s : State) (p : Nat) (x : Part) : (s.setPart p x).flashing = s.flashing := rfl
@[simp] theorem State.setPart_macPn (s : State) (p : Nat) (x : Part) : (s.setPart p x).macPn = s.macPn := rfl
@[simp] theorem State.setPart_due (s : State) (p : Nat) (x : Part) : (s.setPart p x).due = s.due := rfl
@[simp] theorem State.setPart_work (s : State) (p : Nat) (x : Part) : (s.setPart p x).work = s.work := rfl
@[simp] theorem State.setPart_roles (s : State) (p : Nat) (x : Part) : (s.setPart p x).roles = s.roles := rfl
@[simp] theorem State.setPart_take (s : State) (p : Nat) (x : Part) : (s.setPart p x).take = s.take := rfl
@[simp] theorem State.setPart_jbase (s : State) (p : Nat) (x : Part) : (s.setPart p x).jbase = s.jbase := rfl
@[simp] theorem State.setPart_jhead (s : State) (p : Nat) (x : Part) : (s.setPart p x).jhead = s.jhead := rfl
@[simp] theorem State.setPart_jtail (s : State) (p : Nat) (x : Part) : (s.setPart p x).jtail = s.jtail := rfl

/-! ### Fields after setCtxInfo -/

@[simp] theorem State.setCtxInfo_cur (s : State) (p n : Nat) (x : CtxInfo) : (s.setCtxInfo p n x).cur = s.cur := rfl
@[simp] theorem State.setCtxInfo_agenda (s : State) (p n : Nat) (x : CtxInfo) : (s.setCtxInfo p n x).agenda = s.agenda := rfl
@[simp] theorem State.setCtxInfo_turn (s : State) (p n : Nat) (x : CtxInfo) : (s.setCtxInfo p n x).turn = s.turn := rfl
@[simp] theorem State.setCtxInfo_cores (s : State) (p n : Nat) (x : CtxInfo) : (s.setCtxInfo p n x).cores = s.cores := rfl
@[simp] theorem State.setCtxInfo_saved (s : State) (p n : Nat) (x : CtxInfo) : (s.setCtxInfo p n x).saved = s.saved := rfl
@[simp] theorem State.setCtxInfo_spads (s : State) (p n : Nat) (x : CtxInfo) : (s.setCtxInfo p n x).spads = s.spads := rfl
@[simp] theorem State.setCtxInfo_mem (s : State) (p n : Nat) (x : CtxInfo) : (s.setCtxInfo p n x).mem = s.mem := rfl
@[simp] theorem State.setCtxInfo_loftGen (s : State) (p n : Nat) (x : CtxInfo) : (s.setCtxInfo p n x).loftGen = s.loftGen := rfl
@[simp] theorem State.setCtxInfo_loftKey (s : State) (p n : Nat) (x : CtxInfo) : (s.setCtxInfo p n x).loftKey = s.loftKey := rfl
@[simp] theorem State.setCtxInfo_poison (s : State) (p n : Nat) (x : CtxInfo) : (s.setCtxInfo p n x).poison = s.poison := rfl
@[simp] theorem State.setCtxInfo_sliceMap (s : State) (p n : Nat) (x : CtxInfo) : (s.setCtxInfo p n x).sliceMap = s.sliceMap := rfl
@[simp] theorem State.setCtxInfo_tlb (s : State) (p n : Nat) (x : CtxInfo) : (s.setCtxInfo p n x).tlb = s.tlb := rfl
@[simp] theorem State.setCtxInfo_walks (s : State) (p n : Nat) (x : CtxInfo) : (s.setCtxInfo p n x).walks = s.walks := rfl
@[simp] theorem State.setCtxInfo_parts (s : State) (p n : Nat) (x : CtxInfo) : (s.setCtxInfo p n x).parts = s.parts := rfl
@[simp] theorem State.setCtxInfo_rows (s : State) (p n : Nat) (x : CtxInfo) : (s.setCtxInfo p n x).rows = s.rows := rfl
@[simp] theorem State.setCtxInfo_chans (s : State) (p n : Nat) (x : CtxInfo) : (s.setCtxInfo p n x).chans = s.chans := rfl
@[simp] theorem State.setCtxInfo_sent (s : State) (p n : Nat) (x : CtxInfo) : (s.setCtxInfo p n x).sent = s.sent := rfl
@[simp] theorem State.setCtxInfo_dropped (s : State) (p n : Nat) (x : CtxInfo) : (s.setCtxInfo p n x).dropped = s.dropped := rfl
@[simp] theorem State.setCtxInfo_errHead (s : State) (p n : Nat) (x : CtxInfo) : (s.setCtxInfo p n x).errHead = s.errHead := rfl
@[simp] theorem State.setCtxInfo_errLost (s : State) (p n : Nat) (x : CtxInfo) : (s.setCtxInfo p n x).errLost = s.errLost := rfl
@[simp] theorem State.setCtxInfo_errLog (s : State) (p n : Nat) (x : CtxInfo) : (s.setCtxInfo p n x).errLog = s.errLog := rfl
@[simp] theorem State.setCtxInfo_dies (s : State) (p n : Nat) (x : CtxInfo) : (s.setCtxInfo p n x).dies = s.dies := rfl
@[simp] theorem State.setCtxInfo_mode (s : State) (p n : Nat) (x : CtxInfo) : (s.setCtxInfo p n x).mode = s.mode := rfl
@[simp] theorem State.setCtxInfo_modLimit (s : State) (p n : Nat) (x : CtxInfo) : (s.setCtxInfo p n x).modLimit = s.modLimit := rfl
@[simp] theorem State.setCtxInfo_modMeas (s : State) (p n : Nat) (x : CtxInfo) : (s.setCtxInfo p n x).modMeas = s.modMeas := rfl
@[simp] theorem State.setCtxInfo_ckMask (s : State) (p n : Nat) (x : CtxInfo) : (s.setCtxInfo p n x).ckMask = s.ckMask := rfl
@[simp] theorem State.setCtxInfo_ckState (s : State) (p n : Nat) (x : CtxInfo) : (s.setCtxInfo p n x).ckState = s.ckState := rfl
@[simp] theorem State.setCtxInfo_ckReason (s : State) (p n : Nat) (x : CtxInfo) : (s.setCtxInfo p n x).ckReason = s.ckReason := rfl
@[simp] theorem State.setCtxInfo_ckMoved (s : State) (p n : Nat) (x : CtxInfo) : (s.setCtxInfo p n x).ckMoved = s.ckMoved := rfl
@[simp] theorem State.setCtxInfo_ckImage (s : State) (p n : Nat) (x : CtxInfo) : (s.setCtxInfo p n x).ckImage = s.ckImage := rfl
@[simp] theorem State.setCtxInfo_temp (s : State) (p n : Nat) (x : CtxInfo) : (s.setCtxInfo p n x).temp = s.temp := rfl
@[simp] theorem State.setCtxInfo_maxTemp (s : State) (p n : Nat) (x : CtxInfo) : (s.setCtxInfo p n x).maxTemp = s.maxTemp := rfl
@[simp] theorem State.setCtxInfo_volt (s : State) (p n : Nat) (x : CtxInfo) : (s.setCtxInfo p n x).volt = s.volt := rfl
@[simp] theorem State.setCtxInfo_proc (s : State) (p n : Nat) (x : CtxInfo) : (s.setCtxInfo p n x).proc = s.proc := rfl
@[simp] theorem State.setCtxInfo_mainOn (s : State) (p n : Nat) (x : CtxInfo) : (s.setCtxInfo p n x).mainOn = s.mainOn := rfl
@[simp] theorem State.setCtxInfo_auxOn (s : State) (p n : Nat) (x : CtxInfo) : (s.setCtxInfo p n x).auxOn = s.auxOn := rfl
@[simp] theorem State.setCtxInfo_railsCut (s : State) (p n : Nat) (x : CtxInfo) : (s.setCtxInfo p n x).railsCut = s.railsCut := rfl
@[simp] theorem State.setCtxInfo_selfRefresh (s : State) (p n : Nat) (x : CtxInfo) : (s.setCtxInfo p n x).selfRefresh = s.selfRefresh := rfl
@[simp] theorem State.setCtxInfo_queues (s : State) (p n : Nat) (x : CtxInfo) : (s.setCtxInfo p n x).queues = s.queues := rfl
@[simp] theorem State.setCtxInfo_graphs (s : State) (p n : Nat) (x : CtxInfo) : (s.setCtxInfo p n x).graphs = s.graphs := rfl
@[simp] theorem State.setCtxInfo_graphNo (s : State) (p n : Nat) (x : CtxInfo) : (s.setCtxInfo p n x).graphNo = s.graphNo := rfl
@[simp] theorem State.setCtxInfo_counters (s : State) (p n : Nat) (x : CtxInfo) : (s.setCtxInfo p n x).counters = s.counters := rfl
@[simp] theorem State.setCtxInfo_barriers (s : State) (p n : Nat) (x : CtxInfo) : (s.setCtxInfo p n x).barriers = s.barriers := rfl
@[simp] theorem State.setCtxInfo_codes (s : State) (p n : Nat) (x : CtxInfo) : (s.setCtxInfo p n x).codes = s.codes := rfl
@[simp] theorem State.setCtxInfo_flips (s : State) (p n : Nat) (x : CtxInfo) : (s.setCtxInfo p n x).flips = s.flips := rfl
@[simp] theorem State.setCtxInfo_heldHost (s : State) (p n : Nat) (x : CtxInfo) : (s.setCtxInfo p n x).heldHost = s.heldHost := rfl
@[simp] theorem State.setCtxInfo_heldCtl (s : State) (p n : Nat) (x : CtxInfo) : (s.setCtxInfo p n x).heldCtl = s.heldCtl := rfl
@[simp] theorem State.setCtxInfo_keys (s : State) (p n : Nat) (x : CtxInfo) : (s.setCtxInfo p n x).keys = s.keys := rfl
@[simp] theorem State.setCtxInfo_links (s : State) (p n : Nat) (x : CtxInfo) : (s.setCtxInfo p n x).links = s.links := rfl
@[simp] theorem State.setCtxInfo_macsec (s : State) (p n : Nat) (x : CtxInfo) : (s.setCtxInfo p n x).macsec = s.macsec := rfl
@[simp] theorem State.setCtxInfo_udp (s : State) (p n : Nat) (x : CtxInfo) : (s.setCtxInfo p n x).udp = s.udp := rfl
@[simp] theorem State.setCtxInfo_reds (s : State) (p n : Nat) (x : CtxInfo) : (s.setCtxInfo p n x).reds = s.reds := rfl
@[simp] theorem State.setCtxInfo_flash (s : State) (p n : Nat) (x : CtxInfo) : (s.setCtxInfo p n x).flash = s.flash := rfl
@[simp] theorem State.setCtxInfo_firmware (s : State) (p n : Nat) (x : CtxInfo) : (s.setCtxInfo p n x).firmware = s.firmware := rfl
@[simp] theorem State.setCtxInfo_recovery (s : State) (p n : Nat) (x : CtxInfo) : (s.setCtxInfo p n x).recovery = s.recovery := rfl
@[simp] theorem State.setCtxInfo_xmss (s : State) (p n : Nat) (x : CtxInfo) : (s.setCtxInfo p n x).xmss = s.xmss := rfl
@[simp] theorem State.setCtxInfo_flashing (s : State) (p n : Nat) (x : CtxInfo) : (s.setCtxInfo p n x).flashing = s.flashing := rfl
@[simp] theorem State.setCtxInfo_macPn (s : State) (p n : Nat) (x : CtxInfo) : (s.setCtxInfo p n x).macPn = s.macPn := rfl
@[simp] theorem State.setCtxInfo_due (s : State) (p n : Nat) (x : CtxInfo) : (s.setCtxInfo p n x).due = s.due := rfl
@[simp] theorem State.setCtxInfo_work (s : State) (p n : Nat) (x : CtxInfo) : (s.setCtxInfo p n x).work = s.work := rfl
@[simp] theorem State.setCtxInfo_roles (s : State) (p n : Nat) (x : CtxInfo) : (s.setCtxInfo p n x).roles = s.roles := rfl
@[simp] theorem State.setCtxInfo_take (s : State) (p n : Nat) (x : CtxInfo) : (s.setCtxInfo p n x).take = s.take := rfl
@[simp] theorem State.setCtxInfo_jbase (s : State) (p n : Nat) (x : CtxInfo) : (s.setCtxInfo p n x).jbase = s.jbase := rfl
@[simp] theorem State.setCtxInfo_jhead (s : State) (p n : Nat) (x : CtxInfo) : (s.setCtxInfo p n x).jhead = s.jhead := rfl
@[simp] theorem State.setCtxInfo_jtail (s : State) (p n : Nat) (x : CtxInfo) : (s.setCtxInfo p n x).jtail = s.jtail := rfl

/-! ### Fields after setDie -/

@[simp] theorem State.setDie_cur (s : State) (d : Nat) (x : Die) : (s.setDie d x).cur = s.cur := rfl
@[simp] theorem State.setDie_agenda (s : State) (d : Nat) (x : Die) : (s.setDie d x).agenda = s.agenda := rfl
@[simp] theorem State.setDie_turn (s : State) (d : Nat) (x : Die) : (s.setDie d x).turn = s.turn := rfl
@[simp] theorem State.setDie_cores (s : State) (d : Nat) (x : Die) : (s.setDie d x).cores = s.cores := rfl
@[simp] theorem State.setDie_saved (s : State) (d : Nat) (x : Die) : (s.setDie d x).saved = s.saved := rfl
@[simp] theorem State.setDie_spads (s : State) (d : Nat) (x : Die) : (s.setDie d x).spads = s.spads := rfl
@[simp] theorem State.setDie_mem (s : State) (d : Nat) (x : Die) : (s.setDie d x).mem = s.mem := rfl
@[simp] theorem State.setDie_loftGen (s : State) (d : Nat) (x : Die) : (s.setDie d x).loftGen = s.loftGen := rfl
@[simp] theorem State.setDie_loftKey (s : State) (d : Nat) (x : Die) : (s.setDie d x).loftKey = s.loftKey := rfl
@[simp] theorem State.setDie_poison (s : State) (d : Nat) (x : Die) : (s.setDie d x).poison = s.poison := rfl
@[simp] theorem State.setDie_sliceMap (s : State) (d : Nat) (x : Die) : (s.setDie d x).sliceMap = s.sliceMap := rfl
@[simp] theorem State.setDie_tlb (s : State) (d : Nat) (x : Die) : (s.setDie d x).tlb = s.tlb := rfl
@[simp] theorem State.setDie_walks (s : State) (d : Nat) (x : Die) : (s.setDie d x).walks = s.walks := rfl
@[simp] theorem State.setDie_parts (s : State) (d : Nat) (x : Die) : (s.setDie d x).parts = s.parts := rfl
@[simp] theorem State.setDie_ctxs (s : State) (d : Nat) (x : Die) : (s.setDie d x).ctxs = s.ctxs := rfl
@[simp] theorem State.setDie_rows (s : State) (d : Nat) (x : Die) : (s.setDie d x).rows = s.rows := rfl
@[simp] theorem State.setDie_chans (s : State) (d : Nat) (x : Die) : (s.setDie d x).chans = s.chans := rfl
@[simp] theorem State.setDie_sent (s : State) (d : Nat) (x : Die) : (s.setDie d x).sent = s.sent := rfl
@[simp] theorem State.setDie_dropped (s : State) (d : Nat) (x : Die) : (s.setDie d x).dropped = s.dropped := rfl
@[simp] theorem State.setDie_errHead (s : State) (d : Nat) (x : Die) : (s.setDie d x).errHead = s.errHead := rfl
@[simp] theorem State.setDie_errLost (s : State) (d : Nat) (x : Die) : (s.setDie d x).errLost = s.errLost := rfl
@[simp] theorem State.setDie_errLog (s : State) (d : Nat) (x : Die) : (s.setDie d x).errLog = s.errLog := rfl
@[simp] theorem State.setDie_mode (s : State) (d : Nat) (x : Die) : (s.setDie d x).mode = s.mode := rfl
@[simp] theorem State.setDie_modLimit (s : State) (d : Nat) (x : Die) : (s.setDie d x).modLimit = s.modLimit := rfl
@[simp] theorem State.setDie_modMeas (s : State) (d : Nat) (x : Die) : (s.setDie d x).modMeas = s.modMeas := rfl
@[simp] theorem State.setDie_ckMask (s : State) (d : Nat) (x : Die) : (s.setDie d x).ckMask = s.ckMask := rfl
@[simp] theorem State.setDie_ckState (s : State) (d : Nat) (x : Die) : (s.setDie d x).ckState = s.ckState := rfl
@[simp] theorem State.setDie_ckReason (s : State) (d : Nat) (x : Die) : (s.setDie d x).ckReason = s.ckReason := rfl
@[simp] theorem State.setDie_ckMoved (s : State) (d : Nat) (x : Die) : (s.setDie d x).ckMoved = s.ckMoved := rfl
@[simp] theorem State.setDie_ckImage (s : State) (d : Nat) (x : Die) : (s.setDie d x).ckImage = s.ckImage := rfl
@[simp] theorem State.setDie_temp (s : State) (d : Nat) (x : Die) : (s.setDie d x).temp = s.temp := rfl
@[simp] theorem State.setDie_maxTemp (s : State) (d : Nat) (x : Die) : (s.setDie d x).maxTemp = s.maxTemp := rfl
@[simp] theorem State.setDie_volt (s : State) (d : Nat) (x : Die) : (s.setDie d x).volt = s.volt := rfl
@[simp] theorem State.setDie_proc (s : State) (d : Nat) (x : Die) : (s.setDie d x).proc = s.proc := rfl
@[simp] theorem State.setDie_mainOn (s : State) (d : Nat) (x : Die) : (s.setDie d x).mainOn = s.mainOn := rfl
@[simp] theorem State.setDie_auxOn (s : State) (d : Nat) (x : Die) : (s.setDie d x).auxOn = s.auxOn := rfl
@[simp] theorem State.setDie_railsCut (s : State) (d : Nat) (x : Die) : (s.setDie d x).railsCut = s.railsCut := rfl
@[simp] theorem State.setDie_selfRefresh (s : State) (d : Nat) (x : Die) : (s.setDie d x).selfRefresh = s.selfRefresh := rfl
@[simp] theorem State.setDie_queues (s : State) (d : Nat) (x : Die) : (s.setDie d x).queues = s.queues := rfl
@[simp] theorem State.setDie_graphs (s : State) (d : Nat) (x : Die) : (s.setDie d x).graphs = s.graphs := rfl
@[simp] theorem State.setDie_graphNo (s : State) (d : Nat) (x : Die) : (s.setDie d x).graphNo = s.graphNo := rfl
@[simp] theorem State.setDie_counters (s : State) (d : Nat) (x : Die) : (s.setDie d x).counters = s.counters := rfl
@[simp] theorem State.setDie_barriers (s : State) (d : Nat) (x : Die) : (s.setDie d x).barriers = s.barriers := rfl
@[simp] theorem State.setDie_codes (s : State) (d : Nat) (x : Die) : (s.setDie d x).codes = s.codes := rfl
@[simp] theorem State.setDie_flips (s : State) (d : Nat) (x : Die) : (s.setDie d x).flips = s.flips := rfl
@[simp] theorem State.setDie_heldHost (s : State) (d : Nat) (x : Die) : (s.setDie d x).heldHost = s.heldHost := rfl
@[simp] theorem State.setDie_heldCtl (s : State) (d : Nat) (x : Die) : (s.setDie d x).heldCtl = s.heldCtl := rfl
@[simp] theorem State.setDie_keys (s : State) (d : Nat) (x : Die) : (s.setDie d x).keys = s.keys := rfl
@[simp] theorem State.setDie_links (s : State) (d : Nat) (x : Die) : (s.setDie d x).links = s.links := rfl
@[simp] theorem State.setDie_macsec (s : State) (d : Nat) (x : Die) : (s.setDie d x).macsec = s.macsec := rfl
@[simp] theorem State.setDie_udp (s : State) (d : Nat) (x : Die) : (s.setDie d x).udp = s.udp := rfl
@[simp] theorem State.setDie_reds (s : State) (d : Nat) (x : Die) : (s.setDie d x).reds = s.reds := rfl
@[simp] theorem State.setDie_flash (s : State) (d : Nat) (x : Die) : (s.setDie d x).flash = s.flash := rfl
@[simp] theorem State.setDie_firmware (s : State) (d : Nat) (x : Die) : (s.setDie d x).firmware = s.firmware := rfl
@[simp] theorem State.setDie_recovery (s : State) (d : Nat) (x : Die) : (s.setDie d x).recovery = s.recovery := rfl
@[simp] theorem State.setDie_xmss (s : State) (d : Nat) (x : Die) : (s.setDie d x).xmss = s.xmss := rfl
@[simp] theorem State.setDie_flashing (s : State) (d : Nat) (x : Die) : (s.setDie d x).flashing = s.flashing := rfl
@[simp] theorem State.setDie_macPn (s : State) (d : Nat) (x : Die) : (s.setDie d x).macPn = s.macPn := rfl
@[simp] theorem State.setDie_due (s : State) (d : Nat) (x : Die) : (s.setDie d x).due = s.due := rfl
@[simp] theorem State.setDie_work (s : State) (d : Nat) (x : Die) : (s.setDie d x).work = s.work := rfl
@[simp] theorem State.setDie_roles (s : State) (d : Nat) (x : Die) : (s.setDie d x).roles = s.roles := rfl
@[simp] theorem State.setDie_take (s : State) (d : Nat) (x : Die) : (s.setDie d x).take = s.take := rfl
@[simp] theorem State.setDie_jbase (s : State) (d : Nat) (x : Die) : (s.setDie d x).jbase = s.jbase := rfl
@[simp] theorem State.setDie_jhead (s : State) (d : Nat) (x : Die) : (s.setDie d x).jhead = s.jhead := rfl
@[simp] theorem State.setDie_jtail (s : State) (d : Nat) (x : Die) : (s.setDie d x).jtail = s.jtail := rfl

/-! ### Fields after setQueue -/

@[simp] theorem State.setQueue_cur (s : State) (p q : Nat) (x : Queue) : (s.setQueue p q x).cur = s.cur := rfl
@[simp] theorem State.setQueue_agenda (s : State) (p q : Nat) (x : Queue) : (s.setQueue p q x).agenda = s.agenda := rfl
@[simp] theorem State.setQueue_turn (s : State) (p q : Nat) (x : Queue) : (s.setQueue p q x).turn = s.turn := rfl
@[simp] theorem State.setQueue_cores (s : State) (p q : Nat) (x : Queue) : (s.setQueue p q x).cores = s.cores := rfl
@[simp] theorem State.setQueue_saved (s : State) (p q : Nat) (x : Queue) : (s.setQueue p q x).saved = s.saved := rfl
@[simp] theorem State.setQueue_spads (s : State) (p q : Nat) (x : Queue) : (s.setQueue p q x).spads = s.spads := rfl
@[simp] theorem State.setQueue_mem (s : State) (p q : Nat) (x : Queue) : (s.setQueue p q x).mem = s.mem := rfl
@[simp] theorem State.setQueue_loftGen (s : State) (p q : Nat) (x : Queue) : (s.setQueue p q x).loftGen = s.loftGen := rfl
@[simp] theorem State.setQueue_loftKey (s : State) (p q : Nat) (x : Queue) : (s.setQueue p q x).loftKey = s.loftKey := rfl
@[simp] theorem State.setQueue_poison (s : State) (p q : Nat) (x : Queue) : (s.setQueue p q x).poison = s.poison := rfl
@[simp] theorem State.setQueue_sliceMap (s : State) (p q : Nat) (x : Queue) : (s.setQueue p q x).sliceMap = s.sliceMap := rfl
@[simp] theorem State.setQueue_tlb (s : State) (p q : Nat) (x : Queue) : (s.setQueue p q x).tlb = s.tlb := rfl
@[simp] theorem State.setQueue_walks (s : State) (p q : Nat) (x : Queue) : (s.setQueue p q x).walks = s.walks := rfl
@[simp] theorem State.setQueue_parts (s : State) (p q : Nat) (x : Queue) : (s.setQueue p q x).parts = s.parts := rfl
@[simp] theorem State.setQueue_ctxs (s : State) (p q : Nat) (x : Queue) : (s.setQueue p q x).ctxs = s.ctxs := rfl
@[simp] theorem State.setQueue_rows (s : State) (p q : Nat) (x : Queue) : (s.setQueue p q x).rows = s.rows := rfl
@[simp] theorem State.setQueue_chans (s : State) (p q : Nat) (x : Queue) : (s.setQueue p q x).chans = s.chans := rfl
@[simp] theorem State.setQueue_sent (s : State) (p q : Nat) (x : Queue) : (s.setQueue p q x).sent = s.sent := rfl
@[simp] theorem State.setQueue_dropped (s : State) (p q : Nat) (x : Queue) : (s.setQueue p q x).dropped = s.dropped := rfl
@[simp] theorem State.setQueue_errHead (s : State) (p q : Nat) (x : Queue) : (s.setQueue p q x).errHead = s.errHead := rfl
@[simp] theorem State.setQueue_errLost (s : State) (p q : Nat) (x : Queue) : (s.setQueue p q x).errLost = s.errLost := rfl
@[simp] theorem State.setQueue_errLog (s : State) (p q : Nat) (x : Queue) : (s.setQueue p q x).errLog = s.errLog := rfl
@[simp] theorem State.setQueue_dies (s : State) (p q : Nat) (x : Queue) : (s.setQueue p q x).dies = s.dies := rfl
@[simp] theorem State.setQueue_mode (s : State) (p q : Nat) (x : Queue) : (s.setQueue p q x).mode = s.mode := rfl
@[simp] theorem State.setQueue_modLimit (s : State) (p q : Nat) (x : Queue) : (s.setQueue p q x).modLimit = s.modLimit := rfl
@[simp] theorem State.setQueue_modMeas (s : State) (p q : Nat) (x : Queue) : (s.setQueue p q x).modMeas = s.modMeas := rfl
@[simp] theorem State.setQueue_ckMask (s : State) (p q : Nat) (x : Queue) : (s.setQueue p q x).ckMask = s.ckMask := rfl
@[simp] theorem State.setQueue_ckState (s : State) (p q : Nat) (x : Queue) : (s.setQueue p q x).ckState = s.ckState := rfl
@[simp] theorem State.setQueue_ckReason (s : State) (p q : Nat) (x : Queue) : (s.setQueue p q x).ckReason = s.ckReason := rfl
@[simp] theorem State.setQueue_ckMoved (s : State) (p q : Nat) (x : Queue) : (s.setQueue p q x).ckMoved = s.ckMoved := rfl
@[simp] theorem State.setQueue_ckImage (s : State) (p q : Nat) (x : Queue) : (s.setQueue p q x).ckImage = s.ckImage := rfl
@[simp] theorem State.setQueue_temp (s : State) (p q : Nat) (x : Queue) : (s.setQueue p q x).temp = s.temp := rfl
@[simp] theorem State.setQueue_maxTemp (s : State) (p q : Nat) (x : Queue) : (s.setQueue p q x).maxTemp = s.maxTemp := rfl
@[simp] theorem State.setQueue_volt (s : State) (p q : Nat) (x : Queue) : (s.setQueue p q x).volt = s.volt := rfl
@[simp] theorem State.setQueue_proc (s : State) (p q : Nat) (x : Queue) : (s.setQueue p q x).proc = s.proc := rfl
@[simp] theorem State.setQueue_mainOn (s : State) (p q : Nat) (x : Queue) : (s.setQueue p q x).mainOn = s.mainOn := rfl
@[simp] theorem State.setQueue_auxOn (s : State) (p q : Nat) (x : Queue) : (s.setQueue p q x).auxOn = s.auxOn := rfl
@[simp] theorem State.setQueue_railsCut (s : State) (p q : Nat) (x : Queue) : (s.setQueue p q x).railsCut = s.railsCut := rfl
@[simp] theorem State.setQueue_selfRefresh (s : State) (p q : Nat) (x : Queue) : (s.setQueue p q x).selfRefresh = s.selfRefresh := rfl
@[simp] theorem State.setQueue_graphs (s : State) (p q : Nat) (x : Queue) : (s.setQueue p q x).graphs = s.graphs := rfl
@[simp] theorem State.setQueue_graphNo (s : State) (p q : Nat) (x : Queue) : (s.setQueue p q x).graphNo = s.graphNo := rfl
@[simp] theorem State.setQueue_counters (s : State) (p q : Nat) (x : Queue) : (s.setQueue p q x).counters = s.counters := rfl
@[simp] theorem State.setQueue_barriers (s : State) (p q : Nat) (x : Queue) : (s.setQueue p q x).barriers = s.barriers := rfl
@[simp] theorem State.setQueue_codes (s : State) (p q : Nat) (x : Queue) : (s.setQueue p q x).codes = s.codes := rfl
@[simp] theorem State.setQueue_flips (s : State) (p q : Nat) (x : Queue) : (s.setQueue p q x).flips = s.flips := rfl
@[simp] theorem State.setQueue_heldHost (s : State) (p q : Nat) (x : Queue) : (s.setQueue p q x).heldHost = s.heldHost := rfl
@[simp] theorem State.setQueue_heldCtl (s : State) (p q : Nat) (x : Queue) : (s.setQueue p q x).heldCtl = s.heldCtl := rfl
@[simp] theorem State.setQueue_keys (s : State) (p q : Nat) (x : Queue) : (s.setQueue p q x).keys = s.keys := rfl
@[simp] theorem State.setQueue_links (s : State) (p q : Nat) (x : Queue) : (s.setQueue p q x).links = s.links := rfl
@[simp] theorem State.setQueue_macsec (s : State) (p q : Nat) (x : Queue) : (s.setQueue p q x).macsec = s.macsec := rfl
@[simp] theorem State.setQueue_udp (s : State) (p q : Nat) (x : Queue) : (s.setQueue p q x).udp = s.udp := rfl
@[simp] theorem State.setQueue_reds (s : State) (p q : Nat) (x : Queue) : (s.setQueue p q x).reds = s.reds := rfl
@[simp] theorem State.setQueue_flash (s : State) (p q : Nat) (x : Queue) : (s.setQueue p q x).flash = s.flash := rfl
@[simp] theorem State.setQueue_firmware (s : State) (p q : Nat) (x : Queue) : (s.setQueue p q x).firmware = s.firmware := rfl
@[simp] theorem State.setQueue_recovery (s : State) (p q : Nat) (x : Queue) : (s.setQueue p q x).recovery = s.recovery := rfl
@[simp] theorem State.setQueue_xmss (s : State) (p q : Nat) (x : Queue) : (s.setQueue p q x).xmss = s.xmss := rfl
@[simp] theorem State.setQueue_flashing (s : State) (p q : Nat) (x : Queue) : (s.setQueue p q x).flashing = s.flashing := rfl
@[simp] theorem State.setQueue_macPn (s : State) (p q : Nat) (x : Queue) : (s.setQueue p q x).macPn = s.macPn := rfl
@[simp] theorem State.setQueue_due (s : State) (p q : Nat) (x : Queue) : (s.setQueue p q x).due = s.due := rfl
@[simp] theorem State.setQueue_work (s : State) (p q : Nat) (x : Queue) : (s.setQueue p q x).work = s.work := rfl
@[simp] theorem State.setQueue_roles (s : State) (p q : Nat) (x : Queue) : (s.setQueue p q x).roles = s.roles := rfl
@[simp] theorem State.setQueue_take (s : State) (p q : Nat) (x : Queue) : (s.setQueue p q x).take = s.take := rfl
@[simp] theorem State.setQueue_jbase (s : State) (p q : Nat) (x : Queue) : (s.setQueue p q x).jbase = s.jbase := rfl
@[simp] theorem State.setQueue_jhead (s : State) (p q : Nat) (x : Queue) : (s.setQueue p q x).jhead = s.jhead := rfl
@[simp] theorem State.setQueue_jtail (s : State) (p q : Nat) (x : Queue) : (s.setQueue p q x).jtail = s.jtail := rfl

/-! ### Fields after setChan -/

@[simp] theorem State.setChan_cur (s : State) (k : Nat) (x : Chan) : (s.setChan k x).cur = s.cur := rfl
@[simp] theorem State.setChan_agenda (s : State) (k : Nat) (x : Chan) : (s.setChan k x).agenda = s.agenda := rfl
@[simp] theorem State.setChan_turn (s : State) (k : Nat) (x : Chan) : (s.setChan k x).turn = s.turn := rfl
@[simp] theorem State.setChan_cores (s : State) (k : Nat) (x : Chan) : (s.setChan k x).cores = s.cores := rfl
@[simp] theorem State.setChan_saved (s : State) (k : Nat) (x : Chan) : (s.setChan k x).saved = s.saved := rfl
@[simp] theorem State.setChan_spads (s : State) (k : Nat) (x : Chan) : (s.setChan k x).spads = s.spads := rfl
@[simp] theorem State.setChan_mem (s : State) (k : Nat) (x : Chan) : (s.setChan k x).mem = s.mem := rfl
@[simp] theorem State.setChan_loftGen (s : State) (k : Nat) (x : Chan) : (s.setChan k x).loftGen = s.loftGen := rfl
@[simp] theorem State.setChan_loftKey (s : State) (k : Nat) (x : Chan) : (s.setChan k x).loftKey = s.loftKey := rfl
@[simp] theorem State.setChan_poison (s : State) (k : Nat) (x : Chan) : (s.setChan k x).poison = s.poison := rfl
@[simp] theorem State.setChan_sliceMap (s : State) (k : Nat) (x : Chan) : (s.setChan k x).sliceMap = s.sliceMap := rfl
@[simp] theorem State.setChan_tlb (s : State) (k : Nat) (x : Chan) : (s.setChan k x).tlb = s.tlb := rfl
@[simp] theorem State.setChan_walks (s : State) (k : Nat) (x : Chan) : (s.setChan k x).walks = s.walks := rfl
@[simp] theorem State.setChan_parts (s : State) (k : Nat) (x : Chan) : (s.setChan k x).parts = s.parts := rfl
@[simp] theorem State.setChan_ctxs (s : State) (k : Nat) (x : Chan) : (s.setChan k x).ctxs = s.ctxs := rfl
@[simp] theorem State.setChan_rows (s : State) (k : Nat) (x : Chan) : (s.setChan k x).rows = s.rows := rfl
@[simp] theorem State.setChan_sent (s : State) (k : Nat) (x : Chan) : (s.setChan k x).sent = s.sent := rfl
@[simp] theorem State.setChan_dropped (s : State) (k : Nat) (x : Chan) : (s.setChan k x).dropped = s.dropped := rfl
@[simp] theorem State.setChan_errHead (s : State) (k : Nat) (x : Chan) : (s.setChan k x).errHead = s.errHead := rfl
@[simp] theorem State.setChan_errLost (s : State) (k : Nat) (x : Chan) : (s.setChan k x).errLost = s.errLost := rfl
@[simp] theorem State.setChan_errLog (s : State) (k : Nat) (x : Chan) : (s.setChan k x).errLog = s.errLog := rfl
@[simp] theorem State.setChan_dies (s : State) (k : Nat) (x : Chan) : (s.setChan k x).dies = s.dies := rfl
@[simp] theorem State.setChan_mode (s : State) (k : Nat) (x : Chan) : (s.setChan k x).mode = s.mode := rfl
@[simp] theorem State.setChan_modLimit (s : State) (k : Nat) (x : Chan) : (s.setChan k x).modLimit = s.modLimit := rfl
@[simp] theorem State.setChan_modMeas (s : State) (k : Nat) (x : Chan) : (s.setChan k x).modMeas = s.modMeas := rfl
@[simp] theorem State.setChan_ckMask (s : State) (k : Nat) (x : Chan) : (s.setChan k x).ckMask = s.ckMask := rfl
@[simp] theorem State.setChan_ckState (s : State) (k : Nat) (x : Chan) : (s.setChan k x).ckState = s.ckState := rfl
@[simp] theorem State.setChan_ckReason (s : State) (k : Nat) (x : Chan) : (s.setChan k x).ckReason = s.ckReason := rfl
@[simp] theorem State.setChan_ckMoved (s : State) (k : Nat) (x : Chan) : (s.setChan k x).ckMoved = s.ckMoved := rfl
@[simp] theorem State.setChan_ckImage (s : State) (k : Nat) (x : Chan) : (s.setChan k x).ckImage = s.ckImage := rfl
@[simp] theorem State.setChan_temp (s : State) (k : Nat) (x : Chan) : (s.setChan k x).temp = s.temp := rfl
@[simp] theorem State.setChan_maxTemp (s : State) (k : Nat) (x : Chan) : (s.setChan k x).maxTemp = s.maxTemp := rfl
@[simp] theorem State.setChan_volt (s : State) (k : Nat) (x : Chan) : (s.setChan k x).volt = s.volt := rfl
@[simp] theorem State.setChan_proc (s : State) (k : Nat) (x : Chan) : (s.setChan k x).proc = s.proc := rfl
@[simp] theorem State.setChan_mainOn (s : State) (k : Nat) (x : Chan) : (s.setChan k x).mainOn = s.mainOn := rfl
@[simp] theorem State.setChan_auxOn (s : State) (k : Nat) (x : Chan) : (s.setChan k x).auxOn = s.auxOn := rfl
@[simp] theorem State.setChan_railsCut (s : State) (k : Nat) (x : Chan) : (s.setChan k x).railsCut = s.railsCut := rfl
@[simp] theorem State.setChan_selfRefresh (s : State) (k : Nat) (x : Chan) : (s.setChan k x).selfRefresh = s.selfRefresh := rfl
@[simp] theorem State.setChan_queues (s : State) (k : Nat) (x : Chan) : (s.setChan k x).queues = s.queues := rfl
@[simp] theorem State.setChan_graphs (s : State) (k : Nat) (x : Chan) : (s.setChan k x).graphs = s.graphs := rfl
@[simp] theorem State.setChan_graphNo (s : State) (k : Nat) (x : Chan) : (s.setChan k x).graphNo = s.graphNo := rfl
@[simp] theorem State.setChan_counters (s : State) (k : Nat) (x : Chan) : (s.setChan k x).counters = s.counters := rfl
@[simp] theorem State.setChan_barriers (s : State) (k : Nat) (x : Chan) : (s.setChan k x).barriers = s.barriers := rfl
@[simp] theorem State.setChan_codes (s : State) (k : Nat) (x : Chan) : (s.setChan k x).codes = s.codes := rfl
@[simp] theorem State.setChan_flips (s : State) (k : Nat) (x : Chan) : (s.setChan k x).flips = s.flips := rfl
@[simp] theorem State.setChan_heldHost (s : State) (k : Nat) (x : Chan) : (s.setChan k x).heldHost = s.heldHost := rfl
@[simp] theorem State.setChan_heldCtl (s : State) (k : Nat) (x : Chan) : (s.setChan k x).heldCtl = s.heldCtl := rfl
@[simp] theorem State.setChan_keys (s : State) (k : Nat) (x : Chan) : (s.setChan k x).keys = s.keys := rfl
@[simp] theorem State.setChan_links (s : State) (k : Nat) (x : Chan) : (s.setChan k x).links = s.links := rfl
@[simp] theorem State.setChan_macsec (s : State) (k : Nat) (x : Chan) : (s.setChan k x).macsec = s.macsec := rfl
@[simp] theorem State.setChan_udp (s : State) (k : Nat) (x : Chan) : (s.setChan k x).udp = s.udp := rfl
@[simp] theorem State.setChan_reds (s : State) (k : Nat) (x : Chan) : (s.setChan k x).reds = s.reds := rfl
@[simp] theorem State.setChan_flash (s : State) (k : Nat) (x : Chan) : (s.setChan k x).flash = s.flash := rfl
@[simp] theorem State.setChan_firmware (s : State) (k : Nat) (x : Chan) : (s.setChan k x).firmware = s.firmware := rfl
@[simp] theorem State.setChan_recovery (s : State) (k : Nat) (x : Chan) : (s.setChan k x).recovery = s.recovery := rfl
@[simp] theorem State.setChan_xmss (s : State) (k : Nat) (x : Chan) : (s.setChan k x).xmss = s.xmss := rfl
@[simp] theorem State.setChan_flashing (s : State) (k : Nat) (x : Chan) : (s.setChan k x).flashing = s.flashing := rfl
@[simp] theorem State.setChan_macPn (s : State) (k : Nat) (x : Chan) : (s.setChan k x).macPn = s.macPn := rfl
@[simp] theorem State.setChan_due (s : State) (k : Nat) (x : Chan) : (s.setChan k x).due = s.due := rfl
@[simp] theorem State.setChan_work (s : State) (k : Nat) (x : Chan) : (s.setChan k x).work = s.work := rfl
@[simp] theorem State.setChan_roles (s : State) (k : Nat) (x : Chan) : (s.setChan k x).roles = s.roles := rfl
@[simp] theorem State.setChan_take (s : State) (k : Nat) (x : Chan) : (s.setChan k x).take = s.take := rfl
@[simp] theorem State.setChan_jbase (s : State) (k : Nat) (x : Chan) : (s.setChan k x).jbase = s.jbase := rfl
@[simp] theorem State.setChan_jhead (s : State) (k : Nat) (x : Chan) : (s.setChan k x).jhead = s.jhead := rfl
@[simp] theorem State.setChan_jtail (s : State) (k : Nat) (x : Chan) : (s.setChan k x).jtail = s.jtail := rfl

/-! ### Fields of a bank after setVec -/

@[simp] theorem Context.setVec_task (c : Context) (r : VReg) (x : VecReg) : (c.setVec r x).task = c.task := rfl
@[simp] theorem Context.setVec_stopped (c : Context) (r : VReg) (x : VecReg) : (c.setVec r x).stopped = c.stopped := rfl
@[simp] theorem Context.setVec_pc (c : Context) (r : VReg) (x : VecReg) : (c.setVec r x).pc = c.pc := rfl
@[simp] theorem Context.setVec_xfer (c : Context) (r : VReg) (x : VecReg) : (c.setVec r x).xfer = c.xfer := rfl
@[simp] theorem Context.setVec_wait (c : Context) (r : VReg) (x : VecReg) : (c.setVec r x).wait = c.wait := rfl
@[simp] theorem Context.setVec_retry (c : Context) (r : VReg) (x : VecReg) : (c.setVec r x).retry = c.retry := rfl
@[simp] theorem Context.setVec_atBound (c : Context) (r : VReg) (x : VecReg) : (c.setVec r x).atBound = c.atBound := rfl
@[simp] theorem Context.setVec_walkTrap (c : Context) (r : VReg) (x : VecReg) : (c.setVec r x).walkTrap = c.walkTrap := rfl
@[simp] theorem Context.setVec_owed (c : Context) (r : VReg) (x : VecReg) : (c.setVec r x).owed = c.owed := rfl
@[simp] theorem Context.setVec_fillMsg (c : Context) (r : VReg) (x : VecReg) : (c.setVec r x).fillMsg = c.fillMsg := rfl
@[simp] theorem Context.setVec_fillData (c : Context) (r : VReg) (x : VecReg) : (c.setVec r x).fillData = c.fillData := rfl
@[simp] theorem Context.setVec_resuming (c : Context) (r : VReg) (x : VecReg) : (c.setVec r x).resuming = c.resuming := rfl
@[simp] theorem Context.setVec_idle (c : Context) (r : VReg) (x : VecReg) : (c.setVec r x).idle = c.idle := rfl
@[simp] theorem Context.setVec_strip (c : Context) (r : VReg) (x : VecReg) : (c.setVec r x).strip = c.strip := rfl
@[simp] theorem Context.setVec_stripHeld (c : Context) (r : VReg) (x : VecReg) : (c.setVec r x).stripHeld = c.stripHeld := rfl
@[simp] theorem Context.setVec_ring (c : Context) (r : VReg) (x : VecReg) : (c.setVec r x).ring = c.ring := rfl
@[simp] theorem Context.setVec_wp (c : Context) (r : VReg) (x : VecReg) : (c.setVec r x).wp = c.wp := rfl
@[simp] theorem Context.setVec_lo (c : Context) (r : VReg) (x : VecReg) : (c.setVec r x).lo = c.lo := rfl
@[simp] theorem Context.setVec_g (c : Context) (r : VReg) (x : VecReg) : (c.setVec r x).g = c.g := rfl
@[simp] theorem Context.setVec_p (c : Context) (r : VReg) (x : VecReg) : (c.setVec r x).p = c.p := rfl
@[simp] theorem Context.setVec_d (c : Context) (r : VReg) (x : VecReg) : (c.setVec r x).d = c.d := rfl
@[simp] theorem Context.setVec_rkbase (c : Context) (r : VReg) (x : VecReg) : (c.setVec r x).rkbase = c.rkbase := rfl
@[simp] theorem Context.setVec_rklimit (c : Context) (r : VReg) (x : VecReg) : (c.setVec r x).rklimit = c.rklimit := rfl
@[simp] theorem Context.setVec_vstat (c : Context) (r : VReg) (x : VecReg) : (c.setVec r x).vstat = c.vstat := rfl
@[simp] theorem Context.setVec_gkey (c : Context) (r : VReg) (x : VecReg) : (c.setVec r x).gkey = c.gkey := rfl
@[simp] theorem Context.setVec_gctr (c : Context) (r : VReg) (x : VecReg) : (c.setVec r x).gctr = c.gctr := rfl
@[simp] theorem Context.setVec_ft (c : Context) (r : VReg) (x : VecReg) : (c.setVec r x).ft = c.ft := rfl
@[simp] theorem Context.setVec_frame (c : Context) (r : VReg) (x : VecReg) : (c.setVec r x).frame = c.frame := rfl
@[simp] theorem Context.setVec_trapst (c : Context) (r : VReg) (x : VecReg) : (c.setVec r x).trapst = c.trapst := rfl
@[simp] theorem Context.setVec_cause2 (c : Context) (r : VReg) (x : VecReg) : (c.setVec r x).cause2 = c.cause2 := rfl
@[simp] theorem Context.setVec_tvec (c : Context) (r : VReg) (x : VecReg) : (c.setVec r x).tvec = c.tvec := rfl
@[simp] theorem Context.setVec_tsave0 (c : Context) (r : VReg) (x : VecReg) : (c.setVec r x).tsave0 = c.tsave0 := rfl
@[simp] theorem Context.setVec_tsave1 (c : Context) (r : VReg) (x : VecReg) : (c.setVec r x).tsave1 = c.tsave1 := rfl
@[simp] theorem Context.setVec_rqsel (c : Context) (r : VReg) (x : VecReg) : (c.setVec r x).rqsel = c.rqsel := rfl
@[simp] theorem Context.setVec_trsel (c : Context) (r : VReg) (x : VecReg) : (c.setVec r x).trsel = c.trsel := rfl
@[simp] theorem Context.setVec_rq (c : Context) (r : VReg) (x : VecReg) : (c.setVec r x).rq = c.rq := rfl
@[simp] theorem Context.setVec_issued (c : Context) (r : VReg) (x : VecReg) : (c.setVec r x).issued = c.issued := rfl
@[simp] theorem Context.setVec_fly (c : Context) (r : VReg) (x : VecReg) : (c.setVec r x).fly = c.fly := rfl
@[simp] theorem Context.setVec_susp (c : Context) (r : VReg) (x : VecReg) : (c.setVec r x).susp = c.susp := rfl
@[simp] theorem Context.setVec_asyncs (c : Context) (r : VReg) (x : VecReg) : (c.setVec r x).asyncs = c.asyncs := rfl
@[simp] theorem Context.setVec_wdcnt (c : Context) (r : VReg) (x : VecReg) : (c.setVec r x).wdcnt = c.wdcnt := rfl
@[simp] theorem Context.setVec_wdlim (c : Context) (r : VReg) (x : VecReg) : (c.setVec r x).wdlim = c.wdlim := rfl
@[simp] theorem Context.setVec_remote (c : Context) (r : VReg) (x : VecReg) : (c.setVec r x).remote = c.remote := rfl
@[simp] theorem Context.setVec_arrived (c : Context) (r : VReg) (x : VecReg) : (c.setVec r x).arrived = c.arrived := rfl
@[simp] theorem Context.setVec_phase (c : Context) (r : VReg) (x : VecReg) : (c.setVec r x).phase = c.phase := rfl
@[simp] theorem Context.setVec_hs (c : Context) (r : VReg) (x : VecReg) : (c.setVec r x).hs = c.hs := rfl
@[simp] theorem Context.setVec_gens (c : Context) (r : VReg) (x : VecReg) : (c.setVec r x).gens = c.gens := rfl

/-! ### Fields of a bank after setDesc -/

@[simp] theorem Context.setDesc_task (c : Context) (r : DReg) (x : BitVec 128) : (c.setDesc r x).task = c.task := rfl
@[simp] theorem Context.setDesc_stopped (c : Context) (r : DReg) (x : BitVec 128) : (c.setDesc r x).stopped = c.stopped := rfl
@[simp] theorem Context.setDesc_pc (c : Context) (r : DReg) (x : BitVec 128) : (c.setDesc r x).pc = c.pc := rfl
@[simp] theorem Context.setDesc_xfer (c : Context) (r : DReg) (x : BitVec 128) : (c.setDesc r x).xfer = c.xfer := rfl
@[simp] theorem Context.setDesc_wait (c : Context) (r : DReg) (x : BitVec 128) : (c.setDesc r x).wait = c.wait := rfl
@[simp] theorem Context.setDesc_retry (c : Context) (r : DReg) (x : BitVec 128) : (c.setDesc r x).retry = c.retry := rfl
@[simp] theorem Context.setDesc_atBound (c : Context) (r : DReg) (x : BitVec 128) : (c.setDesc r x).atBound = c.atBound := rfl
@[simp] theorem Context.setDesc_walkTrap (c : Context) (r : DReg) (x : BitVec 128) : (c.setDesc r x).walkTrap = c.walkTrap := rfl
@[simp] theorem Context.setDesc_owed (c : Context) (r : DReg) (x : BitVec 128) : (c.setDesc r x).owed = c.owed := rfl
@[simp] theorem Context.setDesc_fillMsg (c : Context) (r : DReg) (x : BitVec 128) : (c.setDesc r x).fillMsg = c.fillMsg := rfl
@[simp] theorem Context.setDesc_fillData (c : Context) (r : DReg) (x : BitVec 128) : (c.setDesc r x).fillData = c.fillData := rfl
@[simp] theorem Context.setDesc_resuming (c : Context) (r : DReg) (x : BitVec 128) : (c.setDesc r x).resuming = c.resuming := rfl
@[simp] theorem Context.setDesc_idle (c : Context) (r : DReg) (x : BitVec 128) : (c.setDesc r x).idle = c.idle := rfl
@[simp] theorem Context.setDesc_strip (c : Context) (r : DReg) (x : BitVec 128) : (c.setDesc r x).strip = c.strip := rfl
@[simp] theorem Context.setDesc_stripHeld (c : Context) (r : DReg) (x : BitVec 128) : (c.setDesc r x).stripHeld = c.stripHeld := rfl
@[simp] theorem Context.setDesc_ring (c : Context) (r : DReg) (x : BitVec 128) : (c.setDesc r x).ring = c.ring := rfl
@[simp] theorem Context.setDesc_wp (c : Context) (r : DReg) (x : BitVec 128) : (c.setDesc r x).wp = c.wp := rfl
@[simp] theorem Context.setDesc_lo (c : Context) (r : DReg) (x : BitVec 128) : (c.setDesc r x).lo = c.lo := rfl
@[simp] theorem Context.setDesc_g (c : Context) (r : DReg) (x : BitVec 128) : (c.setDesc r x).g = c.g := rfl
@[simp] theorem Context.setDesc_v (c : Context) (r : DReg) (x : BitVec 128) : (c.setDesc r x).v = c.v := rfl
@[simp] theorem Context.setDesc_p (c : Context) (r : DReg) (x : BitVec 128) : (c.setDesc r x).p = c.p := rfl
@[simp] theorem Context.setDesc_rkbase (c : Context) (r : DReg) (x : BitVec 128) : (c.setDesc r x).rkbase = c.rkbase := rfl
@[simp] theorem Context.setDesc_rklimit (c : Context) (r : DReg) (x : BitVec 128) : (c.setDesc r x).rklimit = c.rklimit := rfl
@[simp] theorem Context.setDesc_vstat (c : Context) (r : DReg) (x : BitVec 128) : (c.setDesc r x).vstat = c.vstat := rfl
@[simp] theorem Context.setDesc_gkey (c : Context) (r : DReg) (x : BitVec 128) : (c.setDesc r x).gkey = c.gkey := rfl
@[simp] theorem Context.setDesc_gctr (c : Context) (r : DReg) (x : BitVec 128) : (c.setDesc r x).gctr = c.gctr := rfl
@[simp] theorem Context.setDesc_ft (c : Context) (r : DReg) (x : BitVec 128) : (c.setDesc r x).ft = c.ft := rfl
@[simp] theorem Context.setDesc_frame (c : Context) (r : DReg) (x : BitVec 128) : (c.setDesc r x).frame = c.frame := rfl
@[simp] theorem Context.setDesc_trapst (c : Context) (r : DReg) (x : BitVec 128) : (c.setDesc r x).trapst = c.trapst := rfl
@[simp] theorem Context.setDesc_cause2 (c : Context) (r : DReg) (x : BitVec 128) : (c.setDesc r x).cause2 = c.cause2 := rfl
@[simp] theorem Context.setDesc_tvec (c : Context) (r : DReg) (x : BitVec 128) : (c.setDesc r x).tvec = c.tvec := rfl
@[simp] theorem Context.setDesc_tsave0 (c : Context) (r : DReg) (x : BitVec 128) : (c.setDesc r x).tsave0 = c.tsave0 := rfl
@[simp] theorem Context.setDesc_tsave1 (c : Context) (r : DReg) (x : BitVec 128) : (c.setDesc r x).tsave1 = c.tsave1 := rfl
@[simp] theorem Context.setDesc_rqsel (c : Context) (r : DReg) (x : BitVec 128) : (c.setDesc r x).rqsel = c.rqsel := rfl
@[simp] theorem Context.setDesc_trsel (c : Context) (r : DReg) (x : BitVec 128) : (c.setDesc r x).trsel = c.trsel := rfl
@[simp] theorem Context.setDesc_rq (c : Context) (r : DReg) (x : BitVec 128) : (c.setDesc r x).rq = c.rq := rfl
@[simp] theorem Context.setDesc_issued (c : Context) (r : DReg) (x : BitVec 128) : (c.setDesc r x).issued = c.issued := rfl
@[simp] theorem Context.setDesc_fly (c : Context) (r : DReg) (x : BitVec 128) : (c.setDesc r x).fly = c.fly := rfl
@[simp] theorem Context.setDesc_susp (c : Context) (r : DReg) (x : BitVec 128) : (c.setDesc r x).susp = c.susp := rfl
@[simp] theorem Context.setDesc_asyncs (c : Context) (r : DReg) (x : BitVec 128) : (c.setDesc r x).asyncs = c.asyncs := rfl
@[simp] theorem Context.setDesc_wdcnt (c : Context) (r : DReg) (x : BitVec 128) : (c.setDesc r x).wdcnt = c.wdcnt := rfl
@[simp] theorem Context.setDesc_wdlim (c : Context) (r : DReg) (x : BitVec 128) : (c.setDesc r x).wdlim = c.wdlim := rfl
@[simp] theorem Context.setDesc_remote (c : Context) (r : DReg) (x : BitVec 128) : (c.setDesc r x).remote = c.remote := rfl
@[simp] theorem Context.setDesc_arrived (c : Context) (r : DReg) (x : BitVec 128) : (c.setDesc r x).arrived = c.arrived := rfl
@[simp] theorem Context.setDesc_phase (c : Context) (r : DReg) (x : BitVec 128) : (c.setDesc r x).phase = c.phase := rfl
@[simp] theorem Context.setDesc_hs (c : Context) (r : DReg) (x : BitVec 128) : (c.setDesc r x).hs = c.hs := rfl
@[simp] theorem Context.setDesc_gens (c : Context) (r : DReg) (x : BitVec 128) : (c.setDesc r x).gens = c.gens := rfl

/-! ### Fields of a bank after setHandle -/

@[simp] theorem Context.setHandle_task (c : Context) (h : Nat) (x : Handle) : (c.setHandle h x).task = c.task := rfl
@[simp] theorem Context.setHandle_stopped (c : Context) (h : Nat) (x : Handle) : (c.setHandle h x).stopped = c.stopped := rfl
@[simp] theorem Context.setHandle_pc (c : Context) (h : Nat) (x : Handle) : (c.setHandle h x).pc = c.pc := rfl
@[simp] theorem Context.setHandle_xfer (c : Context) (h : Nat) (x : Handle) : (c.setHandle h x).xfer = c.xfer := rfl
@[simp] theorem Context.setHandle_wait (c : Context) (h : Nat) (x : Handle) : (c.setHandle h x).wait = c.wait := rfl
@[simp] theorem Context.setHandle_retry (c : Context) (h : Nat) (x : Handle) : (c.setHandle h x).retry = c.retry := rfl
@[simp] theorem Context.setHandle_atBound (c : Context) (h : Nat) (x : Handle) : (c.setHandle h x).atBound = c.atBound := rfl
@[simp] theorem Context.setHandle_walkTrap (c : Context) (h : Nat) (x : Handle) : (c.setHandle h x).walkTrap = c.walkTrap := rfl
@[simp] theorem Context.setHandle_owed (c : Context) (h : Nat) (x : Handle) : (c.setHandle h x).owed = c.owed := rfl
@[simp] theorem Context.setHandle_fillMsg (c : Context) (h : Nat) (x : Handle) : (c.setHandle h x).fillMsg = c.fillMsg := rfl
@[simp] theorem Context.setHandle_fillData (c : Context) (h : Nat) (x : Handle) : (c.setHandle h x).fillData = c.fillData := rfl
@[simp] theorem Context.setHandle_resuming (c : Context) (h : Nat) (x : Handle) : (c.setHandle h x).resuming = c.resuming := rfl
@[simp] theorem Context.setHandle_idle (c : Context) (h : Nat) (x : Handle) : (c.setHandle h x).idle = c.idle := rfl
@[simp] theorem Context.setHandle_strip (c : Context) (h : Nat) (x : Handle) : (c.setHandle h x).strip = c.strip := rfl
@[simp] theorem Context.setHandle_stripHeld (c : Context) (h : Nat) (x : Handle) : (c.setHandle h x).stripHeld = c.stripHeld := rfl
@[simp] theorem Context.setHandle_ring (c : Context) (h : Nat) (x : Handle) : (c.setHandle h x).ring = c.ring := rfl
@[simp] theorem Context.setHandle_wp (c : Context) (h : Nat) (x : Handle) : (c.setHandle h x).wp = c.wp := rfl
@[simp] theorem Context.setHandle_lo (c : Context) (h : Nat) (x : Handle) : (c.setHandle h x).lo = c.lo := rfl
@[simp] theorem Context.setHandle_g (c : Context) (h : Nat) (x : Handle) : (c.setHandle h x).g = c.g := rfl
@[simp] theorem Context.setHandle_v (c : Context) (h : Nat) (x : Handle) : (c.setHandle h x).v = c.v := rfl
@[simp] theorem Context.setHandle_p (c : Context) (h : Nat) (x : Handle) : (c.setHandle h x).p = c.p := rfl
@[simp] theorem Context.setHandle_d (c : Context) (h : Nat) (x : Handle) : (c.setHandle h x).d = c.d := rfl
@[simp] theorem Context.setHandle_rkbase (c : Context) (h : Nat) (x : Handle) : (c.setHandle h x).rkbase = c.rkbase := rfl
@[simp] theorem Context.setHandle_rklimit (c : Context) (h : Nat) (x : Handle) : (c.setHandle h x).rklimit = c.rklimit := rfl
@[simp] theorem Context.setHandle_vstat (c : Context) (h : Nat) (x : Handle) : (c.setHandle h x).vstat = c.vstat := rfl
@[simp] theorem Context.setHandle_gkey (c : Context) (h : Nat) (x : Handle) : (c.setHandle h x).gkey = c.gkey := rfl
@[simp] theorem Context.setHandle_gctr (c : Context) (h : Nat) (x : Handle) : (c.setHandle h x).gctr = c.gctr := rfl
@[simp] theorem Context.setHandle_ft (c : Context) (h : Nat) (x : Handle) : (c.setHandle h x).ft = c.ft := rfl
@[simp] theorem Context.setHandle_frame (c : Context) (h : Nat) (x : Handle) : (c.setHandle h x).frame = c.frame := rfl
@[simp] theorem Context.setHandle_trapst (c : Context) (h : Nat) (x : Handle) : (c.setHandle h x).trapst = c.trapst := rfl
@[simp] theorem Context.setHandle_cause2 (c : Context) (h : Nat) (x : Handle) : (c.setHandle h x).cause2 = c.cause2 := rfl
@[simp] theorem Context.setHandle_tvec (c : Context) (h : Nat) (x : Handle) : (c.setHandle h x).tvec = c.tvec := rfl
@[simp] theorem Context.setHandle_tsave0 (c : Context) (h : Nat) (x : Handle) : (c.setHandle h x).tsave0 = c.tsave0 := rfl
@[simp] theorem Context.setHandle_tsave1 (c : Context) (h : Nat) (x : Handle) : (c.setHandle h x).tsave1 = c.tsave1 := rfl
@[simp] theorem Context.setHandle_rqsel (c : Context) (h : Nat) (x : Handle) : (c.setHandle h x).rqsel = c.rqsel := rfl
@[simp] theorem Context.setHandle_trsel (c : Context) (h : Nat) (x : Handle) : (c.setHandle h x).trsel = c.trsel := rfl
@[simp] theorem Context.setHandle_rq (c : Context) (h : Nat) (x : Handle) : (c.setHandle h x).rq = c.rq := rfl
@[simp] theorem Context.setHandle_issued (c : Context) (h : Nat) (x : Handle) : (c.setHandle h x).issued = c.issued := rfl
@[simp] theorem Context.setHandle_fly (c : Context) (h : Nat) (x : Handle) : (c.setHandle h x).fly = c.fly := rfl
@[simp] theorem Context.setHandle_susp (c : Context) (h : Nat) (x : Handle) : (c.setHandle h x).susp = c.susp := rfl
@[simp] theorem Context.setHandle_asyncs (c : Context) (h : Nat) (x : Handle) : (c.setHandle h x).asyncs = c.asyncs := rfl
@[simp] theorem Context.setHandle_wdcnt (c : Context) (h : Nat) (x : Handle) : (c.setHandle h x).wdcnt = c.wdcnt := rfl
@[simp] theorem Context.setHandle_wdlim (c : Context) (h : Nat) (x : Handle) : (c.setHandle h x).wdlim = c.wdlim := rfl
@[simp] theorem Context.setHandle_remote (c : Context) (h : Nat) (x : Handle) : (c.setHandle h x).remote = c.remote := rfl
@[simp] theorem Context.setHandle_arrived (c : Context) (h : Nat) (x : Handle) : (c.setHandle h x).arrived = c.arrived := rfl
@[simp] theorem Context.setHandle_phase (c : Context) (h : Nat) (x : Handle) : (c.setHandle h x).phase = c.phase := rfl
@[simp] theorem Context.setHandle_gens (c : Context) (h : Nat) (x : Handle) : (c.setHandle h x).gens = c.gens := rfl

/-! ### Fields of a bank after setGen -/

@[simp] theorem Context.setGen_task (c : Context) (g : Nat) (x : Gen) : (c.setGen g x).task = c.task := rfl
@[simp] theorem Context.setGen_stopped (c : Context) (g : Nat) (x : Gen) : (c.setGen g x).stopped = c.stopped := rfl
@[simp] theorem Context.setGen_pc (c : Context) (g : Nat) (x : Gen) : (c.setGen g x).pc = c.pc := rfl
@[simp] theorem Context.setGen_xfer (c : Context) (g : Nat) (x : Gen) : (c.setGen g x).xfer = c.xfer := rfl
@[simp] theorem Context.setGen_wait (c : Context) (g : Nat) (x : Gen) : (c.setGen g x).wait = c.wait := rfl
@[simp] theorem Context.setGen_retry (c : Context) (g : Nat) (x : Gen) : (c.setGen g x).retry = c.retry := rfl
@[simp] theorem Context.setGen_atBound (c : Context) (g : Nat) (x : Gen) : (c.setGen g x).atBound = c.atBound := rfl
@[simp] theorem Context.setGen_walkTrap (c : Context) (g : Nat) (x : Gen) : (c.setGen g x).walkTrap = c.walkTrap := rfl
@[simp] theorem Context.setGen_owed (c : Context) (g : Nat) (x : Gen) : (c.setGen g x).owed = c.owed := rfl
@[simp] theorem Context.setGen_fillMsg (c : Context) (g : Nat) (x : Gen) : (c.setGen g x).fillMsg = c.fillMsg := rfl
@[simp] theorem Context.setGen_fillData (c : Context) (g : Nat) (x : Gen) : (c.setGen g x).fillData = c.fillData := rfl
@[simp] theorem Context.setGen_resuming (c : Context) (g : Nat) (x : Gen) : (c.setGen g x).resuming = c.resuming := rfl
@[simp] theorem Context.setGen_idle (c : Context) (g : Nat) (x : Gen) : (c.setGen g x).idle = c.idle := rfl
@[simp] theorem Context.setGen_strip (c : Context) (g : Nat) (x : Gen) : (c.setGen g x).strip = c.strip := rfl
@[simp] theorem Context.setGen_stripHeld (c : Context) (g : Nat) (x : Gen) : (c.setGen g x).stripHeld = c.stripHeld := rfl
@[simp] theorem Context.setGen_ring (c : Context) (g : Nat) (x : Gen) : (c.setGen g x).ring = c.ring := rfl
@[simp] theorem Context.setGen_wp (c : Context) (g : Nat) (x : Gen) : (c.setGen g x).wp = c.wp := rfl
@[simp] theorem Context.setGen_lo (c : Context) (g : Nat) (x : Gen) : (c.setGen g x).lo = c.lo := rfl
@[simp] theorem Context.setGen_g (c : Context) (g : Nat) (x : Gen) : (c.setGen g x).g = c.g := rfl
@[simp] theorem Context.setGen_v (c : Context) (g : Nat) (x : Gen) : (c.setGen g x).v = c.v := rfl
@[simp] theorem Context.setGen_p (c : Context) (g : Nat) (x : Gen) : (c.setGen g x).p = c.p := rfl
@[simp] theorem Context.setGen_d (c : Context) (g : Nat) (x : Gen) : (c.setGen g x).d = c.d := rfl
@[simp] theorem Context.setGen_rkbase (c : Context) (g : Nat) (x : Gen) : (c.setGen g x).rkbase = c.rkbase := rfl
@[simp] theorem Context.setGen_rklimit (c : Context) (g : Nat) (x : Gen) : (c.setGen g x).rklimit = c.rklimit := rfl
@[simp] theorem Context.setGen_vstat (c : Context) (g : Nat) (x : Gen) : (c.setGen g x).vstat = c.vstat := rfl
@[simp] theorem Context.setGen_gkey (c : Context) (g : Nat) (x : Gen) : (c.setGen g x).gkey = c.gkey := rfl
@[simp] theorem Context.setGen_gctr (c : Context) (g : Nat) (x : Gen) : (c.setGen g x).gctr = c.gctr := rfl
@[simp] theorem Context.setGen_ft (c : Context) (g : Nat) (x : Gen) : (c.setGen g x).ft = c.ft := rfl
@[simp] theorem Context.setGen_frame (c : Context) (g : Nat) (x : Gen) : (c.setGen g x).frame = c.frame := rfl
@[simp] theorem Context.setGen_trapst (c : Context) (g : Nat) (x : Gen) : (c.setGen g x).trapst = c.trapst := rfl
@[simp] theorem Context.setGen_cause2 (c : Context) (g : Nat) (x : Gen) : (c.setGen g x).cause2 = c.cause2 := rfl
@[simp] theorem Context.setGen_tvec (c : Context) (g : Nat) (x : Gen) : (c.setGen g x).tvec = c.tvec := rfl
@[simp] theorem Context.setGen_tsave0 (c : Context) (g : Nat) (x : Gen) : (c.setGen g x).tsave0 = c.tsave0 := rfl
@[simp] theorem Context.setGen_tsave1 (c : Context) (g : Nat) (x : Gen) : (c.setGen g x).tsave1 = c.tsave1 := rfl
@[simp] theorem Context.setGen_rqsel (c : Context) (g : Nat) (x : Gen) : (c.setGen g x).rqsel = c.rqsel := rfl
@[simp] theorem Context.setGen_trsel (c : Context) (g : Nat) (x : Gen) : (c.setGen g x).trsel = c.trsel := rfl
@[simp] theorem Context.setGen_rq (c : Context) (g : Nat) (x : Gen) : (c.setGen g x).rq = c.rq := rfl
@[simp] theorem Context.setGen_issued (c : Context) (g : Nat) (x : Gen) : (c.setGen g x).issued = c.issued := rfl
@[simp] theorem Context.setGen_fly (c : Context) (g : Nat) (x : Gen) : (c.setGen g x).fly = c.fly := rfl
@[simp] theorem Context.setGen_susp (c : Context) (g : Nat) (x : Gen) : (c.setGen g x).susp = c.susp := rfl
@[simp] theorem Context.setGen_asyncs (c : Context) (g : Nat) (x : Gen) : (c.setGen g x).asyncs = c.asyncs := rfl
@[simp] theorem Context.setGen_wdcnt (c : Context) (g : Nat) (x : Gen) : (c.setGen g x).wdcnt = c.wdcnt := rfl
@[simp] theorem Context.setGen_wdlim (c : Context) (g : Nat) (x : Gen) : (c.setGen g x).wdlim = c.wdlim := rfl
@[simp] theorem Context.setGen_remote (c : Context) (g : Nat) (x : Gen) : (c.setGen g x).remote = c.remote := rfl
@[simp] theorem Context.setGen_arrived (c : Context) (g : Nat) (x : Gen) : (c.setGen g x).arrived = c.arrived := rfl
@[simp] theorem Context.setGen_phase (c : Context) (g : Nat) (x : Gen) : (c.setGen g x).phase = c.phase := rfl
@[simp] theorem Context.setGen_hs (c : Context) (g : Nat) (x : Gen) : (c.setGen g x).hs = c.hs := rfl

/-! ### Fields of a bank after a register write -/

@[simp] theorem Context.setXAt_task (c : Context) (w : Nat) (r : XReg) (x : Word) : (c.setXAt w r x).task = c.task := by
  cases r with
  | w i => rfl
  | g i => simp only [Context.setXAt]; split <;> rfl
@[simp] theorem Context.setX_task (c : Context) (r : XReg) (x : Word) : (c.setX r x).task = c.task := Context.setXAt_task c c.wp r x
@[simp] theorem Context.setPred_task (c : Context) (r : PReg) (m : Mask) : (c.setPred r m).task = c.task := by
  unfold Context.setPred; split <;> rfl
@[simp] theorem Context.setXAt_stopped (c : Context) (w : Nat) (r : XReg) (x : Word) : (c.setXAt w r x).stopped = c.stopped := by
  cases r with
  | w i => rfl
  | g i => simp only [Context.setXAt]; split <;> rfl
@[simp] theorem Context.setX_stopped (c : Context) (r : XReg) (x : Word) : (c.setX r x).stopped = c.stopped := Context.setXAt_stopped c c.wp r x
@[simp] theorem Context.setPred_stopped (c : Context) (r : PReg) (m : Mask) : (c.setPred r m).stopped = c.stopped := by
  unfold Context.setPred; split <;> rfl
@[simp] theorem Context.setXAt_pc (c : Context) (w : Nat) (r : XReg) (x : Word) : (c.setXAt w r x).pc = c.pc := by
  cases r with
  | w i => rfl
  | g i => simp only [Context.setXAt]; split <;> rfl
@[simp] theorem Context.setX_pc (c : Context) (r : XReg) (x : Word) : (c.setX r x).pc = c.pc := Context.setXAt_pc c c.wp r x
@[simp] theorem Context.setPred_pc (c : Context) (r : PReg) (m : Mask) : (c.setPred r m).pc = c.pc := by
  unfold Context.setPred; split <;> rfl
@[simp] theorem Context.setXAt_xfer (c : Context) (w : Nat) (r : XReg) (x : Word) : (c.setXAt w r x).xfer = c.xfer := by
  cases r with
  | w i => rfl
  | g i => simp only [Context.setXAt]; split <;> rfl
@[simp] theorem Context.setX_xfer (c : Context) (r : XReg) (x : Word) : (c.setX r x).xfer = c.xfer := Context.setXAt_xfer c c.wp r x
@[simp] theorem Context.setPred_xfer (c : Context) (r : PReg) (m : Mask) : (c.setPred r m).xfer = c.xfer := by
  unfold Context.setPred; split <;> rfl
@[simp] theorem Context.setXAt_wait (c : Context) (w : Nat) (r : XReg) (x : Word) : (c.setXAt w r x).wait = c.wait := by
  cases r with
  | w i => rfl
  | g i => simp only [Context.setXAt]; split <;> rfl
@[simp] theorem Context.setX_wait (c : Context) (r : XReg) (x : Word) : (c.setX r x).wait = c.wait := Context.setXAt_wait c c.wp r x
@[simp] theorem Context.setPred_wait (c : Context) (r : PReg) (m : Mask) : (c.setPred r m).wait = c.wait := by
  unfold Context.setPred; split <;> rfl
@[simp] theorem Context.setXAt_retry (c : Context) (w : Nat) (r : XReg) (x : Word) : (c.setXAt w r x).retry = c.retry := by
  cases r with
  | w i => rfl
  | g i => simp only [Context.setXAt]; split <;> rfl
@[simp] theorem Context.setX_retry (c : Context) (r : XReg) (x : Word) : (c.setX r x).retry = c.retry := Context.setXAt_retry c c.wp r x
@[simp] theorem Context.setPred_retry (c : Context) (r : PReg) (m : Mask) : (c.setPred r m).retry = c.retry := by
  unfold Context.setPred; split <;> rfl
@[simp] theorem Context.setXAt_atBound (c : Context) (w : Nat) (r : XReg) (x : Word) : (c.setXAt w r x).atBound = c.atBound := by
  cases r with
  | w i => rfl
  | g i => simp only [Context.setXAt]; split <;> rfl
@[simp] theorem Context.setX_atBound (c : Context) (r : XReg) (x : Word) : (c.setX r x).atBound = c.atBound := Context.setXAt_atBound c c.wp r x
@[simp] theorem Context.setPred_atBound (c : Context) (r : PReg) (m : Mask) : (c.setPred r m).atBound = c.atBound := by
  unfold Context.setPred; split <;> rfl
@[simp] theorem Context.setXAt_walkTrap (c : Context) (w : Nat) (r : XReg) (x : Word) : (c.setXAt w r x).walkTrap = c.walkTrap := by
  cases r with
  | w i => rfl
  | g i => simp only [Context.setXAt]; split <;> rfl
@[simp] theorem Context.setX_walkTrap (c : Context) (r : XReg) (x : Word) : (c.setX r x).walkTrap = c.walkTrap := Context.setXAt_walkTrap c c.wp r x
@[simp] theorem Context.setPred_walkTrap (c : Context) (r : PReg) (m : Mask) : (c.setPred r m).walkTrap = c.walkTrap := by
  unfold Context.setPred; split <;> rfl
@[simp] theorem Context.setXAt_owed (c : Context) (w : Nat) (r : XReg) (x : Word) : (c.setXAt w r x).owed = c.owed := by
  cases r with
  | w i => rfl
  | g i => simp only [Context.setXAt]; split <;> rfl
@[simp] theorem Context.setX_owed (c : Context) (r : XReg) (x : Word) : (c.setX r x).owed = c.owed := Context.setXAt_owed c c.wp r x
@[simp] theorem Context.setPred_owed (c : Context) (r : PReg) (m : Mask) : (c.setPred r m).owed = c.owed := by
  unfold Context.setPred; split <;> rfl
@[simp] theorem Context.setXAt_fillMsg (c : Context) (w : Nat) (r : XReg) (x : Word) : (c.setXAt w r x).fillMsg = c.fillMsg := by
  cases r with
  | w i => rfl
  | g i => simp only [Context.setXAt]; split <;> rfl
@[simp] theorem Context.setX_fillMsg (c : Context) (r : XReg) (x : Word) : (c.setX r x).fillMsg = c.fillMsg := Context.setXAt_fillMsg c c.wp r x
@[simp] theorem Context.setPred_fillMsg (c : Context) (r : PReg) (m : Mask) : (c.setPred r m).fillMsg = c.fillMsg := by
  unfold Context.setPred; split <;> rfl
@[simp] theorem Context.setXAt_fillData (c : Context) (w : Nat) (r : XReg) (x : Word) : (c.setXAt w r x).fillData = c.fillData := by
  cases r with
  | w i => rfl
  | g i => simp only [Context.setXAt]; split <;> rfl
@[simp] theorem Context.setX_fillData (c : Context) (r : XReg) (x : Word) : (c.setX r x).fillData = c.fillData := Context.setXAt_fillData c c.wp r x
@[simp] theorem Context.setPred_fillData (c : Context) (r : PReg) (m : Mask) : (c.setPred r m).fillData = c.fillData := by
  unfold Context.setPred; split <;> rfl
@[simp] theorem Context.setXAt_resuming (c : Context) (w : Nat) (r : XReg) (x : Word) : (c.setXAt w r x).resuming = c.resuming := by
  cases r with
  | w i => rfl
  | g i => simp only [Context.setXAt]; split <;> rfl
@[simp] theorem Context.setX_resuming (c : Context) (r : XReg) (x : Word) : (c.setX r x).resuming = c.resuming := Context.setXAt_resuming c c.wp r x
@[simp] theorem Context.setPred_resuming (c : Context) (r : PReg) (m : Mask) : (c.setPred r m).resuming = c.resuming := by
  unfold Context.setPred; split <;> rfl
@[simp] theorem Context.setXAt_idle (c : Context) (w : Nat) (r : XReg) (x : Word) : (c.setXAt w r x).idle = c.idle := by
  cases r with
  | w i => rfl
  | g i => simp only [Context.setXAt]; split <;> rfl
@[simp] theorem Context.setX_idle (c : Context) (r : XReg) (x : Word) : (c.setX r x).idle = c.idle := Context.setXAt_idle c c.wp r x
@[simp] theorem Context.setPred_idle (c : Context) (r : PReg) (m : Mask) : (c.setPred r m).idle = c.idle := by
  unfold Context.setPred; split <;> rfl
@[simp] theorem Context.setXAt_strip (c : Context) (w : Nat) (r : XReg) (x : Word) : (c.setXAt w r x).strip = c.strip := by
  cases r with
  | w i => rfl
  | g i => simp only [Context.setXAt]; split <;> rfl
@[simp] theorem Context.setX_strip (c : Context) (r : XReg) (x : Word) : (c.setX r x).strip = c.strip := Context.setXAt_strip c c.wp r x
@[simp] theorem Context.setPred_strip (c : Context) (r : PReg) (m : Mask) : (c.setPred r m).strip = c.strip := by
  unfold Context.setPred; split <;> rfl
@[simp] theorem Context.setXAt_stripHeld (c : Context) (w : Nat) (r : XReg) (x : Word) : (c.setXAt w r x).stripHeld = c.stripHeld := by
  cases r with
  | w i => rfl
  | g i => simp only [Context.setXAt]; split <;> rfl
@[simp] theorem Context.setX_stripHeld (c : Context) (r : XReg) (x : Word) : (c.setX r x).stripHeld = c.stripHeld := Context.setXAt_stripHeld c c.wp r x
@[simp] theorem Context.setPred_stripHeld (c : Context) (r : PReg) (m : Mask) : (c.setPred r m).stripHeld = c.stripHeld := by
  unfold Context.setPred; split <;> rfl
@[simp] theorem Context.setPred_ring (c : Context) (r : PReg) (m : Mask) : (c.setPred r m).ring = c.ring := by
  unfold Context.setPred; split <;> rfl
@[simp] theorem Context.setXAt_wp (c : Context) (w : Nat) (r : XReg) (x : Word) : (c.setXAt w r x).wp = c.wp := by
  cases r with
  | w i => rfl
  | g i => simp only [Context.setXAt]; split <;> rfl
@[simp] theorem Context.setX_wp (c : Context) (r : XReg) (x : Word) : (c.setX r x).wp = c.wp := Context.setXAt_wp c c.wp r x
@[simp] theorem Context.setPred_wp (c : Context) (r : PReg) (m : Mask) : (c.setPred r m).wp = c.wp := by
  unfold Context.setPred; split <;> rfl
@[simp] theorem Context.setXAt_lo (c : Context) (w : Nat) (r : XReg) (x : Word) : (c.setXAt w r x).lo = c.lo := by
  cases r with
  | w i => rfl
  | g i => simp only [Context.setXAt]; split <;> rfl
@[simp] theorem Context.setX_lo (c : Context) (r : XReg) (x : Word) : (c.setX r x).lo = c.lo := Context.setXAt_lo c c.wp r x
@[simp] theorem Context.setPred_lo (c : Context) (r : PReg) (m : Mask) : (c.setPred r m).lo = c.lo := by
  unfold Context.setPred; split <;> rfl
@[simp] theorem Context.setPred_g (c : Context) (r : PReg) (m : Mask) : (c.setPred r m).g = c.g := by
  unfold Context.setPred; split <;> rfl
@[simp] theorem Context.setXAt_v (c : Context) (w : Nat) (r : XReg) (x : Word) : (c.setXAt w r x).v = c.v := by
  cases r with
  | w i => rfl
  | g i => simp only [Context.setXAt]; split <;> rfl
@[simp] theorem Context.setX_v (c : Context) (r : XReg) (x : Word) : (c.setX r x).v = c.v := Context.setXAt_v c c.wp r x
@[simp] theorem Context.setPred_v (c : Context) (r : PReg) (m : Mask) : (c.setPred r m).v = c.v := by
  unfold Context.setPred; split <;> rfl
@[simp] theorem Context.setXAt_p (c : Context) (w : Nat) (r : XReg) (x : Word) : (c.setXAt w r x).p = c.p := by
  cases r with
  | w i => rfl
  | g i => simp only [Context.setXAt]; split <;> rfl
@[simp] theorem Context.setX_p (c : Context) (r : XReg) (x : Word) : (c.setX r x).p = c.p := Context.setXAt_p c c.wp r x
@[simp] theorem Context.setXAt_d (c : Context) (w : Nat) (r : XReg) (x : Word) : (c.setXAt w r x).d = c.d := by
  cases r with
  | w i => rfl
  | g i => simp only [Context.setXAt]; split <;> rfl
@[simp] theorem Context.setX_d (c : Context) (r : XReg) (x : Word) : (c.setX r x).d = c.d := Context.setXAt_d c c.wp r x
@[simp] theorem Context.setPred_d (c : Context) (r : PReg) (m : Mask) : (c.setPred r m).d = c.d := by
  unfold Context.setPred; split <;> rfl
@[simp] theorem Context.setXAt_rkbase (c : Context) (w : Nat) (r : XReg) (x : Word) : (c.setXAt w r x).rkbase = c.rkbase := by
  cases r with
  | w i => rfl
  | g i => simp only [Context.setXAt]; split <;> rfl
@[simp] theorem Context.setX_rkbase (c : Context) (r : XReg) (x : Word) : (c.setX r x).rkbase = c.rkbase := Context.setXAt_rkbase c c.wp r x
@[simp] theorem Context.setPred_rkbase (c : Context) (r : PReg) (m : Mask) : (c.setPred r m).rkbase = c.rkbase := by
  unfold Context.setPred; split <;> rfl
@[simp] theorem Context.setXAt_rklimit (c : Context) (w : Nat) (r : XReg) (x : Word) : (c.setXAt w r x).rklimit = c.rklimit := by
  cases r with
  | w i => rfl
  | g i => simp only [Context.setXAt]; split <;> rfl
@[simp] theorem Context.setX_rklimit (c : Context) (r : XReg) (x : Word) : (c.setX r x).rklimit = c.rklimit := Context.setXAt_rklimit c c.wp r x
@[simp] theorem Context.setPred_rklimit (c : Context) (r : PReg) (m : Mask) : (c.setPred r m).rklimit = c.rklimit := by
  unfold Context.setPred; split <;> rfl
@[simp] theorem Context.setXAt_vstat (c : Context) (w : Nat) (r : XReg) (x : Word) : (c.setXAt w r x).vstat = c.vstat := by
  cases r with
  | w i => rfl
  | g i => simp only [Context.setXAt]; split <;> rfl
@[simp] theorem Context.setX_vstat (c : Context) (r : XReg) (x : Word) : (c.setX r x).vstat = c.vstat := Context.setXAt_vstat c c.wp r x
@[simp] theorem Context.setPred_vstat (c : Context) (r : PReg) (m : Mask) : (c.setPred r m).vstat = c.vstat := by
  unfold Context.setPred; split <;> rfl
@[simp] theorem Context.setXAt_gkey (c : Context) (w : Nat) (r : XReg) (x : Word) : (c.setXAt w r x).gkey = c.gkey := by
  cases r with
  | w i => rfl
  | g i => simp only [Context.setXAt]; split <;> rfl
@[simp] theorem Context.setX_gkey (c : Context) (r : XReg) (x : Word) : (c.setX r x).gkey = c.gkey := Context.setXAt_gkey c c.wp r x
@[simp] theorem Context.setPred_gkey (c : Context) (r : PReg) (m : Mask) : (c.setPred r m).gkey = c.gkey := by
  unfold Context.setPred; split <;> rfl
@[simp] theorem Context.setXAt_gctr (c : Context) (w : Nat) (r : XReg) (x : Word) : (c.setXAt w r x).gctr = c.gctr := by
  cases r with
  | w i => rfl
  | g i => simp only [Context.setXAt]; split <;> rfl
@[simp] theorem Context.setX_gctr (c : Context) (r : XReg) (x : Word) : (c.setX r x).gctr = c.gctr := Context.setXAt_gctr c c.wp r x
@[simp] theorem Context.setPred_gctr (c : Context) (r : PReg) (m : Mask) : (c.setPred r m).gctr = c.gctr := by
  unfold Context.setPred; split <;> rfl
@[simp] theorem Context.setXAt_ft (c : Context) (w : Nat) (r : XReg) (x : Word) : (c.setXAt w r x).ft = c.ft := by
  cases r with
  | w i => rfl
  | g i => simp only [Context.setXAt]; split <;> rfl
@[simp] theorem Context.setX_ft (c : Context) (r : XReg) (x : Word) : (c.setX r x).ft = c.ft := Context.setXAt_ft c c.wp r x
@[simp] theorem Context.setPred_ft (c : Context) (r : PReg) (m : Mask) : (c.setPred r m).ft = c.ft := by
  unfold Context.setPred; split <;> rfl
@[simp] theorem Context.setXAt_frame (c : Context) (w : Nat) (r : XReg) (x : Word) : (c.setXAt w r x).frame = c.frame := by
  cases r with
  | w i => rfl
  | g i => simp only [Context.setXAt]; split <;> rfl
@[simp] theorem Context.setX_frame (c : Context) (r : XReg) (x : Word) : (c.setX r x).frame = c.frame := Context.setXAt_frame c c.wp r x
@[simp] theorem Context.setPred_frame (c : Context) (r : PReg) (m : Mask) : (c.setPred r m).frame = c.frame := by
  unfold Context.setPred; split <;> rfl
@[simp] theorem Context.setXAt_trapst (c : Context) (w : Nat) (r : XReg) (x : Word) : (c.setXAt w r x).trapst = c.trapst := by
  cases r with
  | w i => rfl
  | g i => simp only [Context.setXAt]; split <;> rfl
@[simp] theorem Context.setX_trapst (c : Context) (r : XReg) (x : Word) : (c.setX r x).trapst = c.trapst := Context.setXAt_trapst c c.wp r x
@[simp] theorem Context.setPred_trapst (c : Context) (r : PReg) (m : Mask) : (c.setPred r m).trapst = c.trapst := by
  unfold Context.setPred; split <;> rfl
@[simp] theorem Context.setXAt_cause2 (c : Context) (w : Nat) (r : XReg) (x : Word) : (c.setXAt w r x).cause2 = c.cause2 := by
  cases r with
  | w i => rfl
  | g i => simp only [Context.setXAt]; split <;> rfl
@[simp] theorem Context.setX_cause2 (c : Context) (r : XReg) (x : Word) : (c.setX r x).cause2 = c.cause2 := Context.setXAt_cause2 c c.wp r x
@[simp] theorem Context.setPred_cause2 (c : Context) (r : PReg) (m : Mask) : (c.setPred r m).cause2 = c.cause2 := by
  unfold Context.setPred; split <;> rfl
@[simp] theorem Context.setXAt_tvec (c : Context) (w : Nat) (r : XReg) (x : Word) : (c.setXAt w r x).tvec = c.tvec := by
  cases r with
  | w i => rfl
  | g i => simp only [Context.setXAt]; split <;> rfl
@[simp] theorem Context.setX_tvec (c : Context) (r : XReg) (x : Word) : (c.setX r x).tvec = c.tvec := Context.setXAt_tvec c c.wp r x
@[simp] theorem Context.setPred_tvec (c : Context) (r : PReg) (m : Mask) : (c.setPred r m).tvec = c.tvec := by
  unfold Context.setPred; split <;> rfl
@[simp] theorem Context.setXAt_tsave0 (c : Context) (w : Nat) (r : XReg) (x : Word) : (c.setXAt w r x).tsave0 = c.tsave0 := by
  cases r with
  | w i => rfl
  | g i => simp only [Context.setXAt]; split <;> rfl
@[simp] theorem Context.setX_tsave0 (c : Context) (r : XReg) (x : Word) : (c.setX r x).tsave0 = c.tsave0 := Context.setXAt_tsave0 c c.wp r x
@[simp] theorem Context.setPred_tsave0 (c : Context) (r : PReg) (m : Mask) : (c.setPred r m).tsave0 = c.tsave0 := by
  unfold Context.setPred; split <;> rfl
@[simp] theorem Context.setXAt_tsave1 (c : Context) (w : Nat) (r : XReg) (x : Word) : (c.setXAt w r x).tsave1 = c.tsave1 := by
  cases r with
  | w i => rfl
  | g i => simp only [Context.setXAt]; split <;> rfl
@[simp] theorem Context.setX_tsave1 (c : Context) (r : XReg) (x : Word) : (c.setX r x).tsave1 = c.tsave1 := Context.setXAt_tsave1 c c.wp r x
@[simp] theorem Context.setPred_tsave1 (c : Context) (r : PReg) (m : Mask) : (c.setPred r m).tsave1 = c.tsave1 := by
  unfold Context.setPred; split <;> rfl
@[simp] theorem Context.setXAt_rqsel (c : Context) (w : Nat) (r : XReg) (x : Word) : (c.setXAt w r x).rqsel = c.rqsel := by
  cases r with
  | w i => rfl
  | g i => simp only [Context.setXAt]; split <;> rfl
@[simp] theorem Context.setX_rqsel (c : Context) (r : XReg) (x : Word) : (c.setX r x).rqsel = c.rqsel := Context.setXAt_rqsel c c.wp r x
@[simp] theorem Context.setPred_rqsel (c : Context) (r : PReg) (m : Mask) : (c.setPred r m).rqsel = c.rqsel := by
  unfold Context.setPred; split <;> rfl
@[simp] theorem Context.setXAt_trsel (c : Context) (w : Nat) (r : XReg) (x : Word) : (c.setXAt w r x).trsel = c.trsel := by
  cases r with
  | w i => rfl
  | g i => simp only [Context.setXAt]; split <;> rfl
@[simp] theorem Context.setX_trsel (c : Context) (r : XReg) (x : Word) : (c.setX r x).trsel = c.trsel := Context.setXAt_trsel c c.wp r x
@[simp] theorem Context.setPred_trsel (c : Context) (r : PReg) (m : Mask) : (c.setPred r m).trsel = c.trsel := by
  unfold Context.setPred; split <;> rfl
@[simp] theorem Context.setXAt_rq (c : Context) (w : Nat) (r : XReg) (x : Word) : (c.setXAt w r x).rq = c.rq := by
  cases r with
  | w i => rfl
  | g i => simp only [Context.setXAt]; split <;> rfl
@[simp] theorem Context.setX_rq (c : Context) (r : XReg) (x : Word) : (c.setX r x).rq = c.rq := Context.setXAt_rq c c.wp r x
@[simp] theorem Context.setPred_rq (c : Context) (r : PReg) (m : Mask) : (c.setPred r m).rq = c.rq := by
  unfold Context.setPred; split <;> rfl
@[simp] theorem Context.setXAt_issued (c : Context) (w : Nat) (r : XReg) (x : Word) : (c.setXAt w r x).issued = c.issued := by
  cases r with
  | w i => rfl
  | g i => simp only [Context.setXAt]; split <;> rfl
@[simp] theorem Context.setX_issued (c : Context) (r : XReg) (x : Word) : (c.setX r x).issued = c.issued := Context.setXAt_issued c c.wp r x
@[simp] theorem Context.setPred_issued (c : Context) (r : PReg) (m : Mask) : (c.setPred r m).issued = c.issued := by
  unfold Context.setPred; split <;> rfl
@[simp] theorem Context.setXAt_fly (c : Context) (w : Nat) (r : XReg) (x : Word) : (c.setXAt w r x).fly = c.fly := by
  cases r with
  | w i => rfl
  | g i => simp only [Context.setXAt]; split <;> rfl
@[simp] theorem Context.setX_fly (c : Context) (r : XReg) (x : Word) : (c.setX r x).fly = c.fly := Context.setXAt_fly c c.wp r x
@[simp] theorem Context.setPred_fly (c : Context) (r : PReg) (m : Mask) : (c.setPred r m).fly = c.fly := by
  unfold Context.setPred; split <;> rfl
@[simp] theorem Context.setXAt_susp (c : Context) (w : Nat) (r : XReg) (x : Word) : (c.setXAt w r x).susp = c.susp := by
  cases r with
  | w i => rfl
  | g i => simp only [Context.setXAt]; split <;> rfl
@[simp] theorem Context.setX_susp (c : Context) (r : XReg) (x : Word) : (c.setX r x).susp = c.susp := Context.setXAt_susp c c.wp r x
@[simp] theorem Context.setPred_susp (c : Context) (r : PReg) (m : Mask) : (c.setPred r m).susp = c.susp := by
  unfold Context.setPred; split <;> rfl
@[simp] theorem Context.setXAt_asyncs (c : Context) (w : Nat) (r : XReg) (x : Word) : (c.setXAt w r x).asyncs = c.asyncs := by
  cases r with
  | w i => rfl
  | g i => simp only [Context.setXAt]; split <;> rfl
@[simp] theorem Context.setX_asyncs (c : Context) (r : XReg) (x : Word) : (c.setX r x).asyncs = c.asyncs := Context.setXAt_asyncs c c.wp r x
@[simp] theorem Context.setPred_asyncs (c : Context) (r : PReg) (m : Mask) : (c.setPred r m).asyncs = c.asyncs := by
  unfold Context.setPred; split <;> rfl
@[simp] theorem Context.setXAt_wdcnt (c : Context) (w : Nat) (r : XReg) (x : Word) : (c.setXAt w r x).wdcnt = c.wdcnt := by
  cases r with
  | w i => rfl
  | g i => simp only [Context.setXAt]; split <;> rfl
@[simp] theorem Context.setX_wdcnt (c : Context) (r : XReg) (x : Word) : (c.setX r x).wdcnt = c.wdcnt := Context.setXAt_wdcnt c c.wp r x
@[simp] theorem Context.setPred_wdcnt (c : Context) (r : PReg) (m : Mask) : (c.setPred r m).wdcnt = c.wdcnt := by
  unfold Context.setPred; split <;> rfl
@[simp] theorem Context.setXAt_wdlim (c : Context) (w : Nat) (r : XReg) (x : Word) : (c.setXAt w r x).wdlim = c.wdlim := by
  cases r with
  | w i => rfl
  | g i => simp only [Context.setXAt]; split <;> rfl
@[simp] theorem Context.setX_wdlim (c : Context) (r : XReg) (x : Word) : (c.setX r x).wdlim = c.wdlim := Context.setXAt_wdlim c c.wp r x
@[simp] theorem Context.setPred_wdlim (c : Context) (r : PReg) (m : Mask) : (c.setPred r m).wdlim = c.wdlim := by
  unfold Context.setPred; split <;> rfl
@[simp] theorem Context.setXAt_remote (c : Context) (w : Nat) (r : XReg) (x : Word) : (c.setXAt w r x).remote = c.remote := by
  cases r with
  | w i => rfl
  | g i => simp only [Context.setXAt]; split <;> rfl
@[simp] theorem Context.setX_remote (c : Context) (r : XReg) (x : Word) : (c.setX r x).remote = c.remote := Context.setXAt_remote c c.wp r x
@[simp] theorem Context.setPred_remote (c : Context) (r : PReg) (m : Mask) : (c.setPred r m).remote = c.remote := by
  unfold Context.setPred; split <;> rfl
@[simp] theorem Context.setXAt_arrived (c : Context) (w : Nat) (r : XReg) (x : Word) : (c.setXAt w r x).arrived = c.arrived := by
  cases r with
  | w i => rfl
  | g i => simp only [Context.setXAt]; split <;> rfl
@[simp] theorem Context.setX_arrived (c : Context) (r : XReg) (x : Word) : (c.setX r x).arrived = c.arrived := Context.setXAt_arrived c c.wp r x
@[simp] theorem Context.setPred_arrived (c : Context) (r : PReg) (m : Mask) : (c.setPred r m).arrived = c.arrived := by
  unfold Context.setPred; split <;> rfl
@[simp] theorem Context.setXAt_phase (c : Context) (w : Nat) (r : XReg) (x : Word) : (c.setXAt w r x).phase = c.phase := by
  cases r with
  | w i => rfl
  | g i => simp only [Context.setXAt]; split <;> rfl
@[simp] theorem Context.setX_phase (c : Context) (r : XReg) (x : Word) : (c.setX r x).phase = c.phase := Context.setXAt_phase c c.wp r x
@[simp] theorem Context.setPred_phase (c : Context) (r : PReg) (m : Mask) : (c.setPred r m).phase = c.phase := by
  unfold Context.setPred; split <;> rfl
@[simp] theorem Context.setXAt_hs (c : Context) (w : Nat) (r : XReg) (x : Word) : (c.setXAt w r x).hs = c.hs := by
  cases r with
  | w i => rfl
  | g i => simp only [Context.setXAt]; split <;> rfl
@[simp] theorem Context.setX_hs (c : Context) (r : XReg) (x : Word) : (c.setX r x).hs = c.hs := Context.setXAt_hs c c.wp r x
@[simp] theorem Context.setPred_hs (c : Context) (r : PReg) (m : Mask) : (c.setPred r m).hs = c.hs := by
  unfold Context.setPred; split <;> rfl
@[simp] theorem Context.setXAt_gens (c : Context) (w : Nat) (r : XReg) (x : Word) : (c.setXAt w r x).gens = c.gens := by
  cases r with
  | w i => rfl
  | g i => simp only [Context.setXAt]; split <;> rfl
@[simp] theorem Context.setX_gens (c : Context) (r : XReg) (x : Word) : (c.setX r x).gens = c.gens := Context.setXAt_gens c c.wp r x
@[simp] theorem Context.setPred_gens (c : Context) (r : PReg) (m : Mask) : (c.setPred r m).gens = c.gens := by
  unfold Context.setPred; split <;> rfl

/-! ### What is read of a part that has been put -/

theorem Sparse.set_set {α : Type} (m : Sparse α) (k : Nat) (v w : α) : (m.set k v).set k w = m.set k w := by
  induction m with
  | nil => simp [Sparse.set]
  | cons e t ih =>
    obtain ⟨a, x⟩ := e
    by_cases h : a = k
    · simp [Sparse.set, h]
    · by_cases h2 : k < a
      · simp [Sparse.set, h, h2]
      · simp [Sparse.set, h, h2, ih]

@[simp] theorem State.core_setCore (s : State) (c : Nat) (x : Core) : (s.setCore c x).core c = x := by
  simp [State.core, State.setCore]

theorem State.core_setCore_ne (s : State) {c j : Nat} (x : Core) (h : j ≠ c) : (s.setCore c x).core j = s.core j :=
  Sparse.get_set_ne _ _ _ h

@[simp] theorem State.bank_setBank (s : State) (c : Nat) (x : Context) : (s.setBank c x).bank c = x := by
  simp [State.bank, State.setBank]

theorem State.bank_setBank_ne (s : State) {c j : Nat} (x : Context) (h : j ≠ c) : (s.setBank c x).bank j = s.bank j := by
  unfold State.bank State.setBank
  rw [State.core_setCore_ne s _ h]

theorem State.core_setBank_ne (s : State) {c j : Nat} (x : Context) (h : j ≠ c) : (s.setBank c x).core j = s.core j :=
  State.core_setCore_ne s _ h

@[simp] theorem State.core_setBank (s : State) (c : Nat) (x : Context) :
    (s.setBank c x).core c = { s.core c with bank := x } := by simp [State.setBank]

@[simp] theorem State.setCore_setCore (s : State) (c : Nat) (x y : Core) : (s.setCore c x).setCore c y = s.setCore c y := by
  simp [State.setCore, Sparse.set_set]

@[simp] theorem State.setBank_setBank (s : State) (c : Nat) (x y : Context) : (s.setBank c x).setBank c y = s.setBank c y := by
  unfold State.setBank
  rw [State.core_setCore, State.setCore_setCore]

@[simp] theorem State.ctx_setCtx (s : State) (x : Context) : (s.setCtx x).ctx = x := State.bank_setBank s s.cur x

@[simp] theorem State.setCtx_setCtx (s : State) (x y : Context) : (s.setCtx x).setCtx y = s.setCtx y :=
  State.setBank_setBank s s.cur x y

theorem State.bank_cur (s : State) : s.bank s.cur = s.ctx := rfl

@[simp] theorem State.bank_setCtx (s : State) (x : Context) : (s.setCtx x).bank s.cur = x := State.bank_setBank s s.cur x

@[simp] theorem State.part_setPart (s : State) (p : Nat) (x : Part) : (s.setPart p x).part p = x := Sparse.get_set_self _ _ _ _

theorem State.part_setPart_ne (s : State) {p q : Nat} (x : Part) (h : q ≠ p) : (s.setPart p x).part q = s.part q :=
  Sparse.get_set_ne _ _ _ h

@[simp] theorem State.die_setDie (s : State) (d : Nat) (x : Die) : (s.setDie d x).die d = x := Sparse.get_set_self _ _ _ _

theorem State.die_setDie_ne (s : State) {d e : Nat} (x : Die) (h : e ≠ d) : (s.setDie d x).die e = s.die e :=
  Sparse.get_set_ne _ _ _ h

@[simp] theorem State.queue_setQueue (s : State) (p q : Nat) (x : Queue) : (s.setQueue p q x).queue p q = x :=
  Sparse.get_set_self _ _ _ _

@[simp] theorem State.ctxInfo_setCtxInfo (s : State) (p n : Nat) (x : CtxInfo) : (s.setCtxInfo p n x).ctxInfo p n = x :=
  Sparse.get_set_self _ _ _ _

@[simp] theorem State.chan_setChan (s : State) (k : Nat) (x : Chan) : (s.setChan k x).chan k = x := Sparse.get_set_self _ _ _ _

@[simp] theorem Context.handle_setHandle (c : Context) (h : Nat) (x : Handle) : (c.setHandle h x).handle h = x :=
  Sparse.get_set_self _ _ _ _

@[simp] theorem Context.gen_setGen (c : Context) (g : Nat) (x : Gen) : (c.setGen g x).gen g = x := Sparse.get_set_self _ _ _ _

@[simp] theorem Context.vec_setVec (c : Context) (r : VReg) (x : VecReg) : (c.setVec r x).vec r = x :=
  Sparse.get_set_self _ _ _ _

@[simp] theorem Context.desc_setDesc (c : Context) (r : DReg) (x : BitVec 128) : (c.setDesc r x).desc r = x :=
  Sparse.get_set_self _ _ _ _

/-! ### Sparse tables once more -/

theorem Sparse.find_set_self {α : Type} (m : Sparse α) (k : Nat) (v : α) : Sparse.find (m.set k v) k = some v := by
  induction m with
  | nil => simp [Sparse.set, Sparse.find]
  | cons e t ih =>
    obtain ⟨a, x⟩ := e
    by_cases h : a = k
    · simp [Sparse.set, Sparse.find, h]
    · by_cases h2 : k < a
      · simp [Sparse.set, Sparse.find, h, h2]
      · simp [Sparse.set, Sparse.find, h, h2, ih]

theorem Sparse.find_set_ne {α : Type} (m : Sparse α) {k j : Nat} (v : α) (h : j ≠ k) :
    Sparse.find (m.set k v) j = Sparse.find m j := by
  induction m with
  | nil => simp [Sparse.set, Sparse.find, h.symm]
  | cons e t ih =>
    obtain ⟨a, x⟩ := e
    by_cases h1 : a = k
    · subst h1; simp [Sparse.set, Sparse.find, h.symm]
    · by_cases h2 : k < a
      · simp [Sparse.set, Sparse.find, h1, h2, h.symm]
      · simp [Sparse.set, Sparse.find, h1, h2, ih]

theorem Sparse.get_eq_find {α : Type} (d : α) (m : Sparse α) (k : Nat) : Sparse.get d m k = (Sparse.find m k).getD d := by
  induction m with
  | nil => rfl
  | cons e t ih =>
    obtain ⟨a, x⟩ := e
    by_cases h : a = k
    · simp [Sparse.get, Sparse.find, h]
    · simp [Sparse.get, Sparse.find, h, ih]

end Sys2Proof.Machine
end

