-- ==== Sys2Proof/Laws/Link.lean ====
section
/-!
SUPPORT. What sending a message and logging an error leave as it was: every field of the device but the channels and the
messages sent, or the error log.
-/

namespace Sys2Proof.Machine

/-! ### Sending -/

@[simp] theorem State.sendSeq_cur (s : State) (k part chan : Nat) (ty : BitVec 8) (arg : BitVec 96) (bs : List Byte)
    (tag : Nat) : (s.sendSeq k part chan ty arg bs tag).cur = s.cur := by
  unfold State.sendSeq; simp only; split <;> rfl
@[simp] theorem State.sendSeq_agenda (s : State) (k part chan : Nat) (ty : BitVec 8) (arg : BitVec 96) (bs : List Byte)
    (tag : Nat) : (s.sendSeq k part chan ty arg bs tag).agenda = s.agenda := by
  unfold State.sendSeq; simp only; split <;> rfl
@[simp] theorem State.sendSeq_turn (s : State) (k part chan : Nat) (ty : BitVec 8) (arg : BitVec 96) (bs : List Byte)
    (tag : Nat) : (s.sendSeq k part chan ty arg bs tag).turn = s.turn := by
  unfold State.sendSeq; simp only; split <;> rfl
@[simp] theorem State.sendSeq_cores (s : State) (k part chan : Nat) (ty : BitVec 8) (arg : BitVec 96) (bs : List Byte)
    (tag : Nat) : (s.sendSeq k part chan ty arg bs tag).cores = s.cores := by
  unfold State.sendSeq; simp only; split <;> rfl
@[simp] theorem State.sendSeq_saved (s : State) (k part chan : Nat) (ty : BitVec 8) (arg : BitVec 96) (bs : List Byte)
    (tag : Nat) : (s.sendSeq k part chan ty arg bs tag).saved = s.saved := by
  unfold State.sendSeq; simp only; split <;> rfl
@[simp] theorem State.sendSeq_spads (s : State) (k part chan : Nat) (ty : BitVec 8) (arg : BitVec 96) (bs : List Byte)
    (tag : Nat) : (s.sendSeq k part chan ty arg bs tag).spads = s.spads := by
  unfold State.sendSeq; simp only; split <;> rfl
@[simp] theorem State.sendSeq_mem (s : State) (k part chan : Nat) (ty : BitVec 8) (arg : BitVec 96) (bs : List Byte)
    (tag : Nat) : (s.sendSeq k part chan ty arg bs tag).mem = s.mem := by
  unfold State.sendSeq; simp only; split <;> rfl
@[simp] theorem State.sendSeq_loftGen (s : State) (k part chan : Nat) (ty : BitVec 8) (arg : BitVec 96) (bs : List Byte)
    (tag : Nat) : (s.sendSeq k part chan ty arg bs tag).loftGen = s.loftGen := by
  unfold State.sendSeq; simp only; split <;> rfl
@[simp] theorem State.sendSeq_loftKey (s : State) (k part chan : Nat) (ty : BitVec 8) (arg : BitVec 96) (bs : List Byte)
    (tag : Nat) : (s.sendSeq k part chan ty arg bs tag).loftKey = s.loftKey := by
  unfold State.sendSeq; simp only; split <;> rfl
@[simp] theorem State.sendSeq_poison (s : State) (k part chan : Nat) (ty : BitVec 8) (arg : BitVec 96) (bs : List Byte)
    (tag : Nat) : (s.sendSeq k part chan ty arg bs tag).poison = s.poison := by
  unfold State.sendSeq; simp only; split <;> rfl
@[simp] theorem State.sendSeq_sliceMap (s : State) (k part chan : Nat) (ty : BitVec 8) (arg : BitVec 96) (bs : List Byte)
    (tag : Nat) : (s.sendSeq k part chan ty arg bs tag).sliceMap = s.sliceMap := by
  unfold State.sendSeq; simp only; split <;> rfl
@[simp] theorem State.sendSeq_tlb (s : State) (k part chan : Nat) (ty : BitVec 8) (arg : BitVec 96) (bs : List Byte)
    (tag : Nat) : (s.sendSeq k part chan ty arg bs tag).tlb = s.tlb := by
  unfold State.sendSeq; simp only; split <;> rfl
@[simp] theorem State.sendSeq_walks (s : State) (k part chan : Nat) (ty : BitVec 8) (arg : BitVec 96) (bs : List Byte)
    (tag : Nat) : (s.sendSeq k part chan ty arg bs tag).walks = s.walks := by
  unfold State.sendSeq; simp only; split <;> rfl
@[simp] theorem State.sendSeq_parts (s : State) (k part chan : Nat) (ty : BitVec 8) (arg : BitVec 96) (bs : List Byte)
    (tag : Nat) : (s.sendSeq k part chan ty arg bs tag).parts = s.parts := by
  unfold State.sendSeq; simp only; split <;> rfl
@[simp] theorem State.sendSeq_ctxs (s : State) (k part chan : Nat) (ty : BitVec 8) (arg : BitVec 96) (bs : List Byte)
    (tag : Nat) : (s.sendSeq k part chan ty arg bs tag).ctxs = s.ctxs := by
  unfold State.sendSeq; simp only; split <;> rfl
@[simp] theorem State.sendSeq_rows (s : State) (k part chan : Nat) (ty : BitVec 8) (arg : BitVec 96) (bs : List Byte)
    (tag : Nat) : (s.sendSeq k part chan ty arg bs tag).rows = s.rows := by
  unfold State.sendSeq; simp only; split <;> rfl
@[simp] theorem State.sendSeq_dropped (s : State) (k part chan : Nat) (ty : BitVec 8) (arg : BitVec 96) (bs : List Byte)
    (tag : Nat) : (s.sendSeq k part chan ty arg bs tag).dropped = s.dropped := by
  unfold State.sendSeq; simp only; split <;> rfl
@[simp] theorem State.sendSeq_errHead (s : State) (k part chan : Nat) (ty : BitVec 8) (arg : BitVec 96) (bs : List Byte)
    (tag : Nat) : (s.sendSeq k part chan ty arg bs tag).errHead = s.errHead := by
  unfold State.sendSeq; simp only; split <;> rfl
@[simp] theorem State.sendSeq_errLost (s : State) (k part chan : Nat) (ty : BitVec 8) (arg : BitVec 96) (bs : List Byte)
    (tag : Nat) : (s.sendSeq k part chan ty arg bs tag).errLost = s.errLost := by
  unfold State.sendSeq; simp only; split <;> rfl
@[simp] theorem State.sendSeq_errLog (s : State) (k part chan : Nat) (ty : BitVec 8) (arg : BitVec 96) (bs : List Byte)
    (tag : Nat) : (s.sendSeq k part chan ty arg bs tag).errLog = s.errLog := by
  unfold State.sendSeq; simp only; split <;> rfl
@[simp] theorem State.sendSeq_dies (s : State) (k part chan : Nat) (ty : BitVec 8) (arg : BitVec 96) (bs : List Byte)
    (tag : Nat) : (s.sendSeq k part chan ty arg bs tag).dies = s.dies := by
  unfold State.sendSeq; simp only; split <;> rfl
@[simp] theorem State.sendSeq_mode (s : State) (k part chan : Nat) (ty : BitVec 8) (arg : BitVec 96) (bs : List Byte)
    (tag : Nat) : (s.sendSeq k part chan ty arg bs tag).mode = s.mode := by
  unfold State.sendSeq; simp only; split <;> rfl
@[simp] theorem State.sendSeq_modLimit (s : State) (k part chan : Nat) (ty : BitVec 8) (arg : BitVec 96) (bs : List Byte)
    (tag : Nat) : (s.sendSeq k part chan ty arg bs tag).modLimit = s.modLimit := by
  unfold State.sendSeq; simp only; split <;> rfl
@[simp] theorem State.sendSeq_modMeas (s : State) (k part chan : Nat) (ty : BitVec 8) (arg : BitVec 96) (bs : List Byte)
    (tag : Nat) : (s.sendSeq k part chan ty arg bs tag).modMeas = s.modMeas := by
  unfold State.sendSeq; simp only; split <;> rfl
@[simp] theorem State.sendSeq_ckMask (s : State) (k part chan : Nat) (ty : BitVec 8) (arg : BitVec 96) (bs : List Byte)
    (tag : Nat) : (s.sendSeq k part chan ty arg bs tag).ckMask = s.ckMask := by
  unfold State.sendSeq; simp only; split <;> rfl
@[simp] theorem State.sendSeq_ckState (s : State) (k part chan : Nat) (ty : BitVec 8) (arg : BitVec 96) (bs : List Byte)
    (tag : Nat) : (s.sendSeq k part chan ty arg bs tag).ckState = s.ckState := by
  unfold State.sendSeq; simp only; split <;> rfl
@[simp] theorem State.sendSeq_ckReason (s : State) (k part chan : Nat) (ty : BitVec 8) (arg : BitVec 96) (bs : List Byte)
    (tag : Nat) : (s.sendSeq k part chan ty arg bs tag).ckReason = s.ckReason := by
  unfold State.sendSeq; simp only; split <;> rfl
@[simp] theorem State.sendSeq_ckMoved (s : State) (k part chan : Nat) (ty : BitVec 8) (arg : BitVec 96) (bs : List Byte)
    (tag : Nat) : (s.sendSeq k part chan ty arg bs tag).ckMoved = s.ckMoved := by
  unfold State.sendSeq; simp only; split <;> rfl
@[simp] theorem State.sendSeq_ckImage (s : State) (k part chan : Nat) (ty : BitVec 8) (arg : BitVec 96) (bs : List Byte)
    (tag : Nat) : (s.sendSeq k part chan ty arg bs tag).ckImage = s.ckImage := by
  unfold State.sendSeq; simp only; split <;> rfl
@[simp] theorem State.sendSeq_temp (s : State) (k part chan : Nat) (ty : BitVec 8) (arg : BitVec 96) (bs : List Byte)
    (tag : Nat) : (s.sendSeq k part chan ty arg bs tag).temp = s.temp := by
  unfold State.sendSeq; simp only; split <;> rfl
@[simp] theorem State.sendSeq_maxTemp (s : State) (k part chan : Nat) (ty : BitVec 8) (arg : BitVec 96) (bs : List Byte)
    (tag : Nat) : (s.sendSeq k part chan ty arg bs tag).maxTemp = s.maxTemp := by
  unfold State.sendSeq; simp only; split <;> rfl
@[simp] theorem State.sendSeq_volt (s : State) (k part chan : Nat) (ty : BitVec 8) (arg : BitVec 96) (bs : List Byte)
    (tag : Nat) : (s.sendSeq k part chan ty arg bs tag).volt = s.volt := by
  unfold State.sendSeq; simp only; split <;> rfl
@[simp] theorem State.sendSeq_proc (s : State) (k part chan : Nat) (ty : BitVec 8) (arg : BitVec 96) (bs : List Byte)
    (tag : Nat) : (s.sendSeq k part chan ty arg bs tag).proc = s.proc := by
  unfold State.sendSeq; simp only; split <;> rfl
@[simp] theorem State.sendSeq_mainOn (s : State) (k part chan : Nat) (ty : BitVec 8) (arg : BitVec 96) (bs : List Byte)
    (tag : Nat) : (s.sendSeq k part chan ty arg bs tag).mainOn = s.mainOn := by
  unfold State.sendSeq; simp only; split <;> rfl
@[simp] theorem State.sendSeq_auxOn (s : State) (k part chan : Nat) (ty : BitVec 8) (arg : BitVec 96) (bs : List Byte)
    (tag : Nat) : (s.sendSeq k part chan ty arg bs tag).auxOn = s.auxOn := by
  unfold State.sendSeq; simp only; split <;> rfl
@[simp] theorem State.sendSeq_railsCut (s : State) (k part chan : Nat) (ty : BitVec 8) (arg : BitVec 96) (bs : List Byte)
    (tag : Nat) : (s.sendSeq k part chan ty arg bs tag).railsCut = s.railsCut := by
  unfold State.sendSeq; simp only; split <;> rfl
@[simp] theorem State.sendSeq_selfRefresh (s : State) (k part chan : Nat) (ty : BitVec 8) (arg : BitVec 96) (bs : List Byte)
    (tag : Nat) : (s.sendSeq k part chan ty arg bs tag).selfRefresh = s.selfRefresh := by
  unfold State.sendSeq; simp only; split <;> rfl
@[simp] theorem State.sendSeq_queues (s : State) (k part chan : Nat) (ty : BitVec 8) (arg : BitVec 96) (bs : List Byte)
    (tag : Nat) : (s.sendSeq k part chan ty arg bs tag).queues = s.queues := by
  unfold State.sendSeq; simp only; split <;> rfl
@[simp] theorem State.sendSeq_graphs (s : State) (k part chan : Nat) (ty : BitVec 8) (arg : BitVec 96) (bs : List Byte)
    (tag : Nat) : (s.sendSeq k part chan ty arg bs tag).graphs = s.graphs := by
  unfold State.sendSeq; simp only; split <;> rfl
@[simp] theorem State.sendSeq_graphNo (s : State) (k part chan : Nat) (ty : BitVec 8) (arg : BitVec 96) (bs : List Byte)
    (tag : Nat) : (s.sendSeq k part chan ty arg bs tag).graphNo = s.graphNo := by
  unfold State.sendSeq; simp only; split <;> rfl
@[simp] theorem State.sendSeq_counters (s : State) (k part chan : Nat) (ty : BitVec 8) (arg : BitVec 96) (bs : List Byte)
    (tag : Nat) : (s.sendSeq k part chan ty arg bs tag).counters = s.counters := by
  unfold State.sendSeq; simp only; split <;> rfl
@[simp] theorem State.sendSeq_barriers (s : State) (k part chan : Nat) (ty : BitVec 8) (arg : BitVec 96) (bs : List Byte)
    (tag : Nat) : (s.sendSeq k part chan ty arg bs tag).barriers = s.barriers := by
  unfold State.sendSeq; simp only; split <;> rfl
@[simp] theorem State.sendSeq_codes (s : State) (k part chan : Nat) (ty : BitVec 8) (arg : BitVec 96) (bs : List Byte)
    (tag : Nat) : (s.sendSeq k part chan ty arg bs tag).codes = s.codes := by
  unfold State.sendSeq; simp only; split <;> rfl
@[simp] theorem State.sendSeq_flips (s : State) (k part chan : Nat) (ty : BitVec 8) (arg : BitVec 96) (bs : List Byte)
    (tag : Nat) : (s.sendSeq k part chan ty arg bs tag).flips = s.flips := by
  unfold State.sendSeq; simp only; split <;> rfl
@[simp] theorem State.sendSeq_heldHost (s : State) (k part chan : Nat) (ty : BitVec 8) (arg : BitVec 96) (bs : List Byte)
    (tag : Nat) : (s.sendSeq k part chan ty arg bs tag).heldHost = s.heldHost := by
  unfold State.sendSeq; simp only; split <;> rfl
@[simp] theorem State.sendSeq_heldCtl (s : State) (k part chan : Nat) (ty : BitVec 8) (arg : BitVec 96) (bs : List Byte)
    (tag : Nat) : (s.sendSeq k part chan ty arg bs tag).heldCtl = s.heldCtl := by
  unfold State.sendSeq; simp only; split <;> rfl
@[simp] theorem State.sendSeq_keys (s : State) (k part chan : Nat) (ty : BitVec 8) (arg : BitVec 96) (bs : List Byte)
    (tag : Nat) : (s.sendSeq k part chan ty arg bs tag).keys = s.keys := by
  unfold State.sendSeq; simp only; split <;> rfl
@[simp] theorem State.sendSeq_links (s : State) (k part chan : Nat) (ty : BitVec 8) (arg : BitVec 96) (bs : List Byte)
    (tag : Nat) : (s.sendSeq k part chan ty arg bs tag).links = s.links := by
  unfold State.sendSeq; simp only; split <;> rfl
@[simp] theorem State.sendSeq_macsec (s : State) (k part chan : Nat) (ty : BitVec 8) (arg : BitVec 96) (bs : List Byte)
    (tag : Nat) : (s.sendSeq k part chan ty arg bs tag).macsec = s.macsec := by
  unfold State.sendSeq; simp only; split <;> rfl
@[simp] theorem State.sendSeq_udp (s : State) (k part chan : Nat) (ty : BitVec 8) (arg : BitVec 96) (bs : List Byte)
    (tag : Nat) : (s.sendSeq k part chan ty arg bs tag).udp = s.udp := by
  unfold State.sendSeq; simp only; split <;> rfl
@[simp] theorem State.sendSeq_reds (s : State) (k part chan : Nat) (ty : BitVec 8) (arg : BitVec 96) (bs : List Byte)
    (tag : Nat) : (s.sendSeq k part chan ty arg bs tag).reds = s.reds := by
  unfold State.sendSeq; simp only; split <;> rfl
@[simp] theorem State.sendSeq_flash (s : State) (k part chan : Nat) (ty : BitVec 8) (arg : BitVec 96) (bs : List Byte)
    (tag : Nat) : (s.sendSeq k part chan ty arg bs tag).flash = s.flash := by
  unfold State.sendSeq; simp only; split <;> rfl
@[simp] theorem State.sendSeq_firmware (s : State) (k part chan : Nat) (ty : BitVec 8) (arg : BitVec 96) (bs : List Byte)
    (tag : Nat) : (s.sendSeq k part chan ty arg bs tag).firmware = s.firmware := by
  unfold State.sendSeq; simp only; split <;> rfl
@[simp] theorem State.sendSeq_recovery (s : State) (k part chan : Nat) (ty : BitVec 8) (arg : BitVec 96) (bs : List Byte)
    (tag : Nat) : (s.sendSeq k part chan ty arg bs tag).recovery = s.recovery := by
  unfold State.sendSeq; simp only; split <;> rfl
@[simp] theorem State.sendSeq_xmss (s : State) (k part chan : Nat) (ty : BitVec 8) (arg : BitVec 96) (bs : List Byte)
    (tag : Nat) : (s.sendSeq k part chan ty arg bs tag).xmss = s.xmss := by
  unfold State.sendSeq; simp only; split <;> rfl
@[simp] theorem State.sendSeq_flashing (s : State) (k part chan : Nat) (ty : BitVec 8) (arg : BitVec 96) (bs : List Byte)
    (tag : Nat) : (s.sendSeq k part chan ty arg bs tag).flashing = s.flashing := by
  unfold State.sendSeq; simp only; split <;> rfl
@[simp] theorem State.sendSeq_macPn (s : State) (k part chan : Nat) (ty : BitVec 8) (arg : BitVec 96) (bs : List Byte)
    (tag : Nat) : (s.sendSeq k part chan ty arg bs tag).macPn = s.macPn := by
  unfold State.sendSeq; simp only; split <;> rfl
@[simp] theorem State.sendSeq_due (s : State) (k part chan : Nat) (ty : BitVec 8) (arg : BitVec 96) (bs : List Byte)
    (tag : Nat) : (s.sendSeq k part chan ty arg bs tag).due = s.due := by
  unfold State.sendSeq; simp only; split <;> rfl
@[simp] theorem State.sendSeq_work (s : State) (k part chan : Nat) (ty : BitVec 8) (arg : BitVec 96) (bs : List Byte)
    (tag : Nat) : (s.sendSeq k part chan ty arg bs tag).work = s.work := by
  unfold State.sendSeq; simp only; split <;> rfl
@[simp] theorem State.sendSeq_roles (s : State) (k part chan : Nat) (ty : BitVec 8) (arg : BitVec 96) (bs : List Byte)
    (tag : Nat) : (s.sendSeq k part chan ty arg bs tag).roles = s.roles := by
  unfold State.sendSeq; simp only; split <;> rfl
@[simp] theorem State.sendSeq_take (s : State) (k part chan : Nat) (ty : BitVec 8) (arg : BitVec 96) (bs : List Byte)
    (tag : Nat) : (s.sendSeq k part chan ty arg bs tag).take = s.take := by
  unfold State.sendSeq; simp only; split <;> rfl
@[simp] theorem State.sendSeq_jbase (s : State) (k part chan : Nat) (ty : BitVec 8) (arg : BitVec 96) (bs : List Byte)
    (tag : Nat) : (s.sendSeq k part chan ty arg bs tag).jbase = s.jbase := by
  unfold State.sendSeq; simp only; split <;> rfl
@[simp] theorem State.sendSeq_jhead (s : State) (k part chan : Nat) (ty : BitVec 8) (arg : BitVec 96) (bs : List Byte)
    (tag : Nat) : (s.sendSeq k part chan ty arg bs tag).jhead = s.jhead := by
  unfold State.sendSeq; simp only; split <;> rfl
@[simp] theorem State.sendSeq_jtail (s : State) (k part chan : Nat) (ty : BitVec 8) (arg : BitVec 96) (bs : List Byte)
    (tag : Nat) : (s.sendSeq k part chan ty arg bs tag).jtail = s.jtail := by
  unfold State.sendSeq; simp only; split <;> rfl

@[simp] theorem State.emit_cur (s : State) (part chan : Nat) (ty : BitVec 8) (arg : BitVec 96) (bs : List Byte) :
    (s.emit part chan ty arg bs).cur = s.cur := by
  unfold State.emit; simp only; split
  · rfl
  · exact State.sendSeq_cur s _ part chan ty arg bs 0
@[simp] theorem State.emit_agenda (s : State) (part chan : Nat) (ty : BitVec 8) (arg : BitVec 96) (bs : List Byte) :
    (s.emit part chan ty arg bs).agenda = s.agenda := by
  unfold State.emit; simp only; split
  · rfl
  · exact State.sendSeq_agenda s _ part chan ty arg bs 0
@[simp] theorem State.emit_turn (s : State) (part chan : Nat) (ty : BitVec 8) (arg : BitVec 96) (bs : List Byte) :
    (s.emit part chan ty arg bs).turn = s.turn := by
  unfold State.emit; simp only; split
  · rfl
  · exact State.sendSeq_turn s _ part chan ty arg bs 0
@[simp] theorem State.emit_cores (s : State) (part chan : Nat) (ty : BitVec 8) (arg : BitVec 96) (bs : List Byte) :
    (s.emit part chan ty arg bs).cores = s.cores := by
  unfold State.emit; simp only; split
  · rfl
  · exact State.sendSeq_cores s _ part chan ty arg bs 0
@[simp] theorem State.emit_saved (s : State) (part chan : Nat) (ty : BitVec 8) (arg : BitVec 96) (bs : List Byte) :
    (s.emit part chan ty arg bs).saved = s.saved := by
  unfold State.emit; simp only; split
  · rfl
  · exact State.sendSeq_saved s _ part chan ty arg bs 0
@[simp] theorem State.emit_spads (s : State) (part chan : Nat) (ty : BitVec 8) (arg : BitVec 96) (bs : List Byte) :
    (s.emit part chan ty arg bs).spads = s.spads := by
  unfold State.emit; simp only; split
  · rfl
  · exact State.sendSeq_spads s _ part chan ty arg bs 0
@[simp] theorem State.emit_mem (s : State) (part chan : Nat) (ty : BitVec 8) (arg : BitVec 96) (bs : List Byte) :
    (s.emit part chan ty arg bs).mem = s.mem := by
  unfold State.emit; simp only; split
  · rfl
  · exact State.sendSeq_mem s _ part chan ty arg bs 0
@[simp] theorem State.emit_loftGen (s : State) (part chan : Nat) (ty : BitVec 8) (arg : BitVec 96) (bs : List Byte) :
    (s.emit part chan ty arg bs).loftGen = s.loftGen := by
  unfold State.emit; simp only; split
  · rfl
  · exact State.sendSeq_loftGen s _ part chan ty arg bs 0
@[simp] theorem State.emit_loftKey (s : State) (part chan : Nat) (ty : BitVec 8) (arg : BitVec 96) (bs : List Byte) :
    (s.emit part chan ty arg bs).loftKey = s.loftKey := by
  unfold State.emit; simp only; split
  · rfl
  · exact State.sendSeq_loftKey s _ part chan ty arg bs 0
@[simp] theorem State.emit_poison (s : State) (part chan : Nat) (ty : BitVec 8) (arg : BitVec 96) (bs : List Byte) :
    (s.emit part chan ty arg bs).poison = s.poison := by
  unfold State.emit; simp only; split
  · rfl
  · exact State.sendSeq_poison s _ part chan ty arg bs 0
@[simp] theorem State.emit_sliceMap (s : State) (part chan : Nat) (ty : BitVec 8) (arg : BitVec 96) (bs : List Byte) :
    (s.emit part chan ty arg bs).sliceMap = s.sliceMap := by
  unfold State.emit; simp only; split
  · rfl
  · exact State.sendSeq_sliceMap s _ part chan ty arg bs 0
@[simp] theorem State.emit_tlb (s : State) (part chan : Nat) (ty : BitVec 8) (arg : BitVec 96) (bs : List Byte) :
    (s.emit part chan ty arg bs).tlb = s.tlb := by
  unfold State.emit; simp only; split
  · rfl
  · exact State.sendSeq_tlb s _ part chan ty arg bs 0
@[simp] theorem State.emit_walks (s : State) (part chan : Nat) (ty : BitVec 8) (arg : BitVec 96) (bs : List Byte) :
    (s.emit part chan ty arg bs).walks = s.walks := by
  unfold State.emit; simp only; split
  · rfl
  · exact State.sendSeq_walks s _ part chan ty arg bs 0
@[simp] theorem State.emit_ctxs (s : State) (part chan : Nat) (ty : BitVec 8) (arg : BitVec 96) (bs : List Byte) :
    (s.emit part chan ty arg bs).ctxs = s.ctxs := by
  unfold State.emit; simp only; split
  · rfl
  · exact State.sendSeq_ctxs s _ part chan ty arg bs 0
@[simp] theorem State.emit_rows (s : State) (part chan : Nat) (ty : BitVec 8) (arg : BitVec 96) (bs : List Byte) :
    (s.emit part chan ty arg bs).rows = s.rows := by
  unfold State.emit; simp only; split
  · rfl
  · exact State.sendSeq_rows s _ part chan ty arg bs 0
@[simp] theorem State.emit_dropped (s : State) (part chan : Nat) (ty : BitVec 8) (arg : BitVec 96) (bs : List Byte) :
    (s.emit part chan ty arg bs).dropped = s.dropped := by
  unfold State.emit; simp only; split
  · rfl
  · exact State.sendSeq_dropped s _ part chan ty arg bs 0
@[simp] theorem State.emit_errHead (s : State) (part chan : Nat) (ty : BitVec 8) (arg : BitVec 96) (bs : List Byte) :
    (s.emit part chan ty arg bs).errHead = s.errHead := by
  unfold State.emit; simp only; split
  · rfl
  · exact State.sendSeq_errHead s _ part chan ty arg bs 0
@[simp] theorem State.emit_errLost (s : State) (part chan : Nat) (ty : BitVec 8) (arg : BitVec 96) (bs : List Byte) :
    (s.emit part chan ty arg bs).errLost = s.errLost := by
  unfold State.emit; simp only; split
  · rfl
  · exact State.sendSeq_errLost s _ part chan ty arg bs 0
@[simp] theorem State.emit_errLog (s : State) (part chan : Nat) (ty : BitVec 8) (arg : BitVec 96) (bs : List Byte) :
    (s.emit part chan ty arg bs).errLog = s.errLog := by
  unfold State.emit; simp only; split
  · rfl
  · exact State.sendSeq_errLog s _ part chan ty arg bs 0
@[simp] theorem State.emit_dies (s : State) (part chan : Nat) (ty : BitVec 8) (arg : BitVec 96) (bs : List Byte) :
    (s.emit part chan ty arg bs).dies = s.dies := by
  unfold State.emit; simp only; split
  · rfl
  · exact State.sendSeq_dies s _ part chan ty arg bs 0
@[simp] theorem State.emit_mode (s : State) (part chan : Nat) (ty : BitVec 8) (arg : BitVec 96) (bs : List Byte) :
    (s.emit part chan ty arg bs).mode = s.mode := by
  unfold State.emit; simp only; split
  · rfl
  · exact State.sendSeq_mode s _ part chan ty arg bs 0
@[simp] theorem State.emit_modLimit (s : State) (part chan : Nat) (ty : BitVec 8) (arg : BitVec 96) (bs : List Byte) :
    (s.emit part chan ty arg bs).modLimit = s.modLimit := by
  unfold State.emit; simp only; split
  · rfl
  · exact State.sendSeq_modLimit s _ part chan ty arg bs 0
@[simp] theorem State.emit_modMeas (s : State) (part chan : Nat) (ty : BitVec 8) (arg : BitVec 96) (bs : List Byte) :
    (s.emit part chan ty arg bs).modMeas = s.modMeas := by
  unfold State.emit; simp only; split
  · rfl
  · exact State.sendSeq_modMeas s _ part chan ty arg bs 0
@[simp] theorem State.emit_ckMask (s : State) (part chan : Nat) (ty : BitVec 8) (arg : BitVec 96) (bs : List Byte) :
    (s.emit part chan ty arg bs).ckMask = s.ckMask := by
  unfold State.emit; simp only; split
  · rfl
  · exact State.sendSeq_ckMask s _ part chan ty arg bs 0
@[simp] theorem State.emit_ckState (s : State) (part chan : Nat) (ty : BitVec 8) (arg : BitVec 96) (bs : List Byte) :
    (s.emit part chan ty arg bs).ckState = s.ckState := by
  unfold State.emit; simp only; split
  · rfl
  · exact State.sendSeq_ckState s _ part chan ty arg bs 0
@[simp] theorem State.emit_ckReason (s : State) (part chan : Nat) (ty : BitVec 8) (arg : BitVec 96) (bs : List Byte) :
    (s.emit part chan ty arg bs).ckReason = s.ckReason := by
  unfold State.emit; simp only; split
  · rfl
  · exact State.sendSeq_ckReason s _ part chan ty arg bs 0
@[simp] theorem State.emit_ckMoved (s : State) (part chan : Nat) (ty : BitVec 8) (arg : BitVec 96) (bs : List Byte) :
    (s.emit part chan ty arg bs).ckMoved = s.ckMoved := by
  unfold State.emit; simp only; split
  · rfl
  · exact State.sendSeq_ckMoved s _ part chan ty arg bs 0
@[simp] theorem State.emit_ckImage (s : State) (part chan : Nat) (ty : BitVec 8) (arg : BitVec 96) (bs : List Byte) :
    (s.emit part chan ty arg bs).ckImage = s.ckImage := by
  unfold State.emit; simp only; split
  · rfl
  · exact State.sendSeq_ckImage s _ part chan ty arg bs 0
@[simp] theorem State.emit_temp (s : State) (part chan : Nat) (ty : BitVec 8) (arg : BitVec 96) (bs : List Byte) :
    (s.emit part chan ty arg bs).temp = s.temp := by
  unfold State.emit; simp only; split
  · rfl
  · exact State.sendSeq_temp s _ part chan ty arg bs 0
@[simp] theorem State.emit_maxTemp (s : State) (part chan : Nat) (ty : BitVec 8) (arg : BitVec 96) (bs : List Byte) :
    (s.emit part chan ty arg bs).maxTemp = s.maxTemp := by
  unfold State.emit; simp only; split
  · rfl
  · exact State.sendSeq_maxTemp s _ part chan ty arg bs 0
@[simp] theorem State.emit_volt (s : State) (part chan : Nat) (ty : BitVec 8) (arg : BitVec 96) (bs : List Byte) :
    (s.emit part chan ty arg bs).volt = s.volt := by
  unfold State.emit; simp only; split
  · rfl
  · exact State.sendSeq_volt s _ part chan ty arg bs 0
@[simp] theorem State.emit_proc (s : State) (part chan : Nat) (ty : BitVec 8) (arg : BitVec 96) (bs : List Byte) :
    (s.emit part chan ty arg bs).proc = s.proc := by
  unfold State.emit; simp only; split
  · rfl
  · exact State.sendSeq_proc s _ part chan ty arg bs 0
@[simp] theorem State.emit_mainOn (s : State) (part chan : Nat) (ty : BitVec 8) (arg : BitVec 96) (bs : List Byte) :
    (s.emit part chan ty arg bs).mainOn = s.mainOn := by
  unfold State.emit; simp only; split
  · rfl
  · exact State.sendSeq_mainOn s _ part chan ty arg bs 0
@[simp] theorem State.emit_auxOn (s : State) (part chan : Nat) (ty : BitVec 8) (arg : BitVec 96) (bs : List Byte) :
    (s.emit part chan ty arg bs).auxOn = s.auxOn := by
  unfold State.emit; simp only; split
  · rfl
  · exact State.sendSeq_auxOn s _ part chan ty arg bs 0
@[simp] theorem State.emit_railsCut (s : State) (part chan : Nat) (ty : BitVec 8) (arg : BitVec 96) (bs : List Byte) :
    (s.emit part chan ty arg bs).railsCut = s.railsCut := by
  unfold State.emit; simp only; split
  · rfl
  · exact State.sendSeq_railsCut s _ part chan ty arg bs 0
@[simp] theorem State.emit_selfRefresh (s : State) (part chan : Nat) (ty : BitVec 8) (arg : BitVec 96) (bs : List Byte) :
    (s.emit part chan ty arg bs).selfRefresh = s.selfRefresh := by
  unfold State.emit; simp only; split
  · rfl
  · exact State.sendSeq_selfRefresh s _ part chan ty arg bs 0
@[simp] theorem State.emit_queues (s : State) (part chan : Nat) (ty : BitVec 8) (arg : BitVec 96) (bs : List Byte) :
    (s.emit part chan ty arg bs).queues = s.queues := by
  unfold State.emit; simp only; split
  · rfl
  · exact State.sendSeq_queues s _ part chan ty arg bs 0
@[simp] theorem State.emit_graphs (s : State) (part chan : Nat) (ty : BitVec 8) (arg : BitVec 96) (bs : List Byte) :
    (s.emit part chan ty arg bs).graphs = s.graphs := by
  unfold State.emit; simp only; split
  · rfl
  · exact State.sendSeq_graphs s _ part chan ty arg bs 0
@[simp] theorem State.emit_graphNo (s : State) (part chan : Nat) (ty : BitVec 8) (arg : BitVec 96) (bs : List Byte) :
    (s.emit part chan ty arg bs).graphNo = s.graphNo := by
  unfold State.emit; simp only; split
  · rfl
  · exact State.sendSeq_graphNo s _ part chan ty arg bs 0
@[simp] theorem State.emit_counters (s : State) (part chan : Nat) (ty : BitVec 8) (arg : BitVec 96) (bs : List Byte) :
    (s.emit part chan ty arg bs).counters = s.counters := by
  unfold State.emit; simp only; split
  · rfl
  · exact State.sendSeq_counters s _ part chan ty arg bs 0
@[simp] theorem State.emit_barriers (s : State) (part chan : Nat) (ty : BitVec 8) (arg : BitVec 96) (bs : List Byte) :
    (s.emit part chan ty arg bs).barriers = s.barriers := by
  unfold State.emit; simp only; split
  · rfl
  · exact State.sendSeq_barriers s _ part chan ty arg bs 0
@[simp] theorem State.emit_codes (s : State) (part chan : Nat) (ty : BitVec 8) (arg : BitVec 96) (bs : List Byte) :
    (s.emit part chan ty arg bs).codes = s.codes := by
  unfold State.emit; simp only; split
  · rfl
  · exact State.sendSeq_codes s _ part chan ty arg bs 0
@[simp] theorem State.emit_flips (s : State) (part chan : Nat) (ty : BitVec 8) (arg : BitVec 96) (bs : List Byte) :
    (s.emit part chan ty arg bs).flips = s.flips := by
  unfold State.emit; simp only; split
  · rfl
  · exact State.sendSeq_flips s _ part chan ty arg bs 0
@[simp] theorem State.emit_heldHost (s : State) (part chan : Nat) (ty : BitVec 8) (arg : BitVec 96) (bs : List Byte) :
    (s.emit part chan ty arg bs).heldHost = s.heldHost := by
  unfold State.emit; simp only; split
  · rfl
  · exact State.sendSeq_heldHost s _ part chan ty arg bs 0
@[simp] theorem State.emit_heldCtl (s : State) (part chan : Nat) (ty : BitVec 8) (arg : BitVec 96) (bs : List Byte) :
    (s.emit part chan ty arg bs).heldCtl = s.heldCtl := by
  unfold State.emit; simp only; split
  · rfl
  · exact State.sendSeq_heldCtl s _ part chan ty arg bs 0
@[simp] theorem State.emit_keys (s : State) (part chan : Nat) (ty : BitVec 8) (arg : BitVec 96) (bs : List Byte) :
    (s.emit part chan ty arg bs).keys = s.keys := by
  unfold State.emit; simp only; split
  · rfl
  · exact State.sendSeq_keys s _ part chan ty arg bs 0
@[simp] theorem State.emit_links (s : State) (part chan : Nat) (ty : BitVec 8) (arg : BitVec 96) (bs : List Byte) :
    (s.emit part chan ty arg bs).links = s.links := by
  unfold State.emit; simp only; split
  · rfl
  · exact State.sendSeq_links s _ part chan ty arg bs 0
@[simp] theorem State.emit_macsec (s : State) (part chan : Nat) (ty : BitVec 8) (arg : BitVec 96) (bs : List Byte) :
    (s.emit part chan ty arg bs).macsec = s.macsec := by
  unfold State.emit; simp only; split
  · rfl
  · exact State.sendSeq_macsec s _ part chan ty arg bs 0
@[simp] theorem State.emit_udp (s : State) (part chan : Nat) (ty : BitVec 8) (arg : BitVec 96) (bs : List Byte) :
    (s.emit part chan ty arg bs).udp = s.udp := by
  unfold State.emit; simp only; split
  · rfl
  · exact State.sendSeq_udp s _ part chan ty arg bs 0
@[simp] theorem State.emit_reds (s : State) (part chan : Nat) (ty : BitVec 8) (arg : BitVec 96) (bs : List Byte) :
    (s.emit part chan ty arg bs).reds = s.reds := by
  unfold State.emit; simp only; split
  · rfl
  · exact State.sendSeq_reds s _ part chan ty arg bs 0
@[simp] theorem State.emit_flash (s : State) (part chan : Nat) (ty : BitVec 8) (arg : BitVec 96) (bs : List Byte) :
    (s.emit part chan ty arg bs).flash = s.flash := by
  unfold State.emit; simp only; split
  · rfl
  · exact State.sendSeq_flash s _ part chan ty arg bs 0
@[simp] theorem State.emit_firmware (s : State) (part chan : Nat) (ty : BitVec 8) (arg : BitVec 96) (bs : List Byte) :
    (s.emit part chan ty arg bs).firmware = s.firmware := by
  unfold State.emit; simp only; split
  · rfl
  · exact State.sendSeq_firmware s _ part chan ty arg bs 0
@[simp] theorem State.emit_recovery (s : State) (part chan : Nat) (ty : BitVec 8) (arg : BitVec 96) (bs : List Byte) :
    (s.emit part chan ty arg bs).recovery = s.recovery := by
  unfold State.emit; simp only; split
  · rfl
  · exact State.sendSeq_recovery s _ part chan ty arg bs 0
@[simp] theorem State.emit_xmss (s : State) (part chan : Nat) (ty : BitVec 8) (arg : BitVec 96) (bs : List Byte) :
    (s.emit part chan ty arg bs).xmss = s.xmss := by
  unfold State.emit; simp only; split
  · rfl
  · exact State.sendSeq_xmss s _ part chan ty arg bs 0
@[simp] theorem State.emit_flashing (s : State) (part chan : Nat) (ty : BitVec 8) (arg : BitVec 96) (bs : List Byte) :
    (s.emit part chan ty arg bs).flashing = s.flashing := by
  unfold State.emit; simp only; split
  · rfl
  · exact State.sendSeq_flashing s _ part chan ty arg bs 0
@[simp] theorem State.emit_macPn (s : State) (part chan : Nat) (ty : BitVec 8) (arg : BitVec 96) (bs : List Byte) :
    (s.emit part chan ty arg bs).macPn = s.macPn := by
  unfold State.emit; simp only; split
  · rfl
  · exact State.sendSeq_macPn s _ part chan ty arg bs 0
@[simp] theorem State.emit_due (s : State) (part chan : Nat) (ty : BitVec 8) (arg : BitVec 96) (bs : List Byte) :
    (s.emit part chan ty arg bs).due = s.due := by
  unfold State.emit; simp only; split
  · rfl
  · exact State.sendSeq_due s _ part chan ty arg bs 0
@[simp] theorem State.emit_work (s : State) (part chan : Nat) (ty : BitVec 8) (arg : BitVec 96) (bs : List Byte) :
    (s.emit part chan ty arg bs).work = s.work := by
  unfold State.emit; simp only; split
  · rfl
  · exact State.sendSeq_work s _ part chan ty arg bs 0
@[simp] theorem State.emit_roles (s : State) (part chan : Nat) (ty : BitVec 8) (arg : BitVec 96) (bs : List Byte) :
    (s.emit part chan ty arg bs).roles = s.roles := by
  unfold State.emit; simp only; split
  · rfl
  · exact State.sendSeq_roles s _ part chan ty arg bs 0
@[simp] theorem State.emit_take (s : State) (part chan : Nat) (ty : BitVec 8) (arg : BitVec 96) (bs : List Byte) :
    (s.emit part chan ty arg bs).take = s.take := by
  unfold State.emit; simp only; split
  · rfl
  · exact State.sendSeq_take s _ part chan ty arg bs 0
@[simp] theorem State.emit_jbase (s : State) (part chan : Nat) (ty : BitVec 8) (arg : BitVec 96) (bs : List Byte) :
    (s.emit part chan ty arg bs).jbase = s.jbase := by
  unfold State.emit; simp only; split
  · rfl
  · exact State.sendSeq_jbase s _ part chan ty arg bs 0
@[simp] theorem State.emit_jhead (s : State) (part chan : Nat) (ty : BitVec 8) (arg : BitVec 96) (bs : List Byte) :
    (s.emit part chan ty arg bs).jhead = s.jhead := by
  unfold State.emit; simp only; split
  · rfl
  · exact State.sendSeq_jhead s _ part chan ty arg bs 0
@[simp] theorem State.emit_jtail (s : State) (part chan : Nat) (ty : BitVec 8) (arg : BitVec 96) (bs : List Byte) :
    (s.emit part chan ty arg bs).jtail = s.jtail := by
  unfold State.emit; simp only; split
  · rfl
  · exact State.sendSeq_jtail s _ part chan ty arg bs 0

/-- An event is never held back by a take-over. -/
theorem State.event_eq (s : State) (part kind : Nat) (record : List Byte) :
    s.event part kind record = s.sendSeq (chanKey part ctlChan) part ctlChan mtEvent (BitVec.ofNat 96 kind) record 0 := by
  unfold State.event State.emit
  simp only
  rw [if_neg]
  simp [mtEvent, mtCompletion, mtLoadDone]

@[simp] theorem State.event_cur (s : State) (part kind : Nat) (record : List Byte) : (s.event part kind record).cur = s.cur := by
  rw [State.event_eq]; exact State.sendSeq_cur ..
@[simp] theorem State.event_agenda (s : State) (part kind : Nat) (record : List Byte) : (s.event part kind record).agenda = s.agenda := by
  rw [State.event_eq]; exact State.sendSeq_agenda ..
@[simp] theorem State.event_turn (s : State) (part kind : Nat) (record : List Byte) : (s.event part kind record).turn = s.turn := by
  rw [State.event_eq]; exact State.sendSeq_turn ..
@[simp] theorem State.event_cores (s : State) (part kind : Nat) (record : List Byte) : (s.event part kind record).cores = s.cores := by
  rw [State.event_eq]; exact State.sendSeq_cores ..
@[simp] theorem State.event_saved (s : State) (part kind : Nat) (record : List Byte) : (s.event part kind record).saved = s.saved := by
  rw [State.event_eq]; exact State.sendSeq_saved ..
@[simp] theorem State.event_spads (s : State) (part kind : Nat) (record : List Byte) : (s.event part kind record).spads = s.spads := by
  rw [State.event_eq]; exact State.sendSeq_spads ..
@[simp] theorem State.event_mem (s : State) (part kind : Nat) (record : List Byte) : (s.event part kind record).mem = s.mem := by
  rw [State.event_eq]; exact State.sendSeq_mem ..
@[simp] theorem State.event_loftGen (s : State) (part kind : Nat) (record : List Byte) : (s.event part kind record).loftGen = s.loftGen := by
  rw [State.event_eq]; exact State.sendSeq_loftGen ..
@[simp] theorem State.event_loftKey (s : State) (part kind : Nat) (record : List Byte) : (s.event part kind record).loftKey = s.loftKey := by
  rw [State.event_eq]; exact State.sendSeq_loftKey ..
@[simp] theorem State.event_poison (s : State) (part kind : Nat) (record : List Byte) : (s.event part kind record).poison = s.poison := by
  rw [State.event_eq]; exact State.sendSeq_poison ..
@[simp] theorem State.event_sliceMap (s : State) (part kind : Nat) (record : List Byte) : (s.event part kind record).sliceMap = s.sliceMap := by
  rw [State.event_eq]; exact State.sendSeq_sliceMap ..
@[simp] theorem State.event_tlb (s : State) (part kind : Nat) (record : List Byte) : (s.event part kind record).tlb = s.tlb := by
  rw [State.event_eq]; exact State.sendSeq_tlb ..
@[simp] theorem State.event_walks (s : State) (part kind : Nat) (record : List Byte) : (s.event part kind record).walks = s.walks := by
  rw [State.event_eq]; exact State.sendSeq_walks ..
@[simp] theorem State.event_parts (s : State) (part kind : Nat) (record : List Byte) : (s.event part kind record).parts = s.parts := by
  rw [State.event_eq]; exact State.sendSeq_parts ..
@[simp] theorem State.event_ctxs (s : State) (part kind : Nat) (record : List Byte) : (s.event part kind record).ctxs = s.ctxs := by
  rw [State.event_eq]; exact State.sendSeq_ctxs ..
@[simp] theorem State.event_rows (s : State) (part kind : Nat) (record : List Byte) : (s.event part kind record).rows = s.rows := by
  rw [State.event_eq]; exact State.sendSeq_rows ..
@[simp] theorem State.event_dropped (s : State) (part kind : Nat) (record : List Byte) : (s.event part kind record).dropped = s.dropped := by
  rw [State.event_eq]; exact State.sendSeq_dropped ..
@[simp] theorem State.event_errHead (s : State) (part kind : Nat) (record : List Byte) : (s.event part kind record).errHead = s.errHead := by
  rw [State.event_eq]; exact State.sendSeq_errHead ..
@[simp] theorem State.event_errLost (s : State) (part kind : Nat) (record : List Byte) : (s.event part kind record).errLost = s.errLost := by
  rw [State.event_eq]; exact State.sendSeq_errLost ..
@[simp] theorem State.event_errLog (s : State) (part kind : Nat) (record : List Byte) : (s.event part kind record).errLog = s.errLog := by
  rw [State.event_eq]; exact State.sendSeq_errLog ..
@[simp] theorem State.event_dies (s : State) (part kind : Nat) (record : List Byte) : (s.event part kind record).dies = s.dies := by
  rw [State.event_eq]; exact State.sendSeq_dies ..
@[simp] theorem State.event_mode (s : State) (part kind : Nat) (record : List Byte) : (s.event part kind record).mode = s.mode := by
  rw [State.event_eq]; exact State.sendSeq_mode ..
@[simp] theorem State.event_modLimit (s : State) (part kind : Nat) (record : List Byte) : (s.event part kind record).modLimit = s.modLimit := by
  rw [State.event_eq]; exact State.sendSeq_modLimit ..
@[simp] theorem State.event_modMeas (s : State) (part kind : Nat) (record : List Byte) : (s.event part kind record).modMeas = s.modMeas := by
  rw [State.event_eq]; exact State.sendSeq_modMeas ..
@[simp] theorem State.event_ckMask (s : State) (part kind : Nat) (record : List Byte) : (s.event part kind record).ckMask = s.ckMask := by
  rw [State.event_eq]; exact State.sendSeq_ckMask ..
@[simp] theorem State.event_ckState (s : State) (part kind : Nat) (record : List Byte) : (s.event part kind record).ckState = s.ckState := by
  rw [State.event_eq]; exact State.sendSeq_ckState ..
@[simp] theorem State.event_ckReason (s : State) (part kind : Nat) (record : List Byte) : (s.event part kind record).ckReason = s.ckReason := by
  rw [State.event_eq]; exact State.sendSeq_ckReason ..
@[simp] theorem State.event_ckMoved (s : State) (part kind : Nat) (record : List Byte) : (s.event part kind record).ckMoved = s.ckMoved := by
  rw [State.event_eq]; exact State.sendSeq_ckMoved ..
@[simp] theorem State.event_ckImage (s : State) (part kind : Nat) (record : List Byte) : (s.event part kind record).ckImage = s.ckImage := by
  rw [State.event_eq]; exact State.sendSeq_ckImage ..
@[simp] theorem State.event_temp (s : State) (part kind : Nat) (record : List Byte) : (s.event part kind record).temp = s.temp := by
  rw [State.event_eq]; exact State.sendSeq_temp ..
@[simp] theorem State.event_maxTemp (s : State) (part kind : Nat) (record : List Byte) : (s.event part kind record).maxTemp = s.maxTemp := by
  rw [State.event_eq]; exact State.sendSeq_maxTemp ..
@[simp] theorem State.event_volt (s : State) (part kind : Nat) (record : List Byte) : (s.event part kind record).volt = s.volt := by
  rw [State.event_eq]; exact State.sendSeq_volt ..
@[simp] theorem State.event_proc (s : State) (part kind : Nat) (record : List Byte) : (s.event part kind record).proc = s.proc := by
  rw [State.event_eq]; exact State.sendSeq_proc ..
@[simp] theorem State.event_mainOn (s : State) (part kind : Nat) (record : List Byte) : (s.event part kind record).mainOn = s.mainOn := by
  rw [State.event_eq]; exact State.sendSeq_mainOn ..
@[simp] theorem State.event_auxOn (s : State) (part kind : Nat) (record : List Byte) : (s.event part kind record).auxOn = s.auxOn := by
  rw [State.event_eq]; exact State.sendSeq_auxOn ..
@[simp] theorem State.event_railsCut (s : State) (part kind : Nat) (record : List Byte) : (s.event part kind record).railsCut = s.railsCut := by
  rw [State.event_eq]; exact State.sendSeq_railsCut ..
@[simp] theorem State.event_selfRefresh (s : State) (part kind : Nat) (record : List Byte) : (s.event part kind record).selfRefresh = s.selfRefresh := by
  rw [State.event_eq]; exact State.sendSeq_selfRefresh ..
@[simp] theorem State.event_queues (s : State) (part kind : Nat) (record : List Byte) : (s.event part kind record).queues = s.queues := by
  rw [State.event_eq]; exact State.sendSeq_queues ..
@[simp] theorem State.event_graphs (s : State) (part kind : Nat) (record : List Byte) : (s.event part kind record).graphs = s.graphs := by
  rw [State.event_eq]; exact State.sendSeq_graphs ..
@[simp] theorem State.event_graphNo (s : State) (part kind : Nat) (record : List Byte) : (s.event part kind record).graphNo = s.graphNo := by
  rw [State.event_eq]; exact State.sendSeq_graphNo ..
@[simp] theorem State.event_counters (s : State) (part kind : Nat) (record : List Byte) : (s.event part kind record).counters = s.counters := by
  rw [State.event_eq]; exact State.sendSeq_counters ..
@[simp] theorem State.event_barriers (s : State) (part kind : Nat) (record : List Byte) : (s.event part kind record).barriers = s.barriers := by
  rw [State.event_eq]; exact State.sendSeq_barriers ..
@[simp] theorem State.event_codes (s : State) (part kind : Nat) (record : List Byte) : (s.event part kind record).codes = s.codes := by
  rw [State.event_eq]; exact State.sendSeq_codes ..
@[simp] theorem State.event_flips (s : State) (part kind : Nat) (record : List Byte) : (s.event part kind record).flips = s.flips := by
  rw [State.event_eq]; exact State.sendSeq_flips ..
@[simp] theorem State.event_heldHost (s : State) (part kind : Nat) (record : List Byte) : (s.event part kind record).heldHost = s.heldHost := by
  rw [State.event_eq]; exact State.sendSeq_heldHost ..
@[simp] theorem State.event_heldCtl (s : State) (part kind : Nat) (record : List Byte) : (s.event part kind record).heldCtl = s.heldCtl := by
  rw [State.event_eq]; exact State.sendSeq_heldCtl ..
@[simp] theorem State.event_keys (s : State) (part kind : Nat) (record : List Byte) : (s.event part kind record).keys = s.keys := by
  rw [State.event_eq]; exact State.sendSeq_keys ..
@[simp] theorem State.event_links (s : State) (part kind : Nat) (record : List Byte) : (s.event part kind record).links = s.links := by
  rw [State.event_eq]; exact State.sendSeq_links ..
@[simp] theorem State.event_macsec (s : State) (part kind : Nat) (record : List Byte) : (s.event part kind record).macsec = s.macsec := by
  rw [State.event_eq]; exact State.sendSeq_macsec ..
@[simp] theorem State.event_udp (s : State) (part kind : Nat) (record : List Byte) : (s.event part kind record).udp = s.udp := by
  rw [State.event_eq]; exact State.sendSeq_udp ..
@[simp] theorem State.event_reds (s : State) (part kind : Nat) (record : List Byte) : (s.event part kind record).reds = s.reds := by
  rw [State.event_eq]; exact State.sendSeq_reds ..
@[simp] theorem State.event_flash (s : State) (part kind : Nat) (record : List Byte) : (s.event part kind record).flash = s.flash := by
  rw [State.event_eq]; exact State.sendSeq_flash ..
@[simp] theorem State.event_firmware (s : State) (part kind : Nat) (record : List Byte) : (s.event part kind record).firmware = s.firmware := by
  rw [State.event_eq]; exact State.sendSeq_firmware ..
@[simp] theorem State.event_recovery (s : State) (part kind : Nat) (record : List Byte) : (s.event part kind record).recovery = s.recovery := by
  rw [State.event_eq]; exact State.sendSeq_recovery ..
@[simp] theorem State.event_xmss (s : State) (part kind : Nat) (record : List Byte) : (s.event part kind record).xmss = s.xmss := by
  rw [State.event_eq]; exact State.sendSeq_xmss ..
@[simp] theorem State.event_flashing (s : State) (part kind : Nat) (record : List Byte) : (s.event part kind record).flashing = s.flashing := by
  rw [State.event_eq]; exact State.sendSeq_flashing ..
@[simp] theorem State.event_macPn (s : State) (part kind : Nat) (record : List Byte) : (s.event part kind record).macPn = s.macPn := by
  rw [State.event_eq]; exact State.sendSeq_macPn ..
@[simp] theorem State.event_due (s : State) (part kind : Nat) (record : List Byte) : (s.event part kind record).due = s.due := by
  rw [State.event_eq]; exact State.sendSeq_due ..
@[simp] theorem State.event_work (s : State) (part kind : Nat) (record : List Byte) : (s.event part kind record).work = s.work := by
  rw [State.event_eq]; exact State.sendSeq_work ..
@[simp] theorem State.event_roles (s : State) (part kind : Nat) (record : List Byte) : (s.event part kind record).roles = s.roles := by
  rw [State.event_eq]; exact State.sendSeq_roles ..
@[simp] theorem State.event_take (s : State) (part kind : Nat) (record : List Byte) : (s.event part kind record).take = s.take := by
  rw [State.event_eq]; exact State.sendSeq_take ..
@[simp] theorem State.event_jbase (s : State) (part kind : Nat) (record : List Byte) : (s.event part kind record).jbase = s.jbase := by
  rw [State.event_eq]; exact State.sendSeq_jbase ..
@[simp] theorem State.event_jhead (s : State) (part kind : Nat) (record : List Byte) : (s.event part kind record).jhead = s.jhead := by
  rw [State.event_eq]; exact State.sendSeq_jhead ..
@[simp] theorem State.event_jtail (s : State) (part kind : Nat) (record : List Byte) : (s.event part kind record).jtail = s.jtail := by
  rw [State.event_eq]; exact State.sendSeq_jtail ..

theorem State.event_core (s : State) (part kind : Nat) (record : List Byte) (c : Nat) : (s.event part kind record).core c = s.core c := by
  simp only [State.core, State.event_cores]

theorem State.event_bank (s : State) (part kind : Nat) (record : List Byte) (c : Nat) : (s.event part kind record).bank c = s.bank c := by
  simp only [State.bank, State.event_core]

/-- A message that is not held back, on a channel with room, is sent with the channel's next number (R368). -/
theorem State.sendSeq_sent (s : State) (k part chan : Nat) (ty : BitVec 8) (arg : BitVec 96) (bs : List Byte) (tag : Nat)
    (h : (s.chan k).unacked.length < 1024) (hq : (s.chan k).queued = []) :
    (s.sendSeq k part chan ty arg bs tag).sent = s.sent ++ [⟨ty, part, chan, (s.chan k).next, (s.chan k).expect, arg, bs, tag, portOf k⟩] := by
  unfold State.sendSeq
  simp [h, hq]

theorem State.sendSeq_chan_ne (s : State) {k j : Nat} (part chan : Nat) (ty : BitVec 8) (arg : BitVec 96) (bs : List Byte) (tag : Nat)
    (h : j ≠ k) : (s.sendSeq k part chan ty arg bs tag).chan j = s.chan j := by
  unfold State.sendSeq
  simp only
  split <;> exact Sparse.get_set_ne _ _ _ h

/-! ### Logging an error -/

@[simp] theorem State.logError_cur (s : State) (sev : BitVec 2) (unit part : BitVec 8) (addr : Word) :
    (s.logError sev unit part addr).cur = s.cur := by
  unfold State.logError; split <;> rfl
@[simp] theorem State.logError_agenda (s : State) (sev : BitVec 2) (unit part : BitVec 8) (addr : Word) :
    (s.logError sev unit part addr).agenda = s.agenda := by
  unfold State.logError; split <;> rfl
@[simp] theorem State.logError_cores (s : State) (sev : BitVec 2) (unit part : BitVec 8) (addr : Word) :
    (s.logError sev unit part addr).cores = s.cores := by
  unfold State.logError; split <;> rfl
@[simp] theorem State.logError_saved (s : State) (sev : BitVec 2) (unit part : BitVec 8) (addr : Word) :
    (s.logError sev unit part addr).saved = s.saved := by
  unfold State.logError; split <;> rfl
@[simp] theorem State.logError_spads (s : State) (sev : BitVec 2) (unit part : BitVec 8) (addr : Word) :
    (s.logError sev unit part addr).spads = s.spads := by
  unfold State.logError; split <;> rfl
@[simp] theorem State.logError_mem (s : State) (sev : BitVec 2) (unit part : BitVec 8) (addr : Word) :
    (s.logError sev unit part addr).mem = s.mem := by
  unfold State.logError; split <;> rfl
@[simp] theorem State.logError_loftGen (s : State) (sev : BitVec 2) (unit part : BitVec 8) (addr : Word) :
    (s.logError sev unit part addr).loftGen = s.loftGen := by
  unfold State.logError; split <;> rfl
@[simp] theorem State.logError_loftKey (s : State) (sev : BitVec 2) (unit part : BitVec 8) (addr : Word) :
    (s.logError sev unit part addr).loftKey = s.loftKey := by
  unfold State.logError; split <;> rfl
@[simp] theorem State.logError_poison (s : State) (sev : BitVec 2) (unit part : BitVec 8) (addr : Word) :
    (s.logError sev unit part addr).poison = s.poison := by
  unfold State.logError; split <;> rfl
@[simp] theorem State.logError_sliceMap (s : State) (sev : BitVec 2) (unit part : BitVec 8) (addr : Word) :
    (s.logError sev unit part addr).sliceMap = s.sliceMap := by
  unfold State.logError; split <;> rfl
@[simp] theorem State.logError_tlb (s : State) (sev : BitVec 2) (unit part : BitVec 8) (addr : Word) :
    (s.logError sev unit part addr).tlb = s.tlb := by
  unfold State.logError; split <;> rfl
@[simp] theorem State.logError_walks (s : State) (sev : BitVec 2) (unit part : BitVec 8) (addr : Word) :
    (s.logError sev unit part addr).walks = s.walks := by
  unfold State.logError; split <;> rfl
@[simp] theorem State.logError_parts (s : State) (sev : BitVec 2) (unit part : BitVec 8) (addr : Word) :
    (s.logError sev unit part addr).parts = s.parts := by
  unfold State.logError; split <;> rfl
@[simp] theorem State.logError_ctxs (s : State) (sev : BitVec 2) (unit part : BitVec 8) (addr : Word) :
    (s.logError sev unit part addr).ctxs = s.ctxs := by
  unfold State.logError; split <;> rfl
@[simp] theorem State.logError_rows (s : State) (sev : BitVec 2) (unit part : BitVec 8) (addr : Word) :
    (s.logError sev unit part addr).rows = s.rows := by
  unfold State.logError; split <;> rfl
@[simp] theorem State.logError_chans (s : State) (sev : BitVec 2) (unit part : BitVec 8) (addr : Word) :
    (s.logError sev unit part addr).chans = s.chans := by
  unfold State.logError; split <;> rfl
@[simp] theorem State.logError_sent (s : State) (sev : BitVec 2) (unit part : BitVec 8) (addr : Word) :
    (s.logError sev unit part addr).sent = s.sent := by
  unfold State.logError; split <;> rfl
@[simp] theorem State.logError_dropped (s : State) (sev : BitVec 2) (unit part : BitVec 8) (addr : Word) :
    (s.logError sev unit part addr).dropped = s.dropped := by
  unfold State.logError; split <;> rfl
@[simp] theorem State.logError_dies (s : State) (sev : BitVec 2) (unit part : BitVec 8) (addr : Word) :
    (s.logError sev unit part addr).dies = s.dies := by
  unfold State.logError; split <;> rfl
@[simp] theorem State.logError_mode (s : State) (sev : BitVec 2) (unit part : BitVec 8) (addr : Word) :
    (s.logError sev unit part addr).mode = s.mode := by
  unfold State.logError; split <;> rfl
@[simp] theorem State.logError_modLimit (s : State) (sev : BitVec 2) (unit part : BitVec 8) (addr : Word) :
    (s.logError sev unit part addr).modLimit = s.modLimit := by
  unfold State.logError; split <;> rfl
@[simp] theorem State.logError_modMeas (s : State) (sev : BitVec 2) (unit part : BitVec 8) (addr : Word) :
    (s.logError sev unit part addr).modMeas = s.modMeas := by
  unfold State.logError; split <;> rfl
@[simp] theorem State.logError_ckMask (s : State) (sev : BitVec 2) (unit part : BitVec 8) (addr : Word) :
    (s.logError sev unit part addr).ckMask = s.ckMask := by
  unfold State.logError; split <;> rfl
@[simp] theorem State.logError_ckState (s : State) (sev : BitVec 2) (unit part : BitVec 8) (addr : Word) :
    (s.logError sev unit part addr).ckState = s.ckState := by
  unfold State.logError; split <;> rfl
@[simp] theorem State.logError_ckReason (s : State) (sev : BitVec 2) (unit part : BitVec 8) (addr : Word) :
    (s.logError sev unit part addr).ckReason = s.ckReason := by
  unfold State.logError; split <;> rfl
@[simp] theorem State.logError_ckMoved (s : State) (sev : BitVec 2) (unit part : BitVec 8) (addr : Word) :
    (s.logError sev unit part addr).ckMoved = s.ckMoved := by
  unfold State.logError; split <;> rfl
@[simp] theorem State.logError_ckImage (s : State) (sev : BitVec 2) (unit part : BitVec 8) (addr : Word) :
    (s.logError sev unit part addr).ckImage = s.ckImage := by
  unfold State.logError; split <;> rfl
@[simp] theorem State.logError_temp (s : State) (sev : BitVec 2) (unit part : BitVec 8) (addr : Word) :
    (s.logError sev unit part addr).temp = s.temp := by
  unfold State.logError; split <;> rfl
@[simp] theorem State.logError_maxTemp (s : State) (sev : BitVec 2) (unit part : BitVec 8) (addr : Word) :
    (s.logError sev unit part addr).maxTemp = s.maxTemp := by
  unfold State.logError; split <;> rfl
@[simp] theorem State.logError_volt (s : State) (sev : BitVec 2) (unit part : BitVec 8) (addr : Word) :
    (s.logError sev unit part addr).volt = s.volt := by
  unfold State.logError; split <;> rfl
@[simp] theorem State.logError_proc (s : State) (sev : BitVec 2) (unit part : BitVec 8) (addr : Word) :
    (s.logError sev unit part addr).proc = s.proc := by
  unfold State.logError; split <;> rfl
@[simp] theorem State.logError_mainOn (s : State) (sev : BitVec 2) (unit part : BitVec 8) (addr : Word) :
    (s.logError sev unit part addr).mainOn = s.mainOn := by
  unfold State.logError; split <;> rfl
@[simp] theorem State.logError_auxOn (s : State) (sev : BitVec 2) (unit part : BitVec 8) (addr : Word) :
    (s.logError sev unit part addr).auxOn = s.auxOn := by
  unfold State.logError; split <;> rfl
@[simp] theorem State.logError_railsCut (s : State) (sev : BitVec 2) (unit part : BitVec 8) (addr : Word) :
    (s.logError sev unit part addr).railsCut = s.railsCut := by
  unfold State.logError; split <;> rfl
@[simp] theorem State.logError_selfRefresh (s : State) (sev : BitVec 2) (unit part : BitVec 8) (addr : Word) :
    (s.logError sev unit part addr).selfRefresh = s.selfRefresh := by
  unfold State.logError; split <;> rfl
@[simp] theorem State.logError_queues (s : State) (sev : BitVec 2) (unit part : BitVec 8) (addr : Word) :
    (s.logError sev unit part addr).queues = s.queues := by
  unfold State.logError; split <;> rfl
@[simp] theorem State.logError_graphs (s : State) (sev : BitVec 2) (unit part : BitVec 8) (addr : Word) :
    (s.logError sev unit part addr).graphs = s.graphs := by
  unfold State.logError; split <;> rfl
@[simp] theorem State.logError_graphNo (s : State) (sev : BitVec 2) (unit part : BitVec 8) (addr : Word) :
    (s.logError sev unit part addr).graphNo = s.graphNo := by
  unfold State.logError; split <;> rfl
@[simp] theorem State.logError_counters (s : State) (sev : BitVec 2) (unit part : BitVec 8) (addr : Word) :
    (s.logError sev unit part addr).counters = s.counters := by
  unfold State.logError; split <;> rfl
@[simp] theorem State.logError_barriers (s : State) (sev : BitVec 2) (unit part : BitVec 8) (addr : Word) :
    (s.logError sev unit part addr).barriers = s.barriers := by
  unfold State.logError; split <;> rfl
@[simp] theorem State.logError_codes (s : State) (sev : BitVec 2) (unit part : BitVec 8) (addr : Word) :
    (s.logError sev unit part addr).codes = s.codes := by
  unfold State.logError; split <;> rfl
@[simp] theorem State.logError_flips (s : State) (sev : BitVec 2) (unit part : BitVec 8) (addr : Word) :
    (s.logError sev unit part addr).flips = s.flips := by
  unfold State.logError; split <;> rfl
@[simp] theorem State.logError_heldHost (s : State) (sev : BitVec 2) (unit part : BitVec 8) (addr : Word) :
    (s.logError sev unit part addr).heldHost = s.heldHost := by
  unfold State.logError; split <;> rfl
@[simp] theorem State.logError_heldCtl (s : State) (sev : BitVec 2) (unit part : BitVec 8) (addr : Word) :
    (s.logError sev unit part addr).heldCtl = s.heldCtl := by
  unfold State.logError; split <;> rfl
@[simp] theorem State.logError_keys (s : State) (sev : BitVec 2) (unit part : BitVec 8) (addr : Word) :
    (s.logError sev unit part addr).keys = s.keys := by
  unfold State.logError; split <;> rfl
@[simp] theorem State.logError_links (s : State) (sev : BitVec 2) (unit part : BitVec 8) (addr : Word) :
    (s.logError sev unit part addr).links = s.links := by
  unfold State.logError; split <;> rfl
@[simp] theorem State.logError_macsec (s : State) (sev : BitVec 2) (unit part : BitVec 8) (addr : Word) :
    (s.logError sev unit part addr).macsec = s.macsec := by
  unfold State.logError; split <;> rfl
@[simp] theorem State.logError_udp (s : State) (sev : BitVec 2) (unit part : BitVec 8) (addr : Word) :
    (s.logError sev unit part addr).udp = s.udp := by
  unfold State.logError; split <;> rfl
@[simp] theorem State.logError_reds (s : State) (sev : BitVec 2) (unit part : BitVec 8) (addr : Word) :
    (s.logError sev unit part addr).reds = s.reds := by
  unfold State.logError; split <;> rfl
@[simp] theorem State.logError_flash (s : State) (sev : BitVec 2) (unit part : BitVec 8) (addr : Word) :
    (s.logError sev unit part addr).flash = s.flash := by
  unfold State.logError; split <;> rfl
@[simp] theorem State.logError_firmware (s : State) (sev : BitVec 2) (unit part : BitVec 8) (addr : Word) :
    (s.logError sev unit part addr).firmware = s.firmware := by
  unfold State.logError; split <;> rfl
@[simp] theorem State.logError_recovery (s : State) (sev : BitVec 2) (unit part : BitVec 8) (addr : Word) :
    (s.logError sev unit part addr).recovery = s.recovery := by
  unfold State.logError; split <;> rfl
@[simp] theorem State.logError_xmss (s : State) (sev : BitVec 2) (unit part : BitVec 8) (addr : Word) :
    (s.logError sev unit part addr).xmss = s.xmss := by
  unfold State.logError; split <;> rfl
@[simp] theorem State.logError_flashing (s : State) (sev : BitVec 2) (unit part : BitVec 8) (addr : Word) :
    (s.logError sev unit part addr).flashing = s.flashing := by
  unfold State.logError; split <;> rfl
@[simp] theorem State.logError_macPn (s : State) (sev : BitVec 2) (unit part : BitVec 8) (addr : Word) :
    (s.logError sev unit part addr).macPn = s.macPn := by
  unfold State.logError; split <;> rfl
@[simp] theorem State.logError_due (s : State) (sev : BitVec 2) (unit part : BitVec 8) (addr : Word) :
    (s.logError sev unit part addr).due = s.due := by
  unfold State.logError; split <;> rfl
@[simp] theorem State.logError_work (s : State) (sev : BitVec 2) (unit part : BitVec 8) (addr : Word) :
    (s.logError sev unit part addr).work = s.work := by
  unfold State.logError; split <;> rfl
@[simp] theorem State.logError_roles (s : State) (sev : BitVec 2) (unit part : BitVec 8) (addr : Word) :
    (s.logError sev unit part addr).roles = s.roles := by
  unfold State.logError; split <;> rfl
@[simp] theorem State.logError_take (s : State) (sev : BitVec 2) (unit part : BitVec 8) (addr : Word) :
    (s.logError sev unit part addr).take = s.take := by
  unfold State.logError; split <;> rfl
@[simp] theorem State.logError_jbase (s : State) (sev : BitVec 2) (unit part : BitVec 8) (addr : Word) :
    (s.logError sev unit part addr).jbase = s.jbase := by
  unfold State.logError; split <;> rfl
@[simp] theorem State.logError_jhead (s : State) (sev : BitVec 2) (unit part : BitVec 8) (addr : Word) :
    (s.logError sev unit part addr).jhead = s.jhead := by
  unfold State.logError; split <;> rfl
@[simp] theorem State.logError_jtail (s : State) (sev : BitVec 2) (unit part : BitVec 8) (addr : Word) :
    (s.logError sev unit part addr).jtail = s.jtail := by
  unfold State.logError; split <;> rfl

/-- An error that is not a corrected one takes the entry at ERRHEAD (R424). -/
theorem State.errEntry_logError (s : State) {sev : BitVec 2} (unit part : BitVec 8) (addr : Word) (h : sev ≠ 1) :
    (s.logError sev unit part addr).errEntry s.errHead.toNat = ⟨addr, 1, (s.part part.toNat).qtime, part, unit, sev, false⟩ := by
  have : (sev == 1) = false := by simpa using h
  unfold State.logError
  simp only [this]
  exact Sparse.get_set_self _ _ _ _

end Sys2Proof.Machine
end

