-- ==== Sys2Proof/Laws/Memory.lean ====
section
/-!
SUPPORT. Every operation that changes memory keeps its canonical form; what writing does to each byte.
-/

namespace Sys2Proof.Machine

/-! ### Canonical tables -/

theorem Sparse.above_of_subset {α : Type} {b : Nat} {m n : Sparse α} (h : ∀ e ∈ n, e ∈ m) (hm : Sparse.above b m = true) :
    Sparse.above b n = true := by
  unfold Sparse.above at hm ⊢
  rw [List.all_eq_true] at hm ⊢
  exact fun e he => hm e (h e he)

theorem Sparse.rising_filter {α : Type} (m : Sparse α) (p : Nat × α → Bool) (h : m.rising = true) :
    Sparse.rising (m.filter p) = true := by
  induction m with
  | nil => rfl
  | cons z t ih =>
    obtain ⟨a, x⟩ := z
    rw [Sparse.rising_cons, Bool.and_eq_true] at h
    rw [List.filter_cons]
    split
    · rw [Sparse.rising_cons, Bool.and_eq_true]
      exact ⟨Sparse.above_of_subset (fun e he => List.mem_of_mem_filter he) h.1, ih h.2⟩
    · exact ih h.2

theorem Sparse.canonical_filter {α : Type} [DecidableEq α] (d : α) (m : Sparse α) (p : Nat × α → Bool)
    (h : Sparse.canonical d m = true) : Sparse.canonical d (m.filter p) = true := by
  unfold Sparse.canonical at h ⊢
  rw [Bool.and_eq_true] at h ⊢
  refine ⟨Sparse.rising_filter m p h.1, ?_⟩
  rw [List.all_eq_true] at h ⊢
  exact fun e he => h.2 e (List.mem_of_mem_filter he)

theorem Sparse.eraseRange_eq_filter {α : Type} (m : Sparse α) (k n : Nat) :
    m.eraseRange k n = m.filter fun e => !(k ≤ e.1 && e.1 < k + n) := by
  induction m with
  | nil => rfl
  | cons z t ih =>
    obtain ⟨a, x⟩ := z
    simp only [Sparse.eraseRange, List.filter_cons, ih]
    by_cases h : (k ≤ a && a < k + n) = true <;> simp [h]

theorem Sparse.canonical_eraseRange {α : Type} [DecidableEq α] (d : α) (m : Sparse α) (k n : Nat)
    (h : Sparse.canonical d m = true) : Sparse.canonical d (m.eraseRange k n) = true := by
  rw [Sparse.eraseRange_eq_filter]
  exact Sparse.canonical_filter d m _ h

theorem Sparse.get_eraseRange {α : Type} (d : α) (m : Sparse α) (k n j : Nat) :
    Sparse.get d (m.eraseRange k n) j = if k ≤ j ∧ j < k + n then d else Sparse.get d m j := by
  induction m with
  | nil => simp [Sparse.eraseRange, Sparse.get]
  | cons z t ih =>
    obtain ⟨a, x⟩ := z
    simp only [Sparse.eraseRange]
    split
    · rename_i h
      simp only [Bool.and_eq_true, decide_eq_true_eq] at h
      rw [ih]
      by_cases hj : a = j
      · subst hj; simp [h]
      · simp [Sparse.get, hj]
    · rename_i h
      simp only [Bool.and_eq_true, decide_eq_true_eq, not_and, not_lt] at h
      simp only [Sparse.get, ih]
      by_cases hj : a = j
      · subst hj; simp only [if_true]; split
        · omega
        · rfl
      · simp [hj]

theorem Sparse.get_filter {α : Type} (d : α) (m : Sparse α) (p : Nat → Bool) (j : Nat) :
    Sparse.get d (m.filter fun e => p e.1) j = if p j then Sparse.get d m j else d := by
  induction m with
  | nil => simp [Sparse.get]
  | cons z t ih =>
    obtain ⟨a, x⟩ := z
    rw [List.filter_cons]
    by_cases hj : a = j
    · subst hj
      by_cases hp : p a = true <;> simp [hp, Sparse.get, ih]
    · split
      · simp [Sparse.get, hj, ih]
      · simp [Sparse.get, hj, ih]

theorem Sparse.canonical_foldl_put {α β : Type} [DecidableEq α] (d : α) (xs : List β) (f : β → Nat) (g : β → α) (m : Sparse α)
    (h : Sparse.canonical d m = true) : Sparse.canonical d (xs.foldl (fun m e => Sparse.put d m (f e) (g e)) m) = true := by
  induction xs generalizing m with
  | nil => exact h
  | cons x t ih => exact ih _ (Sparse.canonical_put d m (f x) (g x) h)

/-! ### Memory -/

theorem memByte_memPut (m : List Host.Cell) (a x : Nat) (b : Byte) :
    memByte (memPut m a b) x = if x = a then b else memByte m x := Sparse.get_put unlisted m a x b

theorem Memory.wf_memPut (m : List Host.Cell) (a : Nat) (b : Byte) (h : Memory.wf m = true) : Memory.wf (memPut m a b) = true :=
  Sparse.canonical_put unlisted m a b h

theorem Memory.wf_filter (m : List Host.Cell) (p : Host.Cell → Bool) (h : Memory.wf m = true) : Memory.wf (m.filter p) = true :=
  Sparse.canonical_filter unlisted m p h

theorem Memory.wf_eraseRange (m : List Host.Cell) (k n : Nat) (h : Memory.wf m = true) :
    Memory.wf (Sparse.eraseRange m k n) = true := Sparse.canonical_eraseRange unlisted m k n h

theorem Memory.wf_foldl_put {β : Type} (xs : List β) (f : β → Nat) (g : β → Byte) (m : List Host.Cell)
    (h : Memory.wf m = true) : Memory.wf (xs.foldl (fun m e => Sparse.put unlisted m (f e) (g e)) m) = true :=
  Sparse.canonical_foldl_put unlisted xs f g m h

theorem Memory.wf_mergeCells (xs m : List Host.Cell) (h : Memory.wf m = true) : Memory.wf (mergeCells xs m) = true := by
  induction xs generalizing m with
  | nil => exact h
  | cons x t ih => exact ih _ (Memory.wf_memPut m x.1 x.2 h)

/-- The state after reset has its memory in canonical form. -/
theorem State.reset_memOk : State.reset.memOk = true := rfl

theorem State.memOk_of_mem {s u : State} (h : u.mem = s.mem) (hs : s.memOk = true) : u.memOk = true := by
  unfold State.memOk
  rw [h]
  exact hs

/-- Writing bytes keeps the canonical form. -/
theorem State.memOk_putBytes (s : State) (p : Nat) (bs : List Byte) (h : s.memOk = true) : (s.putBytes p bs).memOk = true := by
  induction bs generalizing s p with
  | nil => exact h
  | cons b t ih => exact ih _ _ (Memory.wf_memPut s.mem (s.storage p) b h)

theorem State.wakeCore_mem (s : State) (c : Nat) : (s.wakeCore c).mem = s.mem := by
  unfold State.wakeCore
  split <;> rfl

theorem State.dropTlb_mem (s : State) (stale : TlbEntry → Bool) : (s.dropTlb stale).mem = s.mem := by
  unfold State.dropTlb
  dsimp only
  split <;> rfl

theorem State.dropTlb_sliceMap (s : State) (stale : TlbEntry → Bool) : (s.dropTlb stale).sliceMap = s.sliceMap := by
  unfold State.dropTlb
  dsimp only
  split <;> rfl

theorem State.dropTlb_keys (s : State) (stale : TlbEntry → Bool) : (s.dropTlb stale).keys = s.keys := by
  unfold State.dropTlb
  dsimp only
  split <;> rfl

theorem State.dropTlb_loftKey (s : State) (stale : TlbEntry → Bool) : (s.dropTlb stale).loftKey = s.loftKey := by
  unfold State.dropTlb
  dsimp only
  split <;> rfl

theorem State.dropTlb_loftGen (s : State) (stale : TlbEntry → Bool) : (s.dropTlb stale).loftGen = s.loftGen := by
  unfold State.dropTlb
  dsimp only
  split <;> rfl

/-- What bytes written leave in memory depends on memory and the slice map alone. -/
theorem State.putBytes_mem_congr {s u : State} (hm : u.mem = s.mem) (hs : u.sliceMap = s.sliceMap) (p : Nat) (bs : List Byte) :
    (u.putBytes p bs).mem = (s.putBytes p bs).mem := by
  induction bs generalizing s u p with
  | nil => exact hm
  | cons b t ih =>
    have h : memPut u.mem (u.storage p) b = memPut s.mem (s.storage p) b := by
      unfold State.storage
      rw [hm, hs]
    exact ih (s := { s with mem := memPut s.mem (s.storage p) b }) (u := { u with mem := memPut u.mem (u.storage p) b }) h hs (p + 1)

theorem storage_of_not_loft (s : State) {p : Nat} (h : isLoft p = false) : s.storage p = p := by
  unfold State.storage
  simp [h]

/-- Every update that leaves the slice map alone leaves storage addresses alone. -/
theorem storage_congr {s u : State} (h : u.sliceMap = s.sliceMap) (p : Nat) : u.storage p = s.storage p := by
  unfold State.storage
  rw [h]

/-- Coming under another key keeps the canonical form. -/
theorem State.memOk_rekey (s : State) (ls : List Nat) (h : s.memOk = true) : (s.rekey ls).memOk = true := by
  induction ls generalizing s with
  | nil => exact h
  | cons l t ih =>
    unfold State.rekey
    split
    · exact ih s h
    · refine ih _ ?_
      unfold State.memOk
      dsimp only
      split
      · exact Memory.wf_foldl_put (List.range 64) _ _ s.mem h
      · exact h

/-- Places outside the lofts name no key. -/
theorem State.drawOf_of_not_loft (s : State) {p : Nat} (h : isLoft p = false) : s.drawOf p = none := by
  simp [State.drawOf, placeKey, h]

/-- Lines outside the lofts come under no key. -/
theorem State.rekey_of_not_loft (s : State) (ls : List Nat) (h : ∀ l ∈ ls, isLoft (64 * l) = false) : s.rekey ls = s := by
  induction ls with
  | nil => rfl
  | cons l t ih =>
    unfold State.rekey
    rw [State.drawOf_of_not_loft s (h l (by simp))]
    exact ih fun k hk => h k (by simp [hk])

/-- A byte outside the lofts reads as memory holds it. -/
theorem State.byteAt_of_not_loft (s : State) {p : Nat} (h : isLoft p = false) : s.byteAt p = memByte s.mem p := by
  unfold State.byteAt
  rw [State.drawOf_of_not_loft s h, storage_of_not_loft s h]
  rfl

/-- Two states with the same memory, slice map, keys and loft lines are told apart by no rekeying. -/
theorem State.rekey_congr {s u : State} (hm : u.mem = s.mem) (hs : u.sliceMap = s.sliceMap) (hk : u.keys = s.keys)
    (hl : u.loftKey = s.loftKey) (hg : u.loftGen = s.loftGen) (ls : List Nat) :
    (u.rekey ls).mem = (s.rekey ls).mem ∧ (u.rekey ls).sliceMap = (s.rekey ls).sliceMap := by
  induction ls generalizing s u with
  | nil => exact ⟨hm, hs⟩
  | cons l t ih =>
    have hd : u.drawOf (64 * l) = s.drawOf (64 * l) := by unfold State.drawOf; rw [hk]
    have ha : u.storage (64 * l) = s.storage (64 * l) := storage_congr hs _
    have hf : ∀ d a, u.foreignLine d a = s.foreignLine d a := fun d a => by unfold State.foreignLine; rw [hl]
    have hr : ∀ o a, u.readUnder o a = s.readUnder o a := fun o a => by
      unfold State.readUnder State.mask State.foreignLine
      rw [hm, hl, hg]
    unfold State.rekey
    rw [hd]
    split
    · exact ih hm hs hk hl hg
    · refine ih ?_ hs hk ?_ hg
      · simp only [ha, hf, hr, hm]
      · simp only [ha, hl]

/-- A store changes memory as its bytes alone do, once its loft lines are under its key. -/
theorem State.write_mem (s : State) (p : Nat) (bs : List Byte) :
    (s.write p bs).mem = ((s.rekey (linesOf p bs.length)).putBytes p bs).mem := by
  have hd := State.rekey_congr (State.dropTlb_mem s fun e => e.lines.any fun l => (linesOf (bare p) bs.length).contains l)
    (State.dropTlb_sliceMap s _) (State.dropTlb_keys s _) (State.dropTlb_loftKey s _) (State.dropTlb_loftGen s _)
    (linesOf p bs.length)
  rw [← State.putBytes_mem_congr hd.1 hd.2 p bs]
  unfold State.write
  dsimp only
  split
  · rw [State.wakeCore_mem]; rfl
  · rfl

/-- A store that performs keeps the canonical form. -/
theorem State.memOk_write (s : State) (p : Nat) (bs : List Byte) (h : s.memOk = true) : (s.write p bs).memOk = true := by
  unfold State.memOk
  rw [State.write_mem]
  exact State.memOk_putBytes _ p bs (State.memOk_rekey s _ h)

theorem State.memOk_writeNat (s : State) (p v n : Nat) (h : s.memOk = true) : (s.writeNat p v n).memOk = true :=
  State.memOk_write s p _ h

/-- Exchanging a scratchpad bank keeps the canonical form. -/
theorem State.memOk_moveBank (s : State) (src dst b : Nat) (h : s.memOk = true) : (s.moveBank src dst b).memOk = true :=
  Memory.wf_foldl_put _ (fun e : Host.Cell => e.1 - src + dst) (fun e => e.2) _ (Memory.wf_filter s.mem _ h)

/-- Moving a page keeps the canonical form. -/
theorem State.memOk_copyStorage (s : State) (src dst n : Nat) (h : s.memOk = true) : (s.copyStorage src dst n).memOk = true :=
  Memory.wf_foldl_put _ (fun e : Host.Cell => dst + (e.1 - src)) (fun e => e.2) _ (Memory.wf_eraseRange s.mem dst n h)

/-- Clearing storage keeps the canonical form. -/
theorem State.memOk_zeroStorage (s : State) (a n : Nat) (h : s.memOk = true) : (s.zeroStorage a n).memOk = true :=
  Memory.wf_eraseRange s.mem a n h

theorem State.memOk_clearLoft (s : State) (d : Nat) (h : s.memOk = true) : (s.clearLoft d).memOk = true :=
  Memory.wf_eraseRange s.mem _ _ h

/-- Gating a die keeps the canonical form. -/
theorem State.memOk_loseDie (s : State) (d : Nat) (h : s.memOk = true) : (s.loseDie d).memOk = true :=
  Memory.wf_eraseRange _ _ _ (Memory.wf_eraseRange _ _ _ (Memory.wf_eraseRange _ _ _ (State.memOk_clearLoft s d h)))

/-- Loading a task's code keeps the canonical form. -/
theorem State.memOk_loadText (s : State) (core : Nat) (text : List Byte) (h : s.memOk = true) :
    (s.loadText core text).memOk = true :=
  State.memOk_putBytes _ _ _ (Memory.wf_eraseRange s.mem _ _ h)

/-- A device reset keeps the canonical form. -/
theorem State.memOk_resetDevice (s : State) (h : s.memOk = true) : s.resetDevice.memOk = true := by
  have hm : s.breakFlash.mem = s.mem := by unfold State.breakFlash; split <;> rfl
  exact Memory.wf_filter _ _ (by rw [hm]; exact h)

/-! ### What writing does to each byte -/

theorem State.putBytes_sliceMap (s : State) (p : Nat) (bs : List Byte) : (s.putBytes p bs).sliceMap = s.sliceMap := by
  induction bs generalizing s p with
  | nil => rfl
  | cons b t ih => exact ih _ _

/-- A byte after bytes have been written at a place below the lofts. -/
theorem State.memByte_putBytes (s : State) (p : Nat) (bs : List Byte) (hp : ∀ k, k < bs.length → isLoft (p + k) = false) (x : Nat) :
    memByte (s.putBytes p bs).mem x = if p ≤ x ∧ x < p + bs.length then bs.getD (x - p) 0 else memByte s.mem x := by
  induction bs generalizing s p with
  | nil =>
    rw [if_neg (by simp)]
    rfl
  | cons b t ih =>
    have h0 : s.storage p = p := storage_of_not_loft s (by simpa using hp 0 (by simp))
    have ht : ∀ k, k < t.length → isLoft (p + 1 + k) = false := fun k hk => by
      have := hp (k + 1) (by simpa using hk)
      rwa [show p + 1 + k = p + (k + 1) from by omega]
    simp only [State.putBytes, h0]
    rw [ih _ (p + 1) ht, memByte_memPut]
    by_cases hx : x = p
    · subst hx; simp
    · by_cases h1 : p + 1 ≤ x ∧ x < p + 1 + t.length
      · rw [if_pos h1, if_pos (by simp only [List.length_cons]; omega)]
        obtain ⟨j, rfl⟩ : ∃ j, x = p + 1 + j := ⟨x - (p + 1), by omega⟩
        rw [show p + 1 + j - (p + 1) = j from by omega, show p + 1 + j - p = j + 1 from by omega]
        rfl
      · rw [if_neg h1, if_neg hx, if_neg (by simp only [List.length_cons]; omega)]

end Sys2Proof.Machine
end

