-- ==== Sys2Proof/Tests/Slice0.lean ====
section
/-!
SUPPORT. The author's tests: the words of the manual's encodings and what the decoder reads from them; terms and words
that are refused; the machine after reset; and, for every obligation with hypotheses, a state and operands that meet them
(test_witness_…).
-/

namespace Sys2Proof.Tests
set_option Elab.async false
open Sys2Proof Sys2Proof.Machine

/-! ### Encodings -/

/-- The decoder reads each list of words as its instruction. -/
def reads (xs : List (Half × Half × Half × Half × Instr)) : Bool :=
  xs.all fun x => decide (decodeWords x.1 x.2.1 x.2.2.1 x.2.2.2.1 = .ok x.2.2.2.2)

/-- The decoder reads each schedule word as its operation. -/
def columnReads (xs : List (Word × Instr)) : Bool := xs.all fun x => decide (decodeColumn x.1 = .ok x.2)

/-- Register arithmetic, wA = w1, wB = w30, wC = g2 (R152, R153, R160). -/
theorem test_decode_arithmetic : reads
  [
    (0xBD100, 0, 0, 0, Instr.add (.w 1) (.w 30) (.g 2)),
    (0xBD101, 0, 0, 0, Instr.sub (.w 1) (.w 30) (.g 2)),
    (0xBD102, 0, 0, 0, Instr.mul (.w 1) (.w 30) (.g 2)),
    (0xBD103, 0, 0, 0, Instr.mulhs (.w 1) (.w 30) (.g 2)),
    (0xBD104, 0, 0, 0, Instr.mulhu (.w 1) (.w 30) (.g 2)),
    (0xBD105, 0, 0, 0, Instr.divs (.w 1) (.w 30) (.g 2)),
    (0xBD106, 0, 0, 0, Instr.divu (.w 1) (.w 30) (.g 2)),
    (0xBD107, 0, 0, 0, Instr.rems (.w 1) (.w 30) (.g 2)),
    (0xBD108, 0, 0, 0, Instr.remu (.w 1) (.w 30) (.g 2)),
    (0xBD109, 0, 0, 0, Instr.min (.w 1) (.w 30) (.g 2)),
    (0xBD10A, 0, 0, 0, Instr.max (.w 1) (.w 30) (.g 2)),
    (0xBD10B, 0, 0, 0, Instr.minu (.w 1) (.w 30) (.g 2)),
    (0xBD10C, 0, 0, 0, Instr.maxu (.w 1) (.w 30) (.g 2))] = true := by decide

/-- Bitwise operations, shifts and comparisons (R160). -/
theorem test_decode_logic : reads
  [
    (0x20BD100, 0, 0, 0, Instr.and (.w 1) (.w 30) (.g 2)),
    (0x20BD101, 0, 0, 0, Instr.or (.w 1) (.w 30) (.g 2)),
    (0x20BD102, 0, 0, 0, Instr.xor (.w 1) (.w 30) (.g 2)),
    (0x20BD103, 0, 0, 0, Instr.andn (.w 1) (.w 30) (.g 2)),
    (0x20BD104, 0, 0, 0, Instr.shl (.w 1) (.w 30) (.g 2)),
    (0x20BD105, 0, 0, 0, Instr.shr (.w 1) (.w 30) (.g 2)),
    (0x20BD106, 0, 0, 0, Instr.sra (.w 1) (.w 30) (.g 2)),
    (0x20BD107, 0, 0, 0, Instr.rol (.w 1) (.w 30) (.g 2)),
    (0x40BD100, 0, 0, 0, Instr.seq (.w 1) (.w 30) (.g 2)),
    (0x40BD101, 0, 0, 0, Instr.slt (.w 1) (.w 30) (.g 2)),
    (0x40BD102, 0, 0, 0, Instr.sltu (.w 1) (.w 30) (.g 2)),
    (0x40BD103, 0, 0, 0, Instr.sel (.w 1) (.w 30) (.g 2))] = true := by decide

/-- Operations of one source (R160, R174). -/
theorem test_decode_unary : reads
  [
    (0x50BE004, 0, 0, 0, Instr.clz (.g 1) (.w 31)),
    (0x50BE005, 0, 0, 0, Instr.ctz (.g 1) (.w 31)),
    (0x50BE006, 0, 0, 0, Instr.popc (.g 1) (.w 31)),
    (0x50BE007, 0, 0, 0, Instr.mov (.g 1) (.w 31)),
    (0x4188008, 0, 0, 0, Instr.exts (.w 3) (.w 4) .w8),
    (0x4188088, 0, 0, 0, Instr.exts (.w 3) (.w 4) .w16),
    (0x4188108, 0, 0, 0, Instr.exts (.w 3) (.w 4) .w32),
    (0x4188009, 0, 0, 0, Instr.extz (.w 3) (.w 4) .w8),
    (0x4188089, 0, 0, 0, Instr.extz (.w 3) (.w 4) .w16),
    (0x4188109, 0, 0, 0, Instr.extz (.w 3) (.w 4) .w32)] = true := by decide

/-- Immediates and LEA (R154, R155, R175, R176). -/
theorem test_decode_immediate : reads
  [
    (0x202DE000, 0x80000001, 0, 0, Instr.addi (.w 5) (.g 15) 0x80000001),
    (0x202DE001, 0x80000001, 0, 0, Instr.andi (.w 5) (.g 15) 0x80000001),
    (0x202DE002, 0x80000001, 0, 0, Instr.ori (.w 5) (.g 15) 0x80000001),
    (0x202DE003, 0x80000001, 0, 0, Instr.xori (.w 5) (.g 15) 0x80000001),
    (0x2028C004, 0x3F, 0, 0, Instr.shli (.w 5) (.w 6) 63),
    (0x2028C005, 0x3F, 0, 0, Instr.shri (.w 5) (.w 6) 63),
    (0x2028C006, 0x3F, 0, 0, Instr.srai (.w 5) (.w 6) 63),
    (0x2028C007, 0x3F, 0, 0, Instr.roli (.w 5) (.w 6) 63),
    (0x20380008, 0xDEADBEEF, 0, 0, Instr.limm (.w 7) 0xDEADBEEF),
    (0x20380009, 0xDEADBEEF, 0, 0, Instr.limmh (.w 7) 0xDEADBEEF),
    (0x22084182, 0xFFFFFFFC, 0, 0, Instr.lea (.w 1) (.w 2) (.w 3) .b4 0xFFFFFFFC)] = true := by decide

/-- Loads and stores: size, order and scope in FN (R155, R160). -/
theorem test_decode_memory : reads
  [
    (0x40085034, 0x10, 0, 0, Instr.ldb (.w 1) ⟨.w 2, .g 0, .acq, .dev, 16⟩),
    (0x40085035, 0x10, 0, 0, Instr.ldh (.w 1) ⟨.w 2, .g 0, .acq, .dev, 16⟩),
    (0x40085036, 0x10, 0, 0, Instr.ldw (.w 1) ⟨.w 2, .g 0, .acq, .dev, 16⟩),
    (0x40085037, 0x10, 0, 0, Instr.ldd (.w 1) ⟨.w 2, .g 0, .acq, .dev, 16⟩),
    (0x42085000, 0x10, 0, 0, Instr.ldbu (.w 1) ⟨.w 2, .g 0, .plain, .core, 16⟩),
    (0x42085001, 0x10, 0, 0, Instr.ldhu (.w 1) ⟨.w 2, .g 0, .plain, .core, 16⟩),
    (0x42085002, 0x10, 0, 0, Instr.ldwu (.w 1) ⟨.w 2, .g 0, .plain, .core, 16⟩),
    (0x44085048, 0x10, 0, 0, Instr.stb (.w 1) ⟨.w 2, .g 0, .rel, .sys, 16⟩),
    (0x44085049, 0x10, 0, 0, Instr.sth (.w 1) ⟨.w 2, .g 0, .rel, .sys, 16⟩),
    (0x4408504A, 0x10, 0, 0, Instr.stw (.w 1) ⟨.w 2, .g 0, .rel, .sys, 16⟩),
    (0x4408504B, 0x10, 0, 0, Instr.std (.w 1) ⟨.w 2, .g 0, .rel, .sys, 16⟩),
    (0x46F85016, 0x10, 0, 0, Instr.ldv 31 ⟨.w 2, .g 0, .acq, .clu, 16⟩),
    (0x48F8502A, 0x10, 0, 0, Instr.stv 31 ⟨.w 2, .g 0, .rel, .die, 16⟩)] = true := by decide

/-- Atomics: variant in FN[1], size in FN[0] (R155, R160). -/
theorem test_decode_atomics : reads
  [
    (0x600841CD, 0x8, 0, 0, Instr.aadd (.w 1) ⟨true, .w 2, .w 3, .acqRel, .sys, 8⟩),
    (0x600841CE, 0x8, 0, 0, Instr.axchg (.w 1) ⟨false, .w 2, .w 3, .acqRel, .sys, 8⟩),
    (0x620841CD, 0x8, 0, 0, Instr.aand (.w 1) ⟨true, .w 2, .w 3, .acqRel, .sys, 8⟩),
    (0x620841CE, 0x8, 0, 0, Instr.aor (.w 1) ⟨false, .w 2, .w 3, .acqRel, .sys, 8⟩),
    (0x640841CD, 0x8, 0, 0, Instr.axor (.w 1) ⟨true, .w 2, .w 3, .acqRel, .sys, 8⟩),
    (0x640841CE, 0x8, 0, 0, Instr.acas (.w 1) ⟨false, .w 2, .w 3, .acqRel, .sys, 8⟩),
    (0x660841CD, 0x8, 0, 0, Instr.amin (.w 1) ⟨true, .w 2, .w 3, .acqRel, .sys, 8⟩),
    (0x660841CE, 0x8, 0, 0, Instr.aminu (.w 1) ⟨false, .w 2, .w 3, .acqRel, .sys, 8⟩),
    (0x680841CD, 0x8, 0, 0, Instr.amax (.w 1) ⟨true, .w 2, .w 3, .acqRel, .sys, 8⟩),
    (0x680841CE, 0x8, 0, 0, Instr.amaxu (.w 1) ⟨false, .w 2, .w 3, .acqRel, .sys, 8⟩)] = true := by decide

/-- WAITA, FENCE and CBAR (R160). -/
theorem test_decode_waits : reads
  [
    (0x6A085033, 0x8, 0, 0, Instr.waita (.w 1) (.w 2) .dev 8),
    (0x6E008780, 0, 0, 0, Instr.fence 15 .sys),
    (0x6E000001, 0, 0, 0, Instr.cbar)] = true := by decide

/-- Transfers (R156, R160). -/
theorem test_decode_control_flow : reads
  [
    (0x7048FFFD, 0, 0, 0, Instr.bez (.w 9) ⟨0x7FF, 29⟩),
    (0x7049FFFD, 0, 0, 0, Instr.bnz (.w 9) ⟨0x7FF, 29⟩),
    (0x704AFFFD, 0, 0, 0, Instr.bltz (.w 9) ⟨0x7FF, 29⟩),
    (0x704BFFFD, 0, 0, 0, Instr.bgez (.w 9) ⟨0x7FF, 29⟩),
    (0x7004FFFD, 0, 0, 0, Instr.jmp ⟨0x7FF, 29⟩),
    (0x72040020, 0, 0, 0, Instr.call ⟨1, 0⟩),
    (0x74012000, 0, 0, 0, Instr.jr (.w 9)),
    (0x74012001, 0, 0, 0, Instr.callr (.w 9)),
    (0x74000002, 0, 0, 0, Instr.ret),
    (0x76000000, 0x4D, 0, 0, Instr.trap 77),
    (0x76000001, 0xFFFFFFFF, 0, 0, Instr.endTask 0xFFFFFFFF)] = true := by decide

/-- binary32 lanes; the first words are the example of R192 (R157, R160, R192). -/
theorem test_decode_vector_float : reads
  [
    (0x80084180, 0x20020000, 0, 0, Instr.vadd 1 2 3 ⟨1, false, .rtz⟩),
    (0x80084F80, 0xF0060000, 0, 0, Instr.vadd 1 2 31 ⟨7, true, .rdn⟩),
    (0x80084F81, 0xF0060000, 0, 0, Instr.vsub 1 2 31 ⟨7, true, .rdn⟩),
    (0x80084F82, 0xF0060000, 0, 0, Instr.vmul 1 2 31 ⟨7, true, .rdn⟩),
    (0x80084F83, 0xF0060000, 0, 0, Instr.vfma 1 2 31 ⟨7, true, .rdn⟩),
    (0x80084F84, 0xF0060000, 0, 0, Instr.vfms 1 2 31 ⟨7, true, .rdn⟩),
    (0x80084F85, 0xF0060000, 0, 0, Instr.vmin 1 2 31 ⟨7, true, .rdn⟩),
    (0x80084F86, 0xF0060000, 0, 0, Instr.vmax 1 2 31 ⟨7, true, .rdn⟩),
    (0x80084007, 0xF0060000, 0, 0, Instr.vabs 1 2 ⟨7, true, .rdn⟩),
    (0x80084008, 0xF0060000, 0, 0, Instr.vneg 1 2 ⟨7, true, .rdn⟩),
    (0x80084F89, 0xF0060000, 0, 0, Instr.vdiv 1 2 31 ⟨7, true, .rdn⟩),
    (0x8008400A, 0xF0060000, 0, 0, Instr.vsqrt 1 2 ⟨7, true, .rdn⟩),
    (0x8008400B, 0xF0060000, 0, 0, Instr.vrcp 1 2 ⟨7, true, .rdn⟩),
    (0x8008400C, 0xF0060000, 0, 0, Instr.vrsq 1 2 ⟨7, true, .rdn⟩)] = true := by decide

/-- Comparisons, selection, bitwise and shifts (R193 to R195). -/
theorem test_decode_vector_select : reads
  [
    (0x83884180, 0x50000001, 0, 0, Instr.vcmpeq 1 2 3 2 true true),
    (0x83884181, 0x50000001, 0, 0, Instr.vcmplt 1 2 3 2 true true),
    (0x83884182, 0x50000001, 0, 0, Instr.vcmple 1 2 3 2 true true),
    (0x82084183, 0x40000000, 0, 0, Instr.vsel 1 2 3 2),
    (0x82084184, 0x40000000, 0, 0, Instr.vand 1 2 3 2),
    (0x82084185, 0x40000000, 0, 0, Instr.vor 1 2 3 2),
    (0x82084186, 0x40000000, 0, 0, Instr.vxor 1 2 3 2),
    (0x82084187, 0x40000000, 0, 0, Instr.vshl 1 2 (.reg 3) 2),
    (0x82084188, 0x40000000, 0, 0, Instr.vshr 1 2 (.reg 3) 2),
    (0x82084189, 0x40000000, 0, 0, Instr.vsra 1 2 (.reg 3) 2),
    (0x82084007, 0x1001F, 0, 0, Instr.vshl 1 2 (.imm 31) 0),
    (0x82084008, 0x1001F, 0, 0, Instr.vshr 1 2 (.imm 31) 0),
    (0x82084009, 0x1001F, 0, 0, Instr.vsra 1 2 (.imm 31) 0)] = true := by decide

/-- Integer lanes, permutation, reduction, moves, tags, flags, conversion, draws (R196 to R202); the last but one is the example of R201. -/
theorem test_decode_vector_move : reads
  [
    (0x84084180, 0x20000002, 0, 0, Instr.viadd 1 2 3 .unsigned 1),
    (0x84084181, 0x20000002, 0, 0, Instr.visub 1 2 3 .unsigned 1),
    (0x84084182, 0x20000002, 0, 0, Instr.vimul 1 2 3 .unsigned 1),
    (0x86084180, 0x20000000, 0, 0, Instr.vperm 1 2 3 1),
    (0x86084001, 0x20020000, 0, 0, Instr.vredadd 1 2 ⟨1, false, .rtz⟩ 0),
    (0x86084002, 0x20020000, 0, 0, Instr.vredmax 1 2 ⟨1, false, .rtz⟩ 0),
    (0x86084003, 0x2000000F, 0, 0, Instr.vbcast 1 2 15 1),
    (0x86084004, 0x20000000, 0, 0, Instr.vmov 1 2 1),
    (0x860C2005, 0x9, 0, 0, Instr.vins 1 (.g 1) 9),
    (0x87084006, 0x19, 0, 0, Instr.vext (.g 1) 2 true 9),
    (0x88084000, 0x3F00000, 0, 0, Instr.vtag 1 2 63),
    (0x88080001, 0x6000000C, 0, 0, Instr.vflags (.w 1) 4 true 3),
    (0xC0084000, 0x9C8A003A, 0, 0, Instr.vcvt 1 2 8 ⟨4, true, .stoch⟩ .trap 7 2),
    (0xC0304000, 0x800000, 0, 0, Instr.vcvt 6 2 8 ⟨0, false, .rne⟩ .sat 0 0),
    (0xC2300000, 0xA0000000, 0, 0, Instr.vrng 6 5)] = true := by decide

/-- Commands of the engines; LDT and FSTART are the examples of R203 (R203, R207). -/
theorem test_decode_engines : reads
  [
    (0x4A084000, 0x1, 0, 0, Instr.ldt 1 2 .core .t8),
    (0x4A084000, 0x42, 0, 0, Instr.ldt 1 2 .sys .t16),
    (0xE019E040, 0xB0000, 0x7, 0, Instr.sbind 3 15 0 ⟨true, .dev, .none, false, false, false, false, false, 0⟩ 7 0),
    (0xE0102240, 0x2000, 0x1, 0, Instr.sbind 2 1 4 ⟨false, .core, .none, true, false, false, false, false, 0⟩ 1 0),
    (0xE0082040, 0x9F80, 0x1, 0x5, Instr.sbind 1 1 0 ⟨false, .core, .t16, false, true, true, true, true, 3⟩ 1 5),
    (0xE016E001, 0x64, 0, 0, Instr.sgate 2 7 100),
    (0xE0080002, 0x3, 0, 0, Instr.swait 1 .dev),
    (0xE2380000, 0xFFFF, 0, 0, Instr.fload 7 0xFFFF),
    (0xE2180001, 0, 0, 0, Instr.fstart 3),
    (0xE2000002, 0x2, 0, 0, Instr.fbar .die),
    (0xE2000003, 0x181, 0, 0, Instr.fwait .clu 0x81),
    (0xE2300004, 0, 0, 0, Instr.frestart 6),
    (0xE3080005, 0xA05, 0, 0, Instr.fqry (.g 1) 5 10),
    (0xE40841C0, 0x6, 0x5, 0xFFFFFFF8, Instr.acopy (.w 1) (.w 2) (.w 3) (.w 5) none .dev 0xFFFFFFF8),
    (0xE40841C0, 0x9, 0x185, 0, Instr.acopy (.w 1) (.w 2) (.w 3) (.w 5) (some (.w 6)) .sys 0),
    (0xE4004181, 0x10, 0x1, 0, Instr.binit (.w 2) (.w 3) 16 .clu),
    (0xE4004182, 0x10, 0x2, 0, Instr.bexpect (.w 2) (.w 3) 16 .die),
    (0xE4004183, 0x10, 0x4, 0, Instr.bwait (.w 2) (.w 3) 16 .sys)] = true := by decide

/-- Row slots, control registers and system instructions (R160, R219, R221); the control-register number is B:C. -/
theorem test_decode_system : reads
  [
    (0xF0084000, 0, 0, 0, Instr.rowopen (.w 1) (.w 2)),
    (0xF0084001, 0, 0, 0, Instr.rowholdKeep (.w 1) (.w 2)),
    (0xF0084002, 0, 0, 0, Instr.rowholdDrop (.w 1) (.w 2)),
    (0xF0084003, 0, 0, 0, Instr.rowrel (.w 1) (.w 2)),
    (0xF0084004, 0, 0, 0, Instr.rowqry (.w 1) (.w 2)),
    (0xF80A5A00, 0, 0, 0, Instr.crd (.w 1) 0x4B4),
    (0xF80A5A01, 0, 0, 0, Instr.cwr (.w 1) 0x4B4),
    (0xFA000000, 0, 0, 0, Instr.rett),
    (0xFA084001, 0, 0, 0, Instr.rqrd (.w 1) (.w 2)),
    (0xFA004002, 0, 0, 0, Instr.rqinj (.w 2)),
    (0xFA004004, 0, 0, 0, Instr.idle (.w 2)),
    (0xFA000005, 0, 0, 0, Instr.brk)] = true := by decide

/-- Integer words of a column (R234, R241, R244). -/
theorem test_decode_column_integer : columnReads
  [
    (0x00F0000000000020, Instr.qnop ⟨15, true⟩),
    (0x0133D78000000062, Instr.qadd ⟨⟨3, true⟩, .cell 15, .inp 7, .zero, 0, .forward⟩ .unsigned),
    (0x0233D78000000062, Instr.qsub ⟨⟨3, true⟩, .cell 15, .inp 7, .zero, 0, .forward⟩ .unsigned),
    (0x0333D78000000062, Instr.qmul ⟨⟨3, true⟩, .cell 15, .inp 7, .zero, 0, .forward⟩ .unsigned),
    (0x0408010900007881, Instr.qmac ⟨⟨0, false⟩, .none, .cell 1, .cell 2, .inp 0, 15, .replace⟩ .signed),
    (0x0507C10800008800, Instr.qand ⟨⟨0, false⟩, .out 7, .cell 1, .cell 2, 0x11, .absorb⟩),
    (0x0607C10800008800, Instr.qor ⟨⟨0, false⟩, .out 7, .cell 1, .cell 2, 0x11, .absorb⟩),
    (0x0707C10800008800, Instr.qxor ⟨⟨0, false⟩, .out 7, .cell 1, .cell 2, 0x11, .absorb⟩),
    (0x08010580001F0801, Instr.qshl ⟨⟨0, false⟩, .cell 4, .cell 5, 1, .absorb⟩ (.imm 31)),
    (0x0801051800000000, Instr.qshl ⟨⟨0, false⟩, .cell 4, .cell 5, 0, .absorb⟩ (.src (.cell 6))),
    (0x09010580001F0801, Instr.qshr ⟨⟨0, false⟩, .cell 4, .cell 5, 1, .absorb⟩ (.imm 31)),
    (0x0901051800000000, Instr.qshr ⟨⟨0, false⟩, .cell 4, .cell 5, 0, .absorb⟩ (.src (.cell 6))),
    (0x0A010580001F0801, Instr.qsra ⟨⟨0, false⟩, .cell 4, .cell 5, 1, .absorb⟩ (.imm 31)),
    (0x0A01051800000000, Instr.qsra ⟨⟨0, false⟩, .cell 4, .cell 5, 0, .absorb⟩ (.src (.cell 6))),
    (0x0B33D78000000061, Instr.qmin ⟨⟨3, true⟩, .cell 15, .inp 7, .zero, 0, .forward⟩ true),
    (0x0C33D78000000060, Instr.qmax ⟨⟨3, true⟩, .cell 15, .inp 7, .zero, 0, .forward⟩ false)] = true := by decide

/-- Comparison, selection and binary32 words (R244). -/
theorem test_decode_column_float : columnReads
  [
    (0x0D07C10800008800, Instr.qcmp ⟨⟨0, false⟩, .out 7, .cell 1, .cell 2, 0x11, .absorb⟩ .eq),
    (0x0D07C10800008801, Instr.qcmp ⟨⟨0, false⟩, .out 7, .cell 1, .cell 2, 0x11, .absorb⟩ .ne),
    (0x0D07C10800008802, Instr.qcmp ⟨⟨0, false⟩, .out 7, .cell 1, .cell 2, 0x11, .absorb⟩ .lt),
    (0x0D07C10800008803, Instr.qcmp ⟨⟨0, false⟩, .out 7, .cell 1, .cell 2, 0x11, .absorb⟩ .le),
    (0x0D07C10800008804, Instr.qcmp ⟨⟨0, false⟩, .out 7, .cell 1, .cell 2, 0x11, .absorb⟩ .ltu),
    (0x0D07C10800008805, Instr.qcmp ⟨⟨0, false⟩, .out 7, .cell 1, .cell 2, 0x11, .absorb⟩ .leu),
    (0x0E08010900007880, Instr.qsel ⟨⟨0, false⟩, .none, .cell 1, .cell 2, .inp 0, 15, .replace⟩),
    (0x1033D78000000064, Instr.qfadd ⟨⟨3, true⟩, .cell 15, .inp 7, .zero, 0, .forward⟩ .rna),
    (0x1133D78000000061, Instr.qfmul ⟨⟨3, true⟩, .cell 15, .inp 7, .zero, 0, .forward⟩ .rtz),
    (0x1208010900007883, Instr.qfma ⟨⟨0, false⟩, .none, .cell 1, .cell 2, .inp 0, 15, .replace⟩ .rdn),
    (0x1333D78000000060, Instr.qfmin ⟨⟨3, true⟩, .cell 15, .inp 7, .zero, 0, .forward⟩),
    (0x1433D78000000060, Instr.qfmax ⟨⟨3, true⟩, .cell 15, .inp 7, .zero, 0, .forward⟩),
    (0x150105000E880019, Instr.qcvt ⟨⟨0, false⟩, .cell 4, .cell 5, 0, .absorb⟩ 8 .rup .trap 7 1)] = true := by decide

/-- Ports, lanes and moves (R244, R256, R264). -/
theorem test_decode_column_moves : columnReads
  [
    (0x2001D20000010040, Instr.qrecv ⟨0, false⟩ (some 7) 2 true .forward),
    (0x2008100000000000, Instr.qrecv ⟨0, false⟩ none 0 false .absorb),
    (0x210643004000F800, Instr.qsend ⟨0, false⟩ 1 (.cell 3) (some 4) false 0x1F .absorb),
    (0x2106200200010000, Instr.qsend ⟨0, false⟩ 0 .zero none true 0 .absorb),
    (0x2200420000008900, Instr.qlane ⟨0, false⟩ (.cell 1) 2 0x11 true),
    (0x23004200000F0000, Instr.qbcast ⟨0, false⟩ (.cell 1) 2 15),
    (0x2400420000000000, Instr.qredl ⟨0, false⟩ (.cell 1) (.cell 2) .add .rne .absorb),
    (0x2400420000000100, Instr.qredl ⟨0, false⟩ (.cell 1) (.cell 2) .max .rne .absorb),
    (0x2400420000000200, Instr.qredl ⟨0, false⟩ (.cell 1) (.cell 2) .min .rne .absorb),
    (0x2500420000001800, Instr.qmov ⟨0, false⟩ (.cell 1) (.move (.cell 2) 3) .absorb),
    (0x250060000FFF0001, Instr.qmov ⟨0, false⟩ (.cell 1) (.lo 0xFFF) .absorb),
    (0x250060000FFF0002, Instr.qmov ⟨0, false⟩ (.cell 1) (.mid 0xFFF) .absorb),
    (0x2500600000FF0003, Instr.qmov ⟨0, false⟩ (.cell 1) (.hi 0xFF) .absorb),
    (0x25004200003F0004, Instr.qmov ⟨0, false⟩ (.cell 1) (.tag (.cell 2) 0 63) .absorb)] = true := by decide

/-- Tile, drain, scale, index and rule words; the last three are the examples of R283. -/
theorem test_decode_column_tiles : columnReads
  [
    (0x30081100045F0003, Instr.qtstep ⟨0, false⟩ 1 15 5 2 true true),
    (0x3107C0000DFE000D, Instr.qdrain ⟨0, false⟩ 7 14 31 .trap .stoch true),
    (0x3208050000000000, Instr.qscale ⟨0, false⟩ (.lane (.cell 5))),
    (0x3208200000070001, Instr.qscale ⟨0, false⟩ (.tensor 7)),
    (0x3C01400000040000, Instr.qiter ⟨0, false⟩ (.cell 5) 4),
    (0x3D01570000010000, Instr.qempty ⟨0, false⟩ (some 5) 7 true),
    (0x3800100000000020, Instr.qrsym ⟨0, true⟩),
    (0x3900110000020000, Instr.qrload ⟨0, false⟩ 1 2),
    (0x3A06000000020000, Instr.qrdrain ⟨0, false⟩ 0 2 .sat .rne)] = true := by decide

/-! ### Terms and words that are refused -/

/-- No term of the list is well formed. -/
def illFormed (xs : List Instr) : Bool := xs.all fun i => !i.wf

/-- The decoder refuses each list of words. -/
def refuses (xs : List (Half × Half × Half × Half)) : Bool :=
  xs.all fun x => (decodeWords x.1 x.2.1 x.2.2.1 x.2.2.2).toOption.isNone

/-- Loads that release and stores that acquire (R123, R177). -/
theorem test_ill_formed_loads_stores : illFormed
  [
    Instr.ldb (.w 1) ⟨.w 2, .w 3, .rel, .core, 0⟩,
    Instr.ldh (.w 1) ⟨.w 2, .w 3, .acqRel, .core, 0⟩,
    Instr.ldw (.w 1) ⟨.w 2, .w 3, .rel, .core, 0⟩,
    Instr.ldd (.w 1) ⟨.w 2, .w 3, .rel, .core, 0⟩,
    Instr.ldbu (.w 1) ⟨.w 2, .w 3, .rel, .core, 0⟩,
    Instr.ldhu (.w 1) ⟨.w 2, .w 3, .rel, .core, 0⟩,
    Instr.ldwu (.w 1) ⟨.w 2, .w 3, .rel, .core, 0⟩,
    Instr.ldv 1 ⟨.w 2, .w 3, .rel, .core, 0⟩,
    Instr.stb (.w 1) ⟨.w 2, .w 3, .acq, .core, 0⟩,
    Instr.sth (.w 1) ⟨.w 2, .w 3, .acqRel, .core, 0⟩,
    Instr.stw (.w 1) ⟨.w 2, .w 3, .acq, .core, 0⟩,
    Instr.std (.w 1) ⟨.w 2, .w 3, .acq, .core, 0⟩,
    Instr.stv 1 ⟨.w 2, .w 3, .acq, .core, 0⟩] = true := by decide

/-- A fence of nothing and targets past word 29 (R124, R156). -/
theorem test_ill_formed_transfers : illFormed
  [
    Instr.fence 0 .sys,
    Instr.bez (.w 1) ⟨0, 30⟩,
    Instr.bnz (.w 1) ⟨0, 30⟩,
    Instr.bltz (.w 1) ⟨0, 30⟩,
    Instr.bgez (.w 1) ⟨0, 30⟩,
    Instr.jmp ⟨0, 31⟩,
    Instr.call ⟨0, 30⟩] = true := by decide

/-- Stochastic rounding of binary32, a flag that is not one, conversion targets that do not fit a lane (R192, R200, R201). -/
theorem test_ill_formed_vector : illFormed
  [
    Instr.vadd 1 2 3 ⟨0, false, .stoch⟩,
    Instr.vsub 1 2 3 ⟨0, false, .stoch⟩,
    Instr.vmul 1 2 3 ⟨0, false, .stoch⟩,
    Instr.vfma 1 2 3 ⟨0, false, .stoch⟩,
    Instr.vfms 1 2 3 ⟨0, false, .stoch⟩,
    Instr.vmin 1 2 3 ⟨0, false, .stoch⟩,
    Instr.vmax 1 2 3 ⟨0, false, .stoch⟩,
    Instr.vdiv 1 2 3 ⟨0, false, .stoch⟩,
    Instr.vabs 1 2 ⟨0, false, .stoch⟩,
    Instr.vneg 1 2 ⟨0, false, .stoch⟩,
    Instr.vsqrt 1 2 ⟨0, false, .stoch⟩,
    Instr.vrcp 1 2 ⟨0, false, .stoch⟩,
    Instr.vrsq 1 2 ⟨0, false, .stoch⟩,
    Instr.vflags (.w 1) 5 false 0,
    Instr.vcvt 1 2 0 ⟨0, false, .rne⟩ .sat 0 0,
    Instr.vcvt 1 2 4 ⟨0, false, .rne⟩ .sat 0 0,
    Instr.vcvt 1 2 14 ⟨0, false, .rne⟩ .sat 0 0,
    Instr.vcvt 1 2 15 ⟨0, false, .rne⟩ .sat 0 0] = true := by decide

/-- Stream configurations (R205, R207), in the order of the checks. -/
theorem test_ill_formed_streams : illFormed
  [
    Instr.sbind 1 2 0 ⟨false, .core, .none, false, false, false, false, false, 0⟩ 0 0,
    Instr.sbind 1 2 0 ⟨false, .core, .t8, true, false, false, false, false, 0⟩ 1 0,
    Instr.sbind 1 2 0 ⟨true, .core, .t8, false, false, false, false, false, 0⟩ 1 0,
    Instr.sbind 1 2 0 ⟨true, .core, .none, true, false, false, false, false, 0⟩ 1 0,
    Instr.sbind 1 2 0 ⟨true, .core, .none, false, true, false, false, false, 0⟩ 1 0,
    Instr.sbind 1 2 0 ⟨true, .core, .none, false, false, true, false, false, 0⟩ 1 8,
    Instr.sbind 1 2 0 ⟨true, .core, .none, false, false, false, true, false, 0⟩ 1 0,
    Instr.sbind 1 2 0 ⟨true, .core, .none, false, false, false, false, true, 0⟩ 1 0,
    Instr.sbind 1 2 0 ⟨false, .core, .none, true, false, false, false, true, 0⟩ 1 0,
    Instr.sbind 1 2 0 ⟨false, .core, .none, false, false, false, false, false, 1⟩ 1 0,
    Instr.sbind 1 2 0 ⟨false, .core, .none, false, false, false, false, false, 0⟩ 1 8,
    Instr.sbind 1 2 0 ⟨false, .core, .none, false, false, true, false, false, 0⟩ 1 0,
    Instr.sbind 1 2 3 ⟨false, .core, .none, false, false, false, false, false, 0⟩ 1 0] = true := by decide

/-- An item of FQRY and the scopes of TLBINV (R158, R203). -/
theorem test_ill_formed_system : illFormed
  [
    Instr.fqry (.w 1) 2 11,
    Instr.tlbinv (.w 1) false .sys,
    Instr.tlbinv (.w 1) true .dev] = true := by decide

/-- XOFF of 16, or of a source that is no cell; EP without a port (R237, R244). -/
theorem test_ill_formed_column_operands : illFormed
  [
    Instr.qadd ⟨⟨0, false⟩, .cell 1, .cell 2, .cell 3, 16, .absorb⟩ .wrap,
    Instr.qsub ⟨⟨0, false⟩, .cell 1, .zero, .cell 3, 1, .absorb⟩ .wrap,
    Instr.qmul ⟨⟨0, false⟩, .cell 1, .cell 2, .cell 3, 0, .forward⟩ .wrap,
    Instr.qmac ⟨⟨0, false⟩, .cell 1, .cell 2, .cell 3, .zero, 0, .replace⟩ .wrap,
    Instr.qand ⟨⟨0, false⟩, .cell 1, .inp 2, .cell 3, 1, .absorb⟩,
    Instr.qor ⟨⟨0, false⟩, .cell 1, .inp 2, .cell 3, 1, .absorb⟩,
    Instr.qxor ⟨⟨0, false⟩, .cell 1, .inp 2, .cell 3, 1, .absorb⟩,
    Instr.qfmin ⟨⟨0, false⟩, .cell 1, .inp 2, .cell 3, 1, .absorb⟩,
    Instr.qfmax ⟨⟨0, false⟩, .cell 1, .inp 2, .cell 3, 1, .absorb⟩,
    Instr.qmin ⟨⟨0, false⟩, .cell 1, .cell 2, .cell 3, 0, .forward⟩ true,
    Instr.qmax ⟨⟨0, false⟩, .cell 1, .cell 2, .cell 3, 0, .forward⟩ true,
    Instr.qcmp ⟨⟨0, false⟩, .cell 1, .cell 2, .cell 3, 0, .forward⟩ .eq,
    Instr.qshl ⟨⟨0, false⟩, .cell 1, .cell 2, 16, .absorb⟩ (.imm 1),
    Instr.qshr ⟨⟨0, false⟩, .cell 1, .cell 2, 16, .absorb⟩ (.imm 1),
    Instr.qsra ⟨⟨0, false⟩, .cell 1, .cell 2, 0, .forward⟩ (.src (.cell 1)),
    Instr.qsel ⟨⟨0, false⟩, .cell 1, .cell 2, .cell 3, .cell 4, 0, .forward⟩] = true := by decide

/-- Stochastic rounding of binary32 words; operands; conversion targets (R244, R257). -/
theorem test_ill_formed_column_float : illFormed
  [
    Instr.qfadd ⟨⟨0, false⟩, .cell 1, .cell 2, .cell 3, 0, .absorb⟩ .stoch,
    Instr.qfmul ⟨⟨0, false⟩, .cell 1, .cell 2, .cell 3, 0, .absorb⟩ .stoch,
    Instr.qfadd ⟨⟨0, false⟩, .cell 1, .cell 2, .cell 3, 16, .absorb⟩ .rne,
    Instr.qfma ⟨⟨0, false⟩, .cell 1, .cell 2, .cell 3, .cell 4, 0, .absorb⟩ .stoch,
    Instr.qfma ⟨⟨0, false⟩, .cell 1, .cell 2, .cell 3, .cell 4, 0, .forward⟩ .rne,
    Instr.qcvt ⟨⟨0, false⟩, .cell 1, .cell 2, 0, .absorb⟩ 8 .stoch .sat 0 0,
    Instr.qcvt ⟨⟨0, false⟩, .cell 1, .cell 2, 0, .absorb⟩ 14 .rne .sat 0 0,
    Instr.qcvt ⟨⟨0, false⟩, .cell 1, .cell 2, 16, .absorb⟩ 8 .rne .sat 0 0] = true := by decide

/-- End of stream with data, a lane at XOFF 16, reductions that round where they may not, constants (R256, R264). -/
theorem test_ill_formed_column_moves : illFormed
  [
    Instr.qsend ⟨0, false⟩ 1 (.cell 2) none true 0 .absorb,
    Instr.qsend ⟨0, false⟩ 1 .zero none false 1 .absorb,
    Instr.qsend ⟨0, false⟩ 1 (.cell 2) none false 0 .forward,
    Instr.qlane ⟨0, false⟩ (.cell 1) 2 16 false,
    Instr.qredl ⟨0, false⟩ (.cell 1) (.cell 2) .add .rtz .absorb,
    Instr.qredl ⟨0, false⟩ (.cell 1) (.cell 2) .fadd .stoch .absorb,
    Instr.qredl ⟨0, false⟩ (.cell 1) (.cell 2) .fmax .stoch .absorb,
    Instr.qredl ⟨0, false⟩ (.cell 1) (.cell 2) .max .rne .forward,
    Instr.qmov ⟨0, false⟩ (.cell 1) (.move (.cell 2) 16) .absorb,
    Instr.qmov ⟨0, false⟩ (.cell 1) (.lo 1) .forward,
    Instr.qmov ⟨0, false⟩ .none (.mid 1) .absorb,
    Instr.qmov ⟨0, false⟩ (.out 1) (.hi 1) .absorb,
    Instr.qmov ⟨0, false⟩ (.cell 1) (.tag (.cell 2) 0 8) .forward] = true := by decide

/-- A tile step that sums past port 3; items of QITER (R266, R273). -/
theorem test_ill_formed_column_tiles : illFormed
  [
    Instr.qtstep ⟨0, false⟩ 2 0 0 2 false false,
    Instr.qiter ⟨0, false⟩ (.cell 1) 5] = true := by decide

/-- Words the decoder refuses: an FN major 0x00 does not list; major 0x03; specifier 48 of an integer register; specifier 32 of a vector register; C of CLZ; width 3 of EXTS; a shift of 64; scope 5; a load that releases; size 3 of the zero-extending loads; word 30; COND 5; a fence of nothing; RM = STOCH in binary32 arithmetic; RM 6; saturation code 3. -/
theorem test_refused_words : refuses
  [
    (0x10, 0, 0, 0),
    (0x6000000, 0, 0, 0),
    (0x1802100, 0, 0, 0),
    (0x81002100, 0, 0, 0),
    (0x4084184, 0, 0, 0),
    (0x4084188, 0, 0, 0),
    (0x20084004, 0x40, 0, 0),
    (0x400841D0, 0, 0, 0),
    (0x40084188, 0, 0, 0),
    (0x42084183, 0, 0, 0),
    (0x7008001E, 0, 0, 0),
    (0x700D0000, 0, 0, 0),
    (0x6E000000, 0, 0, 0),
    (0x80084180, 0xA0000, 0, 0),
    (0x80084180, 0xC0000, 0, 0),
    (0x84084180, 0x3, 0, 0)] = true := by decide

/-- Schedule words the decoder refuses: an operation not listed; XOFF 16; destination specifier 40; EP without a port; EP 3; S3 of QADD (R234, R235, R237, R241). -/
theorem test_refused_column_words :
    ([0x1F00000000000000, 0x0100420C00008000, 0x010A020C00000000, 0x0100420C00000040, 0x0100500C000000C0, 0x0100420C10000000] : List Word).all (fun w => (decodeColumn w).toOption.isNone) = true := by decide

/-! ### The machine after reset -/

/-- CRC-32 of the nine digits, the check value IEEE 802.3's CRC is published with (log 35). -/
theorem test_crc : crc32 [0x31, 0x32, 0x33, 0x34, 0x35, 0x36, 0x37, 0x38, 0x39] = 0xCBF43926 := by decide +kernel

/-- At reset memory lists nothing and keeps its form; the supplies are on (R44). -/
theorem test_reset : State.reset.mem = [] ∧ Memory.wf State.reset.mem ∧ State.reset.agenda = [] ∧ State.reset.hasPower = true := by decide +kernel

/-- The core a state selects, after a step. -/
def afterStep (s : State) : Option Context :=
  match step s with
  | .next t => some (t.bank t.cur)
  | _ => none

/-- A step runs the word that stands where it fetches: CLZ g1, g1 of a register that holds 0 at reset gives 64, and as no
other word of the line is an instruction the pc is at word 0 of the next line (R162, R174). -/
theorem test_step_clz :
    (afterStep (State.reset.withFetchWord 32 0x50C2004)).map (fun b => (b.pc, b.x (.g 1)))
      = some (136, 64) := by decide +kernel

/-! ### Small states -/

/-- A task of partition 0 and context 0, alone on its core. -/
def aTask : Task := { probeTask with quota := 2, serial := 1 }

/-- A bank with that task at word 0 of line 0. -/
def aBank : Context := { Context.reset with task := some aTask }

/-- The device with one bank on core 0 and partition 0 on die 0. -/
def holding (c : Context) : State :=
  { State.reset with cores := [(0, { Core.reset with bank := c })], parts := [(0, { Machine.Part.none with live := true, dies := 1 })] }

/-- That device with the code line of some words in line 0: every word starts an instruction, word 0 is a target. -/
def running (ws : List Half) (c : Context) : State :=
  let s := holding c
  s.putBytes (codePlace 0 0) (bytesOf (2 * 2 ^ 60 + 2 ^ 30 + (2 ^ ws.length - 1)) 8 ++ ws.flatMap bytes32)

/-- Each instruction can issue, given the registers it names. -/
def issues (s : State) (is : List (Instr × List Nat)) : Bool := is.all fun i => s.canIssue aTask i.1 i.2

/-! ### Witnesses: reset, the step, encoding -/

/-- StepKeepsMemoryCanonical: a state with memory that steps. -/
theorem test_witness_memory_step :
    (running [0] aBank).memOk = true ∧ (running [0] aBank).mem ≠ []
      ∧ (match step { running [0] aBank with agenda := [.core 0] } with | .next u => u.memOk | _ => false) = true := by
  decide +kernel

/-- StepRunsDecoded: a core at a word that decodes, at a word that does not (major 0x7E), at one whose start bit is clear,
and on a line of an unassigned kind. -/
theorem test_witness_step_decoded :
    let s : State := { running [0] aBank with agenda := [.core 0] }
    let bad : State := { running [0xFC000000] aBank with agenda := [.core 0] }
    s.due = [] ∧ s.hasPower = true ∧ (s.bank 0).strip = none ∧ (s.bank 0).resuming = false ∧ s.sornenAt 0 = none
      ∧ (s.bank 0).pc < 0x40000 ∧ wordIndex (s.bank 0).pc = some 0 ∧ s.lineGood 0 0 = true ∧ hdrStart (s.lineHeader 0 0) 0 = true
      ∧ decodeWords (s.codeWord 0 8) (s.codeWord 0 12) (s.codeWord 0 16) (s.codeWord 0 20) = .ok (.add (.w 0) (.w 0) (.w 0))
      ∧ s.lineGood 0 1 = false ∧ wordIndex 136 = some 0 ∧ decodeWords (bad.codeWord 0 8) 0 0 0 = .error .unassignedMajor
      ∧ hdrStart (s.lineHeader 0 0) 29 = false
      ∧ wordIndex 124 = some 29 ∧ wordIndex 128 = none := by
  decide +kernel

/-- SequentialWordRoundTrip and ScheduleWordRoundTrip: an instruction of each length, and a column operation. -/
theorem test_witness_round_trip :
    (encode (.add (.w 31) (.g 15) (.g 0))).length = 1 ∧ (encode (.addi (.w 31) (.g 15) 0xFFFFFFFF)).length = 2
      ∧ (encode (.fstart 7)).length = 3 ∧ (encode (.acopy (.w 0) (.w 1) (.w 2) (.w 3) none .sys 0)).length = 4
      ∧ Instr.wf (.add (.w 31) (.g 15) (.g 0)) = true ∧ Instr.wf (.addi (.w 31) (.g 15) 0xFFFFFFFF) = true
      ∧ Instr.wf (.fstart 7) = true ∧ Instr.wf (.acopy (.w 0) (.w 1) (.w 2) (.w 3) none .sys 0) = true
      ∧ (Instr.qrload ⟨15, true⟩ 7 1023).isColumn = true ∧ Instr.wf (.qrload ⟨15, true⟩ 7 1023) = true := by
  decide +kernel

/-! ### Witnesses: control passing on and integer instructions -/

/-- Entry line in line 1, with word 1 a target. -/
def twoLines (c : Context) : State :=
  (running [0, 0, 0] c).putBytes (codePlace 0 128) (bytesOf (2 * 2 ^ 60 + 3 * 2 ^ 30 + 7) 8 ++ [0, 0, 0].flatMap bytes32)

/-- ControlPassesOn: a slot whose transfer is not taken, is taken to a marked word, is a call to an entry line, or goes to an
unmarked word; a call to a word that is no entry. -/
theorem test_witness_control_passes :
    let s := twoLines { aBank with xfer := some ⟨136, true, .call, false⟩ }
    s.ctx.xfer.isSome = true ∧ s.targetOk 0 136 = true ∧ s.entryLine 0 136 = true ∧ s.targetOk 0 140 = true
      ∧ s.entryLine 0 140 = false ∧ s.targetOk 0 144 = false ∧ s.targetOk 0 0x3FFFC = false ∧ s.targetOk 0 0x40000 = false
      ∧ (holding aBank).ctx.xfer = none := by
  decide +kernel

/-- Every instruction that writes one integer register at issue. -/
def plainList : List Instr :=
  [.add (.w 1) (.w 2) (.g 3), .sub (.w 1) (.w 2) (.g 3), .min (.w 1) (.w 2) (.g 3), .max (.w 1) (.w 2) (.g 3),
    .minu (.w 1) (.w 2) (.g 3), .maxu (.w 1) (.w 2) (.g 3), .and (.w 1) (.w 2) (.g 3), .or (.w 1) (.w 2) (.g 3),
    .xor (.w 1) (.w 2) (.g 3), .andn (.w 1) (.w 2) (.g 3), .shl (.w 1) (.w 2) (.g 3), .shr (.w 1) (.w 2) (.g 3),
    .sra (.w 1) (.w 2) (.g 3), .rol (.w 1) (.w 2) (.g 3), .seq (.w 1) (.w 2) (.g 3), .slt (.w 1) (.w 2) (.g 3),
    .sltu (.w 1) (.w 2) (.g 3), .sel (.w 1) (.w 2) (.g 3), .clz (.w 1) (.w 2), .ctz (.w 1) (.w 2), .popc (.w 1) (.w 2),
    .mov (.w 1) (.w 2), .exts (.w 1) (.w 2) .w8, .extz (.w 1) (.w 2) .w32, .addi (.w 1) (.w 2) 1, .andi (.w 1) (.w 2) 1,
    .ori (.w 1) (.w 2) 1, .xori (.w 1) (.w 2) 1, .shli (.w 1) (.w 2) 63, .shri (.w 1) (.w 2) 63, .srai (.w 1) (.w 2) 63,
    .roli (.w 1) (.w 2) 0, .limm (.w 1) 1, .limmh (.w 1) 1, .lea (.w 1) (.w 2) (.g 3) .b8 1]

/-- SingleCycleResults and RegisterInstructionsFrame: every instruction of the list names its registers and can issue; counts
of zeros at both ends of their range. -/
theorem test_witness_single_cycle :
    (plainList.all fun i => match plainDest i with
      | some (_, names) => (holding aBank).canIssue aTask i (keysOf names aBank)
      | none => false) = true
      ∧ (∀ k, k < 64 → (0 : Word).getLsbD (63 - k) = false) ∧ (2 ^ 63 : Word).getLsbD (63 - 0) = true
      ∧ (1 : Word).getLsbD 0 = true ∧ (∀ k : Nat, k ∈ [0, 63] ↔ k < 64 ∧ (0x8000000000000001 : Word).getLsbD k = true) := by
  refine ⟨by decide +kernel, fun k _ => by simp, by decide +kernel, by decide +kernel, fun k => ?_⟩
  constructor
  · intro h
    simp only [List.mem_cons, List.not_mem_nil, or_false] at h
    rcases h with rfl | rfl <;> decide +kernel
  · rintro ⟨h1, h2⟩
    have : ∀ j : Fin 64, (0x8000000000000001 : Word).getLsbD j.val = true → j.val = 0 ∨ j.val = 63 := by decide +kernel
    simpa using this ⟨k, h1⟩ h2

/-- An issued division of -2^63 by -1. -/
def aDivision : Entry := aBank.entry (.divs (.w 1) (.w 2) (.w 3)) (.int .divs (.w 1)) 0 (BitVec.intMin 64) (-1) 0 .plain .core []

/-- LongOperations: the seven instructions issue, with a divisor and without; a division that completes. -/
theorem test_witness_long :
    let c := aBank.setX (.w 3) 5
    let ks := keysOf [.w 1, .w 2, .w 3] aBank
    issues (holding c) [(.mul (.w 1) (.w 2) (.w 3), ks), (.mulhs (.w 1) (.w 2) (.w 3), ks), (.mulhu (.w 1) (.w 2) (.w 3), ks),
      (.divs (.w 1) (.w 2) (.w 3), ks), (.divu (.w 1) (.w 2) (.w 3), ks), (.rems (.w 1) (.w 2) (.w 3), ks),
      (.remu (.w 1) (.w 2) (.w 3), ks)] = true
      ∧ c.x (.w 3) ≠ 0 ∧ aBank.x (.w 3) = 0
      ∧ splitEntry [aDivision] 0 = some ([], aDivision, []) ∧ aDivision.op = .int .divs (.w 1) ∧ aDivision.opc ≠ 0
      ∧ ((holding aBank).core 0).swapping = false := by
  decide +kernel

/-! ### Witnesses: transfers and traps -/

/-- TransfersIssue: branches, jumps, calls whose window is in the ring and whose window is not, and returns. -/
theorem test_witness_transfers :
    let t : CodeRef := ⟨1, 29⟩
    let deep : Context := { aBank with wp := 224 }
    let back : Context := { aBank with wp := 24 }
    let low : Context := { aBank with wp := 24, lo := 24 }
    let calls (c : Context) : List (Instr × List Nat) :=
      [(.call t, keyX (c.wp + 24) (.w 8)), (.callr (.w 9), keyX (c.wp + 24) (.w 8) ++ keysOf [.w 9] c)]
    issues (holding aBank) [(.bez (.w 9) t, keysOf [.w 9] aBank), (.bnz (.w 9) t, keysOf [.w 9] aBank),
      (.bltz (.w 9) t, keysOf [.w 9] aBank), (.bgez (.w 9) t, keysOf [.w 9] aBank), (.jmp t, []), (.jr (.w 9), keysOf [.w 9] aBank),
      (.ret, keysOf [.w 8] aBank)] = true ∧ issues (holding aBank) (calls aBank) = true
      ∧ aBank.wp + 24 + 32 - aBank.lo ≤ 256 ∧ 200 + 24 + 32 - 0 ≤ 256 ∧ ¬ deep.wp + 24 + 32 - deep.lo ≤ 256
      ∧ issues (holding deep) (calls deep) = true
      ∧ back.wp ≠ 0 ∧ back.lo ≤ back.wp - 24 ∧ issues (holding back) [(.ret, keysOf [.w 8] back)] = true
      ∧ low.wp - 24 < low.lo ∧ issues (holding low) [(.ret, keysOf [.w 8] low)] = true
      ∧ (match exec .ret (holding aBank) with | .next u => (u.bank 0).frame.cause.toNat == cWindowSpill | _ => false) = true := by
  decide +kernel

/-- SynchronousTraps: TRAP and BREAK issue; JMP in a delay slot. -/
theorem test_witness_sync_traps :
    let slot : Context := { aBank with xfer := some ⟨136, true, .none, false⟩ }
    issues (holding aBank) [(.trap 7, []), (.brk, [])] = true
      ∧ noSlot (.jmp ⟨0, 0⟩) = true ∧ Instr.wf (.jmp ⟨0, 0⟩) = true ∧ slot.xfer.isSome = true ∧ slot.task = some aTask
      ∧ (holding slot).issuing 0 = true ∧ slot.checkDue = false ∧ slot.owed = none := by
  decide +kernel

/-- A bank whose task handles its traps at line 1. -/
def handling : Context := { aBank with tvec := 0x8000000000000088 }

/-- A DIV_ZERO of the instruction at issue. -/
def divZero : TrapArg := ⟨cDivZero, 0, 8, false, false, 0, false, false, false, 0, .none⟩

/-- TrapEntry: a handled trap, with the window at the last position that fits; traps to the driver of each kind; a trap in
trap state. -/
theorem test_witness_trap_entry :
    let s := twoLines { handling with wp := 176 }
    let c := s.bank 0
    c.trapst = false ∧ c.strip = none ∧ divZero.driver = false ∧ divZero.cause ≠ cMachineCheck ∧ divZero.cause ≠ cWatchdog
      ∧ c.tvec.getLsbD 63 = true ∧ s.entryLine 0 (c.tvec &&& 0x3FFFF) = true ∧ c.wp + 48 + 32 - c.lo ≤ 256
      ∧ aBank.tvec.getLsbD 63 = false ∧ (holding handling).entryLine 0 (handling.tvec &&& 0x3FFFF) = false
      ∧ ({ handling with trapst := true } : Context).trapst = true := by
  decide +kernel

/-- A bank in trap state that resumes at word 1 of line 0. -/
def trapped : Context := { aBank with trapst := true, frame := { Frame.zero with tpc := 12 } }

/-- ReturnFromTrap: in trap state, with and without a pending transfer, with an unfinished store of the handler; with windows
that have been spilled; outside trap state; with a resume address that is none. -/
theorem test_witness_return :
    let s := running [0, 0] trapped
    let call : Context := { trapped with frame := { trapped.frame with dslot := true, dxfer := 1, ttgt := 136 } }
    let ret : Context := { trapped with lo := 24, frame := { trapped.frame with dslot := true, dxfer := 2, twp := 24 } }
    let away : Context := { trapped with frame := { trapped.frame with tpc := 16 } }
    let st : Entry := trapped.entry (.stb (.w 1) ⟨.w 2, .g 0, .plain, .core, 0⟩) (.store 1) 0 0 0 0 .plain .core [⟨spadPlace 0 0, 1, true⟩]
    s.ctx.trapst = true ∧ s.ctx.stripHeld = none ∧ s.resumeOk 0 s.ctx.frame.tpc = true ∧ s.ctx.rq = [] ∧ s.ctx.fly = []
      ∧ s.ctx.frame.dslot = false ∧ s.ctx.lo ≤ s.ctx.frame.twp.toNat ∧ issues s [(.rett, [])] = true
      ∧ st.hand = true ∧ st.stays = true ∧ issues (running [0, 0] { trapped with fly := [st] }) [(.rett, [])] = true
      ∧ call.frame.dslot = true ∧ call.lo ≤ call.frame.twp.toNat ∧ call.frame.twp.toNat + 24 + 32 - call.lo ≤ 256
      ∧ issues (running [0, 0] call) [(.rett, [])] = true
      ∧ ret.frame.twp ≠ 0 ∧ ¬ ret.lo ≤ ret.frame.twp.toNat - 24
      ∧ issues (running [0, 0] ret) [(.rett, [])] = true
      ∧ aBank.trapst = false ∧ issues (holding aBank) [(.rett, [])] = true
      ∧ (running [0, 0] away).resumeOk 0 away.frame.tpc = false ∧ issues (running [0, 0] away) [(.rett, [])] = true := by
  decide +kernel

/-! ### Witnesses: memory -/

/-- A cached translation of the first page of the translated window. -/
def mapping (flags addr : Nat) : TlbEntry := ⟨0, 0, 0x100000000, 2 ^ 19, BitVec.ofNat 128 (flags * 2 ^ 64 + addr), []⟩

/-- That translation and a flip of the page behind it. -/
def mapped (flags addr : Nat) (flips : List Flip) : State := { holding aBank with tlb := [mapping flags addr], flips := flips }

/-- The same task as a cluster member on core 0, and another member on core 3. -/
def cluster : State :=
  let t : Task := { aTask with clustered := true }
  let c : Context := { aBank with task := some t }
  { holding c with cores := [(0, { Core.reset with bank := c }), (3, { Core.reset with bank := { c with task := some { t with serial := 4 } } })] }

/-- AccessChecks, first part: addresses at the ends of every range; the window of a live member, of a missing one, of a task
outside a cluster; a bank not yet exchanged; a page with every right, without, compressed, flipping, with host bias. -/
theorem test_witness_access_checks :
    let s := holding aBank
    let t : Task := { aTask with clustered := true }
    let away : State := { s with cores := [(0, { Core.reset with bank := aBank, foreign := 1 })] }
    (0x1400000 : Word).toNat % 8 = 0 ∧ (0xFFFFFFF8 : Word).toNat < 0x100000000 ∧ 0x1000000000000 ≤ (0xFFFFFFFFFFFFFFF8 : Word).toNat
      ∧ s.bankForeign 0 0x3FFFF8 = false ∧ away.bankForeign 0 0x3F = true ∧ away.bankForeign 0 0x40 = false
      ∧ aTask.clustered = false ∧ cluster.member 0 t 1 = false ∧ cluster.member 0 t 3 = true
      ∧ cluster.checkAccess 0 t 0x13FFFF8 8 8 .store = .ok (spadPlace 3 0x3FFFF8)
      ∧ s.cached 0 0 0x100000000 = none ∧ s.cached 0 0 0xFFFFFFFFFFF8 = none
      ∧ (mapped 15 0x80000 []).cached 0 0 0x10007FFF8 = some (mapping 15 0x80000)
      ∧ pteR (mapping 15 0).leaf = true ∧ pteW (mapping 15 0).leaf = true ∧ pteKind (mapping 15 0).leaf = 0
      ∧ pteR (mapping 11 0).leaf = false ∧ pteW (mapping 7 0).leaf = false ∧ pteKind (mapping 79 0).leaf ≠ 0
      ∧ pteBias (mapping 15 0).leaf = false ∧ pteBias (mapping 31 0).leaf = true ∧ pteHold (mapping 15 0).leaf = false
      ∧ isSpad (pteAddr (mapping 15 0x80000).leaf) = false
      ∧ (mapped 15 0x80000 []).flipping 0 0x80000 = false
      ∧ (mapped 15 0x80000 [⟨0, 0x80000, 2 ^ 19, true, 0, .flipping, 0⟩]).flipping 0 0xFFFFF = true := by
  decide +kernel

/-- A load, store, or atomic at an address, with the addresses in w2. -/
def atAddr (a : Word) : Context := aBank.setX (.w 2) a

def aMem : MemOp := ⟨.w 2, .g 0, .plain, .core, 0⟩
def anAt : AtOp := ⟨true, .w 2, .w 3, .acqRel, .dev, 0⟩

/-- The scalar accesses with the registers they name. -/
def accessList (c : Context) : List (Instr × List Nat) :=
  let km := keysOf [.w 1, .w 2, .g 0] c
  let ko := keysOf [.w 1, .w 2, .w 3] c
  [(.ldb (.w 1) aMem, km), (.ldh (.w 1) aMem, km), (.ldw (.w 1) aMem, km), (.ldd (.w 1) aMem, km), (.ldbu (.w 1) aMem, km),
    (.ldhu (.w 1) aMem, km), (.ldwu (.w 1) aMem, km), (.stb (.w 1) aMem, km), (.sth (.w 1) aMem, km), (.stw (.w 1) aMem, km),
    (.std (.w 1) aMem, km), (.aadd (.w 1) anAt, ko), (.axchg (.w 1) anAt, ko), (.aand (.w 1) anAt, ko), (.aor (.w 1) anAt, ko),
    (.axor (.w 1) anAt, ko), (.acas (.w 1) anAt, ko), (.amin (.w 1) anAt, ko), (.aminu (.w 1) anAt, ko), (.amax (.w 1) anAt, ko),
    (.amaxu (.w 1) anAt, ko)]

/-- AccessChecks, second part, and AccessesIssue: accesses that trap, wait, miss, meet poison, and pass; LDV and STV. -/
theorem test_witness_accesses :
    let s := holding (atAddr 0x3FFFF8)
    let v : State := holding (atAddr 0x3FFFC0)
    let bad : State := { s with poison := [spadPlace 0 0x3FFFC0 / 64] }
    let away : State := { s with cores := [(0, { Core.reset with bank := atAddr 0x3FFFF8, foreign := 2 ^ 63 })] }
    issues s (accessList s.ctx) = true ∧ s.checkAccess 0 aTask 0x3FFFF8 8 8 .load = .ok (spadPlace 0 0x3FFFF8)
      ∧ s.poisonPast [] [⟨spadPlace 0 0x3FFFF8, 8, false⟩] = none
      ∧ (holding (atAddr 4)).checkAccess 0 aTask 4 8 8 .store = .trap cMisaligned 4 ∧ issues (holding (atAddr 4)) (accessList (atAddr 4)) = true
      ∧ away.checkAccess 0 aTask 0x3FFFF8 8 8 .store = .away (spadPlace 0 0x3FFFF8) ∧ issues away (accessList s.ctx) = true
      ∧ (holding (atAddr 0x100000000)).checkAccess 0 aTask 0x100000000 8 8 .atomic = .miss 0x100000000
      ∧ aBank.walkTrap = none
      ∧ bad.poisonPast bad.ctx.fly [⟨spadPlace 0 0x3FFFF8, 8, false⟩] = some (spadPlace 0 0x3FFFC0)
      ∧ v.checkAccess 0 aTask 0x3FFFC0 64 4 .load = .ok (spadPlace 0 0x3FFFC0)
      ∧ v.checkAccess 0 aTask 0x3FFFFC 4 4 .load = .ok (spadPlace 0 0x3FFFC0 + 60)
      ∧ v.checkAccess 0 aTask 0x3FFFC0 64 4 .store = .ok (spadPlace 0 0x3FFFC0)
      ∧ v.checkAccess 0 aTask 0x3FFFFC 4 4 .store = .ok (spadPlace 0 0x3FFFC0 + 60)
      ∧ issues v [(.ldv 31 aMem, keyV 31 ++ keysOf [.w 2, .g 0] v.ctx), (.stv 31 aMem, keyV 31 ++ keysOf [.w 2, .g 0] v.ctx)] = true := by
  decide +kernel

/-- An issued access of n bytes at place 0 of scratchpad 0. -/
def entryAt (op : PendOp) (n : Nat) (wr : Bool) : Entry :=
  aBank.entry (.ldd (.w 1) aMem) op 0 0 5 0 .plain .core [⟨spadPlace 0 0, n, wr⟩]

/-- LoadsComplete: a load of eight bytes, of one signed byte, of sixteen lanes, each with an unperformed store of another line
before it. -/
theorem test_witness_loads_complete :
    let st : Entry := aBank.entry (.std (.w 1) aMem) (.store 8) 7 0 0 0 .plain .core [⟨spadPlace 0 64, 8, true⟩]
    let ok (e : Entry) : Bool :=
      splitEntry [st, e] 1 == some ([st], e, []) && e.spans.all (fun x => !x.wr && decide (x.place < hostMark))
        && aBank.mayPerform false e [st] && (holding aBank).poisonPast [st] e.spans == none
    ok (entryAt (.load 8 false (.w 1)) 8 false) = true ∧ ok (entryAt (.load 1 true (.w 1)) 1 false) = true
      ∧ ok (entryAt (.ldv 3) 64 false) = true ∧ ((holding aBank).core 0).swapping = false
      ∧ (st.offers (spadPlace 0 63)).isNone = true ∧ isFw (spadPlace 0 63) = false := by
  decide +kernel

/-- StoresAndAtomicsPerform: a store, a vector store, one that an earlier fence still holds back; each atomic; an ACAS with
release order whose compare fails, behind a store of another place. -/
theorem test_witness_stores_perform :
    let e := entryAt (.store 8) 8 true
    let v := entryAt (.stv zeroLanes) 64 true
    let f := aBank.entry (.fence 15 .sys) (.fence 15) 0 0 0 0 .plain .sys []
    let s := holding aBank
    splitEntry [e] 0 = some ([], e, []) ∧ splitEntry [v] 0 = some ([], v, []) ∧ aBank.mayPerform false e [] = true
      ∧ aBank.mayPerform false v [] = true ∧ splitEntry [v, f, e] 1 = some ([v, f], e, [])
      ∧ aBank.mayPerform false e [v, f] = false ∧ e.msg = 0 ∧ isFw (spadPlace 0 0) = false
      ∧ ((List.range 64).all fun j => !isLoft (spadPlace 0 0 + j)) = true
      ∧ (s.cores.all fun x => x.2.copies.all fun y => y.2.signal.isSome) = true
      ∧ (List.all [AtKind.add, .xchg, .and, .or, .xor, .cas, .min, .minu, .max, .maxu] fun k =>
          let a := entryAt (.atomic k 8 (.w 1)) 8 true
          splitEntry [a] 0 == some ([], a, []) && aBank.mayPerform false a [] && s.poisonPast [] a.spans == none) = true
      ∧ (let far : Entry := aBank.entry (.stb (.w 1) aMem) (.store 1) 0 0 0 0 .plain .core [⟨spadPlace 0 64, 1, true⟩]
         let c : Entry := { entryAt (.atomic .cas 8 (.w 1)) 8 true with opa := 1, ord := .acqRel }
         s.natAt (spadPlace 0 0) 8 ≠ c.opa.toNat % 2 ^ (8 * 8) ∧ far.overlaps c = false ∧ aBank.mayPerform false c [far] = false
          ∧ aBank.mayPerform false { c with op := .load 8 false (.g 0), ord := if ordAcq c.ord then .acq else .plain } [far] = true) := by
  decide +kernel

/-- StoresAndAtomicsPerform: two loft places of one tenant, reached under one key; a loft line that another key wrote last, and
one that the tenant's own key did (R100). -/
theorem test_witness_loft_key :
    let a := 0x030000000040
    let p := keyedPlace 0 1 a
    let s (w : Nat) : State := { State.reset with keys := [(1, 5)], loftKey := [(a / 64, w)] }
    leafPlace 0 1 a = p ∧ isLoft p = true ∧ isLoft (p + 100) = true ∧ p < hostMark ∧ isFw p = false
      ∧ (s 9).drawOf p = some 5 ∧ (s 9).drawOf (p + 100) = some 5 ∧ (s 9).storage p = a ∧ (s 9).foreignLine 5 a = true
      ∧ (s 6).foreignLine 5 a = false ∧ (s 0).foreignLine 5 a = false ∧ (s 9).drawOf a = none
      ∧ (s 9).drawOf (64 * (p / 64)) = some 5 := by decide +kernel

/-- WaitFenceBarrier: addresses misaligned, outside, and in the scratchpad, with a store of another place in flight; fences with
and without the sl bit, the former with a store in flight; CBAR alone, in a cluster before and after the last
arrival, and released. -/
theorem test_witness_wait_fence :
    let s := holding (atAddr 0x3FFFF8)
    let ks := keysOf [.w 1, .w 2] s.ctx
    let t : Task := { aTask with clustered := true }
    let c : Context := { aBank with task := some t }
    let two (a : Arrival) : State :=
      { holding c with cores := [(0, { Core.reset with bank := c }), (1, { Core.reset with bank := { c with task := some { t with serial := 2 }, arrived := a } })] }
    let arrive (s : State) : State := s.setCtx { s.ctx with arrived := .yes }
    let st : Entry := aBank.entry (.stb (.w 1) aMem) (.store 1) 0 0 0 0 .plain .core [⟨spadPlace 0 0, 1, true⟩]
    let busy : State := holding { s.ctx with fly := [st] }
    let look (c : Context) : Entry :=
      c.entry (.waita (.w 1) (.w 2) .core 0) (.load 8 false (.g 0)) 0 0 0 0x3FFFF8 .plain .core [⟨spadPlace 0 0x3FFFF8, 8, false⟩]
    issues s [(.waita (.w 1) (.w 2) .core 0, ks), (.fence 1 .core, []), (.fence 4 .core, []), (.cbar, [])] = true
      ∧ issues busy [(.waita (.w 1) (.w 2) .core 0, ks), (.fence 1 .core, []), (.fence 4 .core, [])] = true
      ∧ (4 : BitVec 4).getLsbD 2 = true ∧ (1 : BitVec 4).getLsbD 2 = false ∧ st.isStore = true
      ∧ busy.checkAccess 0 aTask 0x3FFFF8 8 8 .load = .ok (spadPlace 0 0x3FFFF8)
      ∧ busy.poisonPast [st] [⟨spadPlace 0 0x3FFFF8, 8, false⟩] = none
      ∧ busy.ctx.mayPerform false (look busy.ctx) [st] = true ∧ st.overlaps (look busy.ctx) = false
      ∧ s.ctx.mayPerform false (look s.ctx) [] = true ∧ (s.cores.all fun x => x.2.copies.isEmpty) = true
      ∧ s.checkAccess 0 aTask 0x3FFFF8 8 8 .load = .ok (spadPlace 0 0x3FFFF8) ∧ s.ctx.fly = []
      ∧ BitVec.ofNat 64 (s.natAt (spadPlace 0 0x3FFFF8) 8) = s.ctx.x (.w 1)
      ∧ BitVec.ofNat 64 (s.natAt (spadPlace 0 0x3FFFF8) 8) ≠ 1
      ∧ (0x1400000 : Word).toNat % 8 = 0 ∧ (0x13FFFF8 : Word).toNat < 0x1400000 ∧ (7 : Word).toNat % 8 ≠ 0
      ∧ (two .no).canIssue t .cbar [] = true ∧ (two .no).ctx.arrived ≠ .released
      ∧ (((arrive (two .no)).members 0 t).all fun j => ((arrive (two .no)).bank j).arrived == .yes) = false
      ∧ (((arrive (two .yes)).members 0 t).all fun j => ((arrive (two .yes)).bank j).arrived == .yes) = true
      ∧ (two .yes).canIssue t .cbar [] = true
      ∧ (holding { c with arrived := .released }).canIssue t .cbar [] = true := by
  decide +kernel

/-! ### Witnesses: vector instructions -/

/-- A bank whose registers v1 to v3 carry a tag. -/
def tagged (t : Tag) : Context :=
  let r : VecReg := ⟨zeroLanes, t⟩
  ((aBank.setVec 1 r).setVec 2 r).setVec 3 r

/-- VectorFloatIssues: every binary32 instruction with sources under FT5, and sources under another tag. -/
theorem test_witness_vector_float :
    let f : VCtl := ⟨0, false, .rne⟩
    let k2 := keysV [1, 2, 3] 0
    let k3 := keysV [1, 1, 2, 3] 0
    let k1 := keysV [1, 2] 0
    issues (holding (tagged 5)) [(.vadd 1 2 3 f, k2), (.vsub 1 2 3 f, k2), (.vmul 1 2 3 f, k2), (.vfma 1 2 3 f, k3),
      (.vfms 1 2 3 f, k3), (.vmin 1 2 3 f, k2), (.vmax 1 2 3 f, k2), (.vabs 1 2 f, k1), (.vneg 1 2 f, k1), (.vdiv 1 2 3 f, k2),
      (.vsqrt 1 2 f, k1), (.vrcp 1 2 f, k1), (.vrsq 1 2 f, k1)] = true
      ∧ ((tagged 5).vec 1).tag = 5 ∧ ((tagged 5).vec 2).tag = 5 ∧ ((tagged 5).vec 3).tag = 5
      ∧ ((tagged 4).vec 2).tag ≠ 5 ∧ issues (holding (tagged 4)) [(.vadd 1 2 3 f, k2), (.vsqrt 1 2 f, k1)] = true
      ∧ (((tagged 5).setVec 3 VecReg.zero).vec 3).tag ≠ 5
      ∧ issues (holding ((tagged 5).setVec 3 VecReg.zero)) [(.vmul 1 2 3 f, k2)] = true := by
  decide +kernel

/-- BinaryArithmeticCases: a rounding other than STOCH, and E4M3 is a format. -/
theorem test_witness_binary_cases : Rm.rna ≠ .stoch ∧ (fmtOf [] 8).isSome = true := by decide +kernel

/-- VectorLanesIssue and VectorSelectsIssue: sources under a valid tag, under FT3, under FT5, and neither; the reductions. -/
theorem test_witness_vector_lanes :
    let k3 := keysV [1, 2, 3] 2
    let k2 := keysV [1, 2] 2
    let kp := keyP 1 ++ keysV [2, 3] 2
    let s3 := holding (tagged 3)
    let plain : VCtl := ⟨2, false, .rne⟩
    issues s3 [(.vand 1 2 3 2, k3), (.vor 1 2 3 2, k3), (.vxor 1 2 3 2, k3), (.vshl 1 2 (.reg 3) 2, k3), (.vshr 1 2 (.reg 3) 2, k3),
      (.vsra 1 2 (.reg 3) 2, k3), (.vshl 1 2 (.imm 31) 2, k2), (.vshr 1 2 (.imm 31) 2, k2), (.vsra 1 2 (.imm 31) 2, k2),
      (.vperm 1 2 3 2, k3), (.vbcast 1 2 15 2, k2), (.vmov 1 2 2, k2), (.vtag 1 2 63, keysV [1, 2] 0), (.viadd 1 2 3 .wrap 2, k3),
      (.visub 1 2 3 .signed 2, k3), (.vimul 1 2 3 .unsigned 2, k3), (.vcmpeq 1 2 3 2 false false, kp),
      (.vcmplt 1 2 3 2 false true, kp), (.vcmple 1 2 3 2 false false, kp), (.vsel 1 2 3 2, k3), (.vins 1 (.w 1) 15, keyV 1 ++ keysOf [.w 1] s3.ctx),
      (.vext (.w 1) 2 true 15, keyV 2 ++ keysOf [.w 1] s3.ctx), (.vflags (.w 1) 4 true 2, keysOf [.w 1] s3.ctx ++ keyP 2),
      (.vrng 1 2, keysV [1] 2), (.vredadd 1 2 plain 0, k2), (.vredadd 1 2 plain 2, k2), (.vredmax 1 2 plain 0, k2),
      (.vredmax 1 2 plain 2, k2)] = true
      ∧ classOf aBank.ft 3 ≠ .invalid ∧ classOf aBank.ft 16 = .invalid
      ∧ issues (holding (tagged 16)) [(.vtag 1 2 63, keysV [1, 2] 0)] = true ∧ ((tagged 3).vec 2).tag = 3 ∧ ((tagged 3).vec 3).tag = 3
      ∧ issues (holding (tagged 5)) [(.vcmpeq 1 2 3 2 false false, kp), (.vcmplt 1 2 3 2 false false, kp),
          (.vcmplt 1 2 3 2 false true, kp), (.vredmax 1 2 plain 0, k2), (.vredadd 1 2 plain 0, k2)] = true
      ∧ (((holding (tagged 5)).ctxInfo 0 0).compat.getD 0).getLsbD 0 = false
      ∧ issues (holding (tagged 0)) [(.vcmpeq 1 2 3 2 false false, kp)] = true := by
  decide +kernel

/-- VectorConversionIssues: a source that fits no lane, a target without a format, a conversion with and without an overflow
under TRAP. -/
theorem test_witness_conversion :
    let i (tg : Tag) : Instr := .vcvt 1 2 tg ⟨0, false, .rne⟩ .trap 0 0
    let ks := keysV [1, 2] 0
    let big : Context := aBank.setVec 2 ⟨Vector.ofFn fun l => if l.val = 15 then 0x7F7FFFFF else 0, 5⟩
    cvtSource [] 4 = none ∧ issues (holding (tagged 4)) [(i 8, ks)] = true
      ∧ (cvtSource [] 5).isSome = true ∧ fmtOf [] 16 = none ∧ issues (holding (tagged 5)) [(i 16, ks), (i 8, ks)] = true
      ∧ (fmtOf [] 8).isSome = true ∧ containerOf [] 5 = 32 ∧ containerOf [] 8 = 8
      ∧ (match cvtSource [] 5, fmtOf [] 8 with
          | some f, some g => (convert (f.decode 0x7F7FFFFF) g .rne .trap 0).ovf && !(convert (f.decode 0) g .rne .trap 0).ovf
          | _, _ => false) = true
      ∧ issues (holding big) [(i 8, ks)] = true := by
  decide +kernel

/-- VectorCompletes: an unfinished entry of each kind, none before it that uses the flags. -/
theorem test_witness_vector_completes :
    let e (op : PendOp) : Entry := aBank.entry (.vrng 1 0) op 0 0 0 0 .plain .core []
    (List.all [.vec 31 zeroLanes 0x8001 63 1, .ins 31 15, .pred 7 0x8000 1, .toX (.w 31) 1, .flags (.w 31) 4 true 0x8000] fun op =>
      splitEntry [e op] 0 == some ([], e op, [])) = true ∧ ((holding aBank).core 0).swapping = false
      ∧ (4 : BitVec 3).toNat < 5 := by
  decide +kernel

/-! ### Witnesses: rows, control registers, system instructions -/

/-- A row slot of stack 11, channel 63, slot 3 that the task owns, with its handle in w2. -/
def rowState (st : RowSt) (h : Word) : State :=
  { holding (atAddr h) with rows := [(4 * (11 * 64 + 63) + 3, ⟨st, 1, 5, 0xFFFF, false⟩)] }

/-- RowInstructions: handles that name the slot, that name none, holdable and plain pages, addresses outside; a row the task
has open, a free slot, a row another task holds, a row that waits for its owner. -/
theorem test_witness_rows :
    let h : Word := 0xFFFF0BFF
    let s := rowState .opened h
    let ks := keysOf [.w 1, .w 2] s.ctx
    let all (h : Word) : List (Instr × List Nat) :=
      [(.rowholdKeep (.w 1) (.w 2), ks), (.rowholdDrop (.w 1) (.w 2), ks), (.rowrel (.w 1) (.w 2), ks), (.rowqry (.w 1) (.w 2), ks),
        (.rowopen (.w 1) (.w 2), keysOf [.w 1, .w 2] (atAddr h))]
    let slot := s.rowSlot (h.toNat / 256 % 16 * 64 + h.toNat / 4 % 64) (h.toNat % 4)
    let p := 0x040000000000 + 11 * 2 ^ 36 + 63 * 2 ^ 30 + 5 * 1024
    let own : State := { holding aBank with rows := [(4 * rowChan p, ⟨.opened, 1, p / 1024, 7, false⟩)] }
    let back : State :=
      { holding aBank with
        rows := [(3, ⟨.keep, 1, 5, 0, true⟩)], cores := [(0, { Core.reset with bank := aBank, swapping := true })] }
    issues s (all h) = true ∧ issues (rowState .opened 0) (all 0) = true
      ∧ h.toNat / 2 ^ 32 = 0 ∧ h.toNat / 2 ^ 12 % 16 = 0 ∧ h.toNat / 256 % 16 = 11 ∧ slot.st ≠ .free ∧ slot.reserved = false
      ∧ slot.owner = aTask.serial ∧ slot.seq.toNat = h.toNat / 65536 % 65536
      ∧ ((rowState .opened 0).rowSlot 0 0).st = .free
      ∧ (mapped 47 0x040000000000 []).cached 0 0 0x100000000 = some (mapping 47 0x040000000000)
      ∧ pteHold (mapping 47 0).leaf = true ∧ pteHold (mapping 15 0).leaf = false
      ∧ (own.rowSlot (rowChan p) 0).live = true ∧ (own.rowSlot (rowChan p) 0).owner = 1 ∧ (own.rowSlot (rowChan p) 0).row = p / 1024
      ∧ (List.all [0, 1, 2, 3] fun j => ((holding aBank).rowSlot (rowChan p) j).st == .free) = true
      ∧ (List.all [1, 2, 3] fun j => (own.rowSlot (rowChan p) j).st == .free && (own.rowSlot (rowChan p) j).owner != 2) = true
      ∧ (back.rowSlot 0 3).st = .keep ∧ (back.rowSlot 0 3).reserved = true
      ∧ (back.cores.any fun e => e.2.swapping && e.2.bank.isChain 1) = true
      ∧ (List.all [0, 1, 2] fun j => (back.rowSlot 0 j).st == .free) = true := by
  decide +kernel

/-- The registers CRD reads and CWR writes. -/
def crNumbers : List (BitVec 12) :=
  [0x000, 0x001, 0x002, 0x010, 0x011, 0x012, 0x013, 0x020, 0x021, 0x024, 0x025, 0x026, 0x028, 0x040, 0x04F, 0x050, 0x07F, 0x080,
    0x081, 0x082, 0x083, 0x084, 0x085, 0x086, 0x087, 0x088, 0x089, 0x08A, 0x090, 0x0A8, 0x0A9, 0x0C0, 0x0DF, 0x0FF, 0x100, 0xFFF]

/-- ControlRegisters: every number, in trap state and outside it, at WP 0 and above; a format register's value that is valid and
one that is not; DXFER 11 and another. -/
theorem test_witness_control_registers :
    let all (c : Context) : List (Instr × List Nat) :=
      crNumbers.flatMap fun n => [(.crd (.w 1) n, keysOf [.w 1] c), (.cwr (.w 1) n, keysOf [.w 1] c)]
    let up : Context := { aBank with wp := 1 }
    issues (holding aBank) (all aBank) = true ∧ issues (holding trapped) (all trapped) = true ∧ issues (holding up) (all up) = true
      ∧ aBank.fly = [] ∧ aBank.wp = 0 ∧ up.wp ≠ 0 ∧ trapped.trapst = true ∧ aBank.trapst = false
      ∧ ftValid (0x00C68000 : Half) = true ∧ ftValid (0 : Half) = false ∧ (List.any [0x03888000, 0x00088000, 0x0000_0000, 0x10000000] fun (v : Half) => ftValid v) = false
      ∧ (2 ^ 32 : Word).toNat ≥ 2 ^ 32 ∧ (0x300 : Word).extractLsb' 8 2 = 3 ∧ (0x200 : Word).extractLsb' 8 2 ≠ 3 := by
  decide +kernel

/-- SystemInstructions: RQRD and RQINJ in trap state and outside it, at the ends of the range; TLBINV; IDLE. -/
theorem test_witness_system :
    let e : Entry := aBank.entry (.vext (.w 1) 2 false 0) (.toX (.w 1) 9) 0 0 0 0 .plain .core []
    let c : Context := { (trapped.setX (.w 2) 0) with rq := [e] }
    let far : Context := (trapped.setX (.w 2) 64)
    let k2 := keysOf [.w 1, .w 2] c
    let k1 := keysOf [.w 2] c
    let all : List (Instr × List Nat) := [(.rqrd (.w 1) (.w 2), k2), (.rqinj (.w 2), k1), (.tlbinv (.w 2) false .dev, k1), (.idle (.w 2), k1)]
    issues (holding c) all = true ∧ issues (holding far) all = true ∧ issues (holding aBank) all = true
      ∧ c.rq[(c.x (.w 2)).toNat]? = some e ∧ (e.destPos.all fun n => decide (c.lo ≤ n)) = true ∧ e.op = .toX (.w 1) 9 ∧ c.fly = [] ∧ c.xfer = none ∧ 64 ≤ (far.x (.w 2)).toNat
      ∧ far.rq.length ≤ (far.x (.w 2)).toNat
      ∧ ((holding c).cores.all fun x => (x.2.bank.fly ++ x.2.other.fly).isEmpty && x.2.bank.gens.isEmpty && !x.2.accessing 0 0) = true
      ∧ (let far : Entry := aBank.entry (.ldb (.w 1) aMem) (.load 1 false (.w 1)) 0 0 0 0x100000000 .plain .core [⟨0x80000, 1, false⟩]
         let on (k : Nat) : State := { holding c with cores := [(0, { Core.reset with bank := c }), (k, { Core.reset with bank := { aBank with fly := [far] } })] }
         inScope .core 0 1 = false ∧ inScope .dev 0 1 = true ∧ (on 1).canIssue aTask (.tlbinv (.w 2) false .dev) k1 = true
          ∧ (((on 1).dropLines .dev 0 []).cores.any fun x => inScope .dev 0 x.1 && x.2.accessing 0 0) = true) := by
  decide +kernel

/-! ### Witnesses: tiles, streams, blocks, copies -/

/-- A tile descriptor: level, tag, rows, columns, bytes from row to row, base. -/
def tileAt (lvl tag rows cols stride base : Nat) : BitVec 128 :=
  BitVec.ofNat 128 (lvl * 2 ^ 126 + tag * 2 ^ 120 + (rows - 1) * 2 ^ 110 + (cols - 1) * 2 ^ 100 + stride / 16 * 2 ^ 80 + base)

/-- A bank with descriptors d1 and d2. -/
def tiles (a b : BitVec 128) : Context := (aBank.setDesc 1 a).setDesc 2 b

/-- TileCopyIssues: two tiles of the scratchpad, up to its last byte; destinations and sources the checks refuse; a source
tag without a format. -/
theorem test_witness_tile_copy :
    let a := tileAt 1 5 2 3 16 0x3FFFE0
    let b := tileAt 1 5 2 3 16 0x1000
    let ok (x y : BitVec 128) : Bool := issues (holding (tiles x y)) [(.ldt 1 2 .core .none, keyD 1 ++ keyD 2)]
    let s := holding (tiles a b)
    ok a b = true ∧ ldtCheck [] a b .none = none ∧ aTask.clustered = false
      ∧ (match s.tileSpans 0 aTask b 12 .load with | .ok xs => xs.length == 2 | _ => false) = true
      ∧ (match s.tileSpans 0 aTask a 12 .store with | .ok xs => xs.length == 2 | _ => false) = true
      ∧ elemBytes (dCols b) (containerOf [] (dTag b)) = 12
      ∧ dLvl (tileAt 2 5 2 3 16 0x100000000) = 2 ∧ ok (tileAt 2 5 2 3 16 0x100000000) b = true
      ∧ dLvl (tileAt 3 5 2 3 16 0) = 3 ∧ ok a (tileAt 3 5 2 3 16 0) = true
      ∧ dRows (tileAt 1 5 1024 3 16 0) = 1024 ∧ ok a (tileAt 1 5 1024 3 16 0) = true
      ∧ (let m : State := s.setDie 0 { Die.reset with moves := [⟨0, 1, 7, 0, 0⟩] }
         let sc := tileAt 0 5 2 3 16 (7 * 2 ^ 27)
         let ms : State := m.setCtx (tiles sc b)
         dLvl sc = 0 ∧ ms.setMoving 0 aTask.serial (dHandle sc) = true ∧ ldtCheck [] sc b .none = none
          ∧ issues ms [(.ldt 1 2 .core .none, keyD 1 ++ keyD 2)] = true)
      ∧ dBad (tileAt 1 16 2 3 16 0) = false ∧ classOf [] (dTag (tileAt 1 16 2 3 16 0)) = .invalid
      ∧ ok a (tileAt 1 16 2 3 16 0x1000) = true := by
  decide +kernel

/-- A stream of a generator. -/
def aStream (write : Bool) (d : BitVec 128) : Stream :=
  { cfg := ⟨write, .core, .none, false, false, false, false, false, 0⟩, tile := d, idx := 0, rep := 1, wtag := 0, fts := [],
    gate := 0xFFFF, gateFrom := 0, order := 0, tokBits := 0, pos := [], taken := [], lines := [], fault := none, wait := 0,
    packBlk := none, packed := [], packBad := false, msg := 0, got := [], rows := [] }

/-- A bank with streams on generator 3. -/
def withStreams (xs : List Stream) : Context := aBank.setGen 3 { Gen.reset with streams := xs }

/-- StreamCommands: SBIND with no, one and two streams, and with a descriptor its checks refuse; SGATE and SWAIT with none
and with one. -/
theorem test_witness_stream_commands :
    let cfg : StreamCfg := ⟨true, .core, .none, false, false, false, false, false, 0⟩
    let d := tileAt 1 3 16 16 64 0x3000
    let x := aStream true d
    let i : Instr := .sbind 3 1 0 cfg 1 0
    let put (n : Nat) : State := holding ((withStreams (List.replicate n x)).setDesc 1 d)
    let bad : Context := aBank.setDesc 1 (tileAt 3 3 16 16 64 0)
    x.check aBank 0 (word0 i) = none ∧ (aStream true (tileAt 3 3 16 16 64 0)).check bad 0 (word0 i) = some (cIllegal, word0 i)
      ∧ issues (holding bad) [(i, keyD 1)] = true ∧ (put 0).ctx.settling = false
      ∧ (List.all [0, 1, 2] fun n => ((put n).ctx.gen 3).streams.length == n
          && issues (put n) [(i, keyD 1), (.sgate 3 7 9, keyP 7), (.swait 3 .dev, [])] && decide ((put n).streamEntries 0 < 32)) = true
      ∧ (let full : State := (put 1).setCore 0 { (put 1).core 0 with
            other := { Context.reset with gens := [(0, { Gen.reset with streams := List.replicate 31 x })] } }
         32 ≤ full.streamEntries 0 ∧ (full.ctx.gen 3).streams.length < 2 ∧ issues full [(i, keyD 1)] = true)
      ∧ (((put 1).ctxInfo 0 0).compat.getD 0).getLsbD 1 = false ∧ x.fault = none := by
  decide +kernel

/-- A block program of one page that does nothing, and one with an edge channel. -/
def aProg : Prog := ⟨0, 0, 1, 0, 1, [1, 1, 1, 1], 0, [], [], []⟩
def edgeProg : Prog := { aProg with streams := [⟨⟨1, 0, 0⟩, ⟨0, 0, 0⟩, 15, 0, 0, 0⟩] }

/-- The device with a code object of one block for the task, and handle 7 of its bank. -/
def withBlock (p : Prog) (hd : Handle) (hs : Sparse Handle) : State :=
  { holding { aBank with hs := hs.set 7 hd } with codes := [(0, ⟨0, [], [], [], [], [(p, [])], 0, [], []⟩)] }

/-- BlockLoads: a page set that is being moved; no such block; one that breaks a rule; both places of a handle taken; a page set that fits, with a block and
without; the last free rectangle and none; a slot another page set holds; more pages than the task's quota. -/
theorem test_witness_block_loads :
    let q : PageSet := ⟨5, 6, 1, 1, 0⟩
    let b := newBlock 0 0 aProg
    let ok (s : State) : Bool := issues s [(.fload 7 0, [])]
    let set (cur next : Option Block) : State := withBlock aProg ⟨some q, cur, next, [], [], [], [], []⟩ []
    let other : Handle := ⟨some { q with claims := 0x8000 }, none, none, [], [], [], [], []⟩
    let clash := withBlock edgeProg Handle.reset [(0, other)]
    let wide : Prog := { aProg with pw := 2 }
    let s := withBlock aProg Handle.reset []
    let full (n : Nat) : State :=
      s.setDie 0 { Die.reset with pages := (List.range n).map fun k => (k, .owned 9 3 1) }
    (holding aBank).blockImage aTask 0 = none ∧ ok (holding aBank) = true
      ∧ ({ aProg with streams := [⟨⟨3, 0, 0⟩, ⟨0, 0, 0⟩, 0, 0, 0, 0⟩] } : Prog).ok = false
      ∧ s.blockImage aTask 0 = some aProg ∧ aProg.ok = true ∧ aProg.edgeClaims = 0 ∧ (s.ctx.slotsHeld 7 &&& aProg.edgeClaims) = 0
      ∧ ok (set (some b) (some b)) = true ∧ ok (set (some b) none) = true ∧ ok (set none none) = true
      ∧ s.ctx.pagesUsed 7 + 1 * 1 ≤ aTask.quota ∧ s.ctx.settling = false
      ∧ s.rectFor 0 0 7 1 1 = some (0, 0) ∧ (full 255).rectFor 0 0 7 1 1 = some (15, 15) ∧ (full 256).rectFor 0 0 7 1 1 = none
      ∧ (s.die 0).waits = [] ∧ (s.die 0).moves = [] ∧ s.setMoving 0 1 7 = false
      ∧ (let m : State := s.setDie 0 { Die.reset with moves := [⟨0, 1, 7, 0, 0⟩] }
         m.setMoving 0 aTask.serial 7 = true ∧ ok m = true)
      ∧ (rectPages 15 15 1 1).all ((full 255).cleared 0) = true ∧ ok (full 255) = true ∧ ok (full 256) = true
      ∧ edgeProg.ok = true ∧ (clash.ctx.slotsHeld 7 &&& edgeProg.edgeClaims) ≠ 0 ∧ ok clash = true
      ∧ wide.ok = true ∧ aTask.quota < (withBlock wide Handle.reset []).ctx.pagesUsed 7 + 3 * 1
      ∧ ok (withBlock wide Handle.reset []) = true := by
  decide +kernel

/-- BlockCommands: a block to start in either place, none, one whose N is refused; blocks loaded and running; frozen blocks;
FQRY. -/
theorem test_witness_block_commands :
    let q : PageSet := ⟨5, 6, 1, 1, 0⟩
    let b : Block := { newBlock 0 0 aProg with ready := true }
    let mat : Block := { b with prog := { aProg with modes := 2 } }
    let set (cur next : Option Block) : State := withBlock aProg ⟨some q, cur, next, [], [], [], [], []⟩ []
    let is : List (Instr × List Nat) :=
      [(.fstart 7, []), (.fbar .core, []), (.fwait .core 0x80, []), (.frestart 7, []), (.fqry (.w 1) 7 10, keysOf [.w 1] aBank),
        (.fqry (.w 1) 7 0, keysOf [.w 1] aBank)]
    let ice : Block := { b with st := .frozen, trap := some ⟨cAliasKind, 0, ⟨0, 0, 0, 0, 0, 0, 0, [], 0⟩⟩ }
    ((set (some b) none).ctx.handle 7).startable = some (false, b) ∧ aBank.startCheck 0 7 aProg 0 = none
      ∧ ((set (some { b with st := .draining }) (some b)).ctx.handle 7).startable = some (true, b)
      ∧ ((set none none).ctx.handle 7).startable = none ∧ ((set none none).ctx.handle 7).frozen = none
      ∧ aBank.startCheck 0 7 mat.prog 9 = some (cIllegal, 9) ∧ ((set (some mat) none).ctx.handle 7).startable = some (false, mat)
      ∧ keysOf b.prog.regs aBank = [] ∧ issues (set (some mat) none) [(.fstart 7, keysOf mat.prog.regs aBank)] = true
      ∧ issues (set (some b) none) is = true ∧ issues (set none none) is = true
      ∧ ((set (some b) none).ctx.blocks.all fun e => e.2.2.st == .loaded) = true ∧ (set (some b) none).setMoving 0 1 7 = false
      ∧ (let m : State := (set (some b) none).setDie 0 { Die.reset with moves := [⟨0, 1, 7, 0, 0⟩] }
         m.setMoving 0 aTask.serial 7 = true ∧ issues m [(.fstart 7, [])] = true)
      ∧ ((set (some { b with st := .running }) none).ctx.blocks.any fun e => (0x80 : BitVec 8).getLsbD e.1 && e.2.2.st == .running) = true
      ∧ issues (set (some { b with st := .running }) none) is = true
      ∧ ((set (some ice) none).ctx.handle 7).frozen = some (false, ice) ∧ ice.copies = [] ∧ issues (set (some ice) none) is = true := by
  decide +kernel

/-- A bank with four addresses in w1 to w4. -/
def four (a b c d : Word) : Context := (((aBank.setX (.w 1) a).setX (.w 2) b).setX (.w 3) c).setX (.w 4) d

/-- A copy of four bytes. -/
def aCopy : Copy := ⟨1, 0, 0, false, 0, 0, 0x1000, 0x2000, 4, none, spadPlace 0 0, .core, 0, .moving, 0, none, 0, [], 0, [], []⟩

/-- A value at each of the first n keys. -/
theorem test_find_row {α : Type} (a : α) (n m : Nat) :
    Sparse.find ((List.range n).map fun j => (j, a)) m = if m < n then some a else none := by
  have app (xs ys : Sparse α) : Sparse.find (xs ++ ys) m = (Sparse.find xs m).or (Sparse.find ys m) := by
    induction xs with
    | nil => rfl
    | cons x t ih => obtain ⟨k, v⟩ := x; simp only [List.cons_append, Sparse.find]; split <;> simp [ih]
  induction n with
  | zero => rfl
  | succ n ih =>
    rw [List.range_succ, List.map_append, app, ih]
    simp only [List.map_cons, List.map_nil, Sparse.find]
    split <;> split <;> (try split) <;> first | rfl | omega

/-- A bank that asks for a copy, with its first n slots in use. -/
def inUse (n : Nat) : State :=
  let base := four 0x2000 0x1000 0x1000 0x3FFFF0
  (holding base).setCore 0 { Core.reset with bank := base, copies := (List.range n).map fun j => (j, aCopy), engines := n }

/-- CopiesIssue: the last free slot, and none. -/
theorem test_witness_copy_slots :
    (Sparse.find ((inUse 511).core 0).copies 511).isNone = true
      ∧ (∀ m, m < 511 → (Sparse.find ((inUse 511).core 0).copies m).isSome = true)
      ∧ (∀ m, m < 512 → (Sparse.find ((inUse 512).core 0).copies m).isSome = true) := by
  have slots (n : Nat) : ((inUse n).core 0).copies = (List.range n).map fun j => (j, aCopy) := rfl
  refine ⟨?_, fun m h => ?_, fun m h => ?_⟩
  · rw [slots, test_find_row]; rfl
  · rw [slots, test_find_row, if_pos h]; rfl
  · rw [slots, test_find_row, if_pos h]; rfl

/-- CopiesIssue: counts at the ends of their range, ranges that overlap and that touch, completion words misaligned, outside
and at the end of the scratchpad; with the last slot free, and with none. -/
theorem test_witness_copies :
    let i (f : Option XReg) : Instr := .acopy (.w 1) (.w 2) (.w 3) (.w 4) f .core 0
    let ok (c : Context) : Bool := issues (holding c) [(i none, keysOf [.w 1, .w 2, .w 3, .w 4] c), (i (some (.w 5)), keysOf [.w 1, .w 2, .w 3, .w 4, .w 5] c)]
    let base := four 0x2000 0x1000 0x1000 0x3FFFF0
    ok base = true ∧ (0x1000 : Nat) ≤ ((0x2000 : Word) - 0x1000).toNat ∧ (0x1000 : Nat) ≤ ((0x1000 : Word) - 0x2000).toNat
      ∧ (2 : Nat) ^ 32 ≤ (0x100000000 : Word).toNat ∧ ok (four 0x200000000 0x600000000 0x100000000 0) = true
      ∧ ((0xFFFFFFFF : Word).toNat < 2 ^ 32) ∧ ok (four 0x200000000 0x600000000 0xFFFFFFFF 0) = true
      ∧ ¬ (0x1001 : Nat) ≤ ((0x2000 : Word) - 0x1000).toNat ∧ ok (four 0x2000 0x1000 0x1001 0) = true
      ∧ (4 : Word).toNat % 8 ≠ 0 ∧ ok (four 0x2000 0x1000 0 4) = true
      ∧ 0x1400000 ≤ (0x1400000 : Word).toNat ∧ ok (four 0x2000 0x1000 0 0x1400000) = true
      ∧ oneWindow 0x1000 0x1000 = true ∧ oneWindow 0x2000 0x1000 = true
      ∧ (holding base).checkAccess 0 aTask 0x3FFFF0 16 16 .store = .ok (spadPlace 0 0x3FFFF0)
      ∧ (holding base).checkAccess 0 aTask 0x3FFFF0 8 8 .store = .ok (spadPlace 0 0x3FFFF0)
      ∧ aCopy.st = .moving
      ∧ issues (inUse 511) [(i none, keysOf [.w 1, .w 2, .w 3, .w 4] base)] = true
      ∧ issues (inUse 512) [(i none, keysOf [.w 1, .w 2, .w 3, .w 4] base)] = true := by
  decide +kernel

/-- BarrierObjects: counts and generations at the ends of their ranges, a misaligned object, one at the end of the
scratchpad; a generation reached at the last distance that counts, and one further. -/
theorem test_witness_barrier_objects :
    let c (a v : Word) : Context := (aBank.setX (.w 1) a).setX (.w 2) v
    let ok (c : Context) : Bool :=
      let ks := keysOf [.w 1, .w 2] c
      issues (holding c) [(.binit (.w 1) (.w 2) 0 .core, ks), (.bexpect (.w 1) (.w 2) 0 .core, ks), (.bwait (.w 1) (.w 2) 0 .core, ks)]
    let s := holding (c 0x3FFFF0 1)
    ok (c 0 0x1000000000000) = true ∧ (2 : Nat) ^ 48 ≤ (0x1000000000000 : Word).toNat
      ∧ ok (c 0 0x10000) = true ∧ ok (c 8 0xFFFF) = true ∧ (8 : Word).toNat % 16 ≠ 0
      ∧ ok (c 0x3FFFF0 0xFFFFFFFFFFFF) = true ∧ (0xFFFFFFFFFFFF : Word).toNat < 2 ^ 48
      ∧ s.checkAccess 0 aTask 0x3FFFF0 16 16 .atomic = .ok (spadPlace 0 0x3FFFF0)
      ∧ s.checkAccess 0 aTask 0x3FFFF0 16 16 .load = .ok (spadPlace 0 0x3FFFF0) ∧ s.ctx.fly = []
      ∧ s.ctx.rq ++ s.ctx.susp = [] ∧ (s.cores.all fun y => y.2.copies.isEmpty) = true
      ∧ s.poisonPast [] [⟨spadPlace 0 0x3FFFF0, 16, false⟩] = none
      ∧ (BarObj.ofBits (s.natAt (spadPlace 0 0x3FFFF0) 16)).gen = 0
      ∧ (0 + 2 ^ 16 - 0x8001) % 2 ^ 16 < 2 ^ 15 ∧ 2 ^ 15 ≤ (0 + 2 ^ 16 - 0x8000) % 2 ^ 16 ∧ ok (c 0x3FFFF0 0x8001) = true
      ∧ ok (c 0x3FFFF0 0x8000) = true ∧ (s.cores.all fun y => y.2.copies.isEmpty) = true := by
  decide +kernel

/-! ### Witnesses: column operations -/

/-- A block with in ports 0 to 3 of tile 0 fed by links (ports 0 and 1 with elements of four slots) and out port 7 by way of
generator 2. -/
def colProg (modes : Word) (fcw : Half) : Prog :=
  { aProg with
    modes := modes, cols := (List.range 6).map fun k => ⟨0, k, fcw, []⟩,
    streams := [⟨⟨0, 1, 0⟩, ⟨0, 0, 0⟩, 0, 2, 0, 0⟩, ⟨⟨0, 1, 1⟩, ⟨0, 0, 1⟩, 4, 0, 0, 0⟩, ⟨⟨0, 1, 2⟩, ⟨0, 0, 2⟩, 8, 0, 0, 0⟩,
      ⟨⟨0, 1, 3⟩, ⟨0, 0, 3⟩, 12, 0, 0, 0⟩, ⟨⟨0, 0, 7⟩, ⟨1, 2, 0⟩, 0, 2, 0, 0⟩, ⟨⟨0, 0, 6⟩, ⟨1, 3, 0⟩, 8, 1, 0, 0⟩] }

/-- Tokens in the queues of ports 0 to 3 of tile 0, in a lane. -/
def portTokens (lane : Nat) (t : Token) : Sparse (List (Nat × Token)) := (List.range 4).map fun p => (16 * p + lane, [(0, t)])

/-- A token. -/
def aToken (v : BitVec 128) (tag : Tag) (empty rsym : Bool) : Token := ⟨v, tag, empty, [], 0, rsym, .good, false⟩

/-- A lane's word in column col. -/
def wordAt (lane col : Nat) : LaneWord := ⟨0, col, 0, 0, lane, 3, 7, [4, 5, 6, 7], 0⟩

/-- The device with word i due in a lane: the block's fields, and the cells c0, c1 of the column. -/
def colState (i : Instr) (w : LaneWord) (b : Block) (c0 c1 : Half × Tag) (g : Machine.Gen) : State :=
  let h : Handle := { Handle.reset with
    pset := some ⟨5, 6, 1, 1, 0⟩, cur := some b,
    cells := [(cellKey w.tile w.col w.lane 0, c0), (cellKey w.tile w.col w.lane 1, c1)] }
  { holding { aBank with hs := [(0, h)], gens := [(2, g)] } with due := [.word 0 0 false w i], work := some ⟨b.lc, h, [], []⟩ }

/-- The block those words belong to. -/
def colBlock (modes : Word) (fcw : Half) : Block := { newBlock 0 0 (colProg modes fcw) with st := .running, ready := true }

/-- The word is due, and its operands, under their tags, are as many as asked for. -/
def takes (s : State) (i : Instr) (n : Nat) (ep : Ep) (ok : Fab → Nat → Tag → Bool) (qs : List (QSrc × BitVec 5)) : Bool :=
  match s.fabOf i with
  | some f => (match f.opnds ep (fun _ => 0) (ok f) qs with | .ok xs => xs.length == n | .error _ => false)
  | none => false

/-- A test of the word that is due. -/
def dueIs (s : State) (i : Instr) (p : Fab → Bool) : Bool := match s.fabOf i with | some f => p f | none => false

/-- ColumnIntegerOperations: each operation with operands it takes; empty operands under the forward policy; an operand it
does not take. -/
theorem test_witness_column_integers :
    let o : QOp2 := ⟨⟨0, false⟩, .cell 2, .cell 0, .cell 1, 0, .absorb⟩
    let o3 : QOp3 := ⟨⟨0, false⟩, .cell 2, .cell 0, .cell 1, .zero, 0, .absorb⟩
    let o1 : QOp1 := ⟨⟨0, false⟩, .cell 2, .cell 0, 0, .absorb⟩
    let w := wordAt 15 0
    let b := colBlock 1 0
    let put (i : Instr) : State := colState i w b (5, 3) (7, 0) Gen.reset
    let ints : List Instr := [.qadd o .wrap, .qadd o .signed, .qadd o .unsigned, .qsub o .wrap, .qsub o .signed, .qsub o .unsigned,
      .qmin o false, .qmin o true, .qmax o false, .qmax o true, .qcmp o .eq, .qcmp o .lt, .qcmp o .leu]
    let e : QOp2 := { o with s1 := .inp 1, ep := .forward }
    let full : Block := { b with rx := portTokens 15 (aToken 0 1 true false) }
    (ints.all fun i => takes (put i) i 2 .absorb (fun f _ => f.okInt) (srcs2 o)) = true
      ∧ (List.all [Instr.qand o, .qor o, .qxor o] fun i => takes (put i) i 2 .absorb (fun f _ => f.okAny) (srcs2 o)) = true
      ∧ takes (colState (.qmul o .wrap) w (colBlock 1 0x3F) (5, 1) (7, 0) Gen.reset) (.qmul o .wrap) 2 .absorb Fab.okMul (srcs2 o) = true
      ∧ (List.all [Sat.wrap, .signed] fun sa => takes (colState (.qmac o3 sa) w (colBlock 1 0x3F) (5, 1) (7, 0) Gen.reset) (.qmac o3 sa) 3
          .absorb Fab.okMul (srcs3 o3)) = true
      ∧ takes (put (.qsel o3)) (.qsel o3) 3 .absorb (fun f _ => f.okAny) (srcs3 o3) = true
      ∧ (List.all [Instr.qshl o1 (.src (.cell 1)), .qshr o1 (.src (.cell 1)), .qsra o1 (.src (.cell 1))] fun i =>
          takes (put i) i 2 .absorb (fun f _ => f.okAny) [(o1.s1, o1.xoff), (.cell 1, 0)]) = true
      ∧ (List.all [Instr.qshl o1 (.imm 31), .qshr o1 (.imm 31), .qsra o1 (.imm 31)] fun i =>
          takes (put i) i 1 .absorb (fun f _ => f.okAny) [(o1.s1, o1.xoff)]) = true
      ∧ dueIs (colState (.qadd e .wrap) w full (5, 3) (7, 0) Gen.reset) (.qadd e .wrap) (fun f =>
          match f.opnds .forward (fun _ => 0) (fun _ => f.okInt) (srcs2 e) with | .ok [x, _] => x.empty | _ => false) = true
      ∧ dueIs (colState (.qadd o .wrap) w b (5, 5) (7, 0) Gen.reset) (.qadd o .wrap) (fun f =>
          match f.opnds .absorb (fun _ => 0) (fun _ => f.okInt) (srcs2 o) with | .error _ => true | _ => false) = true := by
  decide +kernel

/-- ColumnFloatAndMoves: operands under FT5; a conversion with and without an overflow under TRAP; each form of QMOV. -/
theorem test_witness_column_floats :
    let o : QOp2 := ⟨⟨0, false⟩, .cell 2, .cell 0, .cell 1, 0, .absorb⟩
    let o3 : QOp3 := ⟨⟨0, false⟩, .cell 2, .cell 0, .cell 1, .cell 1, 0, .absorb⟩
    let o1 : QOp1 := ⟨⟨0, false⟩, .cell 2, .cell 0, 0, .absorb⟩
    let w := wordAt 0 5
    let b := colBlock 1 0
    let put (i : Instr) (v : Half) : State := colState i w b (v, 5) (0x40000000, 5) Gen.reset
    let cv : Instr := .qcvt o1 8 .rne .trap 3 0
    let h : QHead := ⟨0, false⟩
    (List.all [Instr.qfadd o .rne, .qfmul o .rtz, .qfmin o, .qfmax o] fun i =>
        takes (put i 0x3F800000) i 2 .absorb (fun _ _ t => t == 5) (srcs2 o)) = true
      ∧ takes (put (.qfma o3 .rne) 0) (.qfma o3 .rne) 3 .absorb (fun _ _ t => t == 5) (srcs3 o3) = true
      ∧ (List.all [(0x3F800000 : Half), 0x7F7FFFFF] fun v => dueIs (put cv v) cv (fun f =>
          match f.opnds .absorb (fun _ => 0) (fun _ g => (cvtSource f.b.fts g).isSome && decide (0 < 32 / containerOf f.b.fts g)) [(o1.s1, 0)],
              cvtSource f.b.fts 5, fmtOf f.b.fts 8 with
          | .ok [x], some fs, some fd =>
            !x.empty && decide (3 < 32 / containerOf f.b.fts 8)
              && (convert (fs.decode (x.val.toNat / 2 ^ (32 * 0) % 2 ^ 32)) fd .rne .trap 0).ovf == (v == 0x7F7FFFFF)
          | _, _, _ => false)) = true
      ∧ (List.all [Instr.qmov h (.cell 2) (.move (.cell 0) 0) .absorb, .qmov h (.cell 2) (.tag (.cell 0) 0 63) .absorb] fun i =>
          takes (put i 0) i 1 .absorb (fun f _ => f.okAny) [(.cell 0, 0)]) = true
      ∧ (List.all [Instr.qmov h (.out 7) (.lo 0xFFF) .absorb, .qmov h (.cell 15) (.mid 0xFFF) .absorb, .qmov h .none (.hi 0xFF) .absorb]
          fun i => dueIs (put i 0) i fun _ => true) = true := by
  decide +kernel

/-- ColumnPortsAndLanes: tokens there to take, to peek and to test; the lanes and items at the ends of their ranges; tags
that are accepted and one that is not; a reduction's first lane and a later one. -/
theorem test_witness_column_ports :
    let h : QHead := ⟨15, true⟩
    let tok := aToken 9 1 false false
    let b : Block := { colBlock 1 0 with rx := portTokens 15 tok ++ [] }
    let w := wordAt 15 0
    let put (i : Instr) : State := colState i w b (5, 3) (0, 16) Gen.reset
    let low (i : Instr) : State := colState i (wordAt 0 0) { b with rx := portTokens 0 tok } (5, 3) (0, 16) Gen.reset
    let red : Instr := .qredl h (.cell 2) (.cell 0) .add .rne .absorb
    let lane (z : Bool) (x : BitVec 5) (c : Fin 16) : Instr := .qlane h (.cell 2) c x z
    let has (s : State) (i : Instr) : Bool := dueIs s i fun _ => true
    has (put (.qnop h)) (.qnop h) = true
      ∧ (List.all [true, false] fun peek => takes (put (.qrecv h (some 3) 1 peek .absorb)) (.qrecv h (some 3) 1 peek .absorb) 1 .absorb
          (fun f _ => f.okAny) [(.inp 1, 0)]) = true
      ∧ takes (put (.qsend h 7 (.cell 0) (some 1) false 0 .absorb)) (.qsend h 7 (.cell 0) (some 1) false 0 .absorb) 1 .absorb
          (fun f _ => f.okAny) [(.cell 0, 0)] = true
      ∧ dueIs (put (.qempty h (some 3) 1 true)) (.qempty h (some 3) 1 true) (fun f =>
          match f.head 1 with | .ok t => t == tok | .error _ => false) = true
      ∧ has (put (.qiter h (.cell 2) 3)) (.qiter h (.cell 2) 3) = true ∧ has (put (.qiter h (.cell 2) 4)) (.qiter h (.cell 2) 4) = true
      ∧ (0 : Int) - (1 : BitVec 5).toInt < 0 ∧ (15 : Int) < 15 - (31 : BitVec 5).toInt ∧ has (low (lane true 1 0)) (lane true 1 0) = true
      ∧ has (put (lane true 31 0)) (lane true 31 0) = true ∧ has (put (lane true 15 0)) (lane true 15 0) = true
      ∧ has (low (lane false 16 1)) (lane false 16 1) = true
      ∧ dueIs (put (lane false 0 0)) (lane false 0 0) (fun f => f.okAny (f.cell 15 0).2 && !f.okAny (f.cell 15 1).2 && f.okAny 0) = true
      ∧ dueIs (put (.qbcast h (.out 7) 1 15)) (.qbcast h (.out 7) 1 15) (fun f => !f.okAny (f.cell 15 1).2) = true
      ∧ takes (low red) red 1 .absorb (fun f _ => f.okInt) [(.cell 0, 0)] = true
      ∧ takes (colState red w { b with red := [(w.redKey, 6)] } (5, 3) (0, 0) Gen.reset) red 1 .absorb (fun f _ => f.okInt) [(.cell 0, 0)] = true
      ∧ Sparse.find ([(w.redKey, 6)] : Sparse Half) w.redKey = some 6 := by
  decide +kernel

/-- ColumnTileOperations, first part: scales; a drain to FT5 with and without an overflow, one without a stream; a tile step
with its tokens, and one that lacks the tokens of B. -/
theorem test_witness_column_matrix :
    let h : QHead := ⟨0, false⟩
    let w0 := wordAt 15 0
    let w5 := wordAt 15 5
    let b := colBlock 2 0x3
    let sc : Instr := .qscale h (.lane (.cell 0))
    let dr (ov : Ovf) : Instr := .qdrain h 6 15 31 ov .rne false
    let out : Machine.Gen := { Machine.Gen.reset with streams := [aStream true (tileAt 1 5 16 16 64 0x3000)] }
    let big : Tun := { Tun.start with anchor := 200, started := true, sig := 2 ^ 60 }
    let drain (ov : Ovf) (t : Tun) : State :=
      let s := colState (dr ov) w5 { b with acc := [(accKey 0 15 511, t)] } (0, 0) (0, 0) Gen.reset
      s.setBank 0 { s.bank 0 with gens := [(3, out)] }
    let st (lb : Bool) : Instr := .qtstep h 0 0 31 3 lb true
    let step (lb : Bool) : State := colState (st lb) w0 { b with rx := portTokens 15 (aToken 0x0101 1 false false) } (0, 0) (0, 0) Gen.reset
    takes (colState sc w0 b (0x7F, 13) (0, 0) Gen.reset) sc 1 .absorb (fun _ _ t => t == 13) [(.cell 0, 0)] = true
      ∧ dueIs (colState (.qscale h (.tensor 3)) w0 b (0, 0) (0, 0) Gen.reset) (.qscale h (.tensor 3)) (fun _ => true) = true
      ∧ dueIs (colState (dr .sat) w5 b (0, 0) (0, 0) Gen.reset) (dr .sat) (fun f => f.outTag 6 == none) = true
      ∧ (List.all [(Tun.start, false), (big, true)] fun x => dueIs (drain .trap x.1) (dr .trap) (fun f =>
          f.outTag 6 == some 5 && f.slots 6 == 2
            && (tunDrain (f.tun 511) Fmt.fp32 .rne .trap (f.draw f.drainCount) (f.drainScale 0) (f.drainScale 1)).ovf == x.2)) = true
      ∧ (List.all [false, true] fun lb => dueIs (step lb) (st lb) (fun f =>
          let j : Job := ⟨f.w, 0, 1, 31, 4, lb, true, f.interval, [], [], []⟩
          let f1 : Fab := { f with b := { f.b with jobs := f.b.jobs ++ [j] } }
          f.b.job f.w == none && f.w.rel == 0 && match f1.stepStart j with
            | .error _ => lb
            | .ok f2 => !lb && match f2.b.job f2.w with
              | some j2 => decide (0 < j2.rep * j2.interval) && (match f2.stepTake j2 with | .ok _ => true | .error _ => false)
              | none => false)) = true := by
  decide +kernel

/-- ColumnTileOperations, second part: symbols that begin a matrix, that are none, and whose matrix has no row; loads of the
last entry and the one after it, of a tag that is not FT14; drains of a final, an overflowed and an unwritten entry. -/
theorem test_witness_column_rules :
    let h : QHead := ⟨0, false⟩
    let b := colBlock 3 0
    let w := wordAt 15 3
    let sym (v : BitVec 128) (rs : Bool) : State :=
      colState (.qrsym h) w { b with rx := portTokens 15 (aToken v 0 false rs) } (0, 0) (0, 0) Gen.reset
    let w4 := { wordAt 15 4 with init := 0 }
    let ld (p : Fin 8) (n : Nat) (tag : Tag) (e0 : BitVec 10) : State × Instr :=
      (colState (.qrload h p e0) { w4 with init := n } { b with rx := portTokens 15 (aToken 5 tag false false) } (0, 0) (0, 0) Gen.reset,
        .qrload h p e0)
    let loads (x : State × Instr) (p : Nat) (tag : Tag) (slots : Nat) : Bool := dueIs x.1 x.2 fun f =>
      match f.head p, f.b.prog.feeder 0 p with | .ok t, some e => t.tag == tag && e.slots == slots | _, _ => false
    let dr : Instr := .qrdrain h 7 0x3FF .sat .rne
    let out : Machine.Gen := { Machine.Gen.reset with streams := [aStream true (tileAt 2 14 16 16 128 0x100000000)] }
    let drain (m : Bool × Bool) (g : Machine.Gen) : State :=
      let s := colState dr { wordAt 15 5 with init := 0 } b (0, 0) (0, 0) g
      let c := s.bank 0
      s.setBank 0 (c.setHandle 0 { c.handle 0 with marks := [(15 * 1024 + 1023, m)] })
    dueIs (sym 0 false) (.qrsym h) (fun f => match f.peek 0 15 0 with | .ok t => !t.rsym | _ => false) = true
      ∧ dueIs (sym (1 <<< 96) true) (.qrsym h) (fun f => match f.peek 0 15 0 with
          | .ok t => t.rsym && BitVec.ofNat 32 (t.val.toNat / 2 ^ (32 * f.w.col)) == 1
              && (match f.parseWord 1 with | .ok _ => true | .error _ => false)
          | _ => false) = true
      ∧ dueIs (sym 0 true) (.qrsym h) (fun f => (match f.peek 0 15 0 with | .ok t => t.rsym | _ => false)
          && (Sparse.find f.b.parse f.laneKey).isNone) = true
      ∧ loads (ld 0 0 14 0x3FF) 0 14 4 = true ∧ loads (ld 0 1 14 0x3FF) 0 14 4 = true ∧ loads (ld 0 0 3 0) 0 3 4 = true
      ∧ loads (ld 1 0 14 0) 1 14 1 = true
      ∧ dueIs (drain (true, false) Gen.reset) dr (fun f => f.outTag 7 == none) = true
      ∧ (List.all [(true, false), (true, true), (false, false)] fun m => dueIs (drain m out) dr (fun f =>
          f.outTag 7 == some 14 && f.slots 7 == 4 && f.mark 1023 == m && (fmtOf f.b.fts 14).isNone)) = true := by
  decide +kernel

/-! ### Witnesses: tasks, queues, the selector -/

/-- A code object with one task whose entry line is line n. -/
def taskCode (entry : Nat) : Code := ⟨0, [], [⟨0, 0, 0, 192, 0, 9, entry, 1⟩], [], [], [], 0, [], []⟩

/-- EndOfTask: without successor, with a pre-emption pending and without; a successor with an entry and without; an index
outside the table; a member accessed remotely; a block that runs. -/
theorem test_witness_end :
    let s := holding aBank
    let pre : State := { s with cores := [(0, { Core.reset with bank := aBank, preq := true, incoming := true })] }
    let go (n : Nat) : State := { twoLines aBank with codes := [(0, taskCode n)] }
    let far : Context := { aBank with remote := true }
    let busy := withBlock aProg ⟨some ⟨5, 6, 1, 1, 0⟩, some { newBlock 0 0 aProg with st := .running }, none, [], [], [], [], []⟩ []
    aBank.task = some aTask ∧ s.issuing 0 = true ∧ aBank.xfer = none ∧ aBank.asyncs = [] ∧ aBank.fly = [] ∧ aBank.remote = false
      ∧ aBank.owed = none ∧ aBank.atBound = false
      ∧ aBank.blocks = [] ∧ pre.issuing 0 = true
      ∧ (match exec (.endTask 0xFFFFFFFF) s with | .next u => (u.bank 0).task.isNone | _ => false) = true
      ∧ (go 1).issuing 0 = true ∧ (go 1).targetOk 0 (BitVec.ofNat 64 (128 * 1 + 8)) = true
      ∧ (go 2).targetOk 0 (BitVec.ofNat 64 (128 * 2 + 8)) = false ∧ ((go 1).codeOf aTask).isSome = true
      ∧ (taskCode 1).tasks.length ≤ (1 : BitVec 32).toNat ∧ issues (go 1) [(.endTask 1, [])] = true
      ∧ issues (holding far) [(.endTask 0xFFFFFFFF, [])] = true ∧ issues busy [(.endTask 0xFFFFFFFF, [])] = true
      ∧ (busy.ctx.blocks.any fun e => e.2.2.st == .running) = true := by
  decide +kernel

/-- PreemptionAndSwap: a request taken, with an incoming context and without, one not taken; a swap with its rows back and
with a row away; a bank to spill; a scratchpad bank to exchange, with bytes of its own to bring back. -/
theorem test_witness_preemption :
    let other : Task := { aTask with serial := 2 }
    let k : Core := { Core.reset with bank := { aBank with atBound := true }, other := { aBank with task := some other }, preq := true, incoming := true }
    let s := holding aBank
    let at0 (k : Core) : State := { s with cores := [(0, k)] }
    let rows (r : Bool) : State := { at0 { k with preq := false, swapping := true } with rows := [(3, ⟨.keep, 1, 5, 0, r⟩)] }
    let spad : State := { at0 { k with preq := false, foreign := 2 ^ 63, owners := [(63, 3)] } with spads := [(1, 2 ^ 63)] }
    (List.all [true, false] fun i =>
        let u := at0 { k with incoming := i }
        (u.core 0).preq && u.due.isEmpty && u.together 0 == [0] && u.ready 0 && (u.core 0).copies.isEmpty) = true
      ∧ (at0 { k with swapping := true }).ready 0 = false ∧ (at0 { k with preq := false }).together 0 = [0]
      ∧ (List.all [true, false] fun r => (rows r).together 0 == [0] && ((rows r).core 0).swapping && (rows r).rowsAway 1 == r) = true
      ∧ aBank.susp = [] ∧ k.copies = []
      ∧ ({ k with preq := false, spilling := true } : Core).spilling = true ∧ k.swapping = false ∧ k.other.task = some other
      ∧ spad.memOk = true ∧ (spad.core 0).foreign.getLsbD 63 = true ∧ Sparse.get 0 (spad.core 0).owners 63 = 2 + 1
      ∧ (2 : Nat) ≠ aTask.serial ∧ inBank 63 0x3FFFFF = true ∧ inBank 63 0xFC0 = true ∧ (spad.savedBanks 1).getLsbD 63 = true := by
  decide +kernel

/-- The device with a queue of partition 0 whose ring of sixteen units at 0x1000 holds some units; n are to be read. -/
def ringOf (us : List Nat) (n : Nat) : State :=
  let s := { holding aBank with
    parts := [(0, { Machine.Part.none with live := true, dies := 1, masks := [(0, 0xFF)] })], codes := [(0, taskCode 0)] }
  (s.putBytes (placeOf 0 0x1000) (us.flatMap fun u => bytesOf u 16)).setQueue 0 511
    { Queue.reset with base := 0x1000, wr := BitVec.ofNat 32 n, logsz := 8, st := .active }

/-- A packet's first unit: type, loads, units, code, and its upper half. -/
def unit0 (type nload size code hi : Nat) : Nat := type + nload * 2 ^ 8 + size * 2 ^ 16 + code * 2 ^ 32 + 7 * 2 ^ 48 + hi * 2 ^ 64

/-- A load of one entry: task 0, no cluster, any die. -/
def oneEntry : List Nat := [1, 0xFFFF * 2 ^ 16, 0, 0, 0, 0]

/-- LaunchPackets, first part: packets with each error the statement names, a NOP and two launches that are accepted. -/
theorem test_witness_packets :
    let launch (wkind wval code : Nat) : List Nat := [unit0 1 1 8 code (wkind * 2 ^ 24), wval] ++ oneEntry
    let is (s : State) (type err : Nat) : Bool :=
      let x := s.queue 0 511
      let p := s.packet 0 x
      (s.part 0).live && x.st == .active && x.avail != 0 && p.type == type && s.packetErr 0 x p == err
    let p4 := (ringOf (launch 0 0 9) 8).packet 0 ((ringOf (launch 0 0 9) 8).queue 0 511)
    is (ringOf [unit0 2 0 2 0 0, 0] 2) 2 1 = true ∧ is (ringOf [unit0 0 0 2 0 0] 1) 0 2 = true
      ∧ is (ringOf [unit0 1 0 2 0 0, 0] 2) 1 3 = true ∧ is (ringOf (launch 0 0 9) 8) 1 4 = true
      ∧ 1 ≤ p4.nload ∧ p4.nload ≤ 64 ∧ p4.size = p4.len ∧ p4.size = 8 ∧ p4.bad = false ∧ p4.recBad = false ∧ p4.ckind ≠ 3 ∧ p4.wkind ≠ 3
      ∧ Sparse.find (ringOf [] 0).codes (65536 * 0 + 9) = none
      ∧ is (ringOf [unit0 0 0 2 0 0, 0] 15) 0 0 = true ∧ is (ringOf (launch 0 0 0) 8) 1 0 = true
      ∧ is (ringOf (launch 1 5 0) 8) 1 0 = true ∧ (ringOf (launch 1 5 0) 8).counter 0 0 < 5
      ∧ ((ringOf (launch 1 5 0) 8).packet 0 ((ringOf (launch 1 5 0) 8).queue 0 511)).wval = 5 := by
  decide +kernel

/-- A graph with one load of one entry. -/
def aGraph (st : GraphSt) (e : EntSt) : Graph := ⟨0, 511, 7, 0, 1, 0, 3, 0, 0, 0, [[⟨0, 0xFFFF, 0, [1, 2], e⟩]], st, 0⟩

/-- LaunchPackets, second part: a graph that waits and may start, one whose load has ended, with another load and without,
one to complete, and a KICK to clear. -/
theorem test_witness_graphs :
    let put (g : Graph) : State := { ringOf [] 0 with graphs := [(3, g)] }
    let more : Graph := { aGraph .running .ended with loads := [[], []] }
    (put (aGraph .waiting (.waiting 0))).condHolds (aGraph .waiting (.waiting 0)) = true
      ∧ ((aGraph .running .ended).load.all fun e => e.st == .ended) = true ∧ (more.load.all fun e => e.st == .ended) = true
      ∧ (put more).loadCopies 3 0 = false ∧ (put more).writesVisible 0 = true ∧ ((put more).part 0).holding = false
      ∧ Sparse.find (put (aGraph .completing .ended)).graphs 3 = some (aGraph .completing .ended)
      ∧ (List.all [0, 1, 2] fun k =>
          match exec (.graphComplete 0 3) (put { aGraph .completing .ended with ckind := BitVec.ofNat 2 k }) with
          | .next u => (Sparse.find u.graphs 3).map Graph.st == some .done
          | _ => false) = true := by
  decide +kernel

/-- The device whose partition has one task to dispatch, of age 3, which makes it urgent. -/
def urgent : State :=
  { holding Context.reset with
    parts := [(0, { Machine.Part.none with live := true, dies := 1, select := true })], codes := [(0, taskCode 0)],
    graphs := [(3, aGraph .ready (.waiting 3))] }

/-- The unit it forms. -/
def urgentUnit : DispUnit := ⟨3, [(0, ⟨0, 0xFFFF, 0, [1, 2], .waiting 3⟩)], [], 3, 0, 511⟩

/-- SelectorSteps: nothing to dispatch; and, on a device whose core 0 is not fused off (Config leaves it open), a unit that
is chosen and its core. -/
theorem test_witness_selector (h : Config.coreFused 0 = false) :
    ((holding aBank).part 0).live = true ∧ (holding aBank).units 0 = []
      ∧ (let s : State := { holding aBank with parts := [(0, { Machine.Part.none with live := true, select := true })] }
         (s.part 0).live = true ∧ (s.part 0).select = true ∧ s.nextUnit 0 = none)
      ∧ (urgent.part 0).live = true ∧ (urgent.part 0).select = true ∧ urgentUnit.back = []
      ∧ urgent.placeFor 0 urgentUnit = some (0, [0]) ∧ urgent.nextUnit 0 = some (urgentUnit, none)
      ∧ Sparse.find urgent.graphs urgentUnit.graph = some (aGraph .ready (.waiting 3))
      ∧ Sparse.find urgent.codes (65536 * 0 + 0) = some (taskCode 0) ∧ (taskCode 0).tasks[0]? = some ⟨0, 0, 0, 192, 0, 9, 0, 1⟩
      ∧ (urgent.bank 0).task = none ∧ (urgent.die 0).st = .online ∧ 0 / 32 = 0 := by
  have free : urgent.coreFree 0 = true := by
    have : (urgent.clusterUsable (0 / 32) (0 % 32 / 4) && (urgent.core 0).bank.task.isNone && (urgent.core 0).other.task.isNone
      && !(urgent.core 0).spilling && !(urgent.core 0).swapping && !(urgent.core 0).preq
      && !urgent.groupTaken 0) = true := by decide +kernel
    simp only [State.coreFree, State.coreEmpty, h]
    simpa [Bool.and_assoc] using this
  have set0 : urgent.freeSet urgentUnit 0 = some [0] := by
    have : coreSets 0 urgentUnit.ents.length = [0] :: (coreSets 0 1).tail := by decide +kernel
    rw [State.freeSet, this, List.find?_cons_of_pos]
    simp [free]
  have dies : urgent.unitDies 0 urgentUnit = [0] := by decide +kernel
  have place : urgent.placeFor 0 urgentUnit = some (0, [0]) := by
    have on : (urgent.die 0).st = .online := by decide +kernel
    simp [State.placeFor, dies, set0, on, State.tightest]
  have next : urgent.nextUnit 0 = some (urgentUnit, none) := by
    have us : urgentUnits (urgent.units 0) = [urgentUnit] := by decide +kernel
    have fits : urgent.fits 0 urgentUnit = true := by
      have : urgentUnit.back.isEmpty = true := by decide +kernel
      simp [State.fits, this, place]
    simp [State.nextUnit, us, fits]
  refine ⟨by decide +kernel, by decide +kernel, by decide +kernel, by decide +kernel, by decide +kernel, by decide +kernel, place, next,
    by decide +kernel, by decide +kernel, by decide +kernel, by decide +kernel, by decide +kernel, rfl⟩

/-! ### Witnesses: waits, blocks, page sets, streams -/

/-- A bank that waits for the racking engine, to go on with RETT for the command processor through a call. -/
def spilling (limit : Word) : Context :=
  { trapped with
    resuming := true, wait := BitVec.ofNat 4 wRacking, rklimit := limit,
    frame := { trapped.frame with dslot := true, dxfer := 1, twp := 201 } }

/-- A bank that waits for the racking engine to return from a Sornen function. -/
def filling : Context :=
  { aBank with
    strip := some { fn := 0, first := 0, nlines := 1, strip := 0, op := 0, leaving := true, issued := false, vals := [], sets := [],
                    i := 0, n := 0, tpc := 8, wild := false, frame := 1, fab := .core, order := 0, fed := false },
    wait := BitVec.ofNat 4 wRacking, rklimit := 0x1000, wp := 24, lo := 24 }

/-- Page tables of context 0 with an entry at the last level read, and a walk of the first translated page. -/
def walking (l3 l2 : Nat) : State :=
  let s : State := { holding aBank with parts := [(0, { Machine.Part.none with live := true, dies := 1 })] }
  let t := ((s.writeNat (placeOf 0 0) 0x2001 8).writeNat (placeOf 0 0x2000) l3 16).writeNat (placeOf 0 0x4040) l2 16
  { t with walks := [⟨0, 0, 0x100000000, .load, [.instr 0]⟩] }

/-- WaitsAndTimers, first part: a wait that tries again; a spill, a fill and a failing spill; IDLE for some time and for ever;
walks that end in a leaf, in PROTECTION, and in no entry. -/
theorem test_witness_waits :
    let s (c : Context) : State := holding c
    let addrs (c : Context) (pos : Nat) : List Word := (List.range 24).map fun j => c.rkbase + BitVec.ofNat 64 (8 * (pos + j))
    let v := 2 ^ 64
    let racks (c : Context) : Bool :=
      c.task == some aTask && !((s c).core 0).swapping && !c.stopped && c.wait.toNat == wRacking && !c.checkDue
    let places (c : Context) (k : AccKind) (pos : Nat) : Bool :=
      match (s c).rackPlaces 0 aTask c.rklimit k (addrs c pos) with
      | .ok ps => (ps.all fun p => decide (p < hostMark) && !(s c).poisoned p 8) && c.fly.isEmpty && !destIn c.fly c.lo
          && c.mayPerform ((s c).ctxInfo 0 0).fstr (c.rackEntry (k == .store) ps) c.fly
      | .error _ => false
    let w : Walk := ⟨0, 0, 0x100000000, .load, [.instr 0]⟩
    aBank.idle = none ∧ aBank.stopped = false ∧ (s aBank).powered 0 = true
      ∧ racks (spilling 0x1000) = true ∧ (s (spilling 0x1000)).rackNeed 0 = some true ∧ places (spilling 0x1000) .store 0 = true
      ∧ racks (spilling 0) = true ∧ (s (spilling 0)).rackNeed 0 = some true
      ∧ (match (s (spilling 0)).rackPlaces 0 aTask 0 .store (addrs (spilling 0) 0) with | .error (.fail a) => a == 0 | _ => false) = true
      ∧ racks filling = true ∧ (s filling).rackNeed 0 = some false ∧ places filling .load 0 = true ∧ filling.fly = []
      ∧ ({ aBank with idle := some 0 } : Context).idle = some 0
      ∧ (walking (v + 0x4000) (15 * v)).walk 0 0 w.va
          = .leaf (BitVec.ofNat 128 (15 * v)) 0x100000000 (2 ^ 30) [placeOf 0 0 / 64, placeOf 0 0x2000 / 64, placeOf 0 0x4040 / 64]
      ∧ (walking (3 * v) 0).walk 0 0 w.va = .prot ∧ (walking 0 0).walk 0 0 w.va = .invalid
      ∧ (walking 0 0).walks[0]? = some w ∧ ((walking 0 0).part 0).records.length < Config.faultRecords := by
  decide +kernel

/-- WaitsAndTimers, second part: an asynchronous trap at a boundary that the handler takes and that the driver takes, the
window at its last position; the order of traps; the watchdog below its limit, switched off, and at its limit. -/
theorem test_witness_timers :
    let a : Async := ⟨BitVec.ofNat 8 cProtection, false, 0, true, 5, false⟩
    let m : Async := ⟨BitVec.ofNat 8 cMachineCheck, false, 0, false, 5, false⟩
    let c : Context := { handling with asyncs := [a], atBound := true, wp := 176 }
    let w : Context := { aBank with wait := 1, wdcnt := 7, wdlim := 10 }
    let s := twoLines c
    c.firstAsync = some a ∧ c.task = some aTask ∧ c.xfer = none ∧ c.trapst = false ∧ c.stopped = false ∧ c.halted = true ∧ c.strip = none
      ∧ (s.core 0).swapping = false ∧ c.wp + 80 ≤ 256 + c.lo
      ∧ (a.driver || driverCause a.cause.toNat || !c.handlerOn || !s.entryLine 0 c.handlerEntry) = false
      ∧ ({ c with tvec := 0 } : Context).handlerOn = false
      ∧ ({ c with asyncs := [a, m] } : Context).firstAsync = some m ∧ m.cause.toNat = cMachineCheck ∧ a.cause.toNat ≠ cMachineCheck
      ∧ waitCounts w.wait.toNat = true ∧ w.wdcnt.toNat + (2 : BitVec 32).toNat < w.wdlim.toNat
      ∧ w.wdlim.toNat ≤ w.wdcnt.toNat + (3 : BitVec 32).toNat ∧ w.xfer = none ∧ w.checkDue = false ∧ w.wdlim ≠ 0 := by
  decide +kernel

/-- A token sent by lane 15. -/
def aSent : SentTok := ⟨⟨0, 0, false, [], 0, false, .good, false⟩, 0, ⟨0, 0, 0, 0, 15, 0, 0, [], 0⟩, false⟩

/-- BlockLife: blocks that load, in either place; one that may run, one that waits for an earlier phase; one whose issue is
over, with a write stream that has met a fault and without; one whose words are done; a cycle; a loop context with an initiation left and with none. -/
theorem test_witness_block_life :
    let b := newBlock 0 0 aProg
    let go : Block := { b with ready := true, st := .armed, phase := 1, lc := LoopCtx.start 1 0 [1, 1, 1, 1] }
    let old : Block := { b with st := .running, phase := 0 }
    let past : Block := { go with st := .running, lc := { go.lc with more := false } }
    let done : Block := { past with st := .draining }
    let c (cur next : Option Block) (hs : Sparse Handle) : Context :=
      { aBank with hs := hs.set 7 ⟨some ⟨5, 6, 1, 1, 0⟩, cur, next, [], [], [], [], []⟩ }
    ((holding (c (some b) none [])).core 0).swapping = false ∧ ((c (some b) none []).handle 7).cur = some b ∧ b.ready = false
      ∧ go.ready = true ∧ ((c (some go) (some b) []).handle 7).next = some b ∧ go.st = .armed ∧ go.lc.finished = false
      ∧ ((c (some go) none []).blocks.all fun e => e.2.2.st == .loaded || decide (go.phase ≤ e.2.2.phase)) = true
      ∧ ((c (some go) none [(1, { Handle.reset with cur := some old })]).blocks.any fun e =>
          e.2.2.st != .loaded && decide (e.2.2.phase < go.phase)) = true
      ∧ (holding aBank).due = [] ∧ past.lc.sv = 0 ∧ past.lc.more = false ∧ past.st = .running
      ∧ (let f : StreamFault := ⟨cProtection, 0, false, 0, some ⟨0, 0, 0, 0, 15, 0, 0, [], 0⟩, 0⟩
         let y : Stream := { aStream true 0 with fault := some f }
         let k : Context := { c (some past) none [] with
           gens := [(3, { Machine.Gen.reset with streams := [y], wx := [(15, [aSent])] })] }
         (k.gen 3).streams = [y] ∧ y.cfg.write = true ∧ y.fault = some f ∧ f.blk = past.serial ∧ f.asked = false
          ∧ (List.all [0, 1, 2] fun j => (k.gen j).streams.isEmpty) = true ∧ laneList (k.gen 3).wx 15 ≠ []
          ∧ (k.blocks.all fun e => e.2.2.serial != past.serial || (e.1 == 7 && !e.2.1)) = true
          ∧ ((c (some past) none []).gens.isEmpty) = true)
      ∧ aBank.idle = none ∧ done.busy = false ∧ (holding (c (some done) none [])).blockStored (c (some done) none []) 0 done = true
      ∧ ({ go with st := .running } : Block).refill = false ∧ ({ go with st := .running } : Block).lc.finished = false
      ∧ go.lc.more = true ∧ past.lc.more = false ∧ past.held = false ∧ ({ go with st := .running } : Block).held = false := by
  decide +kernel

/-- A core at an FLOAD of block 0 into handle 7 that waits for a page, and a page set of handle 2. -/
def waitingFor (p : Prog) (hs : Sparse Handle) (pages : Sparse Page) : State :=
  let c : Context := { aBank with wait := BitVec.ofNat 4 wNoPage, hs := hs }
  let s := (holding c).putBytes (codePlace 0 0) (bytesOf (2 * 2 ^ 60 + 2 ^ 30 + 1) 8 ++ (encode (.fload 7 0)).flatMap bytes32)
  { s with codes := [(0, ⟨0, [], [], [], [], [(p, [])], 0, [], []⟩)], dies := [(0, { Die.reset with pages := pages })] }

/-- Blocks of 16 by 15 and of 15 by 15 pages, and a page set of one page at (0, 5). -/
def bigProg : Prog := { aProg with pw := 15, ph := 14 }
def wideProg : Prog := { aProg with pw := 14, ph := 14 }
def aSet : PageSet := ⟨0, 5, 1, 1, 0⟩
def inTheWay : State := waitingFor bigProg [(2, { Handle.reset with pset := some aSet })] [(80, .owned 1 0 2)]

/-- The set on its way to (0, 15), with page 240 in a state. -/
def underWay (p : Page) (hs : Sparse Handle) : State :=
  let s := waitingFor aProg hs [(80, .owned 1 0 2), (240, p)]
  s.setDie 0 { s.die 0 with moves := [⟨0, 1, 2, 0, 15⟩] }

/-- PageSets: an FLOAD whose page set can be placed at the last origin; one that needs a set moved, and one for which none can
be; a move whose destination is cleared, is not yet, and whose set is gone; a page to clear and one that is clear. -/
theorem test_witness_page_sets :
    let s := waitingFor wideProg [] [(0, .owned 9 3 1), (1, .owned 9 3 1), (16, .owned 9 3 1)]
    let stuck := waitingFor bigProg [(2, { Handle.reset with pset := some aSet, cur := some (newBlock 0 0 aProg) })] [(80, .owned 1 0 2)]
    let set : Sparse Handle := [(2, { Handle.reset with pset := some aSet })]
    let m : SetMove := ⟨0, 1, 2, 0, 15⟩
    let moving (u : State) : Bool := (u.die 0).moves.find? (fun m => m.core == 0 && m.h == 2) == some m
    s.waitingLoad 0 7 = some (aTask, 15, 15) ∧ (s.ctx.handle 7).pset = none ∧ s.rectFor 0 0 7 15 15 = some (1, 1)
      ∧ s.findRect 0 15 15 = some (1, 1) ∧ s.floorWaits 0 = [] ∧ (s.die 0).moves = []
      ∧ ((rectPages 1 1 15 15).all fun k => s.page 0 k == .free) = true
      ∧ inTheWay.waitingLoad 0 7 = some (aTask, 16, 15) ∧ (inTheWay.ctx.handle 7).pset = none ∧ inTheWay.rectFor 0 0 7 16 15 = none
      ∧ (inTheWay.die 0).waits = [] ∧ inTheWay.compaction 0 0 7 16 15 = some ((0, 0), [m])
      ∧ stuck.waitingLoad 0 7 = some (aTask, 16, 15) ∧ stuck.rectFor 0 0 7 16 15 = none ∧ (stuck.ctx.handle 7).pset = none
      ∧ stuck.compaction 0 0 7 16 15 = none
      ∧ moving (underWay .free set) = true ∧ (underWay .free set).setOf 0 1 2 = some (aSet, true)
      ∧ ((rectPages 0 15 1 1).all fun k => (underWay .free set).page 0 k == .free) = true ∧ ((underWay .free set).bank 0).isChain 1 = true
      ∧ moving (underWay .dirty set) = true ∧ (underWay .dirty set).setOf 0 1 2 = some (aSet, true)
      ∧ ((rectPages 0 15 1 1).any fun k => (underWay .dirty set).page 0 k != .free) = true
      ∧ moving (underWay .free []) = true ∧ (underWay .free []).setOf 0 1 2 = none
      ∧ moving s = false
      ∧ ({ State.reset with dies := [(11, { Die.reset with pages := [(255, .dirty)] })] } : State).page 11 255 = .dirty
      ∧ State.reset.page 11 255 ≠ .dirty := by
  decide +kernel

/-- A block whose port 0 of tile 0 generator 2 feeds, and whose port 6 feeds generator 3, elements of 32 bits. -/
def portProg : Prog :=
  { aProg with streams := [⟨⟨1, 2, 0⟩, ⟨0, 0, 0⟩, 0, 1, 0, 0⟩, ⟨⟨0, 0, 6⟩, ⟨1, 3, 0⟩, 0, 1, 0, 0⟩] }

/-- StreamsAndCopies: a token to deliver; one to store; a stream that has finished and one that has not; a copy at its end,
one that moves, one with a fault. -/
theorem test_witness_streams :
    let blk : Block := { newBlock 0 0 portProg with st := .running, ready := true }
    let x0 := aStream false (tileAt 1 3 16 16 64 0x3000)
    let w0 := aStream true (tileAt 1 3 16 16 64 0x3000)
    let tk : SentTok := ⟨aToken 5 3 false false, 0, wordAt 15 0, false⟩
    let hs : Sparse Handle := [(0, { Handle.reset with cur := some blk })]
    let rd : State := holding { aBank with hs := hs, gens := [(2, { Machine.Gen.reset with streams := [x0] })] }
    let wr : State := holding { aBank with hs := hs, gens := [(3, { Machine.Gen.reset with streams := [w0], wx := [(15, [tk])] })] }
    let x := x0.fix 2
    let w := w0.fix 2
    let bs := w.tokenBytes 15 0 5 false
    let last : Stream := { aStream false (tileAt 1 3 1 1 64 0x3000) with tokBits := 32, pos := [(0, 1)], taken := [(0, 1)] }
    let cp (c : Copy) : State := (holding aBank).setCore 0 { Core.reset with bank := aBank, copies := [(511, c)] }
    let c1 : Copy := { aCopy with off := 4, signal := some 9 }
    let c2 : Copy := { aCopy with fault := some (cProtection, 7) }
    (rd.bank 0).task = some aTask ∧ x0.fault = none ∧ (rd.bank 0).binder 2 false = some (0, false, blk, ⟨⟨1, 2, 0⟩, ⟨0, 0, 0⟩, 0, 1, 0, 0⟩)
      ∧ x.tooWide x.tokBits = false ∧ ((rd.bank 0).gen 2).nextLane x (rd.fillTarget aTask blk ⟨⟨1, 2, 0⟩, ⟨0, 0, 0⟩, 0, 1, 0, 0⟩) = some 0
      ∧ rd.boardHolds 0 aTask x.order x.ranges false = false
      ∧ (match rd.readToken 0 aTask x ((rd.bank 0).stageOf 0 0 x 0) 0 0 with | .ok (t, _) => t.val == 0 && t.tag == 3 | .error _ => false) = true
      ∧ laneList ((wr.bank 0).gen 3).wx 15 = [tk] ∧ (wr.bank 0).bySerial 0 = some (0, false, blk)
      ∧ blk.prog.genEntry 3 true = some ⟨⟨0, 0, 6⟩, ⟨1, 3, 0⟩, 0, 1, 0, 0⟩ ∧ w.laneDone 15 = false ∧ w.span = 1
      ∧ wr.boardHolds 0 aTask w.order w.ranges true = false ∧ w.disjoint = true ∧ wr.fstrOf aTask = false ∧ w.packBlk = none
      ∧ (match wr.tokenPlaces 0 aTask w 15 0 false bs with
          | .ok ps => ps.all fun p => match p with | .place q => decide (q < hostMark) | _ => false
          | .error _ => false) = true
      ∧ last.finished = true ∧ x0.finished = false ∧ last.msg = 0
      ∧ (cp c1).copy 0 511 = some c1 ∧ (cp c1).copyHeld 0 c1 = false ∧ (cp c1).wordAway c1 = false ∧ c1.off = c1.n
      ∧ (cp c1).answered 0 0 = true ∧ isLoft c1.word = false ∧ isLoft (c1.word + 7) = false
      ∧ (let r := (cp aCopy).copyScan 0 aCopy 4 0 0; r.2 = none ∧ ((cp aCopy).moveBytes aCopy r.1).2 = 0)
      ∧ (((cp c1).core 0).copies.all fun e => decide (e.1 < 512)) = true
      ∧ ((cp c2).bank 0).isChain c2.owner = true ∧ (cp c2).copyHeld 0 c2 = false
      ∧ (((cp c2).copyScan 0 c2 4 0 0).1.all fun m => !isFw m.dst && !isFw m.src) = true
      ∧ (let y := { x with cfg := { x.cfg with rsym := true } }
         y.cfg.rsym = true ∧ x.cfg.rsym = false ∧ laneCount y.pos 15 = laneCount y.pos 0 ∧ y.rows = []) := by
  decide +kernel

/-! ### Witnesses: power, errors, the host -/

/-- DiesAndPoints: dies in every state, an empty one that drains, a partition whose dies are gated; floors and points at the
ends of their ranges. -/
theorem test_witness_dies :
    let s (d : Die) : State := { State.reset with dies := [(11, d)] }
    let gated : State := { State.reset with parts := [(0, { Machine.Part.none with live := true, dies := 1 })], dies := [(0, { Die.reset with st := .gated })] }
    ((s { Die.reset with st := .draining }).die 11).st = .draining ∧ (s { Die.reset with st := .draining }).dieEmpty 11 = true
      ∧ ((s { Die.reset with st := .parked, req := 2 }).die 11).st = .parked ∧ ((s { Die.reset with st := .parked, req := 2 }).die 11).req = 2
      ∧ ((s { Die.reset with st := .waking }).die 11).st = .waking ∧ (gated.part 0).live = true ∧ (gated.part 0).hasDie 0 = true
      ∧ ((List.range 12).all fun k => !(gated.part 0).hasDie k || (gated.die k).st == .gated) = true
      ∧ (List.all [0, 7] fun n => ((s { Die.reset with thermFloor := n, opcur := n, powFloor := n }).die 11).opcur == n) = true
      ∧ (s Die.reset).modLimit = 0 ∧ ({ s Die.reset with modLimit := 1 } : State).modLimit ≠ 0 ∧ ((s Die.reset).die 11).st = .online := by
  decide +kernel

/-- PowerRegisters: values of REQ that are taken and the one that is not, a wake that is none, offsets at the ends of the
ranges that ignore a write. -/
theorem test_witness_power_registers :
    (0x3000 : Word).extractLsb' 12 2 = 3 ∧ (0x2000 : Word).extractLsb' 12 2 ≠ 3 ∧ (0xFFFFFFFE : Word).getLsbD 0 = false
      ∧ (0x7 : BitVec 16).toNat % 8 ≠ 0 ∧ 0x400 ≤ (0x7F8 : BitVec 16).toNat ∧ (0x7F8 : BitVec 16).toNat < 0x800
      ∧ 0x1280 ≤ (0x1280 : BitVec 16).toNat
      ∧ (match exec (.registerWrite 0x58 0x10003) State.reset with | .next u => (u.die 11).opsel == 3 | _ => false) = true := by
  decide +kernel

/-- ClusterSteps: a cluster in each of its states, on a die that is on, gated, and under a checkpoint. -/
theorem test_witness_clusters :
    let s (c : Cluster) (d : DieSt) : State := { State.reset with dies := [(11, { Die.reset with st := d, clusters := [(7, c)] })] }
    let ck : State := { s Cluster.reset .online with
      parts := [(0, { Machine.Part.none with live := true, dies := 0x800 })], ckState := 1, ckMask := 1 }
    let at0 (x : ClSt) : Cluster := { Cluster.reset with st := x }
    ((s Cluster.reset .online).cluster 11 7).st = .on ∧ (s Cluster.reset .online).ckBusy 11 = false ∧ ck.ckBusy 11 = true
      ∧ ((s Cluster.reset .gated).die 11).st = .gated ∧ (s (at0 .pend) .online).clusterQuiet 11 7 = true
      ∧ (List.all [ClSt.pend, .saving, .clkgated, .railgated, .ramping, .restoring] fun x =>
          ((s (at0 x) .online).cluster 11 7).st == x && ((s (at0 x) .online).cluster 11 7).held.isNone) = true
      ∧ ({ at0 .saving with wake := true } : Cluster).wake = true ∧ ({ at0 .clkgated with req := 2 } : Cluster).req = 2 := by
  decide +kernel

/-- CheckpointSteps: partitions that are idle and one that is not; no image, one that matches and one saved under other
grants; a SAVE and a RESTORE that end. -/
theorem test_witness_checkpoint :
    let p : State := { State.reset with parts := [(0, { Machine.Part.none with live := true, dies := 1 })] }
    let i : CkImage := ⟨0, [(0, 1)], 0, [(0x40, 9)], []⟩
    let run (n : BitVec 3) : State := { p with ckState := n, ckMask := 1, ckImage := some i }
    (p.ckParts 1).all p.partIdle = true ∧ p.ckParts 1 = [0] ∧ p.ckState ≠ 1 ∧ p.ckState ≠ 2 ∧ p.ckImage = none
      ∧ ({ p with queues := [(511, { Queue.reset with st := .active })] } : State).partIdle 0 = false
      ∧ p.ckMatches i 1 = true ∧ p.ckMatches { i with grants := [(0, 2)] } 1 = false
      ∧ (run 1).ckState = 1 ∧ (run 2).ckState = 2 ∧ Memory.wf i.cells = true ∧ (run 2).isHbm 0 0x40 = true := by
  decide +kernel

/-- ErrorSteps, PartitionFault, StopRecord: an empty error log, a live partition that has not failed and one that is not live,
a task that stops. -/
theorem test_witness_errors :
    let s := holding aBank
    ((List.range 256).all fun j => (s.errEntry j).sev != 1) = true ∧ (11 : BitVec 8) ≠ 12 ∧ (s.part 11).live = false
      ∧ (s.part 0).live = true ∧ (s.part 0).failed = false ∧ (s.bank 0).task = some aTask
      ∧ (s.part 0).hasDie (31 / 32) = true ∧ 511 < s.queueCount
      ∧ (match exec (.uncontainedError 11 0) s with | .next u => (u.part 0).failed && u.core 0 == Core.reset | _ => false) = true := by
  decide +kernel

/-- A message of a partition or the manager. -/
def msgOf (part : BitVec 8) (chan : BitVec 12) (seq : BitVec 48) (arg : BitVec 96) (payload : List Byte) : Msg :=
  { part := part, chan := chan, seq := seq, ack := 0, ackv := false, rst := false, arg := arg, payload := payload }

/-- The device with a channel. -/
def channel (s : State) (k : Nat) (c : Chan) : State := { s with chans := [(k, c)] }

/-- ChannelOrder: a message at E, the 64th that nothing has acknowledged, one before it, the last that counts as before, one after it; channels that exist and not;
acknowledgements; a take-over's held messages and none. -/
theorem test_witness_channels :
    let s := channel (holding aBank) (chanKey 0 511) { Chan.reset with expect := 5 }
    let m (n : BitVec 48) : Msg := msgOf 0 511 n 0 []
    let held : State := { holding aBank with
      parts := [(0, { Machine.Part.none with live := true, dies := 1, holding := true, heldMsgs := [⟨0x0B, 0, 3, 0, 0, 0, [], 0, 8⟩] })] }
    s.hostOk (m 5) = true ∧ s.recovery = false ∧ (m 5).ackv = false ∧ msgKey (m 5) = chanKey 0 511 ∧ (s.chan (chanKey 0 511)).expect = 5
      ∧ (s.chan (chanKey 0 511)).frag = [] ∧ seqBefore 4 5 = true ∧ seqBefore (5 - 0x7FFFFFFFFFFF) 5 = true
      ∧ seqBefore (5 - 0x800000000000) 5 = false ∧ seqBefore 6 5 = false ∧ s.hostOk (msgOf 0 512 5 0 []) = false
      ∧ s.hostOk { m 5 with ackv := true } = true ∧ (s.chan (chanKey 0 511)).queued = []
      ∧ (held.part 0).holding = true ∧ held.take = [] ∧ held.hostOk (msgOf 0 0xFFF 0 0 []) = true ∧ (s.part 0).holding = false
      ∧ s.timerKey 0 511 = some (chanKey 0 511, 0) ∧ s.hostChan 0 511 = true ∧ (m 5).port = 8
      ∧ ((s.chan (chanKey 0 511)).expect + 1 - (s.chan (chanKey 0 511)).told).toNat < 64
      ∧ (let late := channel (holding aBank) (chanKey 0 511) { Chan.reset with expect := 63 }
         late.hostOk (m 63) = true ∧ ¬ ((late.chan (chanKey 0 511)).expect + 1 - (late.chan (chanKey 0 511)).told).toNat < 64
          ∧ (m 63).chan.toNat ≠ ctlChan) ∧ s.ctlHeld = false ∧ (msgOf 0 0xFFF 0 0 []).chan.toNat = ctlChan := by
  decide +kernel

/-- The tables of the partition cover at most four of five places a gigabyte apart. -/
theorem test_clear_address (a b c d : Nat) :
    ∃ i, i < 5 ∧ ¬ (a ≤ i * 2 ^ 30 ∧ i * 2 ^ 30 < a + 0x4000) ∧ ¬ (b ≤ i * 2 ^ 30 ∧ i * 2 ^ 30 < b + 32768)
      ∧ ¬ (c ≤ i * 2 ^ 30 ∧ i * 2 ^ 30 < c + 4096) ∧ ¬ (d ≤ i * 2 ^ 30 ∧ i * 2 ^ 30 < d + 131072 * 384) := by
  by_contra h
  push Not at h
  have h0 := h 0
  have h1 := h 1
  have h2 := h 2
  have h3 := h 3
  have h4 := h 4
  omega

/-- An address outside a partition's tables and inside its memory is plain memory. -/
theorem test_plain_place (s : State) (part a : Nat)
    (ha : ¬ (Config.statusTable part ≤ a ∧ a < Config.statusTable part + 0x4000))
    (hb : ¬ (Config.counterTable part ≤ a ∧ a < Config.counterTable part + 32768))
    (hc : ¬ (Config.barrierTable part ≤ a ∧ a < Config.barrierTable part + 4096))
    (hd : ¬ (Config.saveRegion part ≤ a ∧ a < Config.saveRegion part + 131072 * 384))
    (hp : (s.part part).populated a = true) : s.hostLoc part a = .memory (placeOf part a) := by
  have hd' : ¬ (Config.saveRegion part ≤ a ∧ a < Config.saveRegion part + 131072 * Config.computeCores) := hd
  unfold State.hostLoc
  simp only [Bool.and_eq_true, decide_eq_true_eq, ha, hb, hc, hd', hp, if_false, if_true]

/-- HostMemory, first part: wherever the partition's tables lie, there is an address of plain memory for a WRITE and a
READ_REQ of one byte. -/
theorem test_witness_host_plain :
    ∃ i, i < 5 ∧
      (let s := holding aBank
       let m := msgOf 0 511 0 (BitVec.ofNat 96 (i * 2 ^ 30 + 2 ^ 64)) [7]
       s.hostLoc 0 ((m.arg.extractLsb' 0 64).toNat) = .memory (i * 2 ^ 30) ∧ isLoft (i * 2 ^ 30) = false ∧ isDirect (i * 2 ^ 30) = false
        ∧ (m.arg.extractLsb' 64 16).toNat = 1 ∧ s.hostOk m = true ∧ s.recovery = false ∧ m.ackv = false
        ∧ m.seq = (s.chan (msgKey m)).expect ∧ (s.chan (msgKey m)).frag = []
        ∧ ((s.chan (msgKey m)).expect + 1 - (s.chan (msgKey m)).told).toNat < 64 ∧ m.part.toNat ≠ mgrPart ∧ m.chan.toNat < s.queueCount
        ∧ s.namesFlip m true = false ∧ s.namesFlip m false = false ∧ s.poisoned (i * 2 ^ 30) 1 = false
        ∧ (s.chan (msgKey m)).unacked = [] ∧ (s.chan (msgKey m)).queued = []) := by
  obtain ⟨i, hi, ha, hb, hc, hd⟩ := test_clear_address (Config.statusTable 0) (Config.counterTable 0) (Config.barrierTable 0)
    (Config.saveRegion 0)
  refine ⟨i, hi, ?_⟩
  have loc : (holding aBank).hostLoc 0 (i * 2 ^ 30) = .memory (i * 2 ^ 30) := by
    have pop : ((holding aBank).part 0).populated (i * 2 ^ 30) = true := by
      have : ∀ j : Fin 5, ((holding aBank).part 0).populated (j.val * 2 ^ 30) = true := by decide +kernel
      exact this ⟨i, hi⟩
    have pl : placeOf 0 (i * 2 ^ 30) = i * 2 ^ 30 := by
      have : ∀ j : Fin 5, placeOf 0 (j.val * 2 ^ 30) = j.val * 2 ^ 30 := by decide +kernel
      exact this ⟨i, hi⟩
    rw [test_plain_place _ _ _ ha hb hc hd pop, pl]
  have rest : ∀ j : Fin 5,
      (let m := msgOf 0 511 0 (BitVec.ofNat 96 (j.val * 2 ^ 30 + 2 ^ 64)) [7]
       let s := holding aBank
       (m.arg.extractLsb' 0 64).toNat = j.val * 2 ^ 30
        ∧ isLoft (j.val * 2 ^ 30) = false ∧ isDirect (j.val * 2 ^ 30) = false
        ∧ (m.arg.extractLsb' 64 16).toNat = 1 ∧ s.hostOk m = true ∧ s.recovery = false ∧ m.ackv = false
        ∧ m.seq = (s.chan (msgKey m)).expect ∧ (s.chan (msgKey m)).frag = []
        ∧ ((s.chan (msgKey m)).expect + 1 - (s.chan (msgKey m)).told).toNat < 64 ∧ m.part.toNat ≠ mgrPart ∧ m.chan.toNat < s.queueCount
        ∧ s.namesFlip m true = false ∧ s.namesFlip m false = false ∧ s.poisoned (j.val * 2 ^ 30) 1 = false
        ∧ (s.chan (msgKey m)).unacked = [] ∧ (s.chan (msgKey m)).queued = []) := by decide +kernel
  obtain ⟨e, r⟩ := rest ⟨i, hi⟩
  exact ⟨by rw [e]; exact loc, r⟩

/-- HostMemory, second part: a page that is being flipped, for a queue's WRITE and the memory channel's, a failed partition, an access and a flip that wait for the host. -/
theorem test_witness_host_memory :
    let s := holding aBank
    let w := msgOf 0 511 0 (BitVec.ofNat 96 (0x80000 + 2 ^ 64)) [7]
    let fl : Flip := ⟨0, 0x80000, 2 ^ 19, true, 0, .flipping, 4⟩
    let flipped : State := { s with flips := [fl] }
    let failed : State := { s with parts := [(0, { Machine.Part.none with live := true, dies := 1, failed := true })] }
    let rd := msgOf 0 0xFFE 0 9 [1, 2]
    let out (ty : BitVec 8) : OutMsg := ⟨ty, 0, memChan, 9, 0, 0, [], 4, 8⟩
    let e : Entry := { entryAt (.load 8 false (.w 1)) 8 false with msg := 4 }
    let asks : State := { holding { aBank with fly := [e] } with sent := [out mtDevRead] }
    let back : State := { s with sent := [out mtFlush], flips := [{ fl with st := .flushing }] }
    flipped.namesFlip w true = true ∧ flipped.hostOk w = true ∧ failed.hostOk w = true ∧ (failed.part 0).failed = true
      ∧ (s.part 0).failed = false ∧ w.seq = (s.chan (msgKey w)).expect ∧ rd.chan.toNat = memChan ∧ asks.hostOk rd = true
      ∧ rd.seq = (asks.chan (msgKey rd)).expect ∧ (asks.chan (msgKey rd)).frag = []
      ∧ asks.asked mtDevRead 0 (rd.arg.extractLsb' 0 48) = some (out mtDevRead)
      ∧ (asks.bank 0).fly[0]? = some e ∧ e.msg = (out mtDevRead).tag
      ∧ back.asked mtFlush 0 (rd.arg.extractLsb' 0 48) = some (out mtFlush)
      ∧ (let mw := { w with chan := 0xFFE }
         flipped.hostOk mw = true ∧ mw.chan.toNat = memChan ∧ flipped.namesFlip mw true = true ∧ flipped.writesBack mw = false
          ∧ back.writesBack mw = true ∧ back.namesFlip mw true = true ∧ s.namesFlip mw true = false)
      ∧ ((s.chan (msgKey w)).expect + 1 - (s.chan (msgKey w)).told).toNat < 64
      ∧ back.hostOk rd = true ∧ (back.flips.all fun f => f.msg == 4 && f.part == 0 && f.st == .flushing) = true ∧ back.heldHost = [] := by
  decide +kernel

/-- A message is heard on a control channel. -/
def hears (s : State) (m : Msg) : Bool :=
  s.hostOk m && !s.recovery && !m.ackv && m.seq == (s.chan (msgKey m)).expect && (s.chan (msgKey m)).frag.isEmpty
    && decide (((s.chan (msgKey m)).expect + 1 - (s.chan (msgKey m)).told).toNat < 64)
    && m.chan.toNat == ctlChan && (s.part m.part.toNat).resetting.isNone && !s.ctlHeld

/-- A device whose context 0 maps the page at 0 with a leaf of 1 GiB. -/
def flippable : State := { walking (2 ^ 64 + 0x4000) (15 * 2 ^ 64) with ctxs := [(0, { CtxInfo.none with live := true })] }

/-- ControlOperations: a page that a context maps, to flip. -/
theorem test_witness_flip_page : ∃ x rest, flippable.leavesOf 0 0 = x :: rest := by
  have low : (placeOf 0 0x4040, leafSize 2) ∈ flippable.leavesBelow 0 0 3 0x4000 := by
    refine List.mem_flatMap.2 ⟨4, by decide +kernel, ?_⟩
    have e : (!pteV (BitVec.ofNat 128 (flippable.natAt (placeOf 0 0x4040) 16))) = false
        ∧ pteLeaf (BitVec.ofNat 128 (flippable.natAt (placeOf 0 0x4040) 16)) = true
        ∧ pteAddr (BitVec.ofNat 128 (flippable.natAt (placeOf 0 0x4040) 16)) = 0 := by decide +kernel
    simp [e.1, e.2.1, e.2.2]
  have top : (placeOf 0 0x4040, leafSize 2) ∈ flippable.leavesBelow 0 0 4 0x2000 := by
    refine List.mem_flatMap.2 ⟨0, by decide +kernel, ?_⟩
    have e : (!pteV (BitVec.ofNat 128 (flippable.natAt (placeOf 0 0x2000) 16))) = false
        ∧ pteLeaf (BitVec.ofNat 128 (flippable.natAt (placeOf 0 0x2000) 16)) = false
        ∧ pteAddr (BitVec.ofNat 128 (flippable.natAt (placeOf 0 0x2000) 16)) = 0x4000 := by decide +kernel
    simp [e.1, e.2.1, e.2.2, low]
  have root : flippable.ctxEntry 0 0 / 2 ^ 13 % 2 ^ 35 * 2 ^ 13 = 0x2000 ∧ 0 ∈ (flippable.ctxs.filter fun e => e.1 / 65536 == 0 && e.2.live).map fun e => e.1 % 65536 := by
    decide +kernel
  have mem : (placeOf 0 0x4040, leafSize 2) ∈ flippable.leavesOf 0 0 := by
    simp only [State.leavesOf, List.mem_eraseDups, List.mem_flatMap, List.mem_append]
    exact ⟨0, .inl root.2, by rw [root.1]; exact top⟩
  match h : flippable.leavesOf 0 0 with
  | [] => rw [h] at mem; cases mem
  | x :: rest => exact ⟨x, rest, rfl⟩

/-- ControlOperations: the manager's and the driver's operations, on a device they are done on and on one that refuses them. -/
theorem test_witness_control :
    let none : State := State.reset
    let up : State := { none with links := [(24 * 15 + 23, LinkSt.reset)] }
    let one := holding aBank
    let mgr (arg : BitVec 96) : Msg := msgOf 0xFF 0xFFF 0 arg []
    let drv (arg : BitVec 96) (bs : List Byte) : Msg := msgOf 0 0xFFF 0 arg bs
    let stop : State := holding { aBank with stopped := true }
    let r : FaultRec := ⟨5, 0x100000000, 0, .load, 1, [.instr 0]⟩
    let asks : State := { holding { aBank with wait := BitVec.ofNat 4 wTranslation } with
      parts := [(0, { Machine.Part.none with live := true, dies := 1, records := [r] })] }
    let live : State := { State.reset with
      parts := [(0, { Machine.Part.none with live := true, dies := 1 })], ctxs := [(7, { CtxInfo.none with live := true })] }
    let d : Nat := 0x100000 * 2 ^ 192 + 20 * 2 ^ 16 + 15 * 2 ^ 8
    hears none (mgr 0) = true ∧ hears one (mgr 0) = true ∧ hears one (drv 0 []) = true
      ∧ ((List.range 12).all fun q => !(none.part q).live) = true ∧ ((mgr 0x200).arg.extractLsb' 8 8).toNat = 2 ∧ (one.part 0).live = true
      ∧ modeDies none.mode 0 ≠ 0 ∧ ((mgr 0x20FF0000).arg.extractLsb' 24 6).toNat = 32
      ∧ one.graphs = [] ∧ (one.part 0).heldMsgs = []
      ∧ ((drv 0x1FF0000 []).arg.extractLsb' 16 9).toNat < one.queueCount ∧ (bytesOf d 32).length = 32 ∧ natOf (bytesOf d 32) = d
      ∧ (one.queue 0 511).st = .disabled ∧ 8 ≤ d / 2 ^ 16 % 32 ∧ d / 2 ^ 16 % 32 ≤ 20 ∧ d / 2 ^ 8 % 16 ≠ 0
      ∧ d / 2 ^ 192 % 2 ^ 64 % 2 ^ (d / 2 ^ 16 % 32) = 0 ∧ BitVec.ofNat 5 (natOf (bytesOf 0 32) / 2 ^ 16) = 0
      ∧ (asks.part 0).records = [r] ∧ ((drv 0x50000 []).arg.extractLsb' 16 32).toNat = r.recno
      ∧ ((drv 0x50100 []).arg.extractLsb' 16 32).toNat = r.recno ∧ (drv 0x50100 []).arg.getLsbD 8 = true
      ∧ (asks.bank 0).wait.toNat = wTranslation ∧ hears asks (drv 0x50000 []) = true ∧ hears asks (drv 0x60000 []) = true
      ∧ (stop.bank 0).stoppedOf 0 = true ∧ hears stop (drv 0 []) = true ∧ (one.bank 0).stoppedOf 0 = false
      ∧ (one.core 0).other.stoppedOf 0 = false
      ∧ live.hasCtx 0 7 = true ∧ ((drv 0x70000 []).arg.extractLsb' 16 16).toNat = 7 ∧ live.cores = [] ∧ hears live (drv 0x70000 []) = true
      ∧ live.hasCtx 0 8 = false ∧ ((drv 0x80000 []).arg.extractLsb' 16 16).toNat = 8 ∧ hears live (drv 0x80000 []) = true
      ∧ ((mgr 0x800).arg.extractLsb' 8 4).toNat ≤ 8 ∧ 8 < ((mgr 0x900).arg.extractLsb' 8 4).toNat
      ∧ moduleOk 11 11 = true ∧ moduleOk 15 23 = true ∧ moduleOk 11 12 = false ∧ (up.linkAt 15 23).mode = .active
      ∧ (up.linkAt 15 23).waiting = [] ∧ ((mgr 0x170F00).arg.extractLsb' 24 2) ≠ 3
      ∧ flippable.flips = [] ∧ hears flippable (drv 0 []) = true ∧ one.leavesOf 0 0 = []
      ∧ ({ none with take := [(1, true)] } : State).ctlHeld = true := by
  decide +kernel

/-- A code object of one line and one task, but for its CRC. -/
def bareObject : List Byte :=
  bytesOf 0x4F435A47 4 ++ bytesOf 1 2 ++ bytesOf 0x200 2 ++ bytesOf 0 8 ++ bytesOf 2 2 ++ bytesOf 2 2 ++ bytesOf 64 4 ++ bytesOf 256 4
    ++ bytesOf 0 4 ++ bytesOf 0 32
    ++ bytesOf (1 + 96 * 2 ^ 64 + 128 * 2 ^ 96) 16 ++ bytesOf (3 + 224 * 2 ^ 64 + 32 * 2 ^ 96) 16
    ++ bytesOf (2 * 2 ^ 60 + 2 ^ 30 + 1) 8 ++ bytesOf 0 120 ++ bytesOf (2 ^ 32) 32

/-- With its CRC. -/
def anObject : List Byte := bareObject.take 28 ++ bytesOf (crc32 bareObject).toNat 4 ++ bareObject.drop 32

/-- A peer's message on port 7. -/
def peerMsg (arg : BitVec 96) (bs : List Byte) : Msg := msgOf 0 0xFFD 0 arg bs

/-- DeviceWideSteps: objects the loader accepts and refuses; a take-over that starts and one that lasts too long; links in
their states; peers. -/
theorem test_witness_device :
    let p : Machine.Part := { Machine.Part.none with live := true, dies := 1, ports := 0x80 }
    let s : State := { State.reset with parts := [(0, p)] }.writeNat (placeOf 0 (64 * 3)) 1 8
    let ld (last : Nat) (bs : List Byte) : Msg := msgOf 0 0xFFF 0 (BitVec.ofNat 96 (3 * 2 ^ 32 + last * 2 ^ 16 + 0xFFFF)) bs
    let link (x : LinkSt) : State := { s with links := [(24 * 15 + 23, x)] }
    hears s (ld 0 [1]) = true ∧ hears s (ld 1 anObject) = true ∧ (ld 0 [1]).arg.getLsbD 16 = false ∧ (ld 1 []).arg.getLsbD 16 = true
      ∧ loadErr anObject (s.loadEnv 0 3 0xFFFF anObject) = none ∧ (loadErr bareObject (s.loadEnv 0 3 0xFFFF bareObject)).isSome = true
      ∧ imageForm [] = false ∧ s.roles = [(0, .active), (1, .standby)] ∧ s.take = []
      ∧ (({ s with take := [(1, true)] } : State).take.any fun e => e.2) = true ∧ (s.part 0).live = true
      ∧ moduleOk 15 23 = true ∧ ((link LinkSt.reset).linkAt 15 23).mode = .active
      ∧ ((link { LinkSt.reset with mode := .retrain }).linkAt 15 23).mode = .retrain
      ∧ ((link { LinkSt.reset with mode := .retrain }).linkAt 15 23).cur = none
      ∧ ((link { LinkSt.reset with mode := .retrain, cur := some ⟨0, 1, 1, 1⟩ }).linkAt 15 23).cur = some ⟨0, 1, 1, 1⟩
      ∧ s.portHolder 7 = some 0 ∧ (peerMsg 0 []).part.toNat = 0 ∧ (s.chan (peerKey 7)).frag = []
      ∧ ((s.chan (peerKey 7)).expect + 1 - (s.chan (peerKey 7)).told).toNat < 64 ∧ s.portHolder 7 ≠ some 1 ∧ (peerMsg 0 []).seq = (s.chan (peerKey 7)).expect
      ∧ (s.part 0).populated (48 * 10 ^ 9 - 1) = true ∧ isLoft (placeOf 0 (48 * 10 ^ 9 - 1)) = false
      ∧ isDirect (placeOf 0 (48 * 10 ^ 9 - 1)) = false ∧ s.poisoned (placeOf 0 (48 * 10 ^ 9 - 1)) 1 = false
      ∧ (s.chan (peerKey 7)).unacked = [] ∧ Sparse.find s.reds 0 = none ∧ (bytesOf 5 16).length = 16 ∧ s.portHolder 6 = none := by
  decide +kernel

/-- A firmware image with the layout of R391, of security version 5. -/
def anImage : List Byte := bytesOf 0x47575A46 4 ++ bytesOf 5 4 ++ bytesOf 2696 4 ++ List.replicate 2684 0

/-- DeviceWideSteps: a firmware image that is accepted, where its signature is good and its version is not below the fused one
(Config leaves both open). -/
theorem test_witness_firmware (h1 : imageSigned anImage = true) (h2 : Config.fusedSvn ≤ 5) :
    imageErr anImage = 0 ∧ State.reset.recovery = false := by
  have form : imageForm anImage = true := by decide +kernel
  have svn : imageNum anImage 4 4 = 5 := by decide +kernel
  refine ⟨?_, rfl⟩
  simp [imageErr, form, h1, svn, Nat.not_lt.mpr h2]

/-! ### More witnesses: Sornen functions -/

/-- A Sornen function of one strip: every operation the statement names at its own index, one that is skipped, one whose
condition holds, EXIT to a strip and EXIT from the function. -/
def sornenOps : List SornenOp :=
  ([0x02, 0x03, 0x04, 0x05, 0x06, 0x07, 0x08, 0x09, 0x0A, 0x0B, 0x0C, 0x0D, 0x0E, 0x0F, 0x10, 0x20, 0x21, 0x30, 0x11, 0x19].map fun k =>
      (⟨k, 0x200, 0x217, 0x3FF, 0, false, 3, 8⟩ : SornenOp))
    ++ [⟨0x02, 0, 0, 5, 1, false, 0, 7⟩, ⟨0x02, 0, 0, 0x200, 2, false, 0, 7⟩, ⟨0x02, 0, 0, 5, 2, false, 0, 7⟩, ⟨0x38, 0, 0, 0, 0, false, 0, 1⟩,
      ⟨0x38, 0, 0, 0, 0, false, 0, 0xFFFFFFFF⟩]

def sornenStrip (w32 : Bool) : SornenStrip := ⟨false, w32, 0, 0, 0, sornenOps⟩

/-- The strip at operation op, past the stores of its frame. -/
def inStrip (op : Nat) : Strip :=
  { fn := 0, first := 0, nlines := 1, strip := 0, op := op, leaving := false, issued := false, vals := [], sets := [(0, 5), (23, 6)],
    i := 0, n := 0, tpc := 8, wild := false, frame := Config.sornenFrame 0 0 + 1, fab := .core, order := 0, fed := false }

/-- The device that runs it, with 8 in the register of both operands. -/
def sornenAt (w32 : Bool) (op : Nat) : State :=
  { holding { ((aBank.setX (.w 0) 8).setX (.w 24) 8) with strip := some (inStrip op) } with
    codes := [(0, ⟨0, [], [], [], [], [], 0, [⟨0, 1, false, [sornenStrip w32]⟩], []⟩)] }

/-- ControlPassesOn, third part: every operation it names, with and without W32, in a strip that is ready. -/
theorem test_witness_sornen (w32 : Bool) (op : Nat) :
    let s := sornenAt w32 op
    s.ctx.task = some aTask ∧ s.ctx.strip = some (inStrip op) ∧ (inStrip op).frame ≠ 0
      ∧ (inStrip op).frameBytes aTask ≤ 8 * ((inStrip op).frame - 1) ∧ (inStrip op).fab = .core ∧ (inStrip op).leaving = false := by
  refine ⟨rfl, rfl, Nat.succ_ne_zero _, ?_, rfl, rfl⟩
  simp [Strip.frameBytes, inStrip, aTask, probeTask]

theorem test_witness_sornen_operations :
    (List.all [true, false] fun w => (List.range 25).all fun k =>
        let s := sornenAt w k
        (s.codeOf aTask).isSome && (sornenStrip w).ops[k]?.isSome && s.issuing 0 && !s.ctx.checkDue && s.ctx.due.isNone
          && !s.interrupted 0 && !s.ctx.hazard ((List.range 24).flatMap fun h => keyX s.ctx.wp (sornenX h))) = true
      ∧ (sornenStrip true).loop = false ∧ (inStrip 23).sets.rising = true ∧ (∀ e ∈ (inStrip 23).sets, e.1 < 24)
      ∧ (sornenAt true 20).ctx.sornenVal (inStrip 20) true 5 = 0 ∧ (sornenAt true 21).ctx.sornenVal (inStrip 21) true 0x200 = 8
      ∧ (sornenAt true 22).ctx.sornenVal (inStrip 22) true 5 = 0
      ∧ (sornenAt false 19).checkAccess 0 aTask 16 8 8 .store = .ok (spadPlace 0 16) := by
  decide +kernel

/-! ### More witnesses: returning from a trap, accesses -/

/-- ReturnFromTrap: operations of the replay queue that go back, a division that may go on and one whose divisor is zero. -/
theorem test_witness_return_queue :
    let div (b : Word) : Entry := trapped.entry (.divs (.w 1) (.w 2) (.w 3)) (.int .divs (.w 1)) 0 7 b 0 .plain .core []
    let ext : Entry := trapped.entry (.vext (.w 4) 2 false 0) (.toX (.w 4) 9) 0 0 0 0 .plain .core []
    let s (q : List Entry) : State := running [0, 0] { trapped with rq := q }
    let held (q : List Entry) : Bool := q.all fun e => match e.destPos with | some n => decide (trapped.lo ≤ n) | none => true
    (s [div 2, ext]).ctx.rq = [div 2, ext] ∧ held [div 2, ext] = true ∧ (div 2).op = .int .divs (.w 1) ∧ IntKind.divs.divides = true
      ∧ (div 2).opc ≠ 0 ∧ ext.op = .toX (.w 4) 9 ∧ [div 2, ext].Pairwise (fun x y => y.ahead x = false)
      ∧ issues (s [div 2, ext]) [(.rett, [])] = true ∧ (div 0).opc = 0 ∧ issues (s [div 0]) [(.rett, [])] = true
      ∧ (match exec .rett (s [div 2, ext]) with | .next u => !u.ctx.trapst && u.ctx.fly.length == 2 && u.ctx.rq.isEmpty | _ => false) = true
      ∧ (match exec .rett (s [div 0]) with | .next u => u.ctx.trapst && u.ctx.rq.length == 1 | _ => false) = true := by
  decide +kernel

/-- AccessChecks, third part: LDV and STV that leave their window, run into a reserved range or into a page without the right. -/
theorem test_witness_wide_accesses :
    let at' (a : Word) : State := holding (atAddr a)
    let ok (s : State) (a : Word) : Bool :=
      s.ctx.x (.w 2) + s.ctx.x (.g 0) * 4 + aMem.disp.signExtend 64 == a
        && issues s [(.ldv 31 aMem, keyV 31 ++ keysOf [.w 2, .g 0] s.ctx), (.stv 31 aMem, keyV 31 ++ keysOf [.w 2, .g 0] s.ctx)]
    let two (flags : Nat) : State :=
      { at' 0x10007FFC4 with tlb := [mapping 15 0, { mapping flags 0x80000 with va := 0x100080000 }] }
    (List.all [2, 0x3FFFC4, 0xFFFFFC, 0x13FFFC4, 0xFFFFFFFFFFC4] fun a => ok (at' a) a) = true
      ∧ 0x400000 * 1 < (0x3FFFC4 : Word).toNat + 64 ∧ (0x3FFFC4 : Word).toNat < 0x400000 * 1
      ∧ 0x400000 * 4 < (0xFFFFFC : Word).toNat + 64 ∧ (0xFFFFFC : Word).toNat < 0x400000 * 4 ∧ ok (two 11) 0x10007FFC4 = true ∧ ok (two 7) 0x10007FFC4 = true
      ∧ (two 11).checkAccess 0 aTask 0x10007FFC4 64 4 .load = .ok 0x7FFC4
      ∧ (two 11).checkAccess 0 aTask (0x10007FFC4 + 60) 4 4 .load = .trap cProtection 0x100080000
      ∧ (two 7).checkAccess 0 aTask 0x10007FFC4 64 4 .store = .ok 0x7FFC4
      ∧ (two 7).checkAccess 0 aTask (0x10007FFC4 + 60) 4 4 .store = .trap cProtection 0x100080000 := by
  decide +kernel

/-- LoadsComplete: a load behind a store that gives one of its bytes, and a later one of another place. -/
theorem test_witness_forwarding :
    let one : Entry := aBank.entry (.stb (.w 1) aMem) (.store 1) 0x55 0 0 0 .plain .core [⟨spadPlace 0 3, 1, true⟩]
    let far : Entry := aBank.entry (.std (.w 1) aMem) (.store 8) 7 0 0 0 .plain .core [⟨spadPlace 0 64, 8, true⟩]
    let e := entryAt (.load 8 false (.w 1)) 8 false
    splitEntry [one, far, e] 2 = some ([one, far], e, []) ∧ aBank.mayPerform false e [one, far] = true
      ∧ (holding aBank).poisonPast [one, far] e.spans = none ∧ one.offers (spadPlace 0 3) = some 0x55 ∧ far.offers (spadPlace 0 3) = none
      ∧ one.op = .store 1 ∧ one.spans = [⟨spadPlace 0 3, 1, true⟩]
      ∧ (match exec (.variableLatencyComplete 0 2) (holding { aBank with fly := [one, far, e] }) with
          | .next u => u.ctx.x (.w 1) == 0x55000000 && u.mem == [] | _ => false) = true := by
  decide +kernel

/-! ### More witnesses: rows, control registers, the replay queue, tile copies -/

/-- RowInstructions: a ROWOPEN in flight that opens a row. -/
theorem test_witness_row_open :
    let p := 0x040000000000 + 11 * 2 ^ 36 + 63 * 2 ^ 30 + 5 * 1024
    let e : Entry := aBank.entry (.rowopen (.w 1) (.w 2)) (.rowOpen (.w 1)) 0 0 0 0 .plain .core [⟨p, 0, false⟩]
    let s := holding { aBank with fly := [e] }
    (s.bank 0).task = some aTask ∧ (s.core 0).swapping = false ∧ splitEntry [e] 0 = some ([], e, []) ∧ e.op = .rowOpen (.w 1)
      ∧ e.spans = [⟨p, 0, false⟩]
      ∧ (match exec (.variableLatencyComplete 0 0) s with | .next u => u.rows != [] && (u.bank 0).x (.w 1) == 0x10BFC | _ => false) = true := by
  decide +kernel

/-- The command processor's cores with a bank on one of them. -/
def onCp (k : Nat) (c : Context) : State := { State.reset with cur := k, cores := [(k, { Core.reset with bank := c })] }

/-- ControlRegisters: a replay-queue entry that RQSEL names and a number at the count; the registers of the command processor on
its active core and its standby, with a store in flight and none, TAKE set and clear. -/
theorem test_witness_cp_registers :
    let e : Entry := trapped.entry (.divs (.w 1) (.w 2) (.w 3)) (.int .divs (.w 1)) 0 7 2 0 .plain .core []
    let q (n : BitVec 3) : Context := { trapped with rq := [e], rqsel := n }
    let st : Entry := aBank.entry (.stb (.w 1) aMem) (.store 1) 0 0 0 0 .plain .core [⟨spadPlace 0 0, 1, true⟩]
    let all (c : Context) : List (Instr × List Nat) :=
      [0x090, 0x091, 0x092, 0x093, 0x094, 0x095, 0x096, 0x097, 0x100, 0x101, 0x110, 0x117, 0x118, 0x120, 0x121, 0x122, 0x123, 0x130, 0x1FF].flatMap
        fun n => [(.crd (.w 1) n, keysOf [.w 1] c), (.cwr (.w 1) n, keysOf [.w 1] c)]
    let busy : Context := { aBank with fly := [st] }
    issues (holding (q 0)) (all (q 0)) = true ∧ (q 0).rq[(q 0).rqsel.toNat]? = some e ∧ (q 1).rq[(q 1).rqsel.toNat]? = none
      ∧ issues (holding (q 1)) (all (q 1)) = true ∧ (q 0).trapst = true
      ∧ issues (onCp 384 aBank) (all aBank) = true ∧ issues (onCp 385 aBank) (all aBank) = true ∧ issues (onCp 384 busy) (all busy) = true
      ∧ (onCp 384 aBank).role 384 ≠ .standby ∧ (onCp 385 aBank).role 385 = .standby ∧ st.isStore = true ∧ aBank.fly = []
      ∧ Sparse.get false (onCp 385 aBank).take 1 = false ∧ Sparse.get false { onCp 385 aBank with take := [(1, true)] }.take 1 = true
      ∧ issues { onCp 385 (aBank.setX (.w 1) 16) with take := [(1, true)] } [(.cwr (.w 1) 0x100, keysOf [.w 1] aBank)] = true
      ∧ (16 : Word).getLsbD 4 = true := by
  decide +kernel

/-- SystemInstructions: RQINJ of a captured multiplication, division and load, with a divisor of zero and another. -/
theorem test_witness_injection :
    let c0 : Context := trapped.setX (.w 2) 0
    let e (k : IntKind) (b : Word) : Entry := aBank.entry (.mul (.w 1) (.w 2) (.w 3)) (.int k (.w 1)) 0 7 b 0 .plain .core []
    let ld : Entry := aBank.entry (.ldb (.w 1) aMem) (.load 1 true (.w 1)) 0 0 0 0x3FFFFF .plain .core [⟨spadPlace 0 0x3FFFFF, 1, false⟩]
    let s (x : Entry) : State := holding { c0 with rq := [x] }
    let ready (x : Entry) : Bool :=
      let c := (s x).ctx
      c.trapst && c.fly.isEmpty && c.susp.isEmpty && c.rq.all (fun y => !y.hand) && c.rq[(c.x (.w 2)).toNat]? == some x
        && (match x.destPos with | some n => decide (c.lo ≤ n) | none => true) && issues (s x) [(.rqinj (.w 2), keysOf [.w 2] c)]
    ([IntKind.mul, .mulhs, .mulhu, .divs, .divu, .rems, .remu].all fun k => ready (e k 0) && ready (e k 3)) = true
      ∧ IntKind.mul.divides = false ∧ IntKind.remu.divides = true ∧ ready ld = true ∧ ld.msg = 0 ∧ ld.got = [] ∧ aTask.clustered = false
      ∧ (s ld).checkAccess 0 aTask ld.addr 1 1 .load = .ok (spadPlace 0 0x3FFFFF) ∧ spadPlace 0 0x3FFFFF < hostMark
      ∧ isFw (spadPlace 0 0x3FFFFF) = false ∧ (s ld).poisonPast [] [⟨spadPlace 0 0x3FFFFF, 1, false⟩] = none := by
  decide +kernel

/-- Numbers that rise strictly. -/
def rising : List Nat → Bool
  | a :: b :: t => decide (a < b) && rising (b :: t)
  | _ => true

/-- Rising numbers are distinct. -/
theorem test_rising_nodup (l : List Nat) (h : rising l = true) : l.Nodup := by
  have pair : l.Pairwise (· < ·) := by
    induction l with
    | nil => exact .nil
    | cons a t ih =>
      cases t with
      | nil => simp
      | cons b t =>
        simp only [rising, Bool.and_eq_true, decide_eq_true_eq] at h
        have p := ih h.2
        refine List.pairwise_cons.2 ⟨fun c hc => ?_, p⟩
        rcases List.mem_cons.1 hc with rfl | hc
        · exact h.1
        · exact Nat.lt_trans h.1 (List.rel_of_pairwise_cons p hc)
  exact pair.imp fun h => Nat.ne_of_lt h

/-- TileCopyIssues, second part: an LDT in flight whose rows lie at the end of a scratchpad, copied and transposed, with
elements of four bits too; rising addresses are distinct (test_rising_nodup). -/
theorem test_witness_tile_copy_completes :
    let go (tr : Transp) (tag : Nat) (da db : BitVec 128) (xs ys : List Span) : Bool :=
      let c0 : Context := (aBank.setDesc 1 da).setDesc 2 db
      let e : Entry := c0.entry (.ldt 1 2 .core tr) (.ldt 1 2 da db tr) 0 0 0 0 .plain .core (xs ++ ys)
      let s := holding { c0 with fly := [e] }
      let dest := spanBytes ys
      let w := containerOf [] (dTag db)
      dTag db == BitVec.ofNat 6 tag && splitEntry [e] 0 == some ([], e, []) && (xs ++ ys).all (fun x => decide (x.place + x.n ≤ hostMark))
        && dest.all (fun p => !isLoft p) && rising dest && (spanBytes xs).length == dRows db * elemBytes (dCols db) w
        && dest.length == dRows da * elemBytes (dCols da) w && c0.mayPerform (s.fstrOf aTask) e []
        && (ldtCheck [] da db tr).isNone && (spanBytes xs).all (fun p => s.poisoned p 1 == false)
    let row (wr : Bool) (o n : Nat) : Span := ⟨spadPlace 0 o, n, wr⟩
    let rows (wr : Bool) (o k n : Nat) : List Span := (List.range k).map fun j => row wr (o + 32 * j) n
    go .none 12 (tileAt 1 12 2 3 32 0x3FFFC0) (tileAt 1 12 2 3 32 0) (rows false 0 2 2) (rows true 0x3FFFC0 2 2) = true
      ∧ go .t8 8 (tileAt 1 8 16 16 32 0x1000) (tileAt 1 8 16 16 32 0) (rows false 0 16 16) (rows true 0x1000 16 16) = true
      ∧ go .t16 6 (tileAt 1 6 16 16 32 0x1000) (tileAt 1 6 16 16 32 0) (rows false 0 16 32) (rows true 0x1000 16 32) = true
      ∧ 3 * containerOf [] 12 % 8 = 4 := by
  decide +kernel

/-! ### More witnesses: binary32 values -/

/-- BinaryArithmeticCases: operands with an exact sum, difference, product, quotient, root and fused sum; a sum of zero, a product
and a quotient of zero; a NaN of each kind; infinities with a number and with each other; a number and a zero divided by zero. -/
theorem test_witness_binary_values :
    let exp (b : Half) : Nat := (b.extractLsb' 23 8).toNat
    let frac (b : Half) : Nat := (b.extractLsb' 0 23).toNat
    let num (b : Half) : Int := (if b.getLsbD 31 then -1 else 1) * (if exp b = 0 then (frac b : Int) else ((2 ^ 23 + frac b) * 2 ^ (exp b - 1) : Nat))
    let one : Half := 0x3F800000
    let two : Half := 0x40000000
    let four : Half := 0x40800000
    num one + num one = num two ∧ num two - num one = num one ∧ num four * 2 ^ 149 = num two * num two ∧ num two * num two = num four * 2 ^ 149
      ∧ 0 < num two ∧ num four * 2 ^ 149 = num one * num two + num two * 2 ^ 149 ∧ num one + num 0xBF800000 = 0 ∧ num 0x80000000 = 0
      ∧ num 0x80000000 + num 0x80000000 = 0 ∧ num 0x80000000 * num one = 0 ∧ num one ≠ 0 ∧ num 1 = 1 ∧ exp 0x007FFFFF = 0
      ∧ exp 0x7FC00000 = 255 ∧ frac 0x7FC00000 ≠ 0 ∧ (0x7FC00000 : Half).getLsbD 22 = true ∧ exp 0x7F800001 = 255 ∧ frac 0x7F800001 ≠ 0
      ∧ (0x7F800001 : Half).getLsbD 22 = false ∧ exp 0xFF800000 = 255 ∧ frac 0xFF800000 = 0 ∧ exp one ≠ 255 ∧ exp 0x7F7FFFFF ≠ 255
      ∧ num 0xBF800000 < num one := by
  decide +kernel

/-! ### More witnesses: swaps, the journal, the selector, waits -/

/-- EndOfTask and PreemptionAndSwap: an incoming member of a cluster; a bank that is wanted and one that is not; a core that
waits for power. -/
theorem test_witness_swap_conditions :
    let t : Task := { aTask with serial := 2, clustered := true }
    let k : Core := { Core.reset with bank := aBank, other := { aBank with task := some t }, preq := true, incoming := true }
    let s (k : Core) : State := { holding aBank with cores := [(0, k)] }
    let spad (w : BitVec 64) : Core := { Core.reset with bank := aBank, foreign := 2 ^ 63, wanted := w, owners := [(63, 3)] }
    (s k).issuing 0 = true ∧ k.other.cluster 0 ≠ none ∧ ({ k with other := aBank } : Core).other.cluster 0 = none
      ∧ (spad (2 ^ 63)).foreign.getLsbD 63 = true ∧ (spad (2 ^ 63)).wanted.getLsbD 63 = true ∧ (spad 0).wanted.getLsbD 63 = false
      ∧ ((s { k with preq := false, swapping := true }).together 0).filter (fun j => ((s { k with preq := false, swapping := true }).core j).swapping) = [0]
      ∧ (s k).powered 0 = true ∧ ((s k).setDie 0 { Die.reset with st := .waking }).powered 0 = false
      ∧ (match exec (.scratchpadBankExchange 0 63) (s (spad (2 ^ 63))) with | .next u => u.core 0 != spad (2 ^ 63) | _ => false) = true := by
  decide +kernel

/-- LaunchPackets: batches that the journal takes, for a packet that is refused, a NOP, a launch, a graph that becomes ready,
ends a load and completes; a device on which no core serves. -/
theorem test_witness_journal :
    let s := ringOf [] 0
    let g := aGraph .completing .ended
    let off : State := { s with take := [(0, true)] }
    (s.batch [.qread 511 0]).isSome = true ∧ (s.batch [.qread 511 1, .gstate 3 g]).isSome = true
      ∧ (List.all [0, 1, 2] fun k => (s.batch (s.ckindRec { g with ckind := BitVec.ofNat 2 k } ++ [.gstate 3 { g with st := .done }])).isSome) = true
      ∧ s.cpServes = true ∧ off.cpServes = false ∧ (off.queue 0 511).st = .active
      ∧ (match s.batch [.qread 511 7] with
          | some u => u.jhead == 2 && u.natAt (jSlot 0) 32 == 1 + 511 * 2 ^ 16 + 511 * 2 ^ 32 + 7 * 2 ^ 64 && u.natAt (jSlot 1) 32 == 5
          | none => false) = true := by
  decide +kernel

/-- CproleTakeClear: records below JHEAD that a COMMIT ends, with a later one, and without a COMMIT. -/
theorem test_witness_take_journal :
    let s (rs : List JRec) : State :=
      { ({ State.reset with take := [(0, true)], parts := [(0, { Machine.Part.none with live := true, dies := 1 })] } : State).putRecs 0 rs with
        jhead := BitVec.ofNat 11 rs.length }
    let u := s [.qread 511 5, .commit, .qread 511 6]
    Sparse.get false u.take 0 = true ∧ Sparse.get false u.take 1 = false ∧ (u.bank 384).task = none
      ∧ u.jBelow u.cursor = [0, 1, 2] ∧ (u.jRec 0).kind = 1 ∧ (u.jRec 0).index = 511 ∧ (u.jRec 1).kind = 5 ∧ (u.jRec 2).kind ≠ 5
      ∧ (u.part 0).live = true ∧ (s [.qread 511 5]).jBelow (s [.qread 511 5]).cursor = [0] ∧ ((s [.qread 511 5]).jRec 0).kind ≠ 5
      ∧ (match exec .cproleTakeClear u with | .next v => (v.queue 0 511).rd == 5 && v.jhead == 2 && v.jtail == 2 | _ => false) = true := by
  decide +kernel

/-- A task switched out of core 0, of an age, with the core idle or running a task of a priority. -/
def switched (age : Nat) (runs : Option Nat) : State :=
  let o : Task := { aTask with serial := 2, graph := 3, queue := 511, age := age }
  let bank : Context := match runs with | none => Context.reset | some p => { aBank with task := some { aTask with prio := p } }
  { holding bank with
    parts := [(0, { Machine.Part.none with live := true, dies := 1, select := true })],
    queues := [(511, { Queue.reset with weight := 1 })],
    graphs := [(3, aGraph .running (.running 2))], saved := [(0, [{ aBank with task := some o }])] }

/-- SelectorSteps: a switched-out task that fits, by its turn and as urgent; one that may displace what runs and one that may
not, at a quantum boundary; no partition, and no core that serves. -/
theorem test_witness_selector_ages :
    let u (age : Nat) : DispUnit := ⟨3, [], [(0, 2)], age, 0, 511⟩
    let p : Machine.Part := (switched 0 none).part 0
    let grown (s : State) : State := (s.setPart 0 { p with qtime := p.qtime + 1, select := true }).growOld 0
    let c : Context := ((switched 0 (some 3)).outOf 0).headD Context.reset
    (List.all [0, 2, 3] fun a => (switched a none).units 0 == [u a]) = true
      ∧ (switched 2 none).nextUnit 0 = some (u 2, some (511, 1)) ∧ (switched 3 none).nextUnit 0 = some (u 3, none)
      ∧ (switched 2 none).cpServes = true ∧ p.freed = [] ∧ p.live = true ∧ p.select = true ∧ (Machine.Part.none).live = false
      ∧ (switched 0 (some 3)).units 0 = [] ++ u 0 :: [] ∧ (switched 0 (some 3)).eligible 0 (u 0) = true
      ∧ ((grown (switched 0 (some 3))).units 0).all (fun v => decide (v.age < 3)) = true ∧ (grown (switched 0 (some 3))).nextUnit 0 = none
      ∧ (switched 0 (some 3)).outOf 0 = [c] ∧ c.task.isSome = true
      ∧ (switched 0 (some 0)).eligible 0 (u 0) = false ∧ (switched 0 (some 0)).units 0 = [u 0]
      ∧ ({ switched 0 none with take := [(0, true)] } : State).cpServes = false := by
  decide +kernel

/-- SelectorSteps: a task not yet dispatched that grows older, one of a lower priority running where it would go. -/
theorem test_witness_selector_fresh :
    let s : State := { urgent with cores := [(0, { Core.reset with bank := { aBank with task := some { aTask with prio := 3 } } })] }
    s.units 0 = [] ++ urgentUnit :: [] ∧ urgentUnit.back = [] ∧ s.eligible 0 urgentUnit = true
      ∧ Sparse.find s.graphs 3 = some (aGraph .ready (.waiting 3)) ∧ (aGraph .ready (.waiting 3)).load[0]? = some ⟨0, 0xFFFF, 0, [1, 2], .waiting 3⟩
      ∧ (urgent.batch [.gstate 3 ((aGraph .ready (.waiting 3)).dispatched []), .place 0 (some 0) 9]).isSome = true
      ∧ urgent.groupTaken 0 = false := by
  decide +kernel

/-- WaitsAndTimers: a spill into a bank that another task left; walks beyond the walkers, of a poisoned entry, and with another
miss on the page; a synchronous trap that waits for a spill, with a trap that comes first and one that does not. -/
theorem test_witness_waits_more :
    let c := spilling 0x1000
    let addrs : List Word := (List.range 24).map fun j => c.rkbase + BitVec.ofNat 64 (8 * (c.lo + j))
    let s : State := { holding c with cores := [(0, { Core.reset with bank := c, foreign := 1 })] }
    let v := 2 ^ 64
    let many : State := { walking 0 0 with walks := List.replicate 65 ⟨0, 0, 0x100000000, .load, [.instr 0]⟩ }
    let bad : State := { walking (v + 0x4000) (15 * v) with poison := [placeOf 0 0 / 64] }
    let two : State := { walking (v + 0x4000) (15 * v) with
      walks := [⟨0, 0, 0x100000000, .load, [.instr 0]⟩, ⟨0, 0, 0x100080000, .load, [.instr 1]⟩] }
    let w : Walk := ⟨0, 0, 0x100000000, .load, [.instr 0]⟩
    let m : Async := ⟨BitVec.ofNat 8 cMachineCheck, false, 0, false, 5, false⟩
    let p : Async := ⟨BitVec.ofNat 8 cProtection, false, 0, true, 5, false⟩
    let owes : Context := { handling with owed := some divZero, asyncs := [p], wait := BitVec.ofNat 4 wRacking, wdlim := 3 }
    c.task = some aTask ∧ c.stopped = false ∧ c.wait.toNat = wRacking ∧ c.checkDue = false ∧ s.rackNeed 0 = some true
      ∧ (match s.rackPlaces 0 aTask c.rklimit .store addrs with | .error (.away q) => q == spadPlace 0 0 | _ => false) = true
      ∧ many.walkerFor 63 = true ∧ many.walkerFor 64 = false ∧ bad.poisoned (placeOf 0 (64 * 0)) 8 = true ∧ bad.walkerFor 0 = true
      ∧ two.walkerFor 0 = true ∧ w.on ⟨0, 0, 0x100080000, .load, [.instr 1]⟩ 0x100000000 (2 ^ 30) = true
      ∧ owes.owed.isSome = true ∧ p.cause.toNat ≠ cMachineCheck ∧ ({ owes with asyncs := [p, m] } : Context).firstAsync = some m
      ∧ owes.task = some aTask ∧ owes.stopped = false ∧ ({ owes with asyncs := [p, m] } : Context).halted = true ∧ waitCounts owes.wait.toNat = true
      ∧ owes.wdlim ≠ 0 := by
  decide +kernel

/-- PageSets: an LDT issued before the move of the set it reads. -/
theorem test_witness_page_set_busy :
    let e : Entry := aBank.entry (.ldt 1 2 .core .none) (.ldt 1 2 0 0 .none) 0 0 0 0 .plain .core [⟨tilePlace 0 160 0, 8, false⟩]
    let u := underWay .free [(2, { Handle.reset with pset := some aSet })]
    let busy : State := u.setBank 0 { u.bank 0 with fly := [e] }
    (busy.bank 0).ldtOn 0 aSet = true ∧ (u.bank 0).ldtOn 0 aSet = false ∧ busy.setOf 0 1 2 = some (aSet, true) := by
  decide +kernel

/-! ### More witnesses: blocks, streams, dies, checkpoints -/

/-- StreamCommands: a generator whose streams all wait for the driver. -/
theorem test_witness_stream_fault_waits :
    let f : StreamFault := ⟨cTranslation, 0, true, 0, none, 0⟩
    let s : State := holding (withStreams [{ aStream true 0 with fault := some f }, { aStream true 0 with fault := some f }])
    (s.ctx.gen 3).streams ≠ [] ∧ (s.ctx.gen 3).streams.all (fun y => match y.fault with | some g => g.asked | none => false) = true
      ∧ issues s [(.swait 3 .dev, [])] = true
      ∧ (match exec (.swait 3 .dev) s with | .next u => u.ctx.wait.toNat == wPeerFault | _ => false) = true := by
  decide +kernel

/-- BlockLoads: a page set of another size behind a current block; one that is given up, with accesses of the task unfinished,
with room that is cleared, not cleared, and none. -/
theorem test_witness_block_loads_resize :
    let q : PageSet := ⟨5, 6, 2, 1, 0⟩
    let b := newBlock 0 0 aProg
    let set (cur : Option Block) : State := withBlock aProg ⟨some q, cur, none, [], [], [], [], []⟩ []
    let ok (s : State) : Bool := issues s [(.fload 7 0, [])]
    let st : Entry := aBank.entry (.stb (.w 1) aMem) (.store 1) 0 0 0 0 .plain .core [⟨spadPlace 0 0, 1, true⟩]
    let s := set none
    let freed (s : State) : State :=
      (s.freePset 0 q).setCtx (s.ctx.setHandle 7 { s.ctx.handle 7 with pset := none })
    let with' (ps : Sparse Machine.Page) : State := s.setDie 0 { Die.reset with pages := ps }
    let busy : State := s.setCtx { s.ctx with fly := [st] }
    let full : Sparse Machine.Page := (List.range 256).map fun k => (k, .owned 9 3 1)
    aProg.ok = true ∧ s.blockImage aTask 0 = some aProg ∧ s.setMoving 0 1 7 = false ∧ ok (set (some b)) = true ∧ ok s = true
      ∧ ¬ (q.w = aProg.pw + 1 ∧ q.h = aProg.ph + 1) ∧ s.ctx.slotsHeld 7 &&& aProg.edgeClaims = 0
      ∧ s.ctx.pagesUsed 7 + 1 * 1 ≤ aTask.quota ∧ busy.ctx.settling = true ∧ ok busy = true ∧ s.ctx.settling = false
      ∧ (freed s).rectFor 0 0 7 1 1 = some (0, 0) ∧ (rectPages 0 0 1 1).all ((freed s).cleared 0) = true
      ∧ (freed (with' [(0, .dirty)])).rectFor 0 0 7 1 1 = some (0, 0)
      ∧ (rectPages 0 0 1 1).all ((freed (with' [(0, .dirty)])).cleared 0) = false ∧ ok (with' [(0, .dirty)]) = true
      ∧ (match (freed (with' (full.filter fun e => e.1 != 101 && e.1 != 102))).rectFor 0 0 7 1 1 with | some _ => true | none => false) = true
      ∧ (freed (with' full)).page 0 0 ≠ .free := by
  decide +kernel

/-- BlockCommands: FWAIT of a block that is frozen for the driver, of a running one with a stream that has lost its link and
one that has not. -/
theorem test_witness_block_waits :
    let b : Block := { newBlock 0 0 aProg with ready := true }
    let ice : Block := { b with st := .frozen, trap := some ⟨cAliasKind, 0, ⟨0, 0, 0, 0, 0, 0, 0, [], 0⟩⟩, told := false }
    let set (cur : Block) : State := withBlock aProg ⟨some ⟨5, 6, 1, 1, 0⟩, some cur, none, [], [], [], [], []⟩ []
    ((set ice).ctx.blocks.any fun e => (0x80 : BitVec 8).getLsbD e.1 && e.2.2.st != .loaded) = true
      ∧ ((set ice).ctx.blocks.all fun e => e.2.2.st == .frozen && !e.2.2.told) = true ∧ issues (set ice) [(.fwait .core 0x80, [])] = true
      ∧ ((List.range 4).all fun g => ((set { b with st := .running }).ctx.gen g).streams.isEmpty) = true
      ∧ (match exec (.fwait .core 0x80) (set ice) with | .next u => u.ctx.wait.toNat == wPeerFault | _ => false) = true := by
  decide +kernel

/-- ColumnPortsAndLanes: the first token of a row whose index is out of range, and a good one. -/
theorem test_witness_column_rows :
    let h : QHead := ⟨0, false⟩
    let b : Block := { newBlock 0 0 { aProg with streams := [⟨⟨1, 2, 0⟩, ⟨0, 0, 0⟩, 0, 1, 0, 0⟩] } with st := .running, ready := true }
    let s (r : RowTok) : State :=
      colState (.qnop h) (wordAt 15 0) b (0, 0) (0, 0) { Machine.Gen.reset with rx := [(15, [{ aToken 9 1 false false with row := r }])] }
    (List.all [RowTok.first, .rest, .good] fun r => dueIs (s r) (.qnop h) (fun f =>
      match f.b.prog.feeder f.w.tile 0 with
      | some e => e.src.kind == 1 && (match (laneList (f.gen e.src.idx).rx 15)[0]? with | some k => k.row == r | none => false)
      | none => false)) = true := by
  decide +kernel

/-- StreamsAndCopies: a token with the mark of a poisoned line; a stream that takes over another's sidecar lines; a copy whose
completion word lies in a bank that another task left. -/
theorem test_witness_streams_more :
    let x0 := aStream true (tileAt 1 3 16 16 64 0x3000)
    let last : Stream := { aStream false (tileAt 1 3 1 1 64 0x3000) with tokBits := 32, pos := [(0, 1)], taken := [(0, 1)], lines := [(5, 7)] }
    let c1 : Copy := { aCopy with off := 4, signal := some 9 }
    let away : State := { holding aBank with cores := [(0, { Core.reset with bank := aBank, copies := [(511, c1)], foreign := 1 })] }
    let tk : SentTok := ⟨{ aToken 5 3 false false with poison := true }, 0, wordAt 15 0, false⟩
    ([tk].take (x0.fix 2).span).any (fun z => z.tok.poison) = true ∧ last.finished = true ∧ last.msg = 0
      ∧ away.copy 0 511 = some c1 ∧ away.copyHeld 0 c1 = false ∧ away.wordAway c1 = true
      ∧ (match exec (.streamFinish 0 2) (holding { aBank with gens := [(2, { Machine.Gen.reset with streams := [last, aStream false 0] })] }) with
          | .next u => ((u.bank 0).gen 2).streams.map (fun y => y.lines) == [[(5, 7)]] | _ => false) = true := by
  decide +kernel

/-- DiesAndPoints: sensors at the thresholds and below them; consumption above the limit, below 95 percent of it, between, and
without a limit. -/
theorem test_witness_sensors :
    let s (t : List (Nat × BitVec 16)) : State := { State.reset with temp := t }
    let reads (s : State) (i : Nat) : Int := (Sparse.get 0 s.temp i).toInt
    let p (limit meas : BitVec 16) : State := { State.reset with modLimit := limit, modMeas := meas }
    let mine : List Nat := [33, 34, 35]
    (mine.any fun i => decide (1600 ≤ reads (s [(35, 1600)]) i)) = true ∧ (mine.all fun i => decide (reads (s [(35, 1599)]) i < 1600)) = true
      ∧ (mine.all fun i => decide (reads (s [(35, 1519)]) i < 1520)) = true ∧ (mine.any fun i => decide (1520 ≤ reads (s [(35, 1520)]) i)) = true
      ∧ (mine.any fun i => decide (1760 ≤ reads (s [(33, 1760)]) i)) = true ∧ (mine.all fun i => decide (reads (s [(33, 1759)]) i < 1760)) = true
      ∧ 47 < 48 ∧ 2000 ≤ reads (s [(47, 2000)]) 47 ∧ ((List.range 48).all fun i => decide (reads (s [(47, 1999)]) i < 2000)) = true
      ∧ (s []).flashing = none ∧ ((s []).die 11).st ≠ .gated
      ∧ ((p 100 101).modLimit ≠ 0 ∧ (p 100 101).modLimit.toNat < (p 100 101).modMeas.toNat)
      ∧ 100 * (p 100 94).modMeas.toNat < 95 * (p 100 94).modLimit.toNat ∧ ¬ 100 * (p 100 95).modMeas.toNat < 95 * (p 100 95).modLimit.toNat
      ∧ ¬ (p 100 100).modLimit.toNat < (p 100 100).modMeas.toNat ∧ (p 0 9).modLimit = 0 := by
  decide +kernel

/-- CheckpointSteps: a RESTORE of a partition that is not idle; a line of the image that is poisoned, and a bad unit. -/
theorem test_witness_checkpoint_marks :
    let p : State := { State.reset with parts := [(0, { Machine.Part.none with live := true, dies := 1 })] }
    let i : CkImage := ⟨0, [(0, 1)], 0, [], [1]⟩
    let busy : State := { p with ckImage := some i, queues := [(511, { Queue.reset with st := .active })] }
    let run (n : BitVec 3) : State := { p with ckState := n, ckMask := 1, ckImage := some i, poison := [1] }
    busy.ckMatches i 1 = true ∧ (busy.ckParts 1).all busy.partIdle = false ∧ busy.ckState ≠ 1 ∧ busy.ckState ≠ 2
      ∧ (run 1).ckState = 1 ∧ (run 1).isHbm 0 (64 * 1) = true ∧ (run 2).ckState = 2 ∧ (run 2).ckImage = some i ∧ p.flashing = none
      ∧ (match exec (.checkpointRestore 1) busy with | .next u => u.ckState == 4 && u.ckReason == 1 | _ => false) = true := by
  decide +kernel

/-! ### More witnesses: frames, channels, held messages, resets -/

/-- A frame of the host port with a header: version 1, a type, channel 511 of a partition, and the length of its payload. -/
def aFrame (type part len : Nat) (extra : List Byte) : EthFrame :=
  ⟨8, false, 64, 0, none, false, false, false, 0, false, 27218,
    bytesOf (2 ^ 112 + type * 2 ^ 116 + 511 * 2 ^ 124 + part * 2 ^ 136 + len * 2 ^ 144) 32 ++ extra⟩

/-- ErrorSteps: a frame that is taken, one whose header names no channel, one that is too long, and frames with and without a
SecTAG where a receive key is installed and where none is. -/
theorem test_witness_frames :
    let s := holding aBank
    let f := aFrame 1 0 1 [7]
    let keyed : State := { s with macsec := [((4 * 8 + 3) * 2, [1])], macPn := [(4 * 8 + 3, 5)] }
    let tag (an : BitVec 2) (pn : Nat) : EthFrame := { f with sec := some ⟨an, pn, []⟩ }
    let fits (g : EthFrame) : Bool :=
      !g.pause && decide (g.tags ≤ 1) && decide (g.len ≤ 9216) && !g.extra && !g.fragment && (g.sumGood || (!g.v6 && g.sum == 0)) && g.dport == 27218
    fits f = true ∧ f.sec = none ∧ s.udp = [] ∧ s.macsec = [] ∧ s.headerOk 8 f.data = true ∧ s.headerOk 8 (aFrame 1 1 1 [7]).data = false
      ∧ s.headerOk 8 (aFrame 0 0 1 [7]).data = false ∧ fits { f with len := 9217 } = false ∧ fits (tag 3 5) = true
      ∧ Sparse.find keyed.macsec ((4 * 8 + 3) * 2) = some [1] ∧ Sparse.find keyed.macsec ((4 * 8 + 0) * 2) = none
      ∧ (4 : Nat) < Sparse.get 0 keyed.macPn (4 * 8 + 3) ∧ Sparse.get 0 keyed.macPn (4 * 8 + 3) ≤ 5
      ∧ (f.data.take 31).length < 32 ∧ headerBits (aFrame 1 0 2 [7]).data 144 16 ≠ (aFrame 1 0 2 [7]).data.length - 32
      ∧ (match exec (.frameDropped f) s with | .next u => u == s | _ => false) = true
      ∧ (match exec (.frameDropped f) keyed with | .next u => u.dropped == 1 | _ => false) = true := by
  decide +kernel

/-- ChannelOrder: a partition that is being reset, types outside R365, and recovery. -/
theorem test_witness_resetting :
    let s (p : Machine.Part) : State := { holding aBank with parts := [(0, p)] }
    let q : Machine.Part := { Machine.Part.none with live := true, dies := 1 }
    let m := msgOf 0 511 0 0 []
    let busy := s { q with resetting := some (3, false) }
    busy.hostOk m = true ∧ busy.recovery = false ∧ (busy.part m.part.toNat).resetting ≠ none ∧ (s q).hostOk m = true
      ∧ ((s q).part 0).resetting = none ∧ knownType 0x01 = true ∧ knownType 0x23 = true ∧ knownType 0 = false ∧ knownType 0x0F = false
      ∧ knownType 0x15 = false ∧ knownType 0x24 = false ∧ ({ s q with recovery := true } : State).recovery = true
      ∧ (match exec (.messageRefused 1 m) busy with | .next u => u.sent.length == 1 | _ => false) = true := by
  decide +kernel

/-- A device with a peer port whose dies have one module each that carries traffic, and that one retrains. -/
def retraining : State :=
  { holding aBank with
    parts := [(0, { Machine.Part.none with live := true, dies := 1, ports := 0x80 })],
    links := (List.range 384).map fun k => (k, { LinkSt.reset with mode := if k % 24 = 0 then .retrain else .failed }) }

/-- Every place behind its dies waits for its link. -/
theorem test_retraining_holds (p : Nat) (h : retraining.farDie p < 16) : retraining.farHeld p = true := by
  have ms : ∀ d : Fin 16, ((List.range 24).filter fun m =>
      moduleOk d.val m && ((retraining.linkAt d.val m).mode == .active || (retraining.linkAt d.val m).mode == .retrain)) = [0]
      ∧ ((retraining.linkAt d.val 0).mode == LinkMode.retrain) = true := by decide +kernel
  obtain ⟨m0, m1⟩ := ms ⟨_, h⟩
  have some : retraining.links.isEmpty = false := by decide +kernel
  simp only [State.farHeld, State.linkHeld, some, m0]
  simp only [List.length_singleton, Nat.mod_one, List.getElem?_cons_zero, m1, h]
  rfl

/-- HostMemory and DeviceWideSteps: messages of the host and of a peer for a byte behind a link in retraining. -/
theorem test_witness_behind_link :
    ∃ i, i < 5 ∧ ∀ wr,
      retraining.behindLink (msgOf 0 511 0 (BitVec.ofNat 96 (i * 2 ^ 30 + 2 ^ 64)) [7]) wr = true
        ∧ retraining.behindLink { msgOf 0 0xFFD 0 (BitVec.ofNat 96 (i * 2 ^ 30 + 2 ^ 64)) [7] with port := 7 } wr = true
        ∧ retraining.hostOk (msgOf 0 511 0 (BitVec.ofNat 96 (i * 2 ^ 30 + 2 ^ 64)) [7]) = true ∧ retraining.portHolder 7 = some 0 := by
  obtain ⟨i, hi, ha, hb, hc, hd⟩ := test_clear_address (Config.statusTable 0) (Config.counterTable 0) (Config.barrierTable 0)
    (Config.saveRegion 0)
  refine ⟨i, hi, fun wr => ?_⟩
  have all : ∀ j : Fin 5,
      (retraining.part 0).populated (j.val * 2 ^ 30) = true ∧ placeOf 0 (j.val * 2 ^ 30) = j.val * 2 ^ 30
        ∧ retraining.farDie (j.val * 2 ^ 30) < 16
        ∧ (∀ w : Bool, msgSpan (msgOf 0 511 0 (BitVec.ofNat 96 (j.val * 2 ^ 30 + 2 ^ 64)) [7]) w = (j.val * 2 ^ 30, 1))
        ∧ retraining.hostOk (msgOf 0 511 0 (BitVec.ofNat 96 (j.val * 2 ^ 30 + 2 ^ 64)) [7]) = true := by decide +kernel
  obtain ⟨pop, pl, far, span, ok⟩ := all ⟨i, hi⟩
  have loc : retraining.hostLoc 0 (i * 2 ^ 30) = .memory (i * 2 ^ 30) := by rw [test_plain_place _ _ _ ha hb hc hd pop, pl]
  have held := test_retraining_holds (i * 2 ^ 30) far
  have some : retraining.links.isEmpty = false := by decide +kernel
  have one : (List.range 1) = [0] := rfl
  have part : ∀ m : Msg, m.part = 0 → msgSpan m wr = (i * 2 ^ 30, 1) → retraining.behindLink m wr = true := by
    intro m hp hs
    simp only [State.behindLink, hs, hp, some, one, List.any_cons, List.any_nil, Nat.add_zero]
    show (!false && ((match retraining.hostLoc 0 (i * 2 ^ 30) with | .memory p => retraining.farHeld p | _ => false) || false)) = true
    rw [loc]
    simpa using held
  exact ⟨part _ rfl (span wr), part _ rfl (span wr), ok, by decide +kernel⟩

/-- HostMemory: a checkpoint that copies the partition's memory, in either direction, and none. -/
theorem test_witness_copying :
    let w := msgOf 0 511 0 (BitVec.ofNat 96 (0x80000 + 2 ^ 64)) [7]
    let s := holding aBank
    let copying (n : BitVec 3) : State := { s with ckState := n, ckMask := 1 }
    s.behindLink w true = false ∧ s.behindLink w false = false ∧ s.heldHost = [] ∧ (s.part 0).resetting = none ∧ s.ckState = 0
      ∧ (copying 1).ckMask.getLsbD 0 = true ∧ (copying 1).ckState = 1 ∧ (copying 2).ckState = 2 ∧ (copying 1).hostOk w = true
      ∧ w.seq = (s.chan (msgKey w)).expect
      ∧ (match exec (.write w) (copying 1) with | .next u => u.heldHost == [(true, w)] && u.mem == [] | _ => false) = true := by
  decide +kernel

/-- ControlOperations and DeviceWideSteps: a reset that starts and ends; cores that are none; flash being written; a link that
fails with a partition on the die and without; a reduction that drains. -/
theorem test_witness_device_more :
    let s := holding aBank
    let drv (arg : BitVec 96) : Msg := msgOf 0 0xFFF 0 arg []
    let r : Reduction := ⟨1, [Tun.start], false, []⟩
    let p : Machine.Part := { Machine.Part.none with live := true, dies := 1, ports := 0x80 }
    let peers : State := { State.reset with parts := [(0, p)], reds := [(3, r)] }
    let red (fin : Nat) : Msg := msgOf 0 0xFFD 0 (BitVec.ofNat 96 (3 + fin * 2 ^ 16)) []
    let link : State := { peers with links := [(24 * 11 + 5, { LinkSt.reset with mode := .retrain })] }
    hears s (drv 0) = true ∧ hears s (msgOf 0xFF 0xFFF 0 0x1FFFF [1]) = true ∧ (0x1FFFF : BitVec 96).getLsbD 16 = true
      ∧ Config.computeCores ≤ 32 * 12
      ∧ (match exec (.preset (drv 0)) s with
          | .next u => (u.part 0).resetting == some (0, false) && !(u.resetEnds 0).sent.isEmpty && ((u.resetEnds 0).part 0).live | _ => false) = true
      ∧ (match exec (.pdestroy (drv 0)) s with
          | .next u => (u.part 0).resetting == some (0, true) && !((u.resetEnds 0).part 0).live | _ => false) = true
      ∧ ({ s with flashing := some [1] } : State).flashing = some [1] ∧ s.flashing = none ∧ s.flash = .shipped
      ∧ link.holders 11 = [] ∧ (peers.holders 0) = [0] ∧ (link.linkAt 11 5).mode = .retrain
      ∧ Sparse.get ⟨0, [], false, []⟩ peers.reds ((red 1).arg.extractLsb' 0 16).toNat = r ∧ (red 1).arg.getLsbD 16 = true
      ∧ (red 0).arg.getLsbD 16 = false ∧ peers.portHolder 7 = some 0 ∧ peers.hostOk { red 1 with port := 7 } = true
      ∧ (red 1).seq = (peers.chan (peerKey 7)).expect := by
  decide +kernel

end Sys2Proof.Tests
end

section
/-!
SUPPORT. Every operation of the model that gives a state keeps memory in canonical form; so does every step (O3).
-/

namespace Sys2Proof.Machine

-- a thread for each of these many proofs, with the stack the check gives a thread, would pass its memory limit
set_option Elab.async false

/-! ### What a result carries

Memory in canonical form is a predicate on states, and every operation of the model that gives a state keeps it. A
result that is not a state is canonical when each state it carries is. -/

def State.Canonical (s : State) : Prop := s.memOk = true

def Out.Canonical : Out → Prop
  | .next u => u.Canonical
  | _ => True

def Res.Canonical : Res → Prop
  | .done u => u.Canonical
  | .jump u _ => u.Canonical
  | .final u _ => u.Canonical
  | .trap u _ _ => u.Canonical
  | .wait u _ => u.Canonical
  | .trapNext .. => True
  | .stall => True

def RackRes.Canonical : RackRes → Prop
  | .ok u => u.Canonical
  | .wait u _ => u.Canonical
  | .fail _ => True
  | .poison _ => True

def CrRes.Canonical : CrRes → Prop
  | .put u => u.Canonical
  | _ => True

def Stored.Canonical : Stored → Prop
  | .stored u => u.Canonical
  | .held u => u.Canonical
  | .overrun => True

def PackRes.Canonical : PackRes → Prop
  | .ok u _ => u.Canonical
  | .stop _ => True
  | .overrun => True

def Inject.Canonical : Inject → Prop
  | .done u _ => u.Canonical
  | .wait u _ _ _ => u.Canonical
  | .trap u _ _ _ _ => u.Canonical

def SendRes.Canonical : SendRes → Prop
  | .ok r => r.1.Canonical
  | .error _ => True

section
variable {u : State}

theorem Res.Canonical.done {r : Res} (ok : r.Canonical) (e : r = .done u) : u.Canonical := by
  subst e; exact ok

theorem Res.Canonical.jump {r : Res} {x : Xfer} (ok : r.Canonical) (e : r = .jump u x) : u.Canonical := by
  subst e; exact ok

theorem Res.Canonical.trap {r : Res} {c : Nat} {v : Word} (ok : r.Canonical) (e : r = .trap u c v) : u.Canonical := by
  subst e; exact ok

theorem Res.Canonical.wait {r : Res} {c : Nat} (ok : r.Canonical) (e : r = .wait u c) : u.Canonical := by
  subst e; exact ok

theorem SendRes.Canonical.ok {r : SendRes} {p : State × Block} (ok : SendRes.Canonical r) (e : r = .ok p) :
    p.1.Canonical := by
  subst e; exact ok

theorem Inject.Canonical.done {r : Inject} {b : List Entry} (ok : r.Canonical) (e : r = .done u b) : u.Canonical := by
  subst e; exact ok

theorem Inject.Canonical.wait {r : Inject} {c : Nat} {b l : List Entry} (ok : r.Canonical) (e : r = .wait u c b l) :
    u.Canonical := by
  subst e; exact ok

theorem Inject.Canonical.trap {r : Inject} {c : Nat} {v : Word} {b l : List Entry} (ok : r.Canonical)
    (e : r = .trap u c v b l) : u.Canonical := by
  subst e; exact ok

theorem RackRes.Canonical.ok {r : RackRes} (ok : r.Canonical) (e : r = .ok u) : u.Canonical := by
  subst e; exact ok

theorem RackRes.Canonical.wait {r : RackRes} {n : Nat} (ok : r.Canonical) (e : r = .wait u n) : u.Canonical := by
  subst e; exact ok

theorem Stored.Canonical.stored {r : Stored} (ok : r.Canonical) (e : r = .stored u) : u.Canonical := by
  subst e; exact ok

theorem Stored.Canonical.held {r : Stored} (ok : r.Canonical) (e : r = .held u) : u.Canonical := by
  subst e; exact ok

theorem CrRes.Canonical.put {r : CrRes} (ok : r.Canonical) (e : r = .put u) : u.Canonical := by
  subst e; exact ok

theorem PackRes.Canonical.ok {r : PackRes} {x : Stream} (ok : r.Canonical) (e : r = .ok u x) : u.Canonical := by
  subst e; exact ok

end

theorem State.Canonical.ite {c : Prop} {_ : Decidable c} {a b : State} (ha : a.Canonical) (hb : b.Canonical) :
    (if c then a else b).Canonical := by
  split <;> assumption

theorem Res.Canonical.ite {c : Prop} {_ : Decidable c} {a b : Res} (ha : a.Canonical) (hb : b.Canonical) :
    (if c then a else b).Canonical := by
  split <;> assumption

theorem CrRes.Canonical.ite {c : Prop} {_ : Decidable c} {a b : CrRes} (ha : a.Canonical) (hb : b.Canonical) :
    (if c then a else b).Canonical := by
  split <;> assumption

theorem Stored.Canonical.ite {c : Prop} {_ : Decidable c} {a b : Stored} (ha : a.Canonical) (hb : b.Canonical) :
    (if c then a else b).Canonical := by
  split <;> assumption

/-- A trap register reads as a value or not at all; no state comes of it. -/
theorem Context.trapReg_canonical (c : Context) (n : Nat) : (c.trapReg n).Canonical := by
  unfold Context.trapReg
  extract_lets inTrap
  have hin {v : Word} : (inTrap v).Canonical := .ite trivial trivial
  split
  iterate 8 exact trivial
  iterate 3 exact hin
  iterate 2 exact trivial
  exact .ite hin trivial

/-! ### Updates and folds -/

/-- A record update that leaves memory as it is. -/
theorem State.Canonical.update {s u : State} (ok : s.Canonical) (hm : u.mem = s.mem := by rfl) : u.Canonical :=
  State.memOk_of_mem hm ok

theorem State.Canonical.of_fst {β : Type} {p : State × β} {u : State} {b : β} (ok : p.1.Canonical)
    (e : p = (u, b)) : u.Canonical := by
  subst e; exact ok

theorem State.Canonical.foldl {α : Type} {s : State} (ok : s.Canonical) {f : State → α → State}
    (hf : ∀ {u : State} {a : α}, u.Canonical → (f u a).Canonical) {xs : List α} : (xs.foldl f s).Canonical := by
  induction xs generalizing s with
  | nil => exact ok
  | cons x t ih => exact ih (hf ok)

theorem State.Canonical.foldlFst {α β : Type} {p : State × β} (ok : p.1.Canonical) {f : State × β → α → State × β}
    (hf : ∀ {q : State × β} {a : α}, q.1.Canonical → (f q a).1.Canonical) {xs : List α} :
    (xs.foldl f p).1.Canonical := by
  induction xs generalizing p with
  | nil => exact ok
  | cons x t ih => exact ih (hf ok)

/-! ### One lemma per operation

Named after the operation, in the order of the model, so that a proof reads as the operation does: `ok.a.b` where the
model applies `a` and then `b`, `.ite` at an `if`, `.foldl` at a fold. -/

section
variable {s : State} (ok : s.Canonical)
include ok

/-! ### Cores and banks -/

theorem State.Canonical.setCore {c k} : (s.setCore c k).Canonical := ok.update

theorem State.Canonical.setBank {c x} : (s.setBank c x).Canonical := ok.setCore

theorem State.Canonical.setCtx {x} : (s.setCtx x).Canonical := ok.setBank

theorem State.Canonical.mapCtx {f} : (s.mapCtx f).Canonical := ok.setCtx

theorem State.Canonical.setPart {p x} : (s.setPart p x).Canonical := ok.update

theorem State.Canonical.setCtxInfo {p x c} : (s.setCtxInfo p x c).Canonical := ok.update

theorem State.Canonical.setDie {d x} : (s.setDie d x).Canonical := ok.update

theorem State.Canonical.setQueue {p q x} : (s.setQueue p q x).Canonical := ok.update

/-! ### Reading and writing bytes -/

theorem State.Canonical.putBytes {p bs} : (s.putBytes p bs).Canonical := State.memOk_putBytes s p bs ok

theorem State.Canonical.rekey {ls} : (s.rekey ls).Canonical := State.memOk_rekey s ls ok

theorem State.Canonical.bumpGen {ls} : (s.bumpGen ls).Canonical := ok.update

theorem State.Canonical.wakeCore {c} : (s.wakeCore c).Canonical := ok.setBank.ite ok

theorem State.Canonical.dropTlb {stale} : (s.dropTlb stale).Canonical := ok.update.ite ok.update

theorem State.Canonical.write {p bs} : (s.write p bs).Canonical := State.memOk_write s p bs ok

theorem State.Canonical.writeNat {p v n} : (s.writeNat p v n).Canonical := ok.write

theorem State.Canonical.markPoison {p n} : (s.markPoison p n).Canonical := ok.update

theorem State.Canonical.markIf {bad p n} : (s.markIf bad p n).Canonical := ok.markPoison.ite ok

/-! ### Row slots -/

theorem State.Canonical.setRowSlot {chan k r} : (s.setRowSlot chan k r).Canonical := ok.update

theorem State.Canonical.rowYield {p} : (s.rowYield p).Canonical :=
  ok.foldl fun ok => by
    dsimp only
    split
    · exact ok.setRowSlot
    · exact ok

theorem State.Canonical.yieldRun {p n} : (s.yieldRun p n).Canonical := (ok.foldl fun ok => ok.rowYield).ite ok

/-! ### Access checks -/

theorem State.Canonical.touch {p} : (s.touch p).Canonical := ok.setCore

/-! ### Emission -/

theorem State.Canonical.setChan {k c} : (s.setChan k c).Canonical := ok.update

theorem State.Canonical.sendPlain {k part chan type arg payload} :
    (s.sendPlain k part chan type arg payload).Canonical :=
  ok.update

theorem State.Canonical.sendSeq {k part chan type arg payload tag} :
    (s.sendSeq k part chan type arg payload tag).Canonical := ok.update.ite ok.setChan

theorem State.Canonical.emit {part chan type arg payload} : (s.emit part chan type arg payload).Canonical :=
  ok.setPart.ite ok.sendSeq

theorem State.Canonical.sendMem {part type arg payload} : (s.sendMem part type arg payload).1.Canonical :=
  ok.update.sendSeq

theorem State.Canonical.event {part kind record} : (s.event part kind record).Canonical := ok.emit

theorem State.Canonical.flushChan {k n} : (s.flushChan k n).Canonical := by
  induction n generalizing s with
  | zero => exact ok
  | succ n ih =>
    unfold State.flushChan
    extract_lets c
    split
    · exact ok
    · exact (ih ok.update).ite ok

theorem State.Canonical.acked {k n} : (s.acked k n).Canonical := ok.setChan.flushChan

theorem State.Canonical.retransmit {k} : (s.retransmit k).Canonical := ok.ite ok.update

/-! ### Error log -/

theorem State.Canonical.logError {sev unit part addr} : (s.logError sev unit part addr).Canonical := by
  unfold State.logError
  split
  · exact ok.update
  · exact ok.update

theorem State.Canonical.logPoison {part p} : (s.logPoison part p).Canonical := ok.logError

/-! ### The window ring -/

theorem State.Canonical.spillTo {part ps vs} : (s.spillTo part ps vs).Canonical :=
  (ok.foldl fun ok => by
    split
    · exact ok
    · exact ok.writeNat).foldlFst fun ok => ok.emit

theorem State.Canonical.markRemote {core t a} : (s.markRemote core t a).Canonical := by
  unfold State.markRemote
  split
  · split
    · exact ok.foldl fun ok => by
          dsimp only
          split
          · exact ok.setBank
          · exact ok
    · exact ok
  · exact ok

theorem State.Canonical.rackGroup {core t spill earlier} : (s.rackGroup core t spill earlier).Canonical := by
  unfold State.rackGroup
  extract_lets c pos addrs
  have ok0 : (addrs.foldl (fun s a => s.markRemote core t a.toNat) s).Canonical := ok.foldl fun ok => ok.markRemote
  split
  · exact trivial
  · exact trivial
  · exact ok
  · exact ok.touch
  · dsimp only
    split
    · exact ok
    · split
      · exact ok0.spillTo.setBank
      · split
        · split
          · exact ok.sendMem.setBank
          · exact ok
        · split
          · exact trivial
          · exact ok0.setBank

theorem State.Canonical.spillUntil {core t wp earlier n} : (s.spillUntil core t wp earlier n).Canonical := by
  induction n generalizing s with
  | zero => exact ok
  | succ n ih =>
    unfold State.spillUntil
    split
    · exact ok
    · split
      · rename_i e
        exact ih (ok.rackGroup.ok e)
      · exact ok.rackGroup

/-! ### Traps -/

theorem State.Canonical.stopTask {core} : (s.stopTask core).Canonical := ok.setBank.event

theorem State.Canonical.takeTrap {core t a} : (s.takeTrap core t a).Canonical := by
  unfold State.takeTrap
  dsimp only
  split
  · exact ok.ite ok.setBank
  · split
    · exact ok.setBank.stopTask
    · split
      · exact ok.setBank.stopTask
      · split
        · rename_i e
          exact (ok.spillUntil.ok e).setBank
        · rename_i e
          exact (ok.spillUntil.wait e).setBank
        · exact ok.logPoison.setBank.stopTask
        · exact ok.setBank.stopTask

theorem State.Canonical.syncTrap {core t cause info tpc nx} : (s.syncTrap core t cause info tpc nx).Canonical :=
  ok.takeTrap

/-! ### Issue and retirement -/

theorem State.Canonical.retire {core t nx} : (s.retire core t nx).Canonical := by
  unfold State.retire
  dsimp only
  split
  · exact ok.setBank
  · exact ok.setBank.ite (ok.setBank.ite (ok.setBank.syncTrap.ite ok.setBank.syncTrap))

theorem State.Canonical.retireJump {core nx x} : (s.retireJump core nx x).Canonical := ok.setBank

theorem State.Canonical.markBound {core} : (s.markBound core).Canonical := ok.setBank

theorem State.Canonical.showWait {core code} : (s.showWait core code).Canonical := ok.setBank

theorem State.Canonical.settle {core t i} {r : Res} (hr : r.Canonical) : (s.settle core t i r).Canonical := by
  unfold State.settle
  cases r with
  | trap s1 cause info => exact hr.syncTrap
  | trapNext cause info => exact ok.syncTrap
  | wait s1 code => exact hr.showWait
  | stall => exact ok.markBound.ite ok.showWait
  | final s1 urgent =>
    cases urgent with
    | true => exact hr
    | false => exact ok.markBound.ite hr
  | done s1 => exact ok.markBound.ite hr.retire
  | jump s1 x => exact ok.markBound.ite hr.retireJump

theorem State.Canonical.issue {i keys body}
    (hbody : ∀ {u : State} {t : Task}, u.Canonical → (body u t).Canonical) :
    (Machine.issue i keys body s).Canonical := by
  unfold Machine.issue
  dsimp only
  split
  · exact ok
  · refine ok.ite (ok.markBound.ite ?_)
    split
    · exact ok.takeTrap
    · split
      · exact ok.settle ok
      · split
        · exact ok.settle ok
        · split
          · exact ok.settle trivial
          · exact ok.settle (hbody ok)

theorem State.Canonical.fetchTrap {core word} : (s.fetchTrap core word).Canonical := by
  unfold State.fetchTrap
  split
  · exact ok
  · split
    · exact ok
    · split
      · exact ok.markBound
      · split
        · exact ok.takeTrap
        · exact ok.syncTrap

/-! ### Memory accesses at issue -/

theorem State.Canonical.needWalk {part ctx va kind g} : (s.needWalk part ctx va kind g).Canonical :=
  ok.update.ite ok.update

theorem State.Canonical.place {t a n u kind k} (hk : ∀ {u : State} {p : Nat}, u.Canonical → (k u p).Canonical) :
    (s.place t a n u kind k).Canonical := by
  unfold State.place
  split
  · exact ok
  · exact ok
  · exact ok.touch
  · split
    · split
      · exact ok
      · exact ok.needWalk
    · exact ok.needWalk
  · exact hk ok.markRemote

theorem State.Canonical.clean {t xs k} (hk : ∀ {u : State}, u.Canonical → (k u).Canonical) :
    (s.clean t xs k).Canonical := by
  unfold State.clean
  split
  · exact ok.logPoison
  · exact hk ok

theorem State.Canonical.access {t a n u kind k} (hk : ∀ {u : State} {p : Nat}, u.Canonical → (k u p).Canonical) :
    (s.access t a n u kind k).Canonical := ok.place fun ok => by
    split
    · exact ok.clean fun ok => hk ok
    · exact hk ok

theorem State.Canonical.access16 {t a kind k}
    (hk : ∀ {u : State} {xs : List Span}, u.Canonical → (k u xs).Canonical) :
    (s.access16 t a kind k).Canonical := by
  unfold State.access16
  extract_lets wr one
  have hone {r : Res} (hr : r.Canonical) : (one r).Canonical := by
    cases r <;> exact hr
  refine .ite (hone (ok.place fun _ => trivial)) (hone (ok.place fun ok => ok.place fun ok => ?_))
  exact .ite (hk ok) (ok.clean fun ok => hk ok)

theorem State.Canonical.launch {e} : (s.launch e).Canonical := ok.setCtx

/-! ### Shapes of instructions -/

theorem State.Canonical.writeX {i names a f} : Out.Canonical (Machine.writeX i names a f s) :=
  ok.issue fun ok => ok.mapCtx

theorem State.Canonical.op3 {i a b c f} : Out.Canonical (Machine.op3 i a b c f s) := ok.writeX

theorem State.Canonical.op2 {i a b f} : Out.Canonical (Machine.op2 i a b f s) := ok.writeX

theorem State.Canonical.opLong {i k a b c} : Out.Canonical (Machine.opLong i k a b c s) :=
  ok.issue fun ok => by
    dsimp only
    split
    · exact ok
    · exact ok.launch

/-! ### Clusters -/

theorem State.Canonical.setCluster {d k c} : (s.setCluster d k c).Canonical := ok.setDie

theorem State.Canonical.clusterReq {d k req} : (s.clusterReq d k req).Canonical := by
  unfold State.clusterReq
  dsimp only
  split
  · exact ok.setCluster
  · split
    · exact ok.setCluster
    · exact ok.setCluster.ite (ok.setCluster.ite (ok.setCluster.ite ok.setCluster))

theorem State.Canonical.clusterOn {d k} : (s.clusterOn d k).Canonical := by
  unfold State.clusterOn
  dsimp only
  split
  · exact ok.setCluster.clusterReq
  · exact ok.setCluster

theorem State.Canonical.clusterWakeUp {d k} : (s.clusterWakeUp d k).Canonical := by
  unfold State.clusterWakeUp
  dsimp only
  split
  · exact ok.setCluster
  · exact ok.setCluster.clusterOn
  · exact ok.setCluster.setCluster
  · exact ok.setCluster.clusterOn
  · exact ok.setCluster.setCluster
  · exact ok.setCluster
  · exact ok.setCluster

/-! ### Checkpoint -/

theorem State.Canonical.ckCommand {m cmd} : (s.ckCommand m cmd).Canonical := by
  unfold State.ckCommand
  dsimp only
  split
  · exact ok
  · split
    · exact ok.update.ite ok.update
    · split
      · split
        · exact ok.update
        · exact ok.update.ite (ok.update.ite ok.update)
      · exact ok

theorem State.Canonical.writeCkctl {v} : (s.writeCkctl v).Canonical := (ok.ite ok.update).ckCommand

theorem State.Canonical.ckSaved : s.ckSaved.Canonical := ok.update

theorem State.Canonical.spoilUnit {u} : (s.spoilUnit u).Canonical := ok.markPoison.foldl fun ok => ok.logError

theorem State.Canonical.ckRestored {i bad} : (s.ckRestored i bad).Canonical := by
  unfold State.ckRestored
  extract_lets ps mine kept back poison stale s0 s1
  have ok1 : s1.Canonical := Memory.wf_mergeCells back kept (Memory.wf_filter s.mem _ ok)
  exact ok1.foldl fun ok => ok.spoilUnit

/-! ### The register map -/

theorem State.Canonical.regSeen {off} : (s.regSeen off).Canonical := ok.update.ite ok

theorem State.Canonical.regWrite {off v} : (s.regWrite off v).Canonical := by
  unfold State.regWrite
  split
  · exact ok
  · split
    · exact ok.setDie
    · split
      · exact ok.update
      · exact ok.clusterReq.ite ((ok.clusterWakeUp.ite ok).ite (ok.writeCkctl.ite (ok.update.ite ok)))

/-! ### Steps -/

theorem State.Canonical.showVolts {die} : (s.showVolts die).Canonical := ok.update

theorem State.Canonical.execPowerFloorStep {slow} : Out.Canonical (Machine.execPowerFloorStep slow s) := by
  unfold Machine.execPowerFloorStep
  dsimp only
  split
  · exact ok.foldl fun ok => by
        split
        · exact ok.setDie
        · exact ok
  · exact ok

theorem State.Canonical.readTemp {i t} : (s.readTemp i t).Canonical := ok.update

theorem State.Canonical.monitor : s.monitor.Canonical := by
  unfold State.monitor
  extract_lets n s1 s2
  have ok1 : s1.Canonical :=
    State.Canonical.foldl (s := { s with turn := n + 73 }) ok.update fun ok => ok.readTemp
  have ok2 : s2.Canonical := ok1.foldl fun ok => ok.showVolts
  clear_value s2
  exact ok2.update

theorem State.Canonical.execThermalFloorStep {die slow} : Out.Canonical (Machine.execThermalFloorStep die slow s) :=
  ok.setDie.ite ok

theorem State.Canonical.breakFlash : s.breakFlash.Canonical := ok.update.ite ok

theorem State.Canonical.execThermalCutoff : Out.Canonical (Machine.execThermalCutoff s) := ok.breakFlash.update.ite ok

theorem State.Canonical.clearLoft {d} : (s.clearLoft d).Canonical := State.memOk_clearLoft s d ok

theorem State.Canonical.loseDie {d} : (s.loseDie d).Canonical := State.memOk_loseDie s d ok

theorem State.Canonical.execClusterSaveStart {die k} : Out.Canonical (Machine.execClusterSaveStart die k s) :=
  ok.setCluster.ite ok

theorem State.Canonical.execClusterSaveDone {die k} : Out.Canonical (Machine.execClusterSaveDone die k s) :=
  ok.ite (ok.clusterOn.ite ok.setCluster)

theorem State.Canonical.execClusterRailOffDone {die k} : Out.Canonical (Machine.execClusterRailOffDone die k s) :=
  ok.setCluster.ite ok

theorem State.Canonical.execClusterRampDone {die k} : Out.Canonical (Machine.execClusterRampDone die k s) :=
  ok.setCluster.ite ok

theorem State.Canonical.execClusterRestoreDone {die k} : Out.Canonical (Machine.execClusterRestoreDone die k s) :=
  ok.clusterOn.ite ok

theorem State.Canonical.execCheckpointDone {badUnits headerError} :
    Out.Canonical (Machine.execCheckpointDone badUnits headerError s) := by
  unfold Machine.execCheckpointDone
  split
  · exact ok.ckSaved
  · split
    · split
      · exact ok.update
      · exact ok.update.ite ok.ckRestored
    · exact ok

theorem State.Canonical.execAuxiliarySupplyRemoved : Out.Canonical (Machine.execAuxiliarySupplyRemoved s) :=
  Memory.wf_filter s.mem _ ok

/-! ### Reading and writing bytes wherever they lie for a control core -/

theorem State.Canonical.perfWrite {p bs} : (s.perfWrite p bs).Canonical := by
  unfold State.perfWrite
  split
  · exact ok.setQueue.ite (ok.regWrite.ite ok.write)
  · exact ok.write

/-! ### LDT -/

theorem State.Canonical.writeSpans {xs bs} : (s.writeSpans xs bs).Canonical := by
  induction xs generalizing s bs with
  | nil => exact ok
  | cons x xs ih => exact ih ok.write

theorem State.Canonical.ldtWrite {core da db ft tr src dst bs} :
    (s.ldtWrite core da db ft tr src dst bs).Canonical := by
  unfold State.ldtWrite
  dsimp only
  split
  · split
    · exact ok.writeSpans.foldl fun ok => ok.markPoison
    · split
      · exact ok.writeSpans.foldl fun ok => ok.markPoison
      · exact (ok.writeSpans.foldl fun ok => ok.markPoison).setBank
  · exact ok.writeSpans.foldl fun ok => ok.markPoison

theorem State.Canonical.ldtAccess {t da db tr ill k}
    (hk : ∀ {u : State} {xs : List Span}, u.Canonical → (k u xs).Canonical) :
    (s.ldtAccess t da db tr ill k).Canonical := by
  unfold State.ldtAccess
  dsimp only
  split
  · exact ok
  · split
    · exact ok
    · split
      · exact hk (by
            split
            · exact (ok.markRemote.ite ok).markRemote
            · split
              · exact ok.markRemote
              · exact ok)
      · split
        · exact ok
        · exact ok
        · exact ok.touch
        · split
          · split
            · exact ok
            · exact ok.needWalk
          · exact ok.needWalk
        · exact trivial

/-! ### Fault records -/

theorem State.Canonical.faultRecord {part ctx va kind reason gs u}
    (e : s.faultRecord part ctx va kind reason gs = some u) : u.Canonical := by
  unfold State.faultRecord at e
  dsimp only at e
  split at e
  · exact Option.some.inj e ▸ ok.setPart
  · split at e
    · exact nomatch e
    · exact Option.some.inj e ▸ ok.setPart.event

/-! ### Loads and stores -/

theorem State.Canonical.loadOp {i n signed a m} : Out.Canonical (Machine.loadOp i n signed a m s) :=
  ok.issue fun ok => ok.access fun ok => ok.launch

theorem State.Canonical.storeOp {i n a m} : Out.Canonical (Machine.storeOp i n a m s) :=
  ok.issue fun ok => ok.access fun ok => ok.launch

/-! ### Atomics -/

theorem State.Canonical.atomicOp {i k a o} : Out.Canonical (Machine.atomicOp i k a o s) :=
  ok.issue fun ok => ok.access fun ok => ok.launch

/-! ### Waiting -/

theorem State.Canonical.execWaita {a base scope disp} : Out.Canonical (Machine.execWaita a base scope disp s) :=
  ok.issue fun ok => by
    extract_lets x ea
    split
    · exact ok
    · split
      · exact ok
      · refine ok.access fun {u p} ok => ?_
        generalize u.natAt p 8 = v
        dsimp only
        split
        · exact trivial
        · split <;> exact ok

/-! ### Fences and cluster barriers -/

theorem State.Canonical.execFence {kind scope} : Out.Canonical (Machine.execFence kind scope s) :=
  ok.issue fun ok => by
    split
    · exact trivial
    · exact ok.launch.setCtx

theorem State.Canonical.barrierDone {core t} : (s.barrierDone core t).Canonical := ok.foldl fun ok => ok.setBank

theorem State.Canonical.execCbar : Out.Canonical (Machine.execCbar s) :=
  ok.issue fun ok => by
    dsimp only
    split
    · exact trivial
    · split
      · exact ok
      · split
        · exact ok.setCtx
        · split
          · exact ok.setCtx.barrierDone
          · exact ok.setCtx

/-! ### Vector instructions -/

theorem State.Canonical.tagTrap {t} : (Machine.tagTrap s t).Canonical := ok

theorem State.Canonical.withTags {good ts} {k : Res} (hk : k.Canonical) : (Machine.withTags s good ts k).Canonical := by
  unfold Machine.withTags
  split
  · exact ok.tagTrap
  · exact hk

theorem State.Canonical.launchVec {i a f mask tag flags} : (Machine.launchVec i a f mask tag flags s).Canonical :=
  ok.launch

/-! ### Floating-point arithmetic -/

theorem State.Canonical.fpOp {i a srcs f op} : Out.Canonical (Machine.fpOp i a srcs f op s) :=
  ok.issue fun ok => ok.withTags ok.launchVec

theorem State.Canonical.fp2 {i a b c f op} : Out.Canonical (Machine.fp2 i a b c f op s) := ok.fpOp

theorem State.Canonical.fp1 {i a b f op} : Out.Canonical (Machine.fp1 i a b f op s) := ok.fpOp

/-! ### Compare and select -/

theorem State.Canonical.cmpOp {i a b c pred sf u flt int} : Out.Canonical (Machine.cmpOp i a b c pred sf u flt int s) :=
  ok.issue fun ok => by
    dsimp only
    split
    · split
      · exact ok
      · exact ok.launch
    · split
      · exact ok.launch
      · exact ok.tagTrap

theorem State.Canonical.execVsel {a b c pred} : Out.Canonical (Machine.execVsel a b c pred s) :=
  ok.issue fun ok => ok.withTags (by
    split
    · exact ok.tagTrap
    · exact ok.launchVec)

/-! ### Bitwise, shift, integer -/

theorem State.Canonical.laneOp {i a srcs pred good tag op} :
    Out.Canonical (Machine.laneOp i a srcs pred good tag op s) :=
  ok.issue fun ok => ok.withTags ok.launchVec

theorem State.Canonical.bitOp {i a b c pred op} : Out.Canonical (Machine.bitOp i a b c pred op s) := ok.laneOp

theorem State.Canonical.shiftOp {i a b n pred op} : Out.Canonical (Machine.shiftOp i a b n pred op s) := by
  unfold Machine.shiftOp
  split
  · exact ok.laneOp
  · exact ok.laneOp

theorem State.Canonical.intOp {i a b c sat pred op} : Out.Canonical (Machine.intOp i a b c sat pred op s) := ok.laneOp

/-! ### Permute, reduce, move -/

theorem State.Canonical.redOp {i a b f sat add flt int} : Out.Canonical (Machine.redOp i a b f sat add flt int s) :=
  ok.issue fun ok => by
    dsimp only
    split
    · split
      · exact ok
      · exact ok.launchVec
    · split
      · split
        · exact ok
        · exact ok.launchVec
      · exact ok.tagTrap

/-! ### Tags, flags, conversion, draws -/

theorem State.Canonical.execVcvt {a b t f ov dsel ssel} : Out.Canonical (Machine.execVcvt a b t f ov dsel ssel s) :=
  ok.issue fun ok => by
    dsimp only
    split
    · exact ok.tagTrap
    · exact ok.tagTrap
    · split
      · exact ok
      · split
        · exact ok
        · split
          · exact ok.launchVec.mapCtx
          · exact ok.launchVec

/-! ### Rows -/

theorem State.Canonical.yieldRows {xs} : (s.yieldRows xs).Canonical := ok.foldl fun ok => ok.yieldRun

theorem State.Canonical.rowOpen {owner p} : (s.rowOpen owner p).1.Canonical := by
  unfold State.rowOpen
  dsimp only
  split
  · exact ok
  · split
    · exact ok
    · split
      · exact ok
      · exact ok.rowYield.setRowSlot

/-! ### Completion -/

theorem State.Canonical.setBankOf {core second c} : (s.setBankOf core second c).Canonical := ok.setCore.ite ok.setCore

theorem State.Canonical.lateCheck {core second t p} : (s.lateCheck core second t p).Canonical := ok.logPoison.setBankOf

theorem State.Canonical.finishLoad {core e bs} : (s.finishLoad core e bs).Canonical := by
  unfold State.finishLoad
  split
  · exact (ok.regSeen.ite ok).setBank
  · exact ok.setBank
  · exact ok.ldtWrite.setBank
  · exact ok

theorem State.Canonical.completeEntry {core t before e after} : (s.completeEntry core t before e after).Canonical := by
  unfold State.completeEntry
  dsimp only
  split
  · exact ok.rowOpen.setBank.setBank
  iterate 3
    next =>
      split
      · exact ok
      · split
        · exact ok.ite ok.sendMem.setBank
        · split
          · exact ok.setBank.lateCheck
          · exact ok.yieldRows.finishLoad.setBank
  iterate 4 exact ok
  exact ok.setBank.setBank.ite ok

theorem State.Canonical.execVariableLatencyComplete {core k} :
    Out.Canonical (Machine.execVariableLatencyComplete core k s) := by
  unfold Machine.execVariableLatencyComplete
  split
  · exact ok.ite ok.completeEntry
  · exact ok

/-! ### Stores and atomics -/

theorem State.Canonical.sendStore {part xs bs tag} : (s.sendStore part xs bs tag).1.Canonical := by
  induction xs generalizing s bs tag with
  | nil => exact ok
  | cons x xs ih =>
    unfold State.sendStore
    split
    · exact ih ok.sendMem
    · exact ih ok

theorem State.Canonical.storeHere {xs bs} : (s.storeHere xs bs).Canonical := by
  induction xs generalizing s bs with
  | nil => exact ok
  | cons x xs ih => exact ih (ok.ite ok.perfWrite)

theorem State.Canonical.loseObjects {xs} : (s.loseObjects xs).Canonical := ok.foldl fun ok => ok.update.writeNat

theorem State.Canonical.performEntry {core second t before e after} :
    (s.performEntry core second t before e after).Canonical := by
  unfold State.performEntry
  dsimp only
  split
  · exact ok
  · split
    iterate 2
      next =>
        split
        · exact ok.setBankOf.ite ok
        · split <;> exact ok.yieldRows.sendStore.storeHere.loseObjects.setBankOf
    · split
      · split
        · exact ok.setBankOf.lateCheck
        · exact (ok.yieldRows.perfWrite.ite ok.yieldRows).setBankOf.setBankOf
      · exact ok.setBankOf
    · exact ok

theorem State.Canonical.execStorePerform {core second k} :
    Out.Canonical (Machine.execStorePerform core second k s) := by
  unfold Machine.execStorePerform
  split
  · exact ok.performEntry
  · exact ok

theorem State.Canonical.execIdleTimeout {core} : Out.Canonical (Machine.execIdleTimeout core s) := by
  unfold Machine.execIdleTimeout
  dsimp only
  split
  · exact ok.ite ok.setBank
  · exact ok

/-! ### Rows -/

theorem State.Canonical.rowAccess {t va k} (hk : ∀ {u : State} {p : Nat}, u.Canonical → (k u p).Canonical) :
    (s.rowAccess t va k).Canonical := by
  unfold State.rowAccess
  split
  · exact ok
  · exact ok
  · exact ok
  · exact ok
  · split
    · split
      · exact hk ok
      · exact ok
    · split
      · split
        · exact ok
        · exact ok.needWalk
      · exact ok.needWalk

theorem State.Canonical.rowOp {i a b f} : Out.Canonical (Machine.rowOp i a b f s) :=
  ok.issue fun ok => by
    dsimp only
    split
    · exact ok.mapCtx
    · exact ok.setRowSlot.mapCtx

/-! ### Control registers -/

theorem State.Canonical.kickClear {part n m} : (s.kickClear part n m).Canonical :=
  ok.foldl fun ok => by
    split
    · exact ok.setQueue
    · exact ok

theorem State.Canonical.takeClear {k} : (s.takeClear k).Canonical := (ok.update.foldl fun ok => ok.sendPlain).ite ok

omit ok in
theorem State.crRead_canonical {t n} : (s.crRead t n).Canonical := by
  unfold State.crRead
  extract_lets c info
  split
  iterate 6 exact trivial
  iterate 2 exact .ite trivial trivial
  iterate 4 exact trivial
  refine .ite trivial (.ite (Context.trapReg_canonical _ _) ?_)
  refine .ite (.ite trivial trivial) (.ite (.ite trivial ?_) trivial)
  exact .ite trivial (.ite trivial (.ite trivial (.ite trivial (.ite trivial (.ite trivial trivial)))))

theorem State.Canonical.crWrite {t n v} : (s.crWrite t n v).Canonical := by
  unfold State.crWrite
  extract_lets c put
  have hput {d : Context} : (put d).Canonical := ok.setCtx
  split
  · exact .ite trivial hput
  · exact hput
  · exact .ite trivial hput
  · exact .ite trivial hput
  · exact hput
  · exact hput
  · exact hput
  · refine .ite (.ite trivial (.ite trivial hput)) (.ite ?_ (.ite (.ite trivial hput) (.ite (.ite trivial ?_) trivial)))
    · split
      · exact hput
      · exact trivial
    · refine .ite (ok.takeClear.ite ok) (.ite (.ite trivial (.ite trivial ?_)) trivial)
      exact .ite ok.update (.ite (.ite trivial ok.update) (.ite ok.update ok.kickClear))

theorem State.Canonical.noAddress : s.noAddress.1.Canonical := ok.update

theorem State.Canonical.execCrd {a num} : Out.Canonical (Machine.execCrd a num s) :=
  ok.issue fun ok => by
    split
    · exact ok.mapCtx
    · rename_i e
      exact State.crRead_canonical.put e
    · exact ok
    · exact ok.noAddress
    · exact trivial

theorem State.Canonical.execCwr {a num} : Out.Canonical (Machine.execCwr a num s) :=
  ok.issue fun ok => by
    split
    · exact ok
    · rename_i e
      exact ok.crWrite.put e
    · exact ok
    · exact ok.noAddress
    · exact trivial

/-! ### System instructions -/

theorem State.Canonical.execRqrd {a b} : Out.Canonical (Machine.execRqrd a b s) :=
  ok.issue fun ok => by
    dsimp only
    split
    · exact ok
    · exact ok.setCtx

theorem State.Canonical.dropLines {sc core gone} : (s.dropLines sc core gone).Canonical := ok.update

theorem State.Canonical.execTlbinv {b all scope} : Out.Canonical (Machine.execTlbinv b all scope s) :=
  ok.issue fun ok => by
    dsimp only
    split
    · exact ok.update.dropLines
    · exact ok.update.dropLines

theorem State.Canonical.execIdle {b} : Out.Canonical (Machine.execIdle b s) :=
  ok.issue fun ok => by
    dsimp only
    split
    · exact ok.retire
    · exact ok.retire.setCtx

/-! ### Blocks of a task -/

theorem State.Canonical.setBlock {core h nxt b} : (s.setBlock core h nxt b).Canonical := ok.setBank

theorem State.Canonical.setGen {core g x} : (s.setGen core g x).Canonical := ok.setBank

/-! ### Freezing -/

theorem State.Canonical.pushAsync {core a} : (s.pushAsync core a).Canonical := ok.setBank

theorem State.Canonical.freezeAt {core h nxt tr asked} : (s.freezeAt core h nxt tr asked).Canonical := by
  unfold State.freezeAt
  split
  · exact ok
  · exact ok.setBlock.ite ok.setBlock.pushAsync

theorem State.Canonical.freezeDraining {core f last} : (s.freezeDraining core f last).Canonical := by
  unfold State.freezeDraining
  split
  · exact ok.freezeAt.ite ok
  · exact ok

theorem State.Canonical.streamFail {core gi x f last} : (s.streamFail core gi x f last).Canonical :=
  ok.setGen.freezeDraining.ite ok.setGen

theorem State.Canonical.streamStop {core t gi x kind blk pos last w} :
    (s.streamStop core t gi x kind blk pos last w).Canonical := by
  unfold State.streamStop
  dsimp only
  split
  · exact ok.setGen
  · exact ok.touch.setGen
  · exact ok.needWalk.setGen
  · split
    · split
      · rename_i e
        exact (ok.faultRecord e).streamFail
      · exact ok.setGen
    · exact ok.streamFail
  · exact ok.streamFail.lateCheck
  · exact ok.ite ok.sendMem.setGen

/-! ### Delivering -/

theorem State.Canonical.execGeneratorReadReturn {core g} :
    Out.Canonical (Machine.execGeneratorReadReturn core g s) := by
  unfold Machine.execGeneratorReadReturn
  dsimp only
  split
  · split
    · exact ok
    · split
      · exact ok
      · split
        · exact ok.setGen
        · split
          · exact ok
          · split
            · exact ok.streamStop
            · split
              · exact ok.streamStop
              · exact (ok.foldl fun ok => ok.rowYield).setGen
  · exact ok

/-! ### Packing -/

theorem State.Canonical.sealBlock {t x} : (s.sealBlock t x).Canonical := by
  unfold State.sealBlock
  split
  · exact ok
  · split
    · exact ok
    · split
      · exact trivial
      · dsimp only
        split
        · exact trivial
        · split
          · exact trivial
          · split
            · exact trivial
            · exact trivial
            · exact trivial
            · exact trivial
            · exact (ok.ite ok.yieldRun).write.markIf.write

theorem State.Canonical.packByte {t x e va a mask v bad} : (s.packByte t x e va a mask v bad).Canonical := by
  unfold State.packByte
  extract_lets b o add
  have hadd {u : State} (ok : u.Canonical) {y : Stream} : (add u y).Canonical := by
    unfold add
    split
    · exact trivial
    · extract_lets new same
      cases new with
      | error w => exact trivial
      | ok w =>
        dsimp only
        split
        · exact ok.sealBlock
        · exact ok
  split
  · exact hadd ok
  · split
    · rename_i e1
      exact hadd (ok.sealBlock.ok e1)
    · exact ok.sealBlock

theorem State.Canonical.packBytes {t x bad xs} : (s.packBytes t x bad xs).Canonical := by
  induction xs generalizing s x with
  | nil => exact ok
  | cons y xs ih =>
    obtain ⟨e, va, a, m, v⟩ := y
    unfold State.packBytes
    split
    · rename_i e1
      exact ih (ok.packByte.ok e1)
    · exact ok.packByte

/-! ### Storing -/

theorem State.Canonical.storePlaces {part xs tag} : (s.storePlaces part xs tag).1.Canonical := by
  fun_induction State.storePlaces s part xs tag with
  | case1 => exact ok
  | case2 _ _ _ _ _ _ _ _ ih => exact ih ok.sendMem
  | case3 _ _ _ _ _ _ _ _ ih => exact ih (ok.rowYield.ite ok).write
  | case4 _ _ _ _ _ ih => exact ih ok

theorem State.Canonical.markPlaces {bad items} : (s.markPlaces bad items).Canonical :=
  ok.foldl fun ok => by
    split
    · exact ok.markIf
    · exact ok

theorem State.Canonical.storeToken {core t gi l} : (s.storeToken core t gi l).Canonical := by
  unfold State.storeToken
  extract_lets b gen
  split
  · refine .ite ok ?_
    split
    · exact ok
    · split
      · exact ok
      · extract_lets x toks k last stop first done v bs
        have hstop {w : Stop} : (stop w).Canonical := ok.streamStop
        have hdone {u : State} (ok : u.Canonical) {y : Stream} {tag : Nat} : (done u y tag).Canonical := ok.setGen
        refine .ite ok (.ite hstop (.ite ok ?_))
        split
        · exact hstop
        · refine .ite hstop (.ite hstop (.ite hstop (.ite (hdone ok.storePlaces.markPlaces) (.ite ok ?_))))
          extract_lets items
          split
          · exact hstop
          · exact trivial
          · rename_i e1
            have ok1 := ok.packBytes.ok e1
            refine .ite ?_ (hdone ok1)
            split
            · exact hstop
            · exact trivial
            · rename_i e2
              exact hdone (ok1.sealBlock.ok e2)
  · exact ok

theorem State.Canonical.lateOverrun {core gi l} : (s.lateOverrun core gi l).Canonical := by
  unfold State.lateOverrun
  dsimp only
  split
  · exact ok.setGen.freezeDraining
  · exact ok

theorem State.Canonical.execGeneratorStore {core g lane} :
    Out.Canonical (Machine.execGeneratorStore core g lane s) := by
  unfold Machine.execGeneratorStore
  dsimp only
  split
  · exact ok
  · split
    · exact ok
    · split
      · rename_i e
        exact ok.storeToken.stored e
      · rename_i e
        exact ok.storeToken.held e
      · exact ok.lateOverrun

/-! ### The end of a stream -/

theorem State.Canonical.execStreamFinish {core g} : Out.Canonical (Machine.execStreamFinish core g s) := by
  unfold Machine.execStreamFinish
  dsimp only
  split
  · exact ok.setGen.ite ok
  · exact ok

/-! ### Streams -/

theorem State.Canonical.execSbind {pg b c cfg rep wtag} : Out.Canonical (Machine.execSbind pg b c cfg rep wtag s) :=
  ok.issue fun ok => by
    dsimp only
    split
    · exact ok
    · split
      · exact ok
      · split
        · exact trivial
        · exact ok.setCtx.setCore

theorem State.Canonical.execSgate {pg b start} : Out.Canonical (Machine.execSgate pg b start s) :=
  ok.issue fun ok => by
    dsimp only
    split
    · exact ok
    · exact ok.setCtx
    · exact ok.setCtx

theorem State.Canonical.execSwait {pg scope} : Out.Canonical (Machine.execSwait pg scope s) :=
  ok.issue fun ok => by
    dsimp only
    split
    · exact ok
    · exact ok

/-! ### Blocks -/

theorem State.Canonical.execFstart {h} : Out.Canonical (Machine.execFstart h s) :=
  ok.issue fun ok => by
    dsimp only
    split
    · exact ok
    · split
      · exact ok
      · split
        · exact ok
        · split
          · exact trivial
          · exact ok.setCtx

theorem State.Canonical.execFwait {scope mask} : Out.Canonical (Machine.execFwait scope mask s) :=
  ok.issue fun ok => by
    dsimp only
    split
    · exact ok
    · exact ok

/-! ### Restart -/

theorem State.Canonical.restart {core t h nxt b} : (s.restart core t h nxt b).Canonical := by
  unfold State.restart
  split
  · exact ok.setBlock
  · exact ok.setBank

theorem State.Canonical.execFrestart {h} : Out.Canonical (Machine.execFrestart h s) :=
  ok.issue fun ok => by
    split
    · exact ok
    · exact ok.restart

/-! ### Barrier objects -/

theorem State.Canonical.setBarObj {p b} : (s.setBarObj p b).Canonical := ok.writeNat

theorem State.Canonical.objPlace {t a kind k} (hk : ∀ {u : State} {p : Nat}, u.Canonical → (k u p).Canonical) :
    (s.objPlace t a kind k).Canonical := by
  unfold State.objPlace
  split
  · exact ok
  · split
    · exact ok
    · exact ok.access fun ok => hk ok

theorem State.Canonical.objOp {i b c disp scope f} : Out.Canonical (Machine.objOp i b c disp scope f s) :=
  ok.issue fun ok => by
    dsimp only
    split
    · exact ok
    · exact ok.objPlace fun ok => by
          split
          · exact trivial
          · exact ok.setBarObj

theorem State.Canonical.execBwait {b c disp scope} : Out.Canonical (Machine.execBwait b c disp scope s) :=
  ok.issue fun ok => by
    dsimp only
    split
    · exact ok
    · exact ok.objPlace fun ok => by
          split
          · exact trivial
          · split
            · exact ok
            · exact ok

/-! ### ACOPY -/

theorem State.Canonical.creditCopy {c} : (s.creditCopy c).Canonical := by
  unfold State.creditCopy
  split
  · exact ok.writeNat
  · exact ok.setBarObj

theorem State.Canonical.execAcopy {a b c e f scope disp} : Out.Canonical (Machine.execAcopy a b c e f scope disp s) :=
  ok.issue fun ok => by
    extract_lets x dst src n w u
    split
    · exact ok
    · split
      · exact ok
      · split
        · exact ok
        · split
          · exact ok
          · split
            · exact ok
            · split
              · exact ok
              · exact ok
              · exact ok.touch
              · exact trivial
              · extract_lets k
                split
                · exact ok
                · split
                  · exact trivial
                  · split
                    · exact ok.creditCopy
                    · exact ok.setCore

/-! ### Running a word -/

theorem State.Canonical.fabStore {f : Fab} : (f.store s).Canonical := ok.setBank

theorem State.Canonical.fabTrap {w e asked} : (s.fabTrap w e asked).Canonical := ok.update

/-! ### Marks of poisoned lines -/

theorem State.Canonical.colOp {i body} : Out.Canonical (Machine.colOp i body s) := by
  unfold Machine.colOp
  split
  · refine ok.ite ?_
    dsimp only
    split
    · split
      · exact ok.update.fabStore
      · exact ok.update.fabTrap
    · exact ok.update
  · exact ok

/-! ### Integer and logic operations -/

theorem State.Canonical.intWord {i o ident fn} : Out.Canonical (Machine.intWord i o ident fn s) := ok.colOp

theorem State.Canonical.bitWord {i o ident fn} : Out.Canonical (Machine.bitWord i o ident fn s) := ok.colOp

theorem State.Canonical.shiftWord {i o n fn} : Out.Canonical (Machine.shiftWord i o n fn s) := by
  unfold Machine.shiftWord
  exact ok.colOp

theorem State.Canonical.minMaxWord {i o u top} : Out.Canonical (Machine.minMaxWord i o u top s) := ok.colOp

/-! ### FP32 operations -/

theorem State.Canonical.floatWord {i o lat ident fn} : Out.Canonical (Machine.floatWord i o lat ident fn s) := ok.colOp

/-! ### Conversion and moves -/

theorem State.Canonical.execQcvt {o t rm ov dsel ssel} : Out.Canonical (Machine.execQcvt o t rm ov dsel ssel s) := by
  unfold Machine.execQcvt
  exact ok.colOp

theorem State.Canonical.execQmov {h dst m ep} : Out.Canonical (Machine.execQmov h dst m ep s) := by
  unfold Machine.execQmov
  exact ok.colOp

/-! ### Port operations -/

theorem State.Canonical.execQsend {h p s1 gate e xoff ep} :
    Out.Canonical (Machine.execQsend h p s1 gate e xoff ep s) := by
  unfold Machine.execQsend
  exact ok.colOp

/-! ### Cross-lane operations -/

theorem State.Canonical.execQredl {h dst s1 op rm ep} : Out.Canonical (Machine.execQredl h dst s1 op rm ep s) := by
  unfold Machine.execQredl
  exact ok.colOp

/-! ### QSCALE -/

theorem State.Canonical.execQscale {h m} : Out.Canonical (Machine.execQscale h m s) := by
  unfold Machine.execQscale
  exact ok.colOp

/-! ### The beginning of a cycle -/

theorem State.Canonical.beginCycle {core h nxt rest} : (s.beginCycle core h nxt rest).Canonical := by
  unfold State.beginCycle
  dsimp only
  split
  · exact ok.update
  · exact ok.update

/-! ### Sends -/

theorem State.Canonical.bufStore {core h b e idx lane tok} : (s.bufStore core h b e idx lane tok).1.Canonical := by
  unfold State.bufStore
  dsimp only
  split
  · split
    · exact ok
    · split
      · split
        · exact ok
        · exact ok.write.markIf
      · exact ok.foldl fun ok => by
            split
            · exact ok
            · split
              · exact ok.write.markIf
              · exact ok.write.markIf
  · exact ok

theorem State.Canonical.send {core h b port tok pk w} : SendRes.Canonical (s.send core h b port tok pk w) := by
  unfold State.send
  split
  · exact trivial
  · extract_lets l key q ready g fault wide tag q' r
    clear_value fault wide tag
    split
    · split
      · exact trivial
      · exact ok
    · split
      · split
        · exact trivial
        · split
          · exact trivial
          · split
            · exact trivial
            · exact ok.setGen
      · split
        · exact trivial
        · exact ok.bufStore

theorem State.Canonical.sendAll {core h all xs b ts} : (s.sendAll core h all xs b ts).1.Canonical := by
  induction xs generalizing s b ts with
  | nil => exact ok
  | cons x xs ih =>
    unfold State.sendAll
    split
    · exact ih ok
    · split
      · rename_i e
        exact ih (ok.send.ok e)
      · exact ih ok

theorem State.Canonical.writeRules {core h b} : (s.writeRules core h b).Canonical := by
  unfold State.writeRules
  split
  · exact ok
  · exact ok.foldl fun ok => by
        split
        · split
          · exact ok.writeNat.markIf
          · exact ok
        · exact ok

/-! ### Packing streams -/

theorem State.Canonical.packNow {core t g n u} (e : s.packNow core t g n = .ok u) : u.Canonical := by
  induction n generalizing s with
  | zero => exact Except.ok.inj e ▸ ok
  | succ n ih =>
    unfold State.packNow at e
    extract_lets try1 at e
    split at e
    · rename_i s1 e1
      obtain ⟨l, -, hl⟩ := List.exists_of_findSome?_eq_some e1
      refine ih ?_ e
      unfold try1 at hl
      split at hl
      · exact nomatch hl
      · split at hl
        · exact nomatch hl
        · split at hl
          · rename_i e2
            injection hl with hl
            injection hl with hl
            exact hl ▸ ok.storeToken.stored e2
          · exact nomatch hl
          · exact nomatch hl
    · exact nomatch e
    · exact Except.ok.inj e ▸ ok

theorem State.Canonical.packAll {core t gs u} (e : s.packAll core t gs = .ok u) : u.Canonical := by
  induction gs generalizing s with
  | nil => exact Except.ok.inj e ▸ ok
  | cons g gs ih =>
    unfold State.packAll at e
    split at e
    · rename_i e1
      exact ih (ok.packNow e1) e
    · exact nomatch e

/-! ### The end of a cycle -/

theorem State.Canonical.freezeCycle {core h nxt k tr} : (s.freezeCycle core h nxt k tr).Canonical := by
  unfold State.freezeCycle
  dsimp only
  split
  · exact ok.setBank
  · exact ok.setBank.sendAll.writeRules.setBank.freezeAt

theorem State.Canonical.closeCycle {core h nxt rest} : (s.closeCycle core h nxt rest).Canonical := by
  unfold State.closeCycle
  extract_lets s0 c
  have ok0 : s0.Canonical := ok.update
  split
  · extract_lets sends r traps
    split
    · exact ok0.freezeCycle
    · split
      · exact ok0.freezeCycle
      · rename_i e
        exact (ok0.sendAll.packAll e).writeRules.setBank
  · exact ok0

/-! ### LOOP_CONTEXT_ADVANCE -/

theorem State.Canonical.release {core h nxt} : (s.release core h nxt).Canonical := by
  unfold State.release
  split
  · exact ok.setBlock.ite ok
  · exact ok

/-! ### Loading -/

theorem State.Canonical.execBlockLoadComplete {core h} : Out.Canonical (Machine.execBlockLoadComplete core h s) := by
  unfold Machine.execBlockLoadComplete
  dsimp only
  split
  · exact ok
  · split
    · exact ok.setBlock
    · exact ok

/-! ### The first word -/

theorem State.Canonical.execBlockFirstIssue {core h} : Out.Canonical (Machine.execBlockFirstIssue core h s) := by
  unfold Machine.execBlockFirstIssue
  dsimp only
  split
  · exact ok
  · exact ok.ite ok.setBank

/-! ### The end of issue -/

theorem State.Canonical.raiseLate {core serial} : (s.raiseLate core serial).Canonical :=
  ok.foldl fun ok => by
    dsimp only
    split
    · split
      · split
        · exact ok.freezeDraining
        · exact ok
      · exact ok
    · exact ok

theorem State.Canonical.execBlockIssueFinish {core h} : Out.Canonical (Machine.execBlockIssueFinish core h s) := by
  unfold Machine.execBlockIssueFinish
  dsimp only
  split
  · exact ok.setBlock.raiseLate.ite ok
  · exact ok

/-! ### Completion -/

theorem State.Canonical.execBlockComplete {core h} : Out.Canonical (Machine.execBlockComplete core h s) :=
  ok.ite (ok.setBank.ite (ok.setBank.ite ok))

/-! ### Branches -/

theorem State.Canonical.branchOp {i regs t cond} : Out.Canonical (Machine.branchOp i regs t cond s) :=
  ok.issue fun ok => ok

theorem State.Canonical.callOp {i regs target} : Out.Canonical (Machine.callOp i regs target s) :=
  ok.issue fun ok => by
    dsimp only
    split
    · exact ok
    · exact ok

theorem State.Canonical.execRet : Out.Canonical (Machine.execRet s) :=
  ok.issue fun ok => by
    dsimp only
    split
    · exact ok
    · split
      · exact ok
      · exact ok

/-! ### Pages -/

theorem State.Canonical.setPages {die ks p} : (s.setPages die ks p).Canonical := ok.setDie

theorem State.Canonical.mapChain {core chain f} : (s.mapChain core chain f).Canonical := ok.update

theorem State.Canonical.freePset {die p} : (s.freePset die p).Canonical := ok.setPages

theorem State.Canonical.placeAt {core chain h x y w ht} : (s.placeAt core chain h x y w ht).Canonical :=
  ok.setDie.setPages.mapChain

/-! ### FLOAD -/

theorem State.Canonical.loadBlock {core h index p} : (s.loadBlock core h index p).Canonical := ok.setCore

/-! ### Waiting for the allocator, and compaction -/

theorem State.Canonical.joinWaits {die core chain h w ht} : (s.joinWaits die core chain h w ht).Canonical :=
  ok.ite ok.setDie

theorem State.Canonical.compact {die core h w ht} : (s.compact die core h w ht).Canonical := by
  unfold State.compact
  dsimp only
  split
  · exact ok
  · split
    · exact ok
    · exact ok.setDie

theorem State.Canonical.floadOf {t h index p ill} : (s.floadOf t h index p ill).Canonical := by
  unfold State.floadOf
  extract_lets c hd die w ht fits clash wait s1
  have hw {u : State} (ok : u.Canonical) : (wait u).Canonical := ok.joinWaits.compact
  have ok1 : s1.Canonical := by
    unfold s1
    split
    · exact ok.freePset.setCtx
    · exact ok
  split
  · exact ok
  · split
    · exact ok
    · split
      · split
        · exact ok
        · split
          · exact ok
          · split
            · exact ok.noAddress
            · split
              · exact trivial
              · exact ok.loadBlock
      · split
        · exact ok.noAddress
        · split
          · split
            · exact trivial
            · exact ok.loadBlock
          · split
            · exact trivial
            · split
              · exact hw ok1
              · split
                · exact hw ok1
                · split
                  · exact trivial
                  · exact ok1.placeAt.loadBlock

theorem State.Canonical.execFload {h index} : Out.Canonical (Machine.execFload h index s) :=
  ok.issue fun ok => by
    split
    · exact ok
    · exact ok.floadOf

/-! ### Placing, moving and clearing -/

theorem State.Canonical.execPageSetPlace {core h} : Out.Canonical (Machine.execPageSetPlace core h s) := by
  unfold Machine.execPageSetPlace
  dsimp only
  split
  · exact ok
  · split
    · exact ok
    · split
      · exact ok.compact
      · exact ok.placeAt.ite ok

theorem State.Canonical.copyStorage {src dst n} : (s.copyStorage src dst n).Canonical :=
  State.memOk_copyStorage s src dst n ok

theorem State.Canonical.moveSlice {die a b} : (s.moveSlice die a b).Canonical := ok.copyStorage.update

theorem State.Canonical.movePset {core chain h p x y} : (s.movePset core chain h p x y).Canonical :=
  (ok.foldl fun ok => (ok.foldl fun ok => ok.copyStorage).foldl fun ok => ok.moveSlice).setPages.setPages.mapChain

theorem State.Canonical.execPageSetMove {core h} : Out.Canonical (Machine.execPageSetMove core h s) := by
  unfold Machine.execPageSetMove
  dsimp only
  split
  · exact ok
  · split
    · exact ok.setDie
    · exact ok.setDie.movePset.ite ok

theorem State.Canonical.zeroStorage {a n} : (s.zeroStorage a n).Canonical := State.memOk_zeroStorage s a n ok

theorem State.Canonical.execPageClear {die page} : Out.Canonical (Machine.execPageClear die page s) := by
  unfold Machine.execPageClear
  dsimp only
  split
  · exact ok
  · exact ((ok.foldl fun ok => ok.zeroStorage).foldl fun ok => ok.zeroStorage.update).setPages

/-! ### Copies at work -/

theorem State.Canonical.moveBytes {c ms} : (s.moveBytes c ms).1.Canonical :=
  (ok.update.yieldRows.foldlFst fun ok => by
    split
    · exact ok.sendMem
    · exact ok.yieldRun.perfWrite).foldl fun ok => ok.markPoison

theorem State.Canonical.setCopy {core slot c} : (s.setCopy core slot c).Canonical := ok.setCore

theorem State.Canonical.mapCopy {core slot f} : (s.mapCopy core slot f).Canonical := by
  unfold State.mapCopy
  split
  · exact ok.setCopy
  · exact ok

theorem State.Canonical.dropCopy {core slot} : (s.dropCopy core slot).Canonical := ok.setCore

theorem State.Canonical.renameAgent {old new} : (s.renameAgent old new).Canonical := ok.update

theorem State.Canonical.moveSlot {core k j c} : (s.moveSlot core k j c).Canonical := ok.dropCopy.setCopy.renameAgent

theorem State.Canonical.seatCopies {core} : (s.seatCopies core).Canonical :=
  ok.ite (ok.foldl fun ok => by
    split
    · exact ok.moveSlot
    · exact ok)

theorem State.Canonical.finishCopy {core slot c} : (s.finishCopy core slot c).Canonical :=
  ok.creditCopy.dropCopy.seatCopies.wakeCore.ite ok.creditCopy.dropCopy.seatCopies

theorem State.Canonical.execCopyComplete {core slot} : Out.Canonical (Machine.execCopyComplete core slot s) := by
  unfold Machine.execCopyComplete
  dsimp only
  split
  · exact ok
  · split
    · exact ok
    · split
      · exact ok.touch
      · split
        · exact ok.finishCopy.ite ok
        · split
          · exact ok.moveBytes.finishCopy.ite ok.moveBytes.setCopy
          · exact ok.needWalk.setCopy
          · exact ok.ite ok.sendMem.setCopy
          · exact ok.touch
          · exact ok

theorem State.Canonical.advanceCopy {core slot lim} : (s.advanceCopy core slot lim).Canonical := by
  unfold State.advanceCopy
  split
  · exact ok
  · exact ok.ite ok.moveBytes.setCopy

theorem State.Canonical.pushChain {core chain a} : (s.pushChain core chain a).Canonical := ok.mapChain

theorem State.Canonical.cancelCopy {core slot cause info} : (s.cancelCopy core slot cause info).Canonical := by
  unfold State.cancelCopy
  split
  · exact ok
  · exact ok.dropCopy.seatCopies.pushChain

theorem State.Canonical.execCopyFault {core slot} : Out.Canonical (Machine.execCopyFault core slot s) := by
  unfold Machine.execCopyFault
  dsimp only
  split
  · exact ok
  · split
    · exact ok
    · split
      · exact ok.advanceCopy.cancelCopy
      · split
        · exact ok.advanceCopy.cancelCopy
        · exact ok

/-! ### The journal of the command processor -/

theorem State.Canonical.putRecs {i rs} : (s.putRecs i rs).Canonical := by
  induction rs generalizing s i with
  | nil => exact ok
  | cons r rs ih => exact ih ok.write

theorem State.Canonical.follow : s.follow.Canonical := ok.write.ite ok

theorem State.Canonical.batch {rs u} (e : s.batch rs = some u) : u.Canonical := by
  unfold State.batch at e
  split at e
  · extract_lets s1 s2 at e
    have ok2 : s2.Canonical := State.Canonical.putRecs ok.update
    have ok3 : State.Canonical { s2 with jhead := BitVec.ofNat 11 (s.jhead.toNat + rs.length + 1) } := ok2.update
    exact Option.some.inj e ▸ ok3.follow
  · exact nomatch e

/-! ### Take-over -/

theorem State.Canonical.applyRec {part r} : (s.applyRec part r).Canonical := by
  unfold State.applyRec
  split
  · exact ok.setQueue
  · split
    · exact ok
    · exact ok.update
  · exact ok.update
  · exact ok

theorem State.Canonical.takeJournal : s.takeJournal.Canonical := by
  unfold State.takeJournal
  extract_lets l n part s1 e
  have ok1 : s1.Canonical := ok.foldl fun ok => ok.applyRec
  clear_value s1
  exact State.Canonical.write ok1.update

/-! ### Channels -/

theorem State.Canonical.drop : s.drop.Canonical := ok.update

theorem State.Canonical.sendAck {k part chan} : (s.sendAck k part chan).Canonical := ok.sendPlain

theorem State.Canonical.sendNak {k part chan reason} : (s.sendNak k part chan reason).Canonical := ok.sendPlain

theorem State.Canonical.takeAck {k m} : (s.takeAck k m).Canonical := ok.acked.ite ok

theorem State.Canonical.ackDue {k part chan} : (s.ackDue k part chan).Canonical := ok.sendAck.ite ok

theorem State.Canonical.sequenced {k part chan m body} (hbody : ∀ {u : State}, u.Canonical → (body u).Canonical) :
    (s.sequenced k part chan m body).Canonical := by
  unfold State.sequenced
  dsimp only
  split
  · exact ok.takeAck.sendNak
  · exact (hbody ok.takeAck.setChan).ackDue.ite (ok.takeAck.sendAck.ite ok.takeAck.sendNak)

theorem State.Canonical.breakRun {k} : (s.breakRun k).Canonical := ok.ite ok.setChan

theorem State.Canonical.receive {m body} (hbody : ∀ {u : State}, u.Canonical → (body u).Canonical) :
    (s.receive m body).Canonical := (ok.sequenced (fun ok => hbody ok.breakRun)).ite ok.drop

theorem State.Canonical.receivePlain {m body} (hbody : ∀ {u : State}, u.Canonical → (body u).Canonical) :
    (s.receivePlain m body).Canonical := (hbody ok.takeAck).ite ok.drop

theorem State.Canonical.refuseMsg {m type} : (s.refuseMsg m type).Canonical := ok.event

theorem State.Canonical.receiveNormal {m body} (hbody : ∀ {u : State}, u.Canonical → (body u).Canonical) :
    (s.receiveNormal m body).Canonical := ok.drop.ite (ok.receive (fun ok => hbody ok))

/-! ### Frames -/

theorem State.Canonical.spendPn {port f} : (s.spendPn port f).Canonical := by
  unfold State.spendPn
  split
  · exact ok.update
  · exact ok

/-! ### Memory as the host reaches it -/

theorem State.Canonical.hostPoison {part a n} : (s.hostPoison part a n).Canonical := ok.foldl fun ok => ok.logPoison

theorem State.Canonical.hostTable {part x} : (s.hostTable part x).Canonical := by
  unfold State.hostTable
  split
  · exact ok.update
  · exact ok.update
  · exact ok

/-! ### Waiting graphs -/

theorem State.Canonical.testGraph {k} : (s.testGraph k).Canonical := by
  unfold State.testGraph
  split
  · exact ok
  · refine State.Canonical.ite (ok.update.ite ?_) ok
    split
    · exact ok
    · rename_i s0 e
      have ok0 : s0.Canonical := ok.batch e
      exact (ok0.update.setQueue).ite ok0.update

theorem State.Canonical.testGraphs {part} : (s.testGraphs part).Canonical := ok.foldl fun ok => ok.testGraph

theorem State.Canonical.execGraphReady {part graph} : Out.Canonical (Machine.execGraphReady part graph s) := by
  unfold Machine.execGraphReady
  split
  · exact ok.testGraph.ite ok
  · exact ok

/-! ### WRITE, READ_REQ, DOORBELL -/

theorem State.Canonical.hostWrite {part a bs} : (s.hostWrite part a bs).Canonical := by
  unfold State.hostWrite
  dsimp only
  split
  · exact ok.foldl fun ok => ok.yieldRows.write
  · exact ((ok.foldl fun ok => ok.yieldRows.write).foldl fun ok => ok.hostTable).testGraphs

theorem State.Canonical.hostRead {m} : (s.hostRead m).Canonical := ok.update.hostPoison.emit

/-! ### Peers' accesses -/

theorem State.Canonical.peerPoison {part a n} : (s.peerPoison part a n).Canonical := ok.foldl fun ok => ok.logPoison

theorem State.Canonical.peerWrite {m} : (s.peerWrite m).Canonical := ok.foldl fun ok => ok.yieldRows.write

theorem State.Canonical.peerRead {m} : (s.peerRead m).Canonical := ok.ite ok.update.peerPoison.sendSeq

/-! ### Accesses that run, or are held at the port -/

theorem State.Canonical.wakeHbm {part a n} : (s.wakeHbm part a n).Canonical := ok.update.ite ok

theorem State.Canonical.hostAccess {m wr} : (s.hostAccess m wr).Canonical := by
  unfold State.hostAccess
  dsimp only
  split
  · exact (ok.ite ok.wakeHbm).peerWrite.ite (ok.ite ok.wakeHbm).peerRead
  · exact (ok.ite ok.wakeHbm).hostWrite.ite (ok.ite ok.wakeHbm).hostRead

theorem State.Canonical.releaseHost : s.releaseHost.Canonical := ok.update.foldl fun ok => ok.hostAccess

theorem State.Canonical.hostOrHold {m wr} : (s.hostOrHold m wr).Canonical :=
  ok.update.ite (ok.hostAccess.ite ok.releaseHost.hostAccess)

theorem State.Canonical.execWrite {m} : Out.Canonical (Machine.execWrite m s) :=
  ok.receiveNormal fun ok => by
    split
    · split
      · exact ok.regWrite
      · exact ok.refuseMsg
    · split
      · exact ok.hostOrHold
      · exact ok.refuseMsg

theorem State.Canonical.execReadReq {m} : Out.Canonical (Machine.execReadReq m s) :=
  ok.receiveNormal fun ok => by
    split
    · split
      · exact ok.regSeen.emit
      · exact ok.refuseMsg
    · split
      · exact ok.hostOrHold
      · exact ok.refuseMsg

theorem State.Canonical.execDoorbell {m} : Out.Canonical (Machine.execDoorbell m s) :=
  ok.receiveNormal fun ok => by
    dsimp only
    split
    · exact ok.refuseMsg
    · split
      · exact ok
      · exact ok.setQueue.testGraphs

/-! ### Acknowledgement and resynchronisation -/

theorem State.Canonical.releaseHeld {part} : (s.releaseHeld part).Canonical := ok.setPart.foldl fun ok => ok.sendSeq

theorem State.Canonical.execSyncResp {m} : Out.Canonical (Machine.execSyncResp m s) :=
  ok.receivePlain fun ok => by
    dsimp only
    split
    · exact (ok.foldl fun ok => ok.retransmit).releaseHeld
    · exact ok

theorem State.Canonical.execAckTimeout {part chan} : Out.Canonical (Machine.execAckTimeout part chan s) := by
  unfold Machine.execAckTimeout
  split
  · exact ok.sendAck
  · exact ok

theorem State.Canonical.execRetransmitTimeout {part chan} :
    Out.Canonical (Machine.execRetransmitTimeout part chan s) := by
  unfold Machine.execRetransmitTimeout
  split
  · exact ok.retransmit
  · exact ok

/-! ### Answers on the memory channel -/

theorem State.Canonical.execDevReadResp {m} : Out.Canonical (Machine.execDevReadResp m s) :=
  ok.receiveNormal fun ok => by
    split
    · exact ok.refuseMsg
    · split
      · exact ok
      · exact ok.update

/-! ### Re-execution -/

theorem State.Canonical.recheck {t e k} (hk : ∀ {u : State} {e : Entry}, u.Canonical → (k u e).Canonical) :
    (s.recheck t e k).Canonical := by
  unfold State.recheck
  split
  · exact ok.access fun ok => hk ok
  · exact ok.access16 fun ok => hk ok
  · exact ok.ldtAccess fun ok => hk ok
  · exact ok.rowAccess fun ok => hk ok
  · split
    · exact ok
    · exact hk ok
  · exact hk ok

theorem State.Canonical.inject {t back es} : (s.inject t back es).Canonical := by
  induction es generalizing s back with
  | nil => exact ok
  | cons e es ih =>
    have hr := ok.recheck (t := t) (e := e) (k := fun s1 e1 => .done (s1.setCtx { s1.ctx with susp := [e1] }))
      fun ok => ok.setCtx
    unfold State.inject
    split
    · rename_i e1
      exact ih (hr.done e1).setCtx
    · rename_i e1
      exact hr.trap e1
    · rename_i e1
      exact hr.wait e1
    · exact ok

/-! ### RETT -/

theorem State.Canonical.rett {t ill} : (s.rett t ill).Canonical := by
  unfold State.rett
  extract_lets c f left
  refine .ite ok (.ite ok (.ite ok (.ite trivial (.ite ok (.ite trivial ?_)))))
  split
  · rename_i e
    exact .ite (ok.inject.done e).mapCtx (ok.inject.done e).mapCtx
  · rename_i e
    exact (ok.inject.wait e).mapCtx
  · rename_i e
    exact (ok.inject.trap e).mapCtx

/-! ### RQINJ -/

theorem State.Canonical.sinkResult {s0 core t e} : (State.sinkResult s0 s core t e).Canonical := by
  unfold State.sinkResult
  dsimp only
  split
  · exact ok
  · split
    · exact ok
    · split
      · exact ok.setBank.markRemote.spillTo
      · exact ok.setBank

theorem State.Canonical.rqinj {t j e} : (s.rqinj t j e).Canonical := by
  unfold State.rqinj
  dsimp only
  split
  · exact trivial
  · split
    · exact ok.setCtx.completeEntry.setCtx
    · exact ok.setCtx.completeEntry.sinkResult.setCtx

theorem State.Canonical.execRqinj {b} : Out.Canonical (Machine.execRqinj b s) :=
  ok.issue fun {s t} ok => by
    extract_lets c v
    refine .ite ok ?_
    split
    · exact ok
    · rename_i e _
      have hr := ok.recheck (t := t) (e := e) (k := fun s1 e1 => s1.rqinj t v.toNat e1) fun ok => ok.rqinj
      split
      · rename_i e1
        exact (hr.trap e1).mapCtx
      · exact hr

/-! ### The racking engine -/

theorem State.Canonical.rackFor {core t spill} : (s.rackFor core t spill).Canonical := by
  unfold State.rackFor
  dsimp only
  split
  · rename_i e
    exact (ok.rackGroup.ok e).setBank
  · rename_i e
    exact ok.rackGroup.wait e
  · exact ok.syncTrap
  · exact ok.logPoison.syncTrap

theorem State.Canonical.execWindowRack {core} : Out.Canonical (Machine.execWindowRack core s) := by
  unfold Machine.execWindowRack
  dsimp only
  split
  · exact ok
  · split
    · exact ok
    · split
      · split
        · exact ok.ite ok.rackFor
        · exact ok
      · split
        · split
          · rename_i e
            exact ok.rackGroup.ok e
          · exact ok
        · exact ok

/-! ### Asynchronous traps -/

theorem State.Canonical.execTakeAsyncTrap {core} : Out.Canonical (Machine.execTakeAsyncTrap core s) := by
  unfold Machine.execTakeAsyncTrap
  dsimp only
  split
  · exact ok.ite (ok.takeTrap.setBank.ite ok.takeTrap)
  · exact ok

/-! ### The watchdog -/

theorem State.Canonical.execWatchdog {core us} : Out.Canonical (Machine.execWatchdog core us s) := by
  unfold Machine.execWatchdog
  dsimp only
  split
  · exact ok
  · exact ok.ite (ok.setBank.ite ok.setBank.takeTrap)

/-! ### Scratchpad banks -/

theorem State.Canonical.moveBank {src dst b} : (s.moveBank src dst b).Canonical := State.memOk_moveBank s src dst b ok

theorem State.Canonical.meet {core out inn} : (s.meet core out inn).Canonical := ok.setCore

theorem State.Canonical.forgetSpad {core chain} : (s.forgetSpad core chain).Canonical :=
  Memory.wf_eraseRange s.mem _ _ ok

theorem State.Canonical.execScratchpadBankExchange {core b} :
    Out.Canonical (Machine.execScratchpadBankExchange core b s) := by
  unfold Machine.execScratchpadBankExchange
  extract_lets c k bit base o s0 s1
  have ok0 : s0.Canonical := ok.moveBank
  have ok1 : s1.Canonical := ok.ite ok0.update
  split
  · exact ok
  · extract_lets s0' s2
    have ok0' : s0'.Canonical := ok1.moveBank
    have ok2 : s2.Canonical := ok0'.update.ite ok1
    exact ok.ite ok2.setCore

/-! ### Rows -/

theorem State.Canonical.mapRows {chain f} : (s.mapRows chain f).Canonical := ok.update

/-! ### END -/

theorem State.Canonical.chainOver {core chain c} : (s.chainOver core chain c).Canonical :=
  (ok.mapRows.foldl fun ok => ok.freePset).update

theorem State.Canonical.letGo {core second t n} : (s.letGo core second t n).Canonical := by
  induction n generalizing s with
  | zero => exact ok
  | succ n ih =>
    unfold State.letGo
    split
    · exact ok
    · exact ih ok.performEntry.setBankOf

theorem State.Canonical.giveUp {core second t} : (s.giveUp core second t).Canonical := ok.setBankOf.letGo

theorem State.Canonical.performAll {core t n k} : (s.performAll core t n k).Canonical := by
  induction n generalizing s k with
  | zero => exact ok
  | succ n ih =>
    unfold State.performAll
    split
    · exact ok
    · exact ih ok.performEntry

theorem State.Canonical.loadText {core text} : (s.loadText core text).Canonical := State.memOk_loadText s core text ok

theorem State.Canonical.loadCode {core} : (s.loadCode core).Canonical := by
  unfold State.loadCode
  split
  · exact ok
  · split
    · exact ok
    · exact ok.loadText

theorem State.Canonical.wantSelect {part core} : (s.wantSelect part core).Canonical := ok.setPart

theorem State.Canonical.takeFreed {core} : (s.takeFreed core).Canonical :=
  ok.ite (ok.setCore.meet.loadCode.ite ok.setCore)

theorem State.Canonical.freeSpad {core chain} : (s.freeSpad core chain).Canonical :=
  ok.forgetSpad.meet.ite ok.forgetSpad

theorem State.Canonical.releaseSpads {core t} : (s.releaseSpads core t).Canonical :=
  (ok.meet.ite ok).ite ((ok.foldl fun ok => ok.freeSpad).ite ok.freeSpad)

theorem State.Canonical.endLast {core t} : (s.endLast core t).Canonical :=
  ok.giveUp.chainOver.setCore.releaseSpads.takeFreed.wantSelect

theorem State.Canonical.endNext {core t index e} : (s.endNext core t index e).Canonical := ok.setBank

theorem State.Canonical.execEndTask {next} : Out.Canonical (Machine.execEndTask next s) :=
  ok.issue fun ok => by
    dsimp only
    split
    · split
      · exact ok
      · split
        · exact ok
        · split
          · exact trivial
          · exact ok.endLast
    · split
      · exact ok
      · split
        · exact ok
        · split
          · exact ok
          · split
            · exact trivial
            · split
              · exact trivial
              · exact ok.endNext

/-! ### Pre-emption -/

theorem State.Canonical.saveCopies {core chain} : (s.saveCopies core chain).Canonical :=
  ok.foldl fun ok => (ok.update.advanceCopy.ite ok.update).moveSlot

theorem State.Canonical.dropInstr {core} : (s.dropInstr core).Canonical := ok.update

theorem State.Canonical.swapCore {core} : (s.swapCore core).Canonical := by
  unfold State.swapCore
  dsimp only
  split
  · exact ok.saveCopies.update.dropInstr.setCore.meet.loadCode
  · exact ok.update.dropInstr.setCore.meet.loadCode

theorem State.Canonical.comeBack {core} : (s.comeBack core).1.Canonical := by
  unfold State.comeBack
  extract_lets c
  split
  · exact ok
  · split
    · exact ok.ite ok.setBank
    · split
      · exact ok.setBank
      · have oki {t : Task} : (({ s with cur := core } : State).inject t [] c.susp).Canonical :=
          State.Canonical.inject ok.update
        split
        · rename_i e
          exact (oki.done e).mapCtx
        · rename_i e
          exact (oki.wait e).mapCtx
        · rename_i e
          extract_lets s2 s3 d
          have ok3 : s3.Canonical := (oki.trap e).mapCtx.syncTrap
          split
          · exact ok3.setBank
          · exact ok3.setBank

theorem State.Canonical.execSwapComplete {core} : Out.Canonical (Machine.execSwapComplete core s) := by
  unfold Machine.execSwapComplete
  extract_lets c all r
  have okr : r.1.Canonical := by
    refine State.Canonical.foldlFst (p := (s, true)) ok ?_
    intro q j ok
    exact ok.comeBack
  exact ok.ite (okr.ite (okr.foldl fun ok => ok.setCore.seatCopies))

/-! ### The save record -/

theorem State.Canonical.writeRecord {core c t} : (s.writeRecord core c t).Canonical := ok.foldl fun ok => ok.writeNat

theorem State.Canonical.execBankSpillDone {core} : Out.Canonical (Machine.execBankSpillDone core s) := by
  unfold Machine.execBankSpillDone
  dsimp only
  split
  · exact ok.writeRecord.setCore.ite ok
  · exact ok.setCore

/-! ### Masks and capability -/

theorem State.Canonical.complete {part q gtag status cvalue} : (s.complete part q gtag status cvalue).Canonical :=
  ok.emit

theorem State.Canonical.readPacket {part qn nop} : (s.readPacket part qn nop).Canonical := by
  unfold State.readPacket
  extract_lets _ q p err q1 g
  refine ok.ite (ok.ite ?_)
  split
  · exact ok
  · rename_i e
    extract_lets s1
    have ok1 : s1.Canonical := (ok.batch e).setQueue
    clear_value s1
    exact ok1.complete.ite (ok1.ite (State.Canonical.testGraph ok1.update))

/-! ### Graphs -/

theorem State.Canonical.execFabricLoadEnd {part graph} : Out.Canonical (Machine.execFabricLoadEnd part graph s) := by
  unfold Machine.execFabricLoadEnd
  split
  · exact ok
  · refine State.Canonical.ite ?_ ok
    extract_lets g1
    split
    · exact ok
    · rename_i e
      exact (ok.batch e).update

theorem State.Canonical.applyCkind {g} : (s.applyCkind g).1.Canonical := by
  unfold State.applyCkind
  split
  · exact ok.update.testGraphs
  · split
    · exact ok.update.testGraphs
    · exact ok

theorem State.Canonical.execGraphComplete {part graph} : Out.Canonical (Machine.execGraphComplete part graph s) := by
  unfold Machine.execGraphComplete
  split
  · exact ok
  · refine State.Canonical.ite ?_ ok
    split
    · exact ok
    · rename_i e
      exact (ok.batch e).applyCkind.update.complete

/-! ### Dispatch -/

theorem State.Canonical.startOn {core c swap} : (s.startOn core c swap).Canonical := ok.setCore.meet.loadCode

theorem State.Canonical.setAside {core} : (s.setAside core).Canonical := by
  unfold State.setAside
  extract_lets k0 s1 k s2
  have ok1 : s1.Canonical := by
    unfold s1
    split
    · exact ok.performAll
    · exact ok
  have ok2 : s2.Canonical := ok1.setCore
  exact ok2.update.ite ok

theorem State.Canonical.askSwap {core c} : (s.askSwap core c).Canonical :=
  (ok.foldl fun ok => ok.setAside).setCore.foldl fun ok => by
    split
    · exact ok.setCore
    · exact ok

theorem State.Canonical.bring {xs swap} : (s.bring xs swap).Canonical :=
  (ok.foldl fun ok => ok.startOn).ite (ok.foldl fun ok => ok.askSwap)

theorem State.Canonical.dispatchTo {part u die cs since} : (s.dispatchTo part u die cs since).Canonical := by
  unfold State.dispatchTo
  split
  · exact ok
  · split
    · exact ok
    · extract_lets n took
      split
      · exact ok
      · rename_i e
        extract_lets s0 s1 s2 fresh
        have ok0 : s0.Canonical := (ok.batch e).update
        have ok1 : s1.Canonical := ok0.update
        have ok2 : s2.Canonical := ok1.setDie.ite ok1
        exact ok2.bring

theorem State.Canonical.fetchBack {core chain} : (s.fetchBack core chain).1.Canonical := by
  unfold State.fetchBack
  dsimp only
  split
  · exact ok.setCore
  · exact ok.update

theorem State.Canonical.wakeFor {core} : (s.wakeFor core).Canonical := by
  unfold State.wakeFor
  split
  · exact ok.clusterWakeUp
  · exact ok.clusterWakeUp
  · exact ok

theorem State.Canonical.resumeUnit {u since} : (s.resumeUnit u since).Canonical := by
  unfold State.resumeUnit
  split
  · exact ok
  · rename_i s0 e
    extract_lets r
    have okr : r.1.Canonical := State.Canonical.foldlFst (p := (s0, [])) (ok.batch e) fun {q a} ok => by
      have ok1 := (ok.wakeFor (core := a.1)).fetchBack (core := a.1) (chain := a.2)
      split
      · rename_i e1
        exact ok1.of_fst e1
      · exact ok
    exact okr.bring

theorem State.Canonical.dispatch {part u since} : (s.dispatch part u since).Canonical := by
  unfold State.dispatch
  split
  · split
    · exact ok.dispatchTo
    · exact ok
  · exact ok.resumeUnit

/-! ### The selector -/

theorem State.Canonical.force {part u since} : (s.force part u since).Canonical := by
  unfold State.force
  split
  · extract_lets dies sets
    split
    · exact ok.dispatchTo
    · exact ok
  · exact ok.resumeUnit.ite ok

theorem State.Canonical.selectOne {part since} : (s.selectOne part since).Canonical := by
  unfold State.selectOne
  split
  · exact ok.setPart
  · split
    · exact ok.dispatch.setPart
    · exact ok.dispatch

theorem State.Canonical.selectAll {part since n} : (s.selectAll part since n).Canonical := by
  induction n generalizing s with
  | zero => exact ok
  | succ n ih => exact (ih ok.selectOne).ite ok

theorem State.Canonical.seeFreed {part} : (s.seeFreed part).Canonical := by
  unfold State.seeFreed
  dsimp only
  split
  · exact ok
  · split
    · exact ok
    · rename_i e
      exact (ok.batch e).setPart

theorem State.Canonical.growOld {part} : (s.growOld part).Canonical :=
  ok.foldl fun ok => by
    split
    · split
      · exact ok
      · exact ok.update
    · exact ok.foldl fun ok => ok.mapChain

theorem State.Canonical.execQuantumBoundary {part} : Out.Canonical (Machine.execQuantumBoundary part s) := by
  unfold Machine.execQuantumBoundary
  dsimp only
  split
  · exact ok
  · split
    · exact ok.setPart
    · exact (ok.setPart.seeFreed.growOld.foldl fun ok => by
          split
          · exact ok.dispatch
          · exact ok.force).selectAll

/-! ### Ending tasks from outside -/

theorem State.Canonical.endChain {core c} : (s.endChain core c).Canonical := by
  unfold State.endChain
  split
  · exact ok.chainOver
  · exact ok

theorem State.Canonical.cancelCopies {core mine} : (s.cancelCopies core mine).Canonical := ok.setCore

theorem State.Canonical.stopCycle {core} : (s.stopCycle core).Canonical := ok.update.ite ok

theorem State.Canonical.saveless {core c} : (s.saveless core c).Canonical := by
  unfold State.saveless
  split
  · exact ok.setBankOf.giveUp.setBankOf
  · exact ok

theorem State.Canonical.removeTasks {core mine} : (s.removeTasks core mine).Canonical := by
  unfold State.removeTasks
  extract_lets hit gone k s0 s1 s2 s2' s3 k3 s4 s5 ended s6
  have ok0 : s0.Canonical := ok.stopCycle.ite ok
  have ok1 : s1.Canonical := by
    unfold s1
    split
    · exact ok0.giveUp.ite ok0
    · exact ok0
  have ok2 : s2.Canonical := by
    unfold s2
    split
    · exact ok1.giveUp.ite ok1
    · exact ok1
  have ok2' : s2'.Canonical := ok2.foldl fun ok => ok.saveless
  have ok3 : s3.Canonical := ok2'.foldl fun ok => ok.endChain
  have ok5 : s5.Canonical := ok3.update
  have ok6 : s6.Canonical := ok5.foldl fun ok => ok.releaseSpads.wantSelect
  exact ok6.takeFreed.ite ok6

/-! ### Context teardown -/

theorem State.Canonical.clearKey {d} : (s.clearKey d).Canonical := Memory.wf_filter s.mem _ ok

theorem State.Canonical.dropKey {part tenant} : (s.dropKey part tenant).Canonical := by
  unfold State.dropKey
  dsimp only
  split
  · exact ok.update.clearKey
  · exact ok

theorem State.Canonical.teardown {part ctx} : (s.teardown part ctx).Canonical := by
  unfold State.teardown
  dsimp only
  split
  · exact (ok.foldl fun ok => ok.cancelCopies.removeTasks.seatCopies).update.setPart
  · exact (ok.foldl fun ok => ok.cancelCopies.removeTasks.seatCopies).update.setPart.dropKey

/-! ### Discard -/

theorem State.Canonical.discardGraphs {part} : (s.discardGraphs part).Canonical := ok.foldl fun ok => ok.update.complete

theorem State.Canonical.drainQueues {part} : (s.drainQueues part).Canonical := ok.foldl fun ok => ok.setQueue

theorem State.Canonical.dropWork {part} : (s.dropWork part).Canonical :=
  ((ok.foldl fun ok => ok.removeTasks.cancelCopies).foldl fun ok => ok.setCore).update.setPart

/-! ### Partition faults -/

theorem State.Canonical.abandonTakeover {part} : (s.abandonTakeover part).Canonical := ok.setPart.releaseHeld

theorem State.Canonical.partitionFault {part} : (s.partitionFault part).Canonical :=
  ok.ite ok.abandonTakeover.drainQueues.event.discardGraphs.dropWork.setPart

theorem State.Canonical.faultAll : s.faultAll.Canonical := ok.update.foldl fun ok => ok.partitionFault

/-! ### Partition reset -/

theorem State.Canonical.controlDone {m status result} : (s.controlDone m status result).Canonical := ok.emit

theorem State.Canonical.resetDie {die} : (s.resetDie die).Canonical := ok.clearLoft.update

theorem State.Canonical.dropReductions {part} : (s.dropReductions part).Canonical :=
  ok.update.foldl fun ok => ok.sendSeq

theorem State.Canonical.dropFlips {part} : (s.dropFlips part).Canonical := ok.update.foldl fun ok => ok.emit

theorem State.Canonical.coreBack {k} : (s.coreBack k).Canonical := ok.setBank

theorem State.Canonical.clearPart {part} : (s.clearPart part).Canonical :=
  (ok.update.foldl fun ok => by
    split
    · exact ok.coreBack
    · exact ok).setPart

theorem State.Canonical.resetPart {part} : (s.resetPart part).Canonical :=
  (ok.abandonTakeover.drainQueues.discardGraphs.dropWork.dropReductions.dropFlips.foldl fun ok => ok.resetDie).clearPart

/-! ### Device reset -/

theorem State.Canonical.resetDevice : s.resetDevice.Canonical := State.memOk_resetDevice s ok

/-! ### Command-processor take-over -/

theorem State.Canonical.coreOut {k} : (s.coreOut k).Canonical := ok.update.setBank

theorem State.Canonical.takeOver {k} : (s.takeOver k).Canonical := by
  unfold State.takeOver
  extract_lets s1
  have ok1 : s1.Canonical := State.Canonical.wakeCore ok.update
  exact ok1.update

theorem State.Canonical.execCpMachineCheck : Out.Canonical (Machine.execCpMachineCheck s) := by
  unfold Machine.execCpMachineCheck
  split
  · exact ok
  · exact ok.coreOut.faultAll.ite ok.coreOut.takeOver

theorem State.Canonical.execTakeoverTimeout : Out.Canonical (Machine.execTakeoverTimeout s) := ok.faultAll.ite ok

theorem State.Canonical.execCproleTakeClear : Out.Canonical (Machine.execCproleTakeClear s) :=
  ok.foldl fun ok => by
    split
    · exact ok.takeJournal.takeClear
    · exact ok.takeClear

/-! ### Errors and heat -/

theorem State.Canonical.execUncontainedError {unit part} :
    Out.Canonical (Machine.execUncontainedError unit part s) := by
  unfold Machine.execUncontainedError
  extract_lets s1
  have ok1 : s1.Canonical := ok.logError
  split
  · exact ok1.execCpMachineCheck
  · exact ok1.partitionFault

theorem State.Canonical.execThermalFault {die} : Out.Canonical (Machine.execThermalFault die s) := by
  unfold Machine.execThermalFault
  dsimp only
  split
  · split
    · exact ok.partitionFault.loseDie.setDie
    · exact ok.loseDie.setDie
  · exact ok

/-! ### Die links -/

theorem State.Canonical.setLink {die m x} : (s.setLink die m x).Canonical := ok.update

theorem State.Canonical.linkDone {seq status} : (s.linkDone seq status).Canonical := ok.emit

theorem State.Canonical.linkNext {die m n} : (s.linkNext die m n).Canonical := by
  induction n generalizing s with
  | zero => exact ok
  | succ n ih =>
    unfold State.linkNext
    extract_lets x
    split
    · exact ok
    · exact ok.ite ((ih ok.setLink.linkDone).ite ok.setLink)

theorem State.Canonical.execLinkRetrainDone {die m} : Out.Canonical (Machine.execLinkRetrainDone die m s) := by
  unfold Machine.execLinkRetrainDone
  dsimp only
  split
  · exact ok
  · split
    · exact ok.setLink.linkNext
    · exact (ok.setLink.linkDone.linkNext.ite ok.setLink).ite ok.setLink.linkDone.linkNext

theorem State.Canonical.cutStreams {die} : (s.cutStreams die).Canonical := ok.update

theorem State.Canonical.tellLink {die m} : (s.tellLink die m).Canonical := ok.event.ite (ok.foldl fun ok => ok.event)

theorem State.Canonical.execLinkRetrainTimeout {die m} : Out.Canonical (Machine.execLinkRetrainTimeout die m s) := by
  unfold Machine.execLinkRetrainTimeout
  extract_lets d x s1 s2 s3 s4
  have ok1 : s1.Canonical := ok.setLink
  have ok2 : s2.Canonical := by
    unfold s2
    split
    · exact ok1.linkDone
    · exact ok1
  have ok3 : s3.Canonical := ok2.foldl fun ok => ok.linkDone
  have ok4 : s4.Canonical := ok3.cutStreams.tellLink
  exact ok.ite ((ok4.foldl fun ok => ok.partitionFault).ite ok4)

/-! ### DATA records -/

theorem State.Canonical.writeData {part ctx r} : (s.writeData part ctx r).Canonical :=
  ok.foldl fun ok => by
    split
    · exact ok
    · split
      · exact ok.sendMem
      · exact ok.yieldRows.write

/-! ### LOAD -/

theorem State.Canonical.displace {part handle} : (s.displace part handle).Canonical := by
  unfold State.displace
  dsimp only
  split
  · exact ok
  · exact ok.update

theorem State.Canonical.acceptCode {part ctx handle o} : (s.acceptCode part ctx handle o).Canonical := by
  unfold State.acceptCode
  extract_lets s1 k s2 s3 key old s4
  have ok1 : s1.Canonical := ok.foldl fun ok => ok.writeData
  have ok2 : s2.Canonical := ok1.ite ok1.update
  have ok3 : s3.Canonical := ok2.setCtxInfo
  have ok4 : s4.Canonical := by
    unfold s4
    clear_value old s3
    split
    · exact ok3.ite ok3.displace
    · exact ok3
  clear_value s4
  exact ok4.update

theorem State.Canonical.loadDone {part handle record} : (s.loadDone part handle record).Canonical := ok.emit

theorem State.Canonical.loadObject {part ctx handle o} : (s.loadObject part ctx handle o).Canonical := by
  unfold State.loadObject
  split
  · exact ok.loadDone
  · exact ok.acceptCode.loadDone

/-! ### Firmware -/

theorem State.Canonical.loadFirmware {image} : (s.loadFirmware image).Canonical := (ok.update.ite ok).loadDone

theorem State.Canonical.flashDone : s.flashDone.Canonical := by
  unfold State.flashDone
  split
  · exact ok
  · exact ok.update.resetDevice.ite ok.update

/-! ### Fragments -/

theorem State.Canonical.loadPart {m} : (s.loadPart m).Canonical :=
  ok.setChan.ite (ok.setChan.loadFirmware.ite ok.setChan.loadObject)

theorem State.Canonical.execLoad {m} : Out.Canonical (Machine.execLoad m s) := by
  unfold Machine.execLoad
  dsimp only
  split
  · exact ok.drop
  · exact ok.sequenced (fun ok => by
        split
        · exact ok.loadPart
        · exact ok.breakRun.refuseMsg)

/-! ### PAGE_WALK_COMPLETE -/

theorem State.Canonical.walkStream {core g chain lane cause va asked poison} :
    (s.walkStream core g chain lane cause va asked poison).Canonical := by
  unfold State.walkStream
  split
  · exact ok
  · split
    · exact ok
    · split
      · exact ok.streamStop
      · exact ok.streamFail

theorem State.Canonical.walkFound {g} : (s.walkFound g).Canonical := by
  unfold State.walkFound
  split
  · exact ok.setBank.ite ok
  · split
    · exact ok.setGen
    · exact ok
  · exact ok

theorem State.Canonical.walkMissing {va x2} : (s.walkMissing va x2).Canonical := by
  unfold State.walkMissing
  split
  · exact ok
  · exact ok.walkStream
  · split
    · exact ok.advanceCopy.mapCopy
    · exact ok

theorem State.Canonical.walkBad {va cause poison x4} : (s.walkBad va cause poison x4).Canonical := by
  unfold State.walkBad
  split
  · exact ok.setBank
  · exact ok.walkStream
  · split
    · exact ok.setCopy
    · exact ok

theorem State.Canonical.execPageWalkComplete {k} : Out.Canonical (Machine.execPageWalkComplete k s) := by
  unfold Machine.execPageWalkComplete
  split
  · exact ok
  · refine ok.ite ?_
    dsimp only
    split
    · exact ok.update.foldl fun ok => ok.walkFound
    · exact ok.update.foldl fun ok => ok.walkBad
    · exact (ok.update.ite ok.update.logPoison).foldl fun ok => ok.walkBad
    · split
      · exact ok.update
      · split
        · exact ok
        · rename_i e
          exact (ok.update.faultRecord e).foldl fun ok => ok.walkMissing

/-! ### CONTROL messages -/

theorem State.Canonical.refused {m} : (s.refused m).Canonical := ok.controlDone

theorem State.Canonical.accepted {m} : (s.accepted m).Canonical := ok.controlDone

theorem State.Canonical.control {m op run} (hrun : ∀ {u : State}, u.Canonical → (run u).Canonical) :
    (s.control m op run).Canonical := ok.receiveNormal fun ok => by
    split
    · exact ok.refuseMsg
    · split
      · exact ok.update
      · exact hrun ok

theorem State.Canonical.asManager {m run} (hrun : ∀ {u : State}, u.Canonical → (run u).Canonical) :
    (s.asManager m run).Canonical := (hrun ok).ite ok.refused

theorem State.Canonical.asPartition {m run} (hrun : ∀ {p : Nat} {u : State}, u.Canonical → (run p u).Canonical) :
    (s.asPartition m run).Canonical := ok.refused.ite (hrun ok)

/-! ### MODE and PCREATE -/

theorem State.Canonical.modeOp {m} : (s.modeOp m).Canonical :=
  ok.asManager fun ok => by
    split
    · exact ok.refused
    · exact ok.update.accepted

theorem State.Canonical.pcreateOp {m} : (s.pcreateOp m).Canonical :=
  ok.asManager fun ok => by
    dsimp only
    split
    · exact ok.refused
    · exact ok.update.controlDone

/-! ### PRESET, PDESTROY, CTX_TEARDOWN, WDLIMIT -/

theorem State.Canonical.beginReset {m destroy} : (s.beginReset m destroy).Canonical :=
  ok.asPartition fun ok => ok.resetPart.setPart

theorem State.Canonical.presetOp {m} : (s.presetOp m).Canonical := ok.beginReset

theorem State.Canonical.pdestroyOp {m} : (s.pdestroyOp m).Canonical := ok.beginReset

theorem State.Canonical.resetEnds {p} : (s.resetEnds p).Canonical := by
  unfold State.resetEnds
  split
  · exact ok
  · exact ok.setPart.emit

theorem State.Canonical.teardownOp {m} : (s.teardownOp m).Canonical :=
  ok.asPartition fun ok => by
    split
    · exact ok.teardown.accepted
    · exact ok.refused

theorem State.Canonical.wdlimitOp {m} : (s.wdlimitOp m).Canonical :=
  ok.asPartition fun ok => by
    dsimp only
    split
    · exact ok.refused
    · exact ok.update.accepted

/-! ### QDESC -/

theorem State.Canonical.qdescOp {m} : (s.qdescOp m).Canonical :=
  ok.asPartition fun ok => by
    dsimp only
    split
    · exact ok.refused
    · split
      · exact ok.setQueue.accepted
      · split
        · exact ok.refused
        · exact ok.setQueue.testGraphs.accepted

/-! ### FAULT_ANSWER and TASK_RESUME -/

theorem State.Canonical.answerAgent {va fatal g} : (s.answerAgent va fatal g).Canonical := by
  unfold State.answerAgent
  split
  · exact ok.ite (ok.setBank.ite ok.setBank)
  · exact ok.mapChain
  · exact ok.cancelCopy.ite ok.mapCopy

theorem State.Canonical.answerOp {m} : (s.answerOp m).Canonical :=
  ok.asPartition fun ok => by
    split
    · exact ok.refused
    · exact (ok.setPart.foldl fun ok => ok.answerAgent).accepted

theorem State.Canonical.resumeOp {m} : (s.resumeOp m).Canonical :=
  ok.asPartition fun ok => by
    dsimp only
    split
    · exact ok.refused
    · split
      · exact ok.setBank.accepted
      · split
        · exact ok.setCore.accepted
        · exact ok.refused

/-! ### LINK and MACSEC_KEY -/

theorem State.Canonical.linkOp {m} : (s.linkOp m).Canonical :=
  ok.asManager fun ok => by
    dsimp only
    split
    · exact ok.refused
    · exact ok.setLink.linkNext

theorem State.Canonical.macsecOp {m} : (s.macsecOp m).Canonical :=
  ok.asManager fun ok => by
    dsimp only
    split
    · exact ok.refused
    · exact ok.update.accepted

/-! ### FLIP -/

theorem State.Canonical.flipOp {m} : (s.flipOp m).Canonical :=
  ok.asPartition fun ok => by
    dsimp only
    split
    · exact ok.refused
    · exact ok.update

theorem State.Canonical.setBias {pl host} : (s.setBias pl host).Canonical := ok.writeNat

theorem State.Canonical.dropFetched : s.dropFetched.Canonical := ok.update

theorem State.Canonical.finishFlip {f} : (s.finishFlip f).Canonical := by
  unfold State.finishFlip
  extract_lets s1 s2 s3 s4
  have ok1 : s1.Canonical := ok.update.dropFetched
  have ok2 : s2.Canonical := ok1.foldl fun ok => ok.setBias
  have ok3 : s3.Canonical := ok2.emit
  have ok4 : s4.Canonical := by
    unfold s4
    split
    · exact ok3.update
    · exact ok3
  exact ok4.releaseHost

theorem State.Canonical.advanceFlip : s.advanceFlip.Canonical := by
  unfold State.advanceFlip
  split
  · exact ok
  · exact ok.finishFlip.ite ok.sendMem.update

theorem State.Canonical.execFlushDone {m} : Out.Canonical (Machine.execFlushDone m s) :=
  ok.receiveNormal fun ok => by
    dsimp only
    split
    · exact ok.refuseMsg
    · split
      · exact ok
      · split
        · exact ok.finishFlip
        · exact ok

/-! ### The messages -/

theorem State.Canonical.runControl {op m} : (s.runControl op m).Canonical := by
  unfold State.runControl
  split
  · exact ok.modeOp
  · exact ok.pcreateOp
  · exact ok.presetOp
  · exact ok.pdestroyOp
  · exact ok.qdescOp
  · exact ok.flipOp
  · exact ok.answerOp
  · exact ok.resumeOp
  · exact ok.teardownOp
  · exact ok.linkOp
  · exact ok.macsecOp
  · exact ok.wdlimitOp
  · exact ok.refused

theorem State.Canonical.nextControl : s.nextControl.Canonical := by
  unfold State.nextControl
  split
  · exact ok
  · exact ok.ite ok.update.runControl

/-! ### The peer profile -/

theorem State.Canonical.peerReceive {port m body}
    (hbody : ∀ {n : Nat} {u : State}, u.Canonical → (body n u).Canonical) :
    
    (s.peerReceive port m body).Canonical := ok.receiveNormal fun ok => hbody ok

theorem State.Canonical.execReduce {port m} : Out.Canonical (Machine.execReduce port m s) :=
  ok.peerReceive fun ok => by
    extract_lets n r acc last out s1
    have ok1 : s1.Canonical := ok.update.ite ok
    exact ok1.update

/-! ### The meaning of every instruction -/

theorem State.Canonical.exec {i} : Out.Canonical (Machine.exec i s) := by
  unfold Machine.exec
  cases i with
  | add | sub | min | max | minu | maxu | and | or | xor | andn | shl | shr | sra | rol | seq | slt
  | sltu => exact ok.op3
  | mul | mulhs | mulhu | divs | divu | rems | remu => exact ok.opLong
  | sel | limm | limmh | lea | fqry => exact ok.writeX
  | clz | ctz | popc | mov | exts | extz | addi | andi | ori | xori | shli | shri | srai | roli => exact ok.op2
  | ldb | ldh | ldw | ldd | ldbu | ldhu | ldwu => exact ok.loadOp
  | stb | sth | stw | std => exact ok.storeOp
  | ldv | stv => exact ok.issue fun ok => ok.access16 fun ok => ok.launch
  | aadd | axchg | aand | aor | axor | acas | amin | aminu | amax | amaxu => exact ok.atomicOp
  | waita => exact ok.execWaita
  | fence => exact ok.execFence
  | cbar => exact ok.execCbar
  | bez | bnz | bltz | bgez | jmp => exact ok.branchOp
  | call | callr => exact ok.callOp
  | jr => exact ok.issue fun ok => ok
  | ret => exact ok.execRet
  | trap | brk => exact ok.issue fun ok => trivial
  | endTask => exact ok.execEndTask
  | vadd | vsub | vmul | vmin | vmax | vdiv => exact ok.fp2
  | vfma | vfms => exact ok.fpOp
  | vabs | vneg | vsqrt | vrcp | vrsq => exact ok.fp1
  | vcmpeq | vcmplt | vcmple => exact ok.cmpOp
  | vsel => exact ok.execVsel
  | vand | vor | vxor => exact ok.bitOp
  | vshl | vshr | vsra => exact ok.shiftOp
  | viadd | visub | vimul => exact ok.intOp
  | vperm => exact ok.issue fun ok => ok.withTags ok.launchVec
  | vredadd | vredmax => exact ok.redOp
  | vbcast | vmov | vtag => exact ok.laneOp
  | vins | vflags => exact ok.issue fun ok => ok.launch
  | vext => exact ok.issue fun ok => ok.withTags ok.launch
  | vcvt => exact ok.execVcvt
  | vrng => exact ok.issue fun ok => ok.launchVec.mapCtx
  | ldt => exact ok.issue fun ok => ok.ldtAccess fun ok => ok.launch
  | sbind => exact ok.execSbind
  | sgate => exact ok.execSgate
  | swait => exact ok.execSwait
  | fload => exact ok.execFload
  | fstart => exact ok.execFstart
  | fbar => exact ok.issue fun ok => ok.mapCtx
  | fwait => exact ok.execFwait
  | frestart => exact ok.execFrestart
  | acopy => exact ok.execAcopy
  | binit | bexpect => exact ok.objOp
  | bwait => exact ok.execBwait
  | rowopen => exact ok.issue fun ok => ok.rowAccess fun ok => ok.launch
  | rowholdKeep | rowholdDrop | rowrel | rowqry => exact ok.rowOp
  | crd => exact ok.execCrd
  | cwr => exact ok.execCwr
  | rett => exact ok.issue fun ok => ok.rett
  | rqrd => exact ok.execRqrd
  | rqinj => exact ok.execRqinj
  | tlbinv => exact ok.execTlbinv
  | idle => exact ok.execIdle
  | qnop | qmul | qmac | qcmp | qsel | qfma | qrecv | qlane | qbcast | qtstep | qdrain | qiter
  | qempty | qrsym | qrload | qrdrain => exact ok.colOp
  | qadd | qsub => exact ok.intWord
  | qand | qor | qxor => exact ok.bitWord
  | qshl | qshr | qsra => exact ok.shiftWord
  | qmin | qmax => exact ok.minMaxWord
  | qfadd | qfmul | qfmin | qfmax => exact ok.floatWord
  | qcvt => exact ok.execQcvt
  | qsend => exact ok.execQsend
  | qredl => exact ok.execQredl
  | qmov => exact ok.execQmov
  | qscale => exact ok.execQscale
  | variableLatencyComplete => exact ok.execVariableLatencyComplete
  | storePerform => exact ok.execStorePerform
  | windowRack => exact ok.execWindowRack
  | waiterProceed => exact ok.ite ok.setBank
  | idleTimeout => exact ok.execIdleTimeout
  | blockLoadComplete => exact ok.execBlockLoadComplete
  | blockFirstIssue => exact ok.execBlockFirstIssue
  | blockIssueFinish => exact ok.execBlockIssueFinish
  | blockComplete => exact ok.execBlockComplete
  | generatorReadReturn => exact ok.execGeneratorReadReturn
  | generatorStore => exact ok.execGeneratorStore
  | streamFinish => exact ok.execStreamFinish
  | copyComplete => exact ok.execCopyComplete
  | copyFault => exact ok.execCopyFault
  | pageWalkComplete => exact ok.execPageWalkComplete
  | takeAsyncTrap => exact ok.execTakeAsyncTrap
  | watchdog => exact ok.execWatchdog
  | rowRefresh => exact ok.foldl fun ok => ok.setRowSlot
  | rowReopen => exact ok.rowYield.setRowSlot.ite ok
  | preemption => exact ok.ite (ok.foldl fun ok => ok.swapCore)
  | swapComplete => exact ok.execSwapComplete
  | bankSpillDone => exact ok.execBankSpillDone
  | scratchpadBankExchange => exact ok.execScratchpadBankExchange
  | quantumBoundary => exact ok.execQuantumBoundary
  | taskDispatch => exact ok.seeFreed.selectOne.ite ok
  | fabricLoadEnd => exact ok.execFabricLoadEnd
  | graphReady => exact ok.execGraphReady
  | graphComplete => exact ok.execGraphComplete
  | launch | nop => exact ok.readPacket
  | pageSetPlace => exact ok.execPageSetPlace
  | pageSetMove => exact ok.execPageSetMove
  | pageClear => exact ok.execPageClear
  | opStep => exact ok.setDie.showVolts
  | diePark => exact ok.setDie.ite ok
  | dieGate => exact ok.loseDie.setDie.ite ok
  | dieWakeDone => exact ok.clearLoft.update.ite ok
  | checkpointDone => exact ok.execCheckpointDone
  | loopContextAdvance => exact ok.ite ok.release.release.update
  | write => exact ok.execWrite
  | readReq => exact ok.execReadReq
  | doorbell => exact ok.execDoorbell
  | ack => exact ok.receivePlain fun ok => ok
  | nak => exact ok.receivePlain fun ok => ok.acked.retransmit
  | syncReq => exact ok.receivePlain fun ok => (ok.breakRun.ite ok).sendPlain.retransmit
  | syncResp => exact ok.execSyncResp
  | load => exact ok.execLoad
  | firmwareLoad => exact ok.loadFirmware
  | mode => exact ok.control fun ok => ok.modeOp
  | pcreate => exact ok.control fun ok => ok.pcreateOp
  | preset => exact ok.control fun ok => ok.presetOp
  | pdestroy => exact ok.control fun ok => ok.pdestroyOp
  | qdesc => exact ok.control fun ok => ok.qdescOp
  | flip => exact ok.control fun ok => ok.flipOp
  | faultAnswer => exact ok.control fun ok => ok.answerOp
  | taskResume => exact ok.control fun ok => ok.resumeOp
  | ctxTeardown => exact ok.control fun ok => ok.teardownOp
  | link => exact ok.control fun ok => ok.linkOp
  | macsecKey => exact ok.control fun ok => ok.macsecOp
  | wdlimit => exact ok.control fun ok => ok.wdlimitOp
  | devReadResp => exact ok.execDevReadResp
  | flushDone => exact ok.execFlushDone
  | peerWrite | peerReadReq => exact ok.peerReceive fun ok => ok.hostOrHold
  | peerReadResp => exact ok.peerReceive fun ok => ok
  | reduce => exact ok.execReduce
  | ackTimeout => exact ok.execAckTimeout
  | retransmitTimeout => exact ok.execRetransmitTimeout
  | linkRetrainStart => exact ok.setLink.ite ok
  | linkRetrainDone => exact ok.execLinkRetrainDone
  | linkRetrainTimeout => exact ok.execLinkRetrainTimeout
  | deviceReset => exact ok.resetDevice
  | cpMachineCheck => exact ok.execCpMachineCheck
  | takeoverTimeout => exact ok.execTakeoverTimeout
  | cproleTakeClear => exact ok.execCproleTakeClear
  | kickClear => exact ok.kickClear.ite ok
  | registerWrite => exact ok.regWrite
  | dieOnline | dieDrain | dieGateRequest | opselWrite => exact ok.setDie
  | powerFloorStep => exact ok.execPowerFloorStep
  | thermalFloorStep => exact ok.execThermalFloorStep
  | thermalFault => exact ok.execThermalFault
  | thermalCutoff => exact ok.execThermalCutoff
  | hbmSelfRefresh => exact ok.update.ite ok
  | clusterRetain | clusterOff => exact ok.clusterReq
  | clusterWake => exact ok.clusterWakeUp
  | clusterSaveStart => exact ok.execClusterSaveStart
  | clusterSaveDone => exact ok.execClusterSaveDone
  | clusterRailOffDone => exact ok.execClusterRailOffDone
  | clusterRampDone => exact ok.execClusterRampDone
  | clusterRestoreDone => exact ok.execClusterRestoreDone
  | checkpointSave | checkpointRestore => exact ok.writeCkctl
  | errorCorrected => exact ok.logError
  | linePoisoned => exact ok.markPoison.logError
  | uncontainedError => exact ok.execUncontainedError
  | scrub | flitCrcError => exact ok
  | mainSupplyRemoved => exact ok.breakFlash.update
  | frameDropped => exact ok.drop.ite (ok.spendPn.ite ok.spendPn.drop)
  | messageRefused => exact ok.drop.ite (ok.receiveNormal (fun ok => ok.refuseMsg))
  | controlRefused => exact ok.control fun ok => ok.refused
  | auxiliarySupplyRemoved => exact ok.execAuxiliarySupplyRemoved

/-! ### Sornen functions as they run -/

theorem State.Canonical.putStrip {x} : (s.putStrip x).Canonical := ok.mapCtx

theorem State.Canonical.clobber : s.clobber.Canonical := ok.update.mapCtx

theorem State.Canonical.endStrip {x f j} : (s.endStrip x f j).Canonical := ok.setCtx

theorem State.Canonical.endIteration {x} : (s.endIteration x).Canonical := ok.setCtx

theorem State.Canonical.sornenLoad {t x ea n signed w32} : (s.sornenLoad t x ea n signed w32).Canonical := by
  unfold State.sornenLoad
  dsimp only
  split
  · exact trivial
  · split
    · exact (ok.update.ite ok).putStrip
    · exact ok.access fun ok => ok.launch.putStrip

theorem State.Canonical.sornenStore {t x ea v n} : (s.sornenStore t x ea v n).Canonical :=
  ok.access fun ok => ok.launch.putStrip

/-! ### A LOOP strip on the fabric -/

theorem State.Canonical.loopBind {x st k} : (s.loopBind x st k).Canonical := by
  unfold State.loopBind
  split
  · exact ok.putStrip
  · exact .ite ok (.ite trivial ok.setCtx.setCore.putStrip)

theorem State.Canonical.loopLoad {t x} : (s.loopLoad t x).Canonical := by
  unfold State.loopLoad
  split
  · rename_i e
    exact (ok.floadOf.done e).mapCtx.putStrip
  · exact ok.floadOf

theorem State.Canonical.loopStart {x} : (s.loopStart x).Canonical := by
  unfold State.loopStart
  exact .ite ok (.ite trivial ok.setCtx)

theorem State.Canonical.loopFeed {x st} : (s.loopFeed x st).Canonical := by
  unfold State.loopFeed
  split
  · exact ok.putStrip
  · split
    · exact ok
    · split
      · exact ok.update.freezeAt
      · exact ok.update.putStrip

theorem State.Canonical.sornenOp {t x f st o} : (s.sornenOp t x f st o).Canonical := by
  unfold State.sornenOp
  dsimp only
  split
  · exact ok.putStrip
  · split
    · exact ok.putStrip
    · exact ok.sornenLoad
    · exact ok.sornenStore
    · split
      · exact ok
      · exact ok.sornenLoad
    · split
      · exact ok
      · exact (ok.update.ite ok).sornenStore
    · exact ok.putStrip
    · exact ok.putStrip
    · exact ok.endStrip
    · split
      · exact ok.putStrip
      · exact ok

theorem State.Canonical.moveFrame {by_} : (s.moveFrame by_).Canonical := ok.mapCtx

theorem State.Canonical.sornenCall {t x f} : (s.sornenCall t x f).Canonical := by
  unfold State.sornenCall
  dsimp only
  split
  · split
    · exact trivial
    · split
      · exact ok
      · exact ok.moveFrame.putStrip
  · exact ok.access fun ok => ok.update.launch.putStrip

theorem State.Canonical.sornenNext {t x f} : (s.sornenNext t x f).Canonical := by
  unfold State.sornenNext
  dsimp only
  split
  · exact ok.sornenCall
  · split
    · split
      · exact trivial
      · split
        · exact ok
        · split
          · exact ok
          · exact ok.clobber.moveFrame
    · split
      · exact ok.putStrip
      · split
        · exact trivial
        · split
          · exact ok
          · split
            · exact ok.loopBind
            · exact ok.loopLoad
            · exact ok.loopStart
            · split
              · exact ok
              · exact ok.putStrip
            · split
              · split
                · exact ok.setCtx
                · exact ok.putStrip
              · split
                · exact ok.loopFeed
                · split
                  · exact ok.endIteration
                  · exact ok.sornenOp

theorem State.Canonical.sornenEnter {core k f} : (s.sornenEnter core k f).Canonical := ok.update.clobber.mapCtx

theorem State.Canonical.sornenStep : s.sornenStep.Canonical := by
  unfold State.sornenStep
  extract_lets c
  split
  · rename_i t x _ _
    extract_lets f
    refine ok.ite (ok.markBound.ite ?_)
    split
    · exact ok.takeTrap
    · have hr : (match f with
          | some f => s.sornenNext t x f
          | none => .trap s cIllegal (Config.freeWord s.turn) : Res).Canonical := by
        cases f with
        | some f => exact ok.sornenNext
        | none => exact ok
      split
      · rename_i e
        exact ok.markBound.ite (hr.done e).mapCtx
      · rename_i e
        exact ok.markBound.ite (hr.jump e).mapCtx.retire
      · rename_i e
        exact (hr.trap e).syncTrap
      · rename_i e
        exact (hr.wait e).showWait
      · exact ok.markBound.ite (ok.ite ok.showWait)
      · exact ok
  · exact ok

/-! ### A control core -/

theorem State.Canonical.runCore {c} : Out.Canonical (s.runCore c) := by
  unfold State.runCore
  dsimp only
  split
  · exact ok.update.sornenStep
  · split
    · exact ok.update.exec
    · split
      · exact ok.update.sornenEnter
      · split
        · exact ok.update.exec
        · exact ok.update.fetchTrap

/-! ### A fabric cycle in progress -/

theorem State.Canonical.runDue {d rest} : Out.Canonical (s.runDue d rest) := by
  unfold State.runDue
  split
  · exact ok.beginCycle
  · exact ok.exec
  · exact ok.closeCycle

/-! ### Power -/

theorem State.Canonical.clusterNext {d k} : Out.Canonical (s.clusterNext d k) := by
  unfold State.clusterNext
  split
  · exact ok.execClusterSaveStart
  · exact ok.execClusterSaveDone
  · exact ok.execClusterRailOffDone
  · exact ok.execClusterRampDone
  · exact ok.execClusterRestoreDone
  · exact ok

theorem State.Canonical.timedRun {t} : Out.Canonical (Machine.Timed.run t s) := by
  unfold Machine.Timed.run
  split
  · exact ok.clusterNext
  · exact ok.execTakeoverTimeout
  · exact ok.execAckTimeout
  · exact ok.execRetransmitTimeout
  · exact ok.execLinkRetrainDone
  · exact ok.execLinkRetrainTimeout
  · exact ok.resetEnds
  · exact ok.flashDone
  · exact ok.monitor
  · exact ok.releaseHost
  · exact ok.execPowerFloorStep
  · exact ok.execThermalFloorStep
  · exact ok.execThermalFault
  · exact ok.execThermalCutoff

theorem State.Canonical.perform {a} : Out.Canonical (s.perform a) := by
  unfold State.perform
  split
  · exact trivial
  · split
    · exact ok.runCore
    · exact ok.exec
    · exact ok.advanceFlip
    · exact ok.nextControl
    · exact ok.timedRun

/-! ### One step of the device -/

theorem State.Canonical.step : Out.Canonical (Machine.step s) := by
  unfold Machine.step
  split
  · exact ok.runDue
  · split
    · exact State.Canonical.perform ok.update
    · extract_lets t
      have okt : t.Canonical := ok.update
      split
      · split
        · exact okt
        · exact trivial
      · exact okt.perform

end

/-- Settles O3: a step that ends in a state is made of operations that each keep the canonical form. -/
theorem stepKeepsMemoryCanonical : Obligations.StepKeepsMemoryCanonical := by
  intro s u ok e
  have hu : Out.Canonical (step s) := State.Canonical.step ok
  rwa [e] at hu

end Sys2Proof.Machine
end

section
/-!
SUPPORT. The reset state (O1); reading memory back (O17).
-/

namespace Sys2Proof.Machine

/-! ### The reset state -/

theorem State.reset_bank (core : Nat) : State.reset.bank core = Context.reset := rfl

theorem Context.reset_x (r : XReg) : Context.reset.x r = 0 := by
  cases r with
  | w i => rfl
  | g i => exact ite_self 0

theorem VecReg.zero_lane {l : Nat} (h : l < 16) : VecReg.zero.lane l = 0 := by
  interval_cases l <;> rfl

/-- Settles O1: a core of the reset state holds the reset context, whose tables list nothing. -/
theorem resetState : Obligations.ResetState := by
  intro core
  rw [State.reset_bank]
  exact ⟨rfl, rfl, rfl, rfl, Context.reset_x, fun v => ⟨rfl, fun l h => VecReg.zero_lane h⟩, rfl, fun p h => if_neg h,
    fun d => rfl, rfl, rfl, rfl⟩

/-! ### Numbers in memory -/

theorem State.natAt_byte (s : State) (p : Nat) {n k : Nat} (h : k < n) :
    s.natAt p n / 256 ^ k % 256 = (s.byteAt (p + k)).toNat := by
  induction n generalizing p k with
  | zero => exact absurd h (Nat.not_lt_zero k)
  | succ n ih =>
    have hb : (s.byteAt p).toNat < 256 := (s.byteAt p).isLt
    cases k with
    | zero =>
      rw [Nat.pow_zero, Nat.div_one, State.natAt]
      change _ = (s.byteAt p).toNat
      omega
    | succ k =>
      have hdiv : s.natAt p (n + 1) / 256 = s.natAt (p + 1) n := by simp only [State.natAt]; omega
      rw [Nat.pow_succ', ← Nat.div_div_eq_div_mul, hdiv, ih (p + 1) (Nat.lt_of_succ_lt_succ h), Nat.add_right_comm]
      rfl

theorem State.natAt_eq (s : State) {p v n : Nat} (h : ∀ k, k < n → s.byteAt (p + k) = byteOf v k) :
    s.natAt p n = v % 256 ^ n := by
  induction n generalizing p v with
  | zero => exact (Nat.mod_one v).symm
  | succ n ih =>
    have h0 : (s.byteAt p).toNat = v % 256 := by
      rw [← Nat.add_zero p, h 0 n.succ_pos, byteOf, Nat.pow_zero, Nat.div_one, BitVec.toNat_ofNat]
    have hrest : s.natAt (p + 1) n = v / 256 % 256 ^ n := ih fun k hk => by
      rw [Nat.add_right_comm, Nat.add_assoc, h (k + 1) (Nat.succ_lt_succ hk), byteOf, byteOf, Nat.pow_succ',
        Nat.div_div_eq_div_mul]
    rw [State.natAt, h0, hrest, Nat.pow_succ', Nat.mod_mul]

/-! ### Places below the lofts -/

theorem isLoft_below {p : Nat} (h : p < 0x030000000000) : isLoft p = false := by
  simp only [isLoft, Bool.and_eq_false_iff, decide_eq_false_iff_not]
  omega

theorem mem_linesOf {l p n : Nat} (h : l ∈ linesOf p n) : 64 * l < p + n := by
  unfold linesOf at h
  split at h
  · exact absurd h List.not_mem_nil
  · obtain ⟨k, hk, rfl⟩ := List.mem_map.mp h
    have hk := List.mem_range.mp hk
    omega

theorem State.byteAt_write (s : State) (p : Nat) (bs : List Byte) (hp : p + bs.length ≤ 0x030000000000) {x : Nat}
    (hx : x < 0x030000000000) :
    (s.write p bs).byteAt x = if p ≤ x ∧ x < p + bs.length then bs.getD (x - p) 0 else s.byteAt x := by
  have hl : ∀ l ∈ linesOf p bs.length, isLoft (64 * l) = false := fun l h =>
    isLoft_below (Nat.lt_of_lt_of_le (mem_linesOf h) hp)
  rw [State.byteAt_of_not_loft _ (isLoft_below hx), State.byteAt_of_not_loft _ (isLoft_below hx), State.write_mem,
    State.rekey_of_not_loft s _ hl, State.memByte_putBytes s p bs fun k hk => isLoft_below (by omega)]

theorem bytesOf_length (v n : Nat) : (bytesOf v n).length = n := by
  simp [bytesOf]

theorem State.byteAt_writeNat (s : State) (p v : Nat) {n k : Nat} (hk : k < n) (hp : p + n ≤ 0x030000000000) :
    (s.writeNat p v n).byteAt (p + k) = byteOf v k := by
  rw [State.writeNat, State.byteAt_write s p _ (by rw [bytesOf_length]; exact hp) (by omega), bytesOf_length,
    if_pos (by omega), Nat.add_sub_cancel_left]
  simp [bytesOf, hk]

/-! ### Canonical tables -/

theorem Sparse.canonical_cons {α : Type} [DecidableEq α] (d : α) (a : Nat) (x : α) (t : Sparse α) :
    Sparse.canonical d ((a, x) :: t) = true ↔ (∀ e ∈ t, a < e.1) ∧ x ≠ d ∧ Sparse.canonical d t = true := by
  simp only [Sparse.canonical, Sparse.rising_cons, Sparse.above, List.all_cons, Bool.and_eq_true, List.all_eq_true,
    decide_eq_true_eq]
  tauto

theorem Sparse.get_of_lt {α : Type} (d : α) {m : Sparse α} {k : Nat} (h : ∀ e ∈ m, k < e.1) : Sparse.get d m k = d := by
  induction m with
  | nil => rfl
  | cons e t ih =>
    have he := h e (.head t)
    rw [Sparse.get, if_neg (by omega), ih fun e' he' => h e' (.tail e he')]

/-- The first key of a canonical table does not read as the default, so the first key of one that reads alike is no later. -/
theorem Sparse.key_le {α : Type} [DecidableEq α] {d : α} {a b : Nat} {x y : α} {m n : Sparse α}
    (hm : Sparse.canonical d ((a, x) :: m) = true) (hn : Sparse.canonical d ((b, y) :: n) = true)
    (h : ∀ k, Sparse.get d ((a, x) :: m) k = Sparse.get d ((b, y) :: n) k) : b ≤ a := by
  obtain ⟨-, hx, -⟩ := (Sparse.canonical_cons d a x m).mp hm
  obtain ⟨hb, -, -⟩ := (Sparse.canonical_cons d b y n).mp hn
  by_contra hlt
  have hd : Sparse.get d ((b, y) :: n) a = d := Sparse.get_of_lt d fun e he => by
    cases he with
    | head => omega
    | tail _ he => have := hb e he; omega
  exact hx ((if_pos rfl).symm.trans ((h a).trans hd))

/-- Canonical tables that read alike are equal. -/
theorem Sparse.canonical_ext {α : Type} [DecidableEq α] {d : α} {m n : Sparse α} (hm : Sparse.canonical d m = true)
    (hn : Sparse.canonical d n = true) (h : ∀ k, Sparse.get d m k = Sparse.get d n k) : m = n := by
  induction m generalizing n with
  | nil =>
    cases n with
    | nil => rfl
    | cons e n =>
      obtain ⟨-, hy, -⟩ := (Sparse.canonical_cons d e.1 e.2 n).mp hn
      exact absurd ((if_pos rfl).symm.trans (h e.1).symm) hy
  | cons e m ih =>
    cases n with
    | nil =>
      obtain ⟨-, hx, -⟩ := (Sparse.canonical_cons d e.1 e.2 m).mp hm
      exact absurd ((if_pos rfl).symm.trans (h e.1)) hx
    | cons f n =>
      obtain ⟨a, x⟩ := e
      obtain ⟨b, y⟩ := f
      obtain rfl : a = b := Nat.le_antisymm (Sparse.key_le hn hm fun k => (h k).symm) (Sparse.key_le hm hn h)
      obtain ⟨ha, -, hm'⟩ := (Sparse.canonical_cons d a x m).mp hm
      obtain ⟨hb, -, hn'⟩ := (Sparse.canonical_cons d a y n).mp hn
      obtain rfl : x = y := by simpa [Sparse.get] using h a
      rw [ih hm' hn' fun k => ?_]
      by_cases hk : a = k
      · subst hk
        rw [Sparse.get_of_lt d ha, Sparse.get_of_lt d hb]
      · simpa [Sparse.get, hk] using h k

/-- Settles O17, by the bytes of a number and the equality of canonical tables that read alike. -/
theorem memoryReadsBack : Obligations.MemoryReadsBack :=
  ⟨fun s p _ _ hk => s.natAt_byte p hk, fun s p v _ _ hk hp => s.byteAt_writeNat p v hk hp,
    fun s p v _ hp => State.natAt_eq _ fun _ hk => s.byteAt_writeNat p v hk hp,
    memByte_memPut, Memory.wf_memPut, fun _ _ hm hn h => Sparse.canonical_ext hm hn h⟩

end Sys2Proof.Machine
end

section
/-!
SUPPORT. The completion of loads (O20).
-/

namespace Sys2Proof.Machine

/-! ### Yielding rows changes row slots only -/

theorem State.foldl_rows {α : Type} {f : State → α → State} (hf : ∀ u a, ∃ r, f u a = { u with rows := r }) (s : State)
    (xs : List α) : ∃ r, xs.foldl f s = { s with rows := r } := by
  induction xs generalizing s with
  | nil => exact ⟨s.rows, rfl⟩
  | cons x t ih =>
    obtain ⟨r, hr⟩ := hf s x
    rw [List.foldl_cons, hr]
    exact ih _

theorem State.rowYield_eq (s : State) (p : Nat) : ∃ r, s.rowYield p = { s with rows := r } :=
  State.foldl_rows (fun u k => by
    dsimp only
    split
    · exact ⟨_, rfl⟩
    · exact ⟨u.rows, rfl⟩) s _

theorem State.yieldRun_eq (s : State) (p n : Nat) : ∃ r, s.yieldRun p n = { s with rows := r } := by
  unfold State.yieldRun
  split
  · exact State.foldl_rows (fun u k => u.rowYield_eq _) s _
  · exact ⟨s.rows, rfl⟩

theorem State.yieldRows_eq (s : State) (xs : List Span) : ∃ r, s.yieldRows xs = { s with rows := r } :=
  State.foldl_rows (f := fun u (x : Span) => u.yieldRun x.place x.n) (fun u x => u.yieldRun_eq x.place x.n) s xs

/-! ### Numbers of bytes -/

theorem bitsOf_concat (bs : List Byte) (b : Byte) : bitsOf (bs ++ [b]) = bitsOf bs + b.toNat * 256 ^ bs.length := by
  induction bs with
  | nil => simp [bitsOf]
  | cons a t ih =>
    have hcons (c : Byte) (xs : List Byte) : bitsOf (c :: xs) = c.toNat + 256 * bitsOf xs := rfl
    rw [List.cons_append, hcons, ih, hcons, List.length_cons, Nat.pow_succ]
    ring

theorem bitsOf_map_range (f : Nat → Byte) (n : Nat) :
    bitsOf ((List.range n).map f) = (List.range n).foldl (fun v j => v + (f j).toNat * 256 ^ j) 0 := by
  induction n with
  | zero => rfl
  | succ n ih =>
    rw [List.range_succ, List.map_append, List.map_singleton, bitsOf_concat, ih, List.length_map, List.length_range,
      List.foldl_concat]

theorem bitsOf_lt (bs : List Byte) : bitsOf bs < 256 ^ bs.length := by
  induction bs with
  | nil => exact Nat.one_pos
  | cons b t ih =>
    have hb : b.toNat < 256 := b.isLt
    have hcons : bitsOf (b :: t) = b.toNat + 256 * bitsOf t := rfl
    rw [hcons, List.length_cons, Nat.pow_succ']
    omega

theorem toNat_append_eq {m n : Nat} (x : BitVec m) (y : BitVec n) : (x ++ y).toNat = x.toNat * 2 ^ n + y.toNat := by
  rw [BitVec.toNat_append, ← Nat.shiftLeft_add_eq_or_of_lt y.isLt, Nat.shiftLeft_eq]

theorem bitsOf_four (a b c d : Byte) : BitVec.ofNat 32 (bitsOf [a, b, c, d]) = d ++ c ++ b ++ a := by
  apply BitVec.eq_of_toNat_eq
  have ha : a.toNat < 256 := a.isLt
  have hb : b.toNat < 256 := b.isLt
  have hc : c.toNat < 256 := c.isLt
  have hd : d.toNat < 256 := d.isLt
  simp only [toNat_append_eq, BitVec.toNat_ofNat, bitsOf, List.foldr]
  omega

theorem map_eq_map_range_getD {α β : Type} (f : α → β) (xs : List α) (d : α) :
    xs.map f = (List.range xs.length).map fun j => f (xs.getD j d) := by
  apply List.ext_getElem <;> simp +contextual

/-! ### What a load reads -/

theorem loadExt_unsigned {n v : Nat} (h : v < 256 ^ n) : loadExt n false v = BitVec.ofNat 64 v := by
  simp [loadExt, Nat.mod_eq_of_lt h]

theorem loadExt_signed {n v : Nat} (hn : 1 ≤ n) (hn8 : n ≤ 8) (h : v < 256 ^ n) :
    loadExt n true v = BitVec.ofInt 64 (if 2 ^ (8 * n - 1) ≤ v then (v : Int) - 2 ^ (8 * n) else v) := by
  have hpow : 256 ^ n = 2 ^ (8 * n) := (Nat.pow_mul 2 8 n).symm
  have hhalf : 2 ^ (8 * n) = 2 * 2 ^ (8 * n - 1) := by
    rw [← Nat.pow_succ', Nat.succ_eq_add_one, Nat.sub_add_cancel (by omega)]
  have hfit : 2 ^ (8 * n) ≤ 2 ^ 64 := Nat.pow_le_pow_right Nat.two_pos (by omega)
  have hcast : (2 : Int) ^ (8 * n) = ((2 ^ (8 * n) : Nat) : Int) := (Nat.cast_pow 2 (8 * n)).symm
  rw [hcast]
  simp only [loadExt, hpow, hhalf, Nat.mul_div_cancel_left _ Nat.two_pos, Bool.true_and, decide_eq_true_eq]
  rw [hpow, hhalf] at h
  rw [hhalf] at hfit
  generalize 2 ^ (8 * n - 1) = half at h hfit ⊢
  rw [Nat.mod_eq_of_lt h]
  split
  · apply BitVec.eq_of_toNat_eq
    rw [BitVec.toNat_ofNat, BitVec.toNat_ofInt]
    omega
  · exact (BitVec.ofInt_natCast 64 v).symm

theorem State.loadByte_of_none {s : State} {before : List Entry} {p : Nat}
    (h : before.all (fun b => (b.offers p).isNone) = true) (hp : isFw p = false) : s.loadByte before p = s.byteAt p := by
  have hnone : before.reverse.findSome? (fun e => e.offers p) = none := by
    rw [List.findSome?_eq_none_iff]
    intro b hb
    simpa using List.all_eq_true.mp h b (List.mem_reverse.mp hb)
  simp only [State.loadByte, hnone, State.seenByte, hp, Bool.false_eq_true, if_false]

theorem State.loadByte_of_some {s : State} {xs ys : List Entry} {b : Entry} {p : Nat} {v : Byte}
    (h : b.offers p = some v) (hys : ∀ y ∈ ys, y.offers p = none) : s.loadByte (xs ++ b :: ys) p = v := by
  have hnone : ys.reverse.findSome? (fun e => e.offers p) = none := by
    rw [List.findSome?_eq_none_iff]
    exact fun y hy => hys y (List.mem_reverse.mp hy)
  simp only [State.loadByte, List.reverse_append, List.reverse_cons, List.append_assoc, List.findSome?_append, hnone, h,
    List.findSome?_cons, List.singleton_append, Option.none_or]

theorem Entry.offers_store {b : Entry} {p m : Nat} (hop : b.op = .store m) (hs : b.spans = [⟨p, m, true⟩]) (j : Nat) :
    b.offers j = if p ≤ j ∧ j < p + m then some (BitVec.ofNat 8 (b.opa.toNat / 256 ^ (j - p))) else none := by
  have hdata : b.data = bytesOf b.opa.toNat m := by rw [Entry.data, hop]
  simp only [Entry.offers, Entry.offers.starts, hs, hdata, List.findSome?_cons, List.findSome?_nil, Nat.zero_add,
    Bool.and_eq_true, decide_eq_true_eq]
  by_cases h : p ≤ j ∧ j < p + m
  · have hj : j - p < m := by omega
    simp [h, bytesOf, hj, byteOf]
  · simp [h]

/-! ### The completion -/

section
variable {s : State} {core : Nat} {t : Task} {before after : List Entry} {e : Entry}

/-- The places a load reads, lowest first. -/
def Entry.places (e : Entry) : List Nat := e.spans.flatMap fun x => (List.range x.n).map fun j => x.place + j

theorem State.gather_reads {xs : List Span} (hx : ∀ x ∈ xs, x.wr = false ∧ x.place < hostMark) (got : List Byte) :
    s.gather before xs got = (xs.flatMap fun x => (List.range x.n).map fun j => x.place + j).map (s.loadByte before) := by
  induction xs with
  | nil => rfl
  | cons x xs ih =>
    obtain ⟨hwr, hplace⟩ := hx x (.head xs)
    rw [State.gather, if_neg (by simp [hwr]), if_neg (by omega), ih fun y hy => hx y (.tail x hy), List.flatMap_cons,
      List.map_append, List.map_map]
    rfl

theorem Entry.hostSpans_reads (hx : ∀ x ∈ e.spans, x.wr = false ∧ x.place < hostMark) : e.hostSpans = [] := by
  rw [Entry.hostSpans, List.filter_eq_nil_iff]
  intro x h
  obtain ⟨-, hplace⟩ := hx x h
  simp only [Bool.and_eq_true, decide_eq_true_eq]
  omega

/-- What completes when nothing holds a load of the device's own bytes back. -/
theorem State.completeEntry_load (hop : (∃ n g a, e.op = .load n g a) ∨ ∃ v, e.op = .ldv v)
    (hx : ∀ x ∈ e.spans, x.wr = false ∧ x.place < hostMark) (hgo : (s.bank core).mayPerform (s.fstrOf t) e before = true)
    (hpoison : s.poisonPast before e.spans = none) :
    s.completeEntry core t before e after =
      let u := (s.yieldRows e.spans).finishLoad core e (e.places.map (s.loadByte before))
      u.setBank core { u.bank core with fly := (s.bank core).trim (before ++ after) } := by
  have hldt : e.isLdt = false := by
    obtain ⟨n, g, a, h⟩ | ⟨v, h⟩ := hop <;> simp [Entry.isLdt, h]
  have hreads : (e.spans.filter fun x => !x.wr) = e.spans := List.filter_eq_self.mpr fun x h => by simp [(hx x h).1]
  unfold State.completeEntry
  obtain ⟨n, g, a, h⟩ | ⟨v, h⟩ := hop <;>
    simp [h, hldt, Entry.hostSpans_reads hx, hgo, hreads, hpoison, State.gather_reads hx, nextHost, Entry.places]

theorem State.regSeen_eq (u : State) (off : Nat) : ∃ l, u.regSeen off = { u with errLog := l } := by
  unfold State.regSeen
  split
  · exact ⟨_, rfl⟩
  · exact ⟨u.errLog, rfl⟩

theorem State.finishLoad_load {n : Nat} {g : Bool} {a : XReg} (hop : e.op = .load n g a) (u : State) (bs : List Byte) :
    ∃ l, u.finishLoad core e bs =
      State.setBank { u with errLog := l } core ((u.bank core).setXAt e.wpe a (loadExt n g (bitsOf bs))) := by
  unfold State.finishLoad
  simp only [hop]
  split
  · obtain ⟨l, hl⟩ := u.regSeen_eq ((e.spans.headD ⟨0, 0, false⟩).place % 2 ^ 48 - 0x080000300000)
    exact ⟨l, by rw [hl]; rfl⟩
  · exact ⟨u.errLog, rfl⟩

theorem State.finishLoad_ldv {v : VReg} (hop : e.op = .ldv v) (u : State) (bs : List Byte) :
    ∃ l, u.finishLoad core e bs = State.setBank { u with errLog := l } core ((u.bank core).setVec v ⟨lanesFrom bs, 0⟩) := by
  unfold State.finishLoad
  simp only [hop]
  exact ⟨u.errLog, rfl⟩

/-- A load that completes changes its core's bank by what its bytes do to it, besides row slots and the error log. -/
theorem State.completeEntry_effect (hop : (∃ n g a, e.op = .load n g a) ∨ ∃ v, e.op = .ldv v)
    (hx : ∀ x ∈ e.spans, x.wr = false ∧ x.place < hostMark) (hgo : (s.bank core).mayPerform (s.fstrOf t) e before = true)
    (hpoison : s.poisonPast before e.spans = none) {f : Context → Context}
    (hf : ∀ u : State, ∃ l, u.finishLoad core e (e.places.map (s.loadByte before)) =
      State.setBank { u with errLog := l } core (f (u.bank core))) :
    let u := s.completeEntry core t before e after
    u.bank core = { f (s.bank core) with fly := (s.bank core).trim (before ++ after) } ∧ u.mem = s.mem
      ∧ ∀ j, j ≠ core → u.core j = s.core j := by
  obtain ⟨r, hr⟩ := s.yieldRows_eq e.spans
  obtain ⟨l, hl⟩ := hf (s.yieldRows e.spans)
  rw [State.completeEntry_load hop hx hgo hpoison, hl, hr]
  refine ⟨?_, rfl, fun j hj => ?_⟩
  · simp only [State.bank_setBank]
    rfl
  · simp only [State.setBank_setBank, State.core_setBank_ne _ _ hj]
    rfl

end

theorem exec_variableLatencyComplete {s : State} {core : CoreId} {k : Fin 8} {t : Task} {before after : List Entry}
    {e : Entry} (ht : (s.bank core.val).task = some t) (hswap : (s.core core.val).swapping = false)
    (hk : splitEntry (s.bank core.val).fly k.val = some (before, e, after)) :
    exec (.variableLatencyComplete core k) s = .next (s.completeEntry core.val t before e after) := by
  change execVariableLatencyComplete core k s = _
  simp [execVariableLatencyComplete, ht, hk, hswap]

theorem lanesFrom_lane (f : Nat → Byte) {l : Nat} (hl : l < 16) :
    VecReg.lane ⟨lanesFrom ((List.range 64).map f), 0⟩ l = f (4 * l + 3) ++ f (4 * l + 2) ++ f (4 * l + 1) ++ f (4 * l) := by
  have hbytes : (((List.range 64).map f).drop (4 * l)).take 4 = [f (4 * l), f (4 * l + 1), f (4 * l + 2), f (4 * l + 3)] := by
    interval_cases l <;> rfl
  rw [← bitsOf_four, ← hbytes]
  simp [VecReg.lane, lanesFrom, lanesOf, hl]

/-- Settles O20: what the bytes are, and the effect of completing with them for each of the three kinds of load. -/
theorem loadsComplete : Obligations.LoadsComplete := by
  intro s core k t before after e c places n ht hswap hk hx hgo hpoison byte value done
  have hbytes : e.places.map (s.loadByte before) = (List.range n).map byte := map_eq_map_range_getD _ places 0
  have hvalue : bitsOf (e.places.map (s.loadByte before)) = value := by rw [hbytes, bitsOf_map_range]
  have hlt : value < 256 ^ n := by
    have h := bitsOf_lt ((List.range n).map byte)
    rwa [← hbytes, hvalue, hbytes, List.length_map, List.length_range] at h
  have hdone {f : Context → Context} (hop : (∃ n g a, e.op = .load n g a) ∨ ∃ v, e.op = .ldv v)
      (hf : ∀ u : State, ∃ l, u.finishLoad core.val e (e.places.map (s.loadByte before)) =
        State.setBank { u with errLog := l } core.val (f (u.bank core.val))) : done (f c) :=
    ⟨_, exec_variableLatencyComplete ht hswap hk, State.completeEntry_effect hop hx hgo hpoison hf⟩
  refine ⟨fun j => State.loadByte_of_none, ?_, ?_, ?_, ?_, ?_⟩
  · rintro xs b ys j v rfl hb hys
    exact State.loadByte_of_some hb hys
  · exact fun b p m j hop hs => Entry.offers_store hop hs j
  · intro a hop
    rw [← loadExt_unsigned hlt, ← hvalue]
    exact hdone (f := fun c => c.setXAt e.wpe a _) (.inl ⟨n, false, a, hop⟩) fun u => State.finishLoad_load hop u _
  · intro a h1 h8 hop
    rw [← loadExt_signed h1 h8 hlt, ← hvalue]
    exact hdone (f := fun c => c.setXAt e.wpe a _) (.inl ⟨n, true, a, hop⟩) fun u => State.finishLoad_load hop u _
  · intro v hn hop
    refine ⟨⟨lanesFrom (e.places.map (s.loadByte before)), 0⟩, rfl, fun l hl => ?_, ?_⟩
    · rw [hbytes, hn]
      exact lanesFrom_lane byte hl
    · exact hdone (f := fun c => c.setVec v _) (.inr ⟨v, hop⟩) fun u => State.finishLoad_ldv hop u _

end Sys2Proof.Machine
end

section
/-!
SUPPORT. The life of a block (O47).
-/

namespace Sys2Proof.Machine

/-! ### Folds in which few steps do anything -/

theorem foldl_eq_self {α β : Type} {f : β → α → β} {x : β} {xs : List α} (h : ∀ a ∈ xs, f x a = x) : xs.foldl f x = x := by
  induction xs with
  | nil => rfl
  | cons a t ih =>
    rw [List.foldl_cons, h a List.mem_cons_self]
    exact ih fun b hb => h b (List.mem_cons_of_mem a hb)

/-- A fold of which one step alone does something. -/
theorem foldl_eq_of_only {α β : Type} {f : β → α → β} {x y : β} {a : α} {xs : List α} (ha : a ∈ xs) (hn : xs.Nodup)
    (hx : ∀ b ∈ xs, b ≠ a → f x b = x) (hxy : f x a = y) (hy : ∀ b ∈ xs, b ≠ a → f y b = y) : xs.foldl f x = y := by
  induction xs with
  | nil => exact absurd ha List.not_mem_nil
  | cons c t ih =>
    obtain ⟨hc, ht⟩ := List.nodup_cons.1 hn
    rw [List.foldl_cons]
    by_cases hca : c = a
    · subst hca
      rw [hxy]
      exact foldl_eq_self fun b hb => hy b (List.mem_cons_of_mem c hb) (ne_of_mem_of_not_mem hb hc)
    · rw [hx c List.mem_cons_self hca]
      exact ih (List.mem_of_ne_of_mem (Ne.symm hca) ha) ht (fun b hb => hx b (List.mem_cons_of_mem c hb))
        fun b hb => hy b (List.mem_cons_of_mem c hb)

/-! ### The block of a handle that a step concerns -/

section

variable {hd : Handle} {b : Block}

theorem Handle.loading_cur (hb : hd.cur = some b) (hr : b.ready = false) : hd.loading = some (false, b) := by
  simp [Handle.loading, hb, hr]

theorem Handle.loading_next {b0 : Block} (h0 : hd.cur = some b0) (hr0 : b0.ready = true) (hb : hd.next = some b)
    (hr : b.ready = false) : hd.loading = some (true, b) := by
  simp [Handle.loading, h0, hr0, hb, hr]

theorem Handle.armed_cur (hb : hd.cur = some b) (hst : b.st = .armed) : hd.armed = some (false, b) := by
  simp [Handle.armed, hb, hst]

theorem Handle.issued_cur (hb : hd.cur = some b) (hst : b.st = .running) (hf : b.lc.finished = true) (hh : b.held = false) :
    hd.issued = some (false, b) := by
  simp [Handle.issued, hb, hst, hf, hh]

theorem Handle.foldl_unmark (ts : List Nat) (hd : Handle) :
    ∃ m, ts.foldl (fun hd n => hd.unmark n) hd = { hd with marks := m } := by
  induction ts generalizing hd with
  | nil => exact ⟨hd.marks, rfl⟩
  | cons n t ih =>
    obtain ⟨m, hm⟩ := ih (hd.unmark n)
    exact ⟨m, hm⟩

end

theorem Context.phaseFree_iff (c : Context) (b : Block) :
    c.phaseFree b = true ↔ ∀ e ∈ c.blocks, e.2.2.st ≠ .loaded → b.phase ≤ e.2.2.phase := by
  simp only [Context.phaseFree, List.all_eq_true, Bool.or_eq_true, Bool.not_eq_true', Block.live, bne_eq_false_iff_eq,
    decide_eq_true_eq, or_iff_not_imp_left]

theorem Context.block_setBlock (c : Context) (h : Nat) (nxt : Bool) (b : Block) :
    (c.setBlock h nxt b).block h nxt = some b := by
  cases nxt <;> simp [Context.block, Context.setBlock, Handle.setBlock, Handle.block]

/-! ### The block with a serial number -/

/-- The blocks of one handle, as Context.blocks lists them. -/
def handleBlocks (e : Nat × Handle) : List (Nat × Bool × Block) :=
  (match e.2.cur with | some b => [(e.1, false, b)] | none => [])
    ++ (match e.2.next with | some b => [(e.1, true, b)] | none => [])

theorem Context.blocks_eq (c : Context) : c.blocks = c.hs.flatMap handleBlocks := rfl

theorem handleBlocks_key {e : Nat × Handle} {x : Nat × Bool × Block} (hx : x ∈ handleBlocks e) : x.1 = e.1 := by
  obtain ⟨k, hd⟩ := e
  unfold handleBlocks at hx
  cases hc : hd.cur <;> cases hn : hd.next <;> simp [hc, hn] at hx
  · rw [hx]
  · rw [hx]
  · obtain rfl | rfl := hx <;> rfl

theorem handleBlocks_cur {k : Nat} {hd : Handle} {b : Block} (hb : hd.cur = some b) :
    ∃ rest, handleBlocks (k, hd) = (k, false, b) :: rest :=
  ⟨_, by simp only [handleBlocks, hb]; rfl⟩

/-- A block put in a handle is the one its number names, where no other handle holds a block of that number. -/
theorem find?_handleBlocks_set {m : Sparse Handle} {h n : Nat} {hd : Handle} {b : Block} (hb : hd.cur = some b)
    (hn : b.serial = n) (hm : ∀ e ∈ m.flatMap handleBlocks, e.2.2.serial = n → e.1 = h) :
    ((m.set h hd).flatMap handleBlocks).find? (fun e => e.2.2.serial == n) = some (h, false, b) := by
  have here (t : Sparse Handle) :
      (((h, hd) :: t).flatMap handleBlocks).find? (fun e => e.2.2.serial == n) = some (h, false, b) := by
    obtain ⟨rest, hr⟩ := handleBlocks_cur (k := h) hb
    simp [hr, hn]
  induction m with
  | nil => exact here []
  | cons z t ih =>
    obtain ⟨a, y⟩ := z
    simp only [Sparse.set]
    split
    · exact here t
    · split
      · exact here _
      · rename_i hah _
        have hnone : (handleBlocks (a, y)).find? (fun e => e.2.2.serial == n) = none := by
          rw [List.find?_eq_none]
          intro e he hs
          exact hah ((handleBlocks_key he).symm.trans (hm e (by simp [he]) (by simpa using hs)))
        rw [List.flatMap_cons, List.find?_append, hnone, Option.none_or]
        exact ih fun e he => hm e (by rw [List.flatMap_cons]; exact List.mem_append_right _ he)

theorem Context.bySerial_setBlock {c : Context} {h : Nat} {b : Block}
    (hc : ∀ e ∈ c.blocks, e.2.2.serial = b.serial → e.1 = h) :
    (c.setBlock h false b).bySerial b.serial = some (h, false, b) := by
  rw [Context.blocks_eq] at hc
  rw [Context.bySerial, Context.blocks_eq]
  exact find?_handleBlocks_set rfl rfl hc

/-! ### A write stream's fault freezes a draining block -/

/-- A block that has frozen with a trap its task has been told of. -/
def Block.froze (b : Block) (tr : FabTrap) : Block := { b with st := .frozen, trap := some tr, told := true }

/-- What tells a task of a fabric trap of a handle (R350). -/
def FabTrap.async (tr : FabTrap) (h : Nat) : Async :=
  ⟨BitVec.ofNat 8 tr.cause, true, BitVec.ofNat 3 h, false, tr.info, false⟩

/-- The fabric trap that a write stream's fault becomes, naming a word (R342, R429). -/
def StreamFault.trap (f : StreamFault) (w : LaneWord) : FabTrap :=
  ⟨f.cause, if f.cause == cAliasKind then f.info else 0, w⟩

theorem State.freezeAt_of_block {s : State} {core h : Nat} {nxt : Bool} {b : Block} (tr : FabTrap)
    (hb : (s.bank core).block h nxt = some b) :
    s.freezeAt core h nxt tr false = (s.setBlock core h nxt (b.froze tr)).pushAsync core (tr.async h) := by
  simp [State.freezeAt, hb, Block.froze, FabTrap.async]

theorem Context.wake_eq (c : Context) : ∃ i w, c.wake = { c with idle := i, wait := w } := by
  unfold Context.wake
  split
  · exact ⟨none, 0, rfl⟩
  · exact ⟨c.idle, c.wait, rfl⟩

theorem State.bank_pushAsync (s : State) (core : Nat) (a : Async) :
    ((s.pushAsync core a).bank core).hs = (s.bank core).hs ∧ ((s.pushAsync core a).bank core).gens = (s.bank core).gens
      ∧ ((s.pushAsync core a).bank core).asyncs = (s.bank core).asyncs ++ [a] := by
  obtain ⟨i, w, h⟩ := (s.bank core).wake_eq
  simp [State.pushAsync, h]

theorem State.gen_pushAsync (s : State) (core : Nat) (a : Async) (g : Nat) :
    ((s.pushAsync core a).bank core).gen g = (s.bank core).gen g := by
  obtain ⟨-, hgens, -⟩ := s.bank_pushAsync core a
  rw [Context.gen, hgens, Context.gen]

theorem State.bank_setBlock (s : State) (core h : Nat) (nxt : Bool) (b : Block) :
    (s.setBlock core h nxt b).bank core = (s.bank core).setBlock h nxt b := State.bank_setBank _ _ _

theorem State.gen_setBlock (s : State) (core h : Nat) (nxt : Bool) (b : Block) (g : Nat) :
    ((s.setBlock core h nxt b).bank core).gen g = (s.bank core).gen g := by
  rw [State.bank_setBlock]
  rfl

/-- What State.raiseLate does for one generator. -/
def State.raiseFor (s : State) (core serial g : Nat) : State :=
  match ((s.bank core).gen g).streams with
  | x :: _ =>
    (match x.cfg.write, x.fault with
      | true, some f =>
        if f.blk == serial then
          s.freezeDraining core f
            ((f.pos.bind fun w => (laneList ((s.bank core).gen g).wx w.lane).getLast?).map fun y => y.pos)
        else s
      | _, _ => s)
  | [] => s

theorem State.raiseLate_eq (s : State) (core serial : Nat) :
    s.raiseLate core serial = (List.range 4).foldl (fun s g => s.raiseFor core serial g) s := rfl

theorem State.raiseFor_of_no_fault {s : State} {core serial g : Nat}
    (h : ∀ y rest, ((s.bank core).gen g).streams = y :: rest → y.cfg.write = true → y.fault = none) :
    s.raiseFor core serial g = s := by
  unfold State.raiseFor
  split
  · rename_i x rest hx
    split
    · rename_i f hw hf
      exact absurd (h x rest hx hw) (by simp [hf])
    · rfl
  · rfl

theorem State.raiseFor_of_no_stream {s : State} {core serial g : Nat} (h : ((s.bank core).gen g).streams = []) :
    s.raiseFor core serial g = s := State.raiseFor_of_no_fault (by simp [h])

theorem State.raiseLate_of_no_fault {s : State} {core serial : Nat}
    (h : ∀ g y rest, g < 4 → ((s.bank core).gen g).streams = y :: rest → y.cfg.write = true → y.fault = none) :
    s.raiseLate core serial = s := by
  rw [State.raiseLate_eq]
  exact foldl_eq_self fun g hg => State.raiseFor_of_no_fault fun y rest => h g y rest (List.mem_range.1 hg)

theorem State.freezeDraining_of_block {s : State} {core h : Nat} {nxt : Bool} {b : Block} {f : StreamFault} (w : LaneWord)
    (hb : (s.bank core).bySerial f.blk = some (h, nxt, b)) (hst : b.st = .draining) :
    s.freezeDraining core f (some w) = s.freezeAt core h nxt (f.trap w) f.asked := by
  simp [State.freezeDraining, hb, hst, StreamFault.trap]

theorem State.raiseFor_of_fault {s : State} {core g : Nat} {x : Stream} {rest : List Stream} {f : StreamFault} {w : LaneWord}
    (hx : ((s.bank core).gen g).streams = x :: rest) (hw : x.cfg.write = true) (hf : x.fault = some f) (hp : f.pos = some w)
    (hl : laneList ((s.bank core).gen g).wx w.lane ≠ []) :
    ∃ last, s.raiseFor core f.blk g = s.freezeDraining core f (some last) := by
  refine ⟨((laneList ((s.bank core).gen g).wx w.lane).getLast hl).pos, ?_⟩
  simp [State.raiseFor, hx, hw, hf, hp, List.getLast?_eq_some_getLast hl]

/-- The draining block of a handle freezes where one generator's write stream alone has met a fault of it. -/
theorem State.raiseLate_of_fault {s : State} {core h g : Nat} {b : Block} {x : Stream} {rest : List Stream} {f : StreamFault}
    {w : LaneWord} (hb : (s.bank core).block h false = some b) (hs : (s.bank core).bySerial f.blk = some (h, false, b))
    (hst : b.st = .draining) (hg : g < 4) (hx : ((s.bank core).gen g).streams = x :: rest) (hw : x.cfg.write = true)
    (hf : x.fault = some f) (hp : f.pos = some w) (hl : laneList ((s.bank core).gen g).wx w.lane ≠ []) (ha : f.asked = false)
    (hidle : ∀ j, j < 4 → j ≠ g → ((s.bank core).gen j).streams = []) :
    ∃ last, s.raiseLate core f.blk =
      (s.setBlock core h false (b.froze (f.trap last))).pushAsync core ((f.trap last).async h) := by
  obtain ⟨last, hr⟩ := State.raiseFor_of_fault hx hw hf hp hl
  rw [State.freezeDraining_of_block last hs hst, ha, State.freezeAt_of_block _ hb] at hr
  refine ⟨last, ?_⟩
  rw [State.raiseLate_eq]
  refine foldl_eq_of_only (List.mem_range.2 hg) List.nodup_range
    (fun j hj hjg => State.raiseFor_of_no_stream (hidle j (List.mem_range.1 hj) hjg)) hr
    fun j hj hjg => State.raiseFor_of_no_stream ?_
  rw [State.gen_pushAsync, State.gen_setBlock]
  exact hidle j (List.mem_range.1 hj) hjg

/-- A block whose issue finishes with such a fault freezes as it begins to drain. -/
theorem State.raiseLate_drained {s : State} {core h g : Nat} {b : Block} {x : Stream} {rest : List Stream} {f : StreamFault}
    {w : LaneWord} (hblk : f.blk = b.serial) (hserial : ∀ e ∈ (s.bank core).blocks, e.2.2.serial = b.serial → e.1 = h)
    (hg : g < 4) (hx : ((s.bank core).gen g).streams = x :: rest) (hw : x.cfg.write = true) (hf : x.fault = some f)
    (hp : f.pos = some w) (hl : laneList ((s.bank core).gen g).wx w.lane ≠ []) (ha : f.asked = false)
    (hidle : ∀ j, j < 4 → j ≠ g → ((s.bank core).gen j).streams = []) :
    ∃ last, (s.setBlock core h false { b with st := .draining }).raiseLate core f.blk =
      ((s.setBlock core h false { b with st := .draining }).setBlock core h false (b.froze (f.trap last))).pushAsync core
        ((f.trap last).async h) := by
  refine State.raiseLate_of_fault (b := { b with st := .draining }) (x := x) (rest := rest) (w := w) (g := g)
    ?_ ?_ rfl hg ?_ hw hf hp ?_ ha ?_
  · rw [State.bank_setBlock, Context.block_setBlock]
  · rw [State.bank_setBlock, hblk]
    exact Context.bySerial_setBlock (b := { b with st := .draining }) hserial
  · rwa [State.gen_setBlock]
  · rwa [State.gen_setBlock]
  · simpa only [State.gen_setBlock] using hidle

/-! ### The steps -/

section

variable {s : State} {core : CoreId} {h : Hnd} {nxt : Bool} {b : Block}

theorem exec_blockLoadComplete (hs : (s.core core.val).swapping = false)
    (hb : ((s.bank core.val).handle h.val).loading = some (nxt, b)) :
    exec (.blockLoadComplete core h) s = .next (s.setBlock core.val h.val nxt { b with ready := true }) := by
  change execBlockLoadComplete core h s = _
  simp [execBlockLoadComplete, hs, hb]

theorem exec_blockFirstIssue_of_start (hs : (s.core core.val).swapping = false)
    (hb : ((s.bank core.val).handle h.val).armed = some (false, b)) (hr : b.ready = true) (hf : b.lc.finished = false)
    (hp : (s.bank core.val).phaseFree b = true) :
    ∃ m, exec (.blockFirstIssue core h) s = .next (s.setBank core.val ((s.bank core.val).setHandle h.val
      { (s.bank core.val).handle h.val with
        marks := m, cur := some { b with st := .running, copies := [⟨0, b.lc, [], [], []⟩] } })) := by
  obtain ⟨m, hm⟩ := Handle.foldl_unmark b.prog.plainTiles ((s.bank core.val).handle h.val)
  refine ⟨m, ?_⟩
  change execBlockFirstIssue core h s = _
  simp [execBlockFirstIssue, hs, hb, hr, hf, hp, hm, Handle.planeFree, Handle.setBlock]

theorem exec_blockFirstIssue_of_phase (hb : ((s.bank core.val).handle h.val).armed = some (false, b))
    (hp : (s.bank core.val).phaseFree b = false) : exec (.blockFirstIssue core h) s = .next s := by
  change execBlockFirstIssue core h s = _
  simp [execBlockFirstIssue, hb, hp]

theorem exec_blockIssueFinish (hd : s.due = []) (hb : ((s.bank core.val).handle h.val).issued = some (nxt, b)) :
    exec (.blockIssueFinish core h) s =
      .next ((s.setBlock core.val h.val nxt { b with st := .draining }).raiseLate core.val b.serial) := by
  change execBlockIssueFinish core h s = _
  simp [execBlockIssueFinish, hd, hb]

theorem exec_blockComplete {t : Task} (hs : (s.core core.val).swapping = false) (hd : s.due = [])
    (ht : (s.bank core.val).task = some t) (hb : ((s.bank core.val).handle h.val).cur = some b)
    (hdone : s.blockDone (s.bank core.val) t.part b = true) :
    exec (.blockComplete core h) s = .next (s.setBank core.val ((s.bank core.val).blockLeaves h.val false)) := by
  change execBlockComplete core h s = _
  simp [execBlockComplete, hs, hd, ht, Context.block, Handle.block, hb, hdone]

/-- A block that is not refilling has no restart to release. -/
theorem State.release_of_not_refill {core h : Nat} (hb : ∀ b, (s.bank core).block h nxt = some b → b.refill = false) :
    s.release core h nxt = s := by
  unfold State.release
  split
  · rename_i b _ hblk
    simp [hb b hblk]
  · rfl

theorem exec_loopContextAdvance {t : Task} (hs : (s.core core.val).swapping = false) (hd : s.due = [])
    (ht : (s.bank core.val).task = some t) (hcur : ((s.bank core.val).handle h.val).cur = some b)
    (hnext : ((s.bank core.val).handle h.val).next = none) (hrefill : b.refill = false) (htick : b.ticks = true)
    (hheld : b.held = false) :
    exec (.loopContextAdvance core h) s = .next { s with due := [.begin core.val h.val false] } := by
  have hblock0 : (s.bank core.val).block h.val false = some b := hcur
  have hblock1 : (s.bank core.val).block h.val true = none := hnext
  have hfirst : s.release core.val h.val false = s := State.release_of_not_refill (by simp [hblock0, hrefill])
  have hsecond : s.release core.val h.val true = s := State.release_of_not_refill (by simp [hblock1])
  change execLoopContextAdvance core h s = _
  simp [execLoopContextAdvance, hs, hd, ht, hfirst, hsecond, State.mayTick, hblock0, hblock1, hrefill, htick, hheld]

end

/-! ### The loop context -/

section

variable {x : LoopCtx}

theorem LoopCtx.interval_of_more (hm : x.more = true) :
    x.interval.sv = ((x.sv <<< 1) ||| 1) &&& BitVec.ofNat 16 (2 ^ (x.sc + 1) - 1)
      ∧ x.interval.inits = x.inits + 1 ∧ x.interval.ihist.head? = some x.idx := by
  simp [LoopCtx.interval, hm]

theorem LoopCtx.interval_of_spent (hm : x.more = false) :
    x.interval.sv = (x.sv <<< 1) &&& BitVec.ofNat 16 (2 ^ (x.sc + 1) - 1) ∧ x.interval.inits = x.inits := by
  simp [LoopCtx.interval, hm]

theorem LoopCtx.finished_of_spent (hsv : x.sv = 0) (hm : x.more = false) : x.finished = true := by
  simp [LoopCtx.finished, hsv, hm]

end

/-- Settles O47: each step of a block's life by the equation of its step, and the loop context by its two cases. -/
theorem blockLife : Obligations.BlockLife := by
  intro s core h t b x c hd put still
  refine ⟨?_, ?_, ?_, ?_, ?_, ?_, ?_, LoopCtx.interval_of_more, LoopCtx.interval_of_spent, rfl⟩
  · exact fun hs hb hr => exec_blockLoadComplete hs (Handle.loading_cur hb hr)
  · exact fun b0 hs h0 hr0 hb hr => exec_blockLoadComplete hs (Handle.loading_next h0 hr0 hb hr)
  · intro hs hb hst hr hf hphase
    obtain ⟨m, hm⟩ := exec_blockFirstIssue_of_start hs (Handle.armed_cur hb hst) hr hf ((c.phaseFree_iff b).2 hphase)
    exact ⟨_, hm, by simp, by simp [hd, c]⟩
  · rintro hb hst ⟨e, he, hlive, hphase⟩
    refine exec_blockFirstIssue_of_phase (Handle.armed_cur hb hst) (Bool.eq_false_iff.2 fun hp => ?_)
    exact absurd ((c.phaseFree_iff b).1 hp e he hlive) (Nat.not_le_of_lt hphase)
  · intro hdue hb hst hheld hsv hm
    have hexec := exec_blockIssueFinish hdue (Handle.issued_cur hb hst (LoopCtx.finished_of_spent hsv hm) hheld)
    refine ⟨fun hok => ?_, fun g y rest f w hg hy hwr hf hblk hidle hp hl hask hserial => ?_⟩
    · rw [hexec, State.raiseLate_of_no_fault (by simpa only [State.gen_setBlock] using hok)]
      rfl
    · obtain ⟨last, hraise⟩ :=
        State.raiseLate_drained hblk (fun e he hs => (hserial e he hs).1) hg hy hwr hf hp hl hask hidle
      rw [hblk] at hraise
      obtain ⟨hhs, -, hasyncs⟩ := State.bank_pushAsync ((s.setBlock core.val h.val false { b with st := .draining }).setBlock
        core.val h.val false (b.froze (f.trap last))) core.val ((f.trap last).async h.val)
      refine ⟨_, (f.trap last).async h.val, hexec.trans (congrArg _ hraise), ⟨b.froze (f.trap last), ?_, rfl, rfl⟩,
        hasyncs ▸ List.mem_append_right _ (List.mem_singleton_self _), rfl, rfl,
        (BitVec.toNat_ofNat _ _).trans (Nat.mod_eq_of_lt h.isLt)⟩
      rw [Context.handle, hhs, State.bank_setBlock]
      exact Context.block_setBlock _ h.val false _
  · intro hs hdue ht hidle hb hst hbusy hstored
    rw [exec_blockComplete hs hdue ht hb (by simp [State.blockDone, hst, hbusy, hstored, c])]
    simp [Context.blockLeaves, Context.wake, put, hd, c, hidle]
  · intro hs hdue ht hb hnext hst hf hrefill hheld
    exact exec_loopContextAdvance hs hdue ht hb hnext hrefill (by simp [Block.ticks, hst, hf]) hheld

end Sys2Proof.Machine
end

section
/-!
SUPPORT. What the steps in a task's life leave unchanged; the end of a task (O42).
-/

namespace Sys2Proof.Machine

/-! ### Code and scratchpads of a core -/

theorem State.putBytes_eq (s : State) (p : Nat) (bs : List Byte) : ∃ m, s.putBytes p bs = { s with mem := m } := by
  induction bs generalizing s p with
  | nil => exact ⟨s.mem, rfl⟩
  | cons b t ih =>
    obtain ⟨m, hm⟩ := ih { s with mem := memPut s.mem (s.storage p) b } (p + 1)
    exact ⟨m, hm⟩

theorem State.loadCode_eq (s : State) (core : Nat) : ∃ m, s.loadCode core = { s with mem := m } := by
  unfold State.loadCode
  split
  · exact ⟨s.mem, rfl⟩
  · split
    · exact ⟨s.mem, rfl⟩
    · rename_i c _
      obtain ⟨m, hm⟩ := State.putBytes_eq { s with mem := Sparse.eraseRange s.mem (codePlace core 0) (2 ^ 18) }
        (codePlace core 0) c.text
      exact ⟨m, hm⟩

theorem State.meet_eq (s : State) (core : Nat) (out inn : Option Nat) :
    ∃ os w f, s.meet core out inn = s.setCore core { s.core core with owners := os, wanted := w, foreign := f } :=
  ⟨_, _, _, rfl⟩

/-- Only what is kept of scratchpads differs: memory, the saved banks, and whose contents the banks of each core hold. -/
def State.SpadsOnly (s u : State) : Prop :=
  (∃ cs sp m, u = { s with cores := cs, spads := sp, mem := m })
    ∧ ∀ j, ∃ os w f, u.core j = { s.core j with owners := os, wanted := w, foreign := f }

theorem State.SpadsOnly.refl (s : State) : s.SpadsOnly s := ⟨⟨s.cores, s.spads, s.mem, rfl⟩, fun _ => ⟨_, _, _, rfl⟩⟩

theorem State.SpadsOnly.trans {s u v : State} (hu : s.SpadsOnly u) (hv : u.SpadsOnly v) : s.SpadsOnly v := by
  obtain ⟨⟨cs, sp, m, rfl⟩, hcu⟩ := hu
  obtain ⟨⟨cs', sp', m', rfl⟩, hcv⟩ := hv
  refine ⟨⟨cs', sp', m', rfl⟩, fun j => ?_⟩
  obtain ⟨os, w, f, hj⟩ := hcv j
  obtain ⟨_, _, _, hj'⟩ := hcu j
  exact ⟨os, w, f, by rw [hj, hj']⟩

theorem State.SpadsOnly.meet (s : State) (core : Nat) (out inn : Option Nat) : s.SpadsOnly (s.meet core out inn) := by
  refine ⟨⟨_, s.spads, s.mem, rfl⟩, fun j => ?_⟩
  obtain ⟨os, w, f, h⟩ := s.meet_eq core out inn
  by_cases hj : j = core
  · exact ⟨os, w, f, by rw [h, hj, State.core_setCore]⟩
  · exact ⟨_, _, _, by rw [h, State.core_setCore_ne _ _ hj]⟩

theorem State.SpadsOnly.forgetSpad (s : State) (core chain : Nat) : s.SpadsOnly (s.forgetSpad core chain) := by
  refine ⟨⟨_, _, _, rfl⟩, fun j => ?_⟩
  have h : (s.forgetSpad core chain).core j = (s.setCore core { s.core core with
    owners := (s.core core).owners.filter fun e => e.2 != chain + 1 }).core j := rfl
  by_cases hj : j = core
  · exact ⟨_, _, _, by rw [h, hj, State.core_setCore]⟩
  · exact ⟨_, _, _, by rw [h, State.core_setCore_ne _ _ hj]⟩

theorem State.SpadsOnly.freeSpad (s : State) (core chain : Nat) : s.SpadsOnly (s.freeSpad core chain) := by
  unfold State.freeSpad
  dsimp only
  split
  · exact (State.SpadsOnly.forgetSpad s core chain).trans (.meet _ core none none)
  · exact .forgetSpad s core chain

theorem State.SpadsOnly.foldl {α : Type} {f : State → α → State} (hf : ∀ (s : State) a, s.SpadsOnly (f s a)) (s : State)
    (xs : List α) : s.SpadsOnly (xs.foldl f s) := by
  induction xs generalizing s with
  | nil => exact .refl s
  | cons a t ih => exact (hf s a).trans (ih _)

theorem State.SpadsOnly.releaseSpads (s : State) (core : Nat) (t : Task) : s.SpadsOnly (s.releaseSpads core t) := by
  unfold State.releaseSpads
  split
  · split
    · exact .meet s core _ _
    · exact .refl s
  · split
    · exact .foldl (fun s j => .freeSpad s _ _) s _
    · exact .freeSpad s core _

/-! ### Mates of a cluster -/

theorem State.matesLive_congr {s u : State} {core : Nat} (hsaved : u.saved = s.saved)
    (hcore : ∀ j, j ≠ core → u.core j = s.core j) (t : Task) : u.matesLive core t = s.matesLive core t := by
  unfold State.matesLive
  congr 2
  funext j
  by_cases hj : j = core % 4
  · simp [hj]
  · rw [State.contexts, State.contexts, hsaved, hcore _ (by unfold groupBase; omega)]

/-- The scratchpads of a member that ends before its mates stay on their cores. -/
theorem State.core_releaseSpads_ne {s : State} {core j : Nat} {t : Task} (ht : s.matesLive core t = true) (hj : j ≠ core) :
    (s.releaseSpads core t).core j = s.core j := by
  unfold State.releaseSpads
  simp only [ht, if_true]
  split
  · exact State.core_setCore_ne s _ hj
  · rfl

/-! ### A core that its task has left -/

section

variable {s : State} {core : Nat}

theorem State.takeFreed_of_cluster (hp : (s.core core).preq = true) (hi : (s.core core).incoming = true)
    (hc : ((s.core core).other.cluster core).isSome = true) : s.takeFreed core = s := by
  simp [State.takeFreed, hp, hi, hc]

theorem State.takeFreed_of_incoming (hp : (s.core core).preq = true) (hi : (s.core core).incoming = true)
    (hc : (s.core core).other.cluster core = none) :
    ∃ os w f m, s.takeFreed core = { s.setCore core { s.core core with
      bank := (s.core core).other, other := Context.reset, preq := false, incoming := false, swapping := true,
      owners := os, wanted := w, foreign := f } with mem := m } := by
  obtain ⟨os, w, f, h⟩ := State.meet_eq (s.setCore core { s.core core with
    bank := (s.core core).other, other := Context.reset, preq := false, incoming := false, swapping := true }) core none
    ((s.core core).other.task.map fun t => t.serial)
  obtain ⟨m, hm⟩ := State.loadCode_eq ((s.setCore core { s.core core with
    bank := (s.core core).other, other := Context.reset, preq := false, incoming := false, swapping := true }).meet core none
    ((s.core core).other.task.map fun t => t.serial)) core
  refine ⟨os, w, f, m, ?_⟩
  simp only [State.takeFreed, hp, hi, hc, Option.isSome_none, Bool.and_false, Bool.false_eq_true, if_false, Bool.and_self,
    if_true, hm]
  rw [h, State.core_setCore, State.setCore_setCore]

theorem State.takeFreed_of_no_request (h : ((s.core core).preq && (s.core core).incoming) = false) :
    s.takeFreed core = s.setCore core { s.core core with preq := false } := by
  simp [State.takeFreed, h]

end

/-- What a core that its task has left does with the request of a pre-emption. -/
theorem State.takeFreed_spec (s : State) (core : Nat) :
    let u := s.takeFreed core
    let k := s.core core
    (∃ cs m, u = { s with cores := cs, mem := m }) ∧ (∀ j, j ≠ core → u.core j = s.core j)
      ∧ u.bank core = (if k.preq = true ∧ k.incoming = true ∧ k.other.cluster core = none then k.other else k.bank)
      ∧ (u.core core).preq = (k.preq && k.incoming && (k.other.cluster core).isSome)
      ∧ (k.preq = true → k.incoming = true → k.other.cluster core = none → (u.core core).swapping = true) := by
  intro u k
  by_cases hr : (k.preq && k.incoming) = true
  · obtain ⟨hp, hi⟩ := Bool.and_eq_true_iff.1 hr
    cases hc : k.other.cluster core with
    | some n =>
      have hu : u = s := State.takeFreed_of_cluster hp hi (Option.isSome_of_mem hc)
      rw [hu]
      exact ⟨⟨s.cores, s.mem, rfl⟩, fun j _ => rfl, by simp [State.bank, k], by simp [hp, hi, k], by simp⟩
    | none =>
      obtain ⟨os, w, f, m, hu⟩ := State.takeFreed_of_incoming hp hi hc
      have hcore (j : Nat) : u.core j = (s.setCore core { k with
        bank := k.other, other := Context.reset, preq := false, incoming := false, swapping := true,
        owners := os, wanted := w, foreign := f }).core j := by rw [show u = _ from hu]; rfl
      refine ⟨⟨_, m, hu⟩, fun j hj => ?_, ?_, ?_, fun _ _ _ => ?_⟩
      · rw [hcore, State.core_setCore_ne _ _ hj]
      · rw [State.bank, hcore, State.core_setCore]
        simp [hp, hi]
      · rw [hcore, State.core_setCore]
        simp
      · rw [hcore, State.core_setCore]
  · have hr : (k.preq && k.incoming) = false := Bool.eq_false_iff.2 hr
    have hu : u = s.setCore core { k with preq := false } := State.takeFreed_of_no_request hr
    have hno : ¬(k.preq = true ∧ k.incoming = true ∧ k.other.cluster core = none) :=
      fun ⟨hp, hi, _⟩ => by simp [hp, hi] at hr
    rw [hu]
    refine ⟨⟨_, s.mem, rfl⟩, fun j hj => State.core_setCore_ne s _ hj, ?_, ?_, fun hp hi => by simp [hp, hi] at hr⟩
    · rw [if_neg hno, State.bank, State.core_setCore]
    · rw [State.core_setCore, hr, Bool.false_and]

/-! ### What a chain held -/

theorem Sparse.get_foldl_set {α : Type} (d : α) (ks : List Nat) (v : α) (m : Sparse α) (j : Nat) :
    Sparse.get d (ks.foldl (fun m k => m.set k v) m) j = if j ∈ ks then v else Sparse.get d m j := by
  induction ks generalizing m with
  | nil => simp
  | cons k t ih =>
    rw [List.foldl_cons, ih, Sparse.get_set]
    by_cases hj : j = k <;> by_cases ht : j ∈ t <;> simp [hj, ht]

theorem State.page_setPages (s : State) (die : Nat) (ks : List Nat) (p : Page) (q : Nat) :
    (s.setPages die ks p).page die q = if q ∈ ks then p else s.page die q := by
  unfold State.page State.setPages
  rw [State.die_setDie]
  exact Sparse.get_foldl_set _ ks p _ q

theorem State.page_freePset (s : State) (die : Nat) (p : PageSet) {q : Nat} (h : q ∈ p.pages ∨ s.page die q = .dirty) :
    (s.freePset die p).page die q = .dirty := by
  unfold State.freePset
  rw [State.page_setPages]
  split
  · rfl
  · rename_i hq
    exact h.resolve_left hq

/-- Freed page sets are all to be cleared, and nothing but pages changes. -/
theorem State.foldl_freePset (s : State) (die : Nat) (ps : List (Nat × PageSet)) :
    (∃ ds, ps.foldl (fun s e => s.freePset die e.2) s = { s with dies := ds })
      ∧ ∀ q, (s.page die q = .dirty ∨ ∃ e ∈ ps, q ∈ e.2.pages) →
        (ps.foldl (fun s e => s.freePset die e.2) s).page die q = .dirty := by
  induction ps generalizing s with
  | nil => exact ⟨⟨s.dies, rfl⟩, fun q h => h.resolve_right (by simp)⟩
  | cons p t ih =>
    obtain ⟨⟨ds, hds⟩, hpages⟩ := ih (s.freePset die p.2)
    refine ⟨⟨ds, hds⟩, fun q h => hpages q ?_⟩
    rcases h with h | ⟨e, he, hq⟩
    · exact .inl (State.page_freePset s die p.2 (.inr h))
    · rcases List.mem_cons.1 he with rfl | he
      · exact .inl (State.page_freePset s die e.2 (.inl hq))
      · exact .inr ⟨e, he, hq⟩

theorem State.owner_of_mem_mapRows_freed {s : State} {chain : Nat} {e : Nat × RowSlot}
    (he : e ∈ (s.mapRows chain RowSlot.freed).rows) (hst : e.2.st ≠ .free) : e.2.owner ≠ chain := by
  obtain ⟨x, -, rfl⟩ := List.mem_map.1 he
  by_cases hx : (x.2.st != .free && x.2.owner == chain) = true
  · rw [if_pos hx] at hst
    exact absurd rfl hst
  · rw [if_neg hx] at hst ⊢
    exact fun ho => hx (by simp [hst, ho])

theorem st_of_mem_endEntries {chain : Nat} {loads : List (List LoadEnt)} {l : List LoadEnt} {x : LoadEnt}
    (hl : l ∈ endEntries chain loads) (hx : x ∈ l) : x.st ≠ .running chain := by
  obtain ⟨l0, -, rfl⟩ := List.mem_map.1 hl
  obtain ⟨x0, -, rfl⟩ := List.mem_map.1 hx
  split
  · simp
  · rename_i h
    simpa using h

/-- A chain that is over holds no page, no row and no place in its graph, and nothing else changes. -/
theorem State.chainOver_eq (s : State) (core chain : Nat) (c : Context) :
    ∃ ds, s.chainOver core chain c = { s with
        rows := (s.mapRows chain RowSlot.freed).rows, dies := ds,
        graphs := s.graphs.map fun e => (e.1, { e.2 with loads := endEntries chain e.2.loads }) } := by
  obtain ⟨⟨ds, hds⟩, -⟩ := State.foldl_freePset (s.mapRows chain RowSlot.freed) (core / 32) c.psets
  refine ⟨ds, ?_⟩
  unfold State.chainOver
  simp only [hds]
  rfl

theorem State.core_chainOver (s : State) (core chain : Nat) (c : Context) (j : Nat) :
    (s.chainOver core chain c).core j = s.core j := by
  obtain ⟨ds, h⟩ := s.chainOver_eq core chain c
  rw [h]
  rfl

theorem State.chainOver_saved (s : State) (core chain : Nat) (c : Context) : (s.chainOver core chain c).saved = s.saved := by
  obtain ⟨ds, h⟩ := s.chainOver_eq core chain c
  rw [h]

theorem State.chainOver_rows (s : State) (core chain : Nat) (c : Context) :
    (s.chainOver core chain c).rows = (s.mapRows chain RowSlot.freed).rows := by
  obtain ⟨ds, h⟩ := s.chainOver_eq core chain c
  rw [h]

theorem State.chainOver_graphs (s : State) (core chain : Nat) (c : Context) : (s.chainOver core chain c).graphs =
    s.graphs.map fun e => (e.1, { e.2 with loads := endEntries chain e.2.loads }) := by
  obtain ⟨ds, h⟩ := s.chainOver_eq core chain c
  rw [h]

theorem State.page_chainOver (s : State) {core chain q : Nat} {c : Context} {e : Nat × PageSet} (he : e ∈ c.psets)
    (hq : q ∈ e.2.pages) : (s.chainOver core chain c).page (core / 32) q = .dirty :=
  (State.foldl_freePset (s.mapRows chain RowSlot.freed) (core / 32) c.psets).2 q (.inr ⟨e, he, hq⟩)

/-! ### END without a successor -/

/-- The state in which a task that had nothing in flight is over, before its scratchpad and its core are given away. -/
def State.over (s : State) (core : Nat) (t : Task) : State :=
  let s1 := s.setBank core { s.bank core with rq := [], susp := [] }
  let s2 := s1.chainOver core t.serial (s1.bank core)
  s2.setCore core { s2.core core with bank := Context.reset }

theorem State.giveUp_of_no_fly {s : State} {core : Nat} (t : Task) (hf : (s.bank core).fly = []) :
    s.giveUp core false t = s.setBank core { s.bank core with rq := [], susp := [] } := by
  have hbank (c : Context) : (s.setBankOf core false c) = s.setBank core c := rfl
  have hof (u : State) : u.bankOf core false = u.bank core := rfl
  rw [State.giveUp, hbank, hof, State.letGo, hof, State.bank_setBank]
  simp [hf, splitEntry]

theorem State.endLast_eq {s : State} {core : Nat} (t : Task) (hf : (s.bank core).fly = []) :
    s.endLast core t = (((s.over core t).releaseSpads core t).takeFreed core).wantSelect t.part core := by
  rw [State.endLast, State.giveUp_of_no_fly t hf]
  rfl

theorem State.core_over (s : State) (core : Nat) (t : Task) :
    (s.over core t).core core = { s.core core with bank := Context.reset } := by
  rw [State.over, State.core_setCore, State.core_chainOver, State.core_setBank]

theorem State.core_over_ne (s : State) {core j : Nat} (t : Task) (hj : j ≠ core) : (s.over core t).core j = s.core j := by
  rw [State.over, State.core_setCore_ne _ _ hj, State.core_chainOver, State.core_setBank_ne _ _ hj]

theorem State.over_saved (s : State) (core : Nat) (t : Task) : (s.over core t).saved = s.saved := by
  rw [State.over, State.setCore_saved, State.chainOver_saved, State.setBank_saved]

theorem State.owner_over {s : State} {core : Nat} {t : Task} {e : Nat × RowSlot} (he : e ∈ (s.over core t).rows)
    (hst : e.2.st ≠ .free) : e.2.owner ≠ t.serial := by
  rw [State.over, State.setCore_rows, State.chainOver_rows] at he
  exact State.owner_of_mem_mapRows_freed he hst

theorem State.st_over {s : State} {core : Nat} {t : Task} {e : Nat × Graph} (he : e ∈ (s.over core t).graphs)
    {l : List LoadEnt} (hl : l ∈ e.2.loads) {x : LoadEnt} (hx : x ∈ l) : x.st ≠ .running t.serial := by
  rw [State.over, State.setCore_graphs, State.chainOver_graphs] at he
  obtain ⟨g, -, rfl⟩ := List.mem_map.1 he
  exact st_of_mem_endEntries hl hx

theorem State.page_over {s : State} {core q : Nat} (t : Task) {e : Nat × PageSet} (he : e ∈ (s.bank core).psets)
    (hq : q ∈ e.2.pages) : (s.over core t).page (core / 32) q = .dirty := by
  refine State.page_chainOver (e := e) _ ?_ hq
  rwa [State.bank_setBank]

theorem State.endLast_eq_over {s : State} {core : Nat} (t : Task) (hf : (s.bank core).fly = []) :
    ∃ cs sp m, s.endLast core t = { s.over core t with cores := cs, spads := sp, mem := m }.wantSelect t.part core := by
  obtain ⟨⟨cs, sp, m, hv⟩, -⟩ := State.SpadsOnly.releaseSpads (s.over core t) core t
  obtain ⟨⟨cs', m', hw⟩, -⟩ := State.takeFreed_spec ((s.over core t).releaseSpads core t) core
  exact ⟨cs', sp, m', by rw [State.endLast_eq t hf, hw, hv]⟩

theorem State.core_wantSelect (s : State) (part core j : Nat) : (s.wantSelect part core).core j = s.core j := rfl

/-- A core whose task is over has an empty bank, or the context that a pre-emption brings. -/
theorem State.core_endLast {s : State} {core : Nat} (t : Task) (hf : (s.bank core).fly = []) :
    let u := s.endLast core t
    let k := s.core core
    u.bank core = (if k.preq = true ∧ k.incoming = true ∧ k.other.cluster core = none then k.other else Context.reset)
      ∧ (u.core core).preq = (k.preq && k.incoming && (k.other.cluster core).isSome)
      ∧ (k.preq = true → k.incoming = true → k.other.cluster core = none → (u.core core).swapping = true) := by
  obtain ⟨-, hcore⟩ := State.SpadsOnly.releaseSpads (s.over core t) core t
  obtain ⟨os, w, f, hv⟩ := hcore core
  rw [State.core_over] at hv
  obtain ⟨-, -, hbank, hpreq, hswap⟩ := State.takeFreed_spec ((s.over core t).releaseSpads core t) core
  rw [hv] at hbank hpreq hswap
  intro u k
  have hu : u.core core = (((s.over core t).releaseSpads core t).takeFreed core).core core := by
    rw [show u = _ from State.endLast_eq t hf, State.core_wantSelect]
  exact ⟨by rw [State.bank, hu]; exact hbank, by rw [hu]; exact hpreq, by rw [hu]; exact hswap⟩

theorem State.core_endLast_ne {s : State} {core j : Nat} {t : Task} (hf : (s.bank core).fly = [])
    (hm : s.matesLive core t = true) (hj : j ≠ core) : (s.endLast core t).core j = s.core j := by
  have hover : (s.over core t).matesLive core t = true := by
    rw [State.matesLive_congr (s.over_saved core t) fun j hj => s.core_over_ne t hj, hm]
  obtain ⟨-, hother, -⟩ := State.takeFreed_spec ((s.over core t).releaseSpads core t) core
  rw [State.endLast_eq t hf, State.core_wantSelect, hother j hj, State.core_releaseSpads_ne hover hj,
    State.core_over_ne s t hj]

/-! ### END at issue -/

/-- The checks and effect of END. -/
def endBody (next : BitVec 32) (s : State) (t : Task) : Res :=
  let c := s.ctx
  let table := match s.codeOf t with | some o => o.tasks | none => []
  let live := c.blocks.filter fun e => e.2.2.live
  if next == 0xFFFFFFFF then
    if c.remote then .trap s cClusterExit 0
    else if !live.isEmpty then .wait s wBarrier
    else if c.fly.any fun e => !c.holds e then .stall
    else .final (s.endLast s.cur t) true
  else
    match table[next.toNat]? with
    | none => .trap s cIllegal (word0 (.endTask next))
    | some e =>
      if c.remote then .trap s cClusterExit 0
      else if !live.isEmpty then .wait s wBarrier
      else if c.fly.any fun e => !c.holds e then .stall
      else if !s.targetOk s.cur (BitVec.ofNat 64 e.start) then .trapNext cBadTarget (BitVec.ofNat 64 e.start)
      else .final (s.endNext s.cur t next.toNat e) true

theorem exec_endTask (next : BitVec 32) (s : State) :
    exec (.endTask next) s = .next (issue (.endTask next) (fun _ => []) (endBody next) s) := rfl

/-- An instruction that needs no register and finds its core at a boundary with nothing in flight does what its body says,
though a pre-emption is asked for. -/
theorem issue_settles_of_idle {i : Instr} {body : State → Task → Res} {s : State} {t : Task} (hw : i.wf = true)
    (ht : s.ctx.task = some t) (hi : s.issuing s.cur = true) (hx : s.ctx.xfer = none) (ha : s.ctx.asyncs = [])
    (hf : s.ctx.fly = []) (ho : s.ctx.owed = none) (hb : s.ctx.atBound = true → (s.core s.cur).preq = false) :
    issue i (fun _ => []) body s = s.settle s.cur t i (body s t) := by
  have hdue : s.ctx.asyncDue = false := by simp [Context.asyncDue, ha]
  have hstop : (s.ctx.atBound && s.interrupted s.cur) = false := by
    rw [State.interrupted, State.bank_cur, hdue, Bool.false_or]
    cases hat : s.ctx.atBound with
    | false => rfl
    | true => rw [hb hat]; rfl
  have hcheck : s.ctx.checkDue = false := by simp [Context.checkDue, hdue]
  have howed : s.ctx.due = none := by simp [Context.due, ho]
  have hracks : s.ctx.slotRacks = none := by simp [Context.slotRacks, hx]
  have hhazard : s.ctx.hazard (s.ctx.slotKeys []) = false := by
    simp [Context.hazard, Context.slotKeys, Context.unfinished, hx, hf, Config.maxInFlight]
  unfold issue
  simp only [ht, hi, hstop, hcheck, howed, hw, hx, hracks, hhazard]
  rfl

section

variable {next : BitVec 32} {s : State} {t : Task}

theorem endBody_of_remote (hn : next = 0xFFFFFFFF) (hr : s.ctx.remote = true) :
    endBody next s t = .trap s cClusterExit 0 := by
  simp [endBody, hn, hr]

theorem endBody_of_running {e : Nat × Bool × Block} (he : e ∈ s.ctx.blocks) (hst : e.2.2.st = .running)
    (hn : next = 0xFFFFFFFF) (hr : s.ctx.remote = false) : endBody next s t = .wait s wBarrier := by
  have hlive : (s.ctx.blocks.filter fun e => e.2.2.live).isEmpty = false := by
    rw [List.isEmpty_eq_false_iff_exists_mem]
    exact ⟨e, List.mem_filter.2 ⟨he, by simp [Block.live, hst]⟩⟩
  simp [endBody, hn, hr, hlive]

theorem endBody_of_no_entry (hn : next ≠ 0xFFFFFFFF#32) (ht : ∀ o, s.codeOf t = some o → o.tasks.length ≤ next.toNat) :
    endBody next s t = .trap s cIllegal (word0 (.endTask next)) := by
  cases hc : s.codeOf t with
  | none => simp [endBody, hn, hc]
  | some o => simp [endBody, hn, hc, List.getElem?_eq_none (ht o hc)]

theorem no_live_block (hl : ∀ e ∈ s.ctx.blocks, e.2.2.st = .loaded) : (s.ctx.blocks.filter fun e => e.2.2.live) = [] :=
  List.filter_eq_nil_iff.2 fun e he => by simp [Block.live, hl e he]

theorem endBody_of_last (hn : next = 0xFFFFFFFF) (hr : s.ctx.remote = false) (hf : s.ctx.fly = [])
    (hl : ∀ e ∈ s.ctx.blocks, e.2.2.st = .loaded) : endBody next s t = .final (s.endLast s.cur t) true := by
  simp [endBody, hn, hr, hf, no_live_block hl]

section

variable {o : Code} {e : TaskEnt} (hn : next ≠ 0xFFFFFFFF#32) (hr : s.ctx.remote = false) (hf : s.ctx.fly = [])
  (hl : ∀ e ∈ s.ctx.blocks, e.2.2.st = .loaded) (ho : s.codeOf t = some o) (he : o.tasks[next.toNat]? = some e)

include hn hr hf hl ho he

theorem endBody_of_entry (hk : s.targetOk s.cur (BitVec.ofNat 64 e.start) = true) :
    endBody next s t = .final (s.endNext s.cur t next.toNat e) true := by
  simp [endBody, hn, hr, hf, no_live_block hl, ho, he, hk]

theorem endBody_of_bad_entry (hk : s.targetOk s.cur (BitVec.ofNat 64 e.start) = false) :
    endBody next s t = .trapNext cBadTarget (BitVec.ofNat 64 e.start) := by
  simp [endBody, hn, hr, hf, no_live_block hl, ho, he, hk]

end

end

/-! ### The successor's context -/

theorem Sparse.get_foldl_set_range {α : Type} (d : α) (f : Nat → α) (n : Nat) (m : Sparse α) (j : Nat) :
    Sparse.get d ((List.range n).foldl (fun r k => r.set k (f k)) m) j = if j < n then f j else Sparse.get d m j := by
  induction n with
  | zero => simp
  | succ n ih =>
    rw [List.range_succ, List.foldl_append, List.foldl_cons, List.foldl_nil, Sparse.get_set, ih]
    by_cases hj : j = n
    · simp [hj]
    · simp [hj, show j < n + 1 ↔ j < n by omega]

/-- The window of the successor's first instruction is the callee part of its predecessor's. -/
theorem Context.succeed_x (c : Context) (t : Task) (e : TaskEnt) (j : Fin 8) :
    (c.succeed t e).x (.w ⟨j.val, by omega⟩) = c.x (.w ⟨24 + j.val, by omega⟩) := by
  have hring : ringIndex 0 j.val = j.val := by unfold ringIndex; omega
  change Sparse.get 0 (c.succeed t e).ring (ringIndex 0 j.val) = Sparse.get 0 c.ring (ringIndex c.wp (24 + j.val))
  rw [hring, Context.succeed, Context.begin]
  dsimp only
  rw [Sparse.get_foldl_set_range, if_pos j.isLt]
  simp

/-- A pre-emption that is asked for comes before the successor's first instruction. -/
theorem State.interrupted_succeed {s : State} {core : Nat} (t : Task) (e : TaskEnt) (ha : (s.bank core).asyncs = []) :
    (s.setBank core ((s.bank core).succeed t e)).interrupted core = (s.core core).preq := by
  have hdue : ((s.bank core).succeed t e).asyncDue = false := by
    simp [Context.asyncDue, Context.succeed, Context.begin, ha]
  have hb : ((s.bank core).succeed t e).boundary = true := rfl
  rw [State.interrupted, State.bank_setBank, State.core_setBank, hdue, hb, Bool.false_or, Bool.and_true]

/-- Settles O42 by what issue makes of the outcomes of END's body. -/
theorem endOfTask : Obligations.EndOfTask := by
  intro s t next k c i ready
  have hsettle (hready : ready) : exec i s = .next (s.settle s.cur t i (endBody next s t)) := by
    obtain ⟨ht, hi, hx, ha, hf, -, ho, hb, -⟩ := hready
    exact (exec_endTask next s).trans (congrArg _ (issue_settles_of_idle rfl ht hi hx ha hf ho hb))
  refine ⟨fun hn hready => ?_, fun o e hn hready hcode hent => ⟨fun hok => ?_, fun hbad => ?_⟩, fun hn htab hc => ?_,
    fun hn hr hc => ?_, fun e he hst hn hr hc => ?_⟩
  · have hexec := hsettle hready
    obtain ⟨-, -, -, -, hf, hr, -, -, hl⟩ := hready
    rw [endBody_of_last hn hr hf hl] at hexec
    obtain ⟨hbank, hpreq, hswap⟩ := State.core_endLast t hf
    obtain ⟨cs, sp, m, hover⟩ := State.endLast_eq_over t hf
    refine ⟨s.endLast s.cur t, hexec, hbank, hpreq, hswap, ?_, ?_, ?_, ?_,
      fun _ hm j hj => State.core_endLast_ne hf hm hj⟩
    · rw [hover]
      exact fun e he hst => State.owner_over he hst
    · rw [hover]
      exact fun e he l hl x hx => State.st_over he hl hx
    · rw [hover]
      exact fun e he q hq => State.page_over t he hq
    · rw [hover, State.wantSelect, State.part_setPart]
  · have hexec := hsettle hready
    obtain ⟨-, -, -, ha, hf, hr, -, -, hl⟩ := hready
    rw [endBody_of_entry hn hr hf hl hcode hent hok] at hexec
    exact ⟨_, hexec, rfl, rfl, rfl, rfl, c.succeed_x { t with index := next.toNat } e, rfl, rfl, rfl, rfl, rfl, rfl,
      State.interrupted_succeed { t with index := next.toNat } e ha, rfl, rfl, rfl, rfl, rfl, rfl⟩
  · have hexec := hsettle hready
    obtain ⟨-, -, -, -, hf, hr, -, -, hl⟩ := hready
    rw [endBody_of_bad_entry hn hr hf hl hcode hent hbad] at hexec
    exact hexec
  · exact (exec_endTask next s).trans (congrArg _ (issue_trap hc (endBody_of_no_entry hn htab)))
  · exact (exec_endTask next s).trans (congrArg _ (issue_trap hc (endBody_of_remote hn hr)))
  · exact (exec_endTask next s).trans (congrArg _ (issue_wait hc (endBody_of_running he hst hn hr)))

end Sys2Proof.Machine
end

section
/-!
SUPPORT. Pre-emption and the swap of banks, the save record, the exchange of scratchpad banks (O43).
-/

namespace Sys2Proof.Machine

/-! ### The swap of one core begins -/

/-- A core whose banks have exchanged roles; os, w and f are what it knows of its scratchpad then. -/
def Core.swapped (k : Core) (os : Sparse Nat) (w f : BitVec 64) : Core :=
  { k with
    bank := if k.incoming then { k.other with wait := 0 } else Context.reset, other := k.bank.leave, incoming := false,
    preq := false, swapping := true, spilling := k.bank.task.isSome, owners := os, wanted := w, foreign := f }

theorem State.saveCopies_of_no_copy {s : State} {core : Nat} (chain : Nat) (h : (s.core core).copies = []) :
    s.saveCopies core chain = s := by
  simp [State.saveCopies, h]

theorem State.core_loadCode (s : State) (core j : Nat) : (s.loadCode core).core j = s.core j := by
  obtain ⟨m, h⟩ := s.loadCode_eq core
  rw [h]
  rfl

/-- A core without copies in flight exchanges its banks, and no other core changes. -/
theorem State.core_swapCore {s : State} {core : Nat} (h : (s.core core).copies = []) :
    (∃ os w f, (s.swapCore core).core core = (s.core core).swapped os w f)
      ∧ ∀ j, j ≠ core → (s.swapCore core).core j = s.core j := by
  unfold State.swapCore
  extract_lets c out s1 s2 k inn o s3
  have h1 (j : Nat) : s1.core j = s.core j := by
    cases hout : out with
    | none => simp only [s1, hout]
    | some n =>
      simp only [s1, hout]
      rw [State.saveCopies_of_no_copy n h]
      rfl
  have hk : k = s.core core := h1 core
  clear_value k
  subst hk
  obtain ⟨os, w, f, hmeet⟩ := s3.meet_eq core out inn
  refine ⟨⟨os, w, f, ?_⟩, fun j hj => ?_⟩
  · rw [State.core_loadCode, hmeet, State.core_setCore, State.core_setCore]
    rfl
  · rw [State.core_loadCode, hmeet, State.core_setCore_ne _ _ hj, State.core_setCore_ne _ _ hj]
    exact h1 j

/-- Distinct cores without copies in flight exchange their banks one after another. -/
theorem State.core_foldl_swapCore {s : State} {xs : List Nat} (hn : xs.Nodup) (h : ∀ j ∈ xs, (s.core j).copies = []) :
    (∀ j ∈ xs, ∃ os w f, (xs.foldl (fun s j => s.swapCore j) s).core j = (s.core j).swapped os w f)
      ∧ ∀ j, j ∉ xs → (xs.foldl (fun s j => s.swapCore j) s).core j = s.core j := by
  induction xs generalizing s with
  | nil => exact ⟨by simp, fun j _ => rfl⟩
  | cons a t ih =>
    obtain ⟨ha, ht⟩ := List.nodup_cons.1 hn
    obtain ⟨⟨os, w, f, hself⟩, hrest⟩ := State.core_swapCore (h a List.mem_cons_self)
    have hother (j : Nat) (hj : j ∈ t) : (s.swapCore a).core j = s.core j := hrest j (ne_of_mem_of_not_mem hj ha)
    obtain ⟨hin, hout⟩ := ih (s := s.swapCore a) ht fun j hj => by rw [hother j hj, h j (List.mem_cons_of_mem a hj)]
    refine ⟨fun j hj => ?_, fun j hj => ?_⟩
    · rcases List.mem_cons.1 hj with rfl | hj
      · exact ⟨os, w, f, by rw [List.foldl_cons, hout j ha, hself]⟩
      · rw [List.foldl_cons, ← hother j hj]
        exact hin j hj
    · rw [List.foldl_cons, hout j fun hjt => hj (List.mem_cons_of_mem a hjt),
        hrest j fun hja => hj (hja ▸ List.mem_cons_self)]

theorem groupOf_nodup (core : Nat) : (groupOf core).Nodup :=
  List.nodup_range.map fun _ _ h => Nat.add_left_cancel h

theorem State.together_nodup (s : State) (core : Nat) : (s.together core).Nodup := by
  unfold State.together
  exact (groupOf_nodup core).filter _

/-! ### Taking a request -/

section

variable {s : State} {core : CoreId}

theorem exec_preemption_of_ready (hp : (s.core core.val).preq = true) (hd : s.due = [])
    (hr : ∀ j ∈ (s.together core.val).filter fun j => (s.core j).preq, s.ready j = true) :
    exec (.preemption core) s =
      .next (((s.together core.val).filter fun j => (s.core j).preq).foldl (fun s j => s.swapCore j) s) := by
  have hall := List.all_eq_true.2 hr
  change execPreemption core s = _
  unfold execPreemption
  dsimp only
  rw [hp, hd, hall]
  rfl

theorem exec_preemption_of_waiting (h : (s.core core.val).preq = false
      ∨ ∃ j ∈ (s.together core.val).filter fun j => (s.core j).preq, s.ready j = false) :
    exec (.preemption core) s = .next s := by
  change execPreemption core s = _
  unfold execPreemption
  dsimp only
  rw [if_pos]
  rcases h with h | ⟨j, hj, hr⟩
  · simp [h]
  · have hall := List.all_eq_false.2 ⟨j, hj, ne_true_of_eq_false hr⟩
    simp only [hall, Bool.not_false, Bool.or_true]

/-! ### Completing a swap -/

theorem exec_swapComplete_of_waiting (h : (s.core core.val).swapping = false ∨ s.powered core.val = false) :
    exec (.swapComplete core) s = .next s := by
  change execSwapComplete core s = _
  rcases h with h | h <;> simp [execSwapComplete, h]

end

/-- A context whose first instruction issues afresh. -/
def Context.home (c : Context) : Context := { c with wait := 0, walkTrap := none }

/-- A task with its rows and with nothing captured comes back at once. -/
theorem State.comeBack_of_home {s : State} {core : Nat} {t : Task} (ht : (s.bank core).task = some t)
    (hst : (s.bank core).stopped = false) (hsusp : (s.bank core).susp = []) (hrows : s.rowsAway t.serial = false) :
    s.comeBack core = (State.setBank { s with cur := core } core (s.bank core).home, true) := by
  unfold State.comeBack
  simp only [ht, hrows, hst, hsusp, State.inject]
  refine Prod.ext ?_ rfl
  have hbank : ({ s.bank core with susp := [] } : Context) = s.bank core := by rw [← hsusp]
  change State.setBank { s with cur := core } core (({ s.bank core with susp := [] } : Context).putBack []).home = _
  rw [hbank]
  rfl

theorem State.comeBack_of_rowsAway {s : State} {core : Nat} {t : Task} (ht : (s.bank core).task = some t)
    (hst : (s.bank core).stopped = false) (hrows : s.rowsAway t.serial = true) :
    s.comeBack core = (s.setBank core { s.bank core with wait := BitVec.ofNat 4 wRowHeld }, false) := by
  simp [State.comeBack, ht, hst, hrows]

theorem State.seatCopies_of_no_copy {s : State} {core : Nat} (h : (s.core core).copies = []) : s.seatCopies core = s := by
  simp [State.seatCopies, h]

/-- SWAP_COMPLETE of a core that is exchanged by itself. -/
theorem exec_swapComplete_alone {s : State} {core : CoreId}
    (hone : ((s.together core.val).filter fun j => (s.core j).swapping) = [core.val])
    (hs : (s.core core.val).swapping = true) (hp : s.powered core.val = true) :
    exec (.swapComplete core) s = .next (if (s.comeBack core.val).2 then
      ((s.comeBack core.val).1.setCore core.val { (s.comeBack core.val).1.core core.val with swapping := false }).seatCopies
        core.val
      else (s.comeBack core.val).1) := by
  change execSwapComplete core s = _
  unfold execSwapComplete
  simp only [hone, hs, hp]
  cases hb : (s.comeBack core.val).2 <;> simp [hb]

/-! ### The save record -/

theorem isLoft_savePlace (part : Nat) {off : Nat} (h : off < 2 ^ 40) : isLoft (savePlace part off) = false := by
  refine Bool.and_eq_false_iff.2 (.inr (decide_eq_false ?_))
  unfold savePlace
  omega

theorem mem_linesOf_bounds {l p n : Nat} (h : l ∈ linesOf p n) : p / 64 ≤ l ∧ 64 * l < p + n := by
  refine ⟨?_, mem_linesOf h⟩
  unfold linesOf at h
  split at h
  · exact absurd h List.not_mem_nil
  · obtain ⟨k, -, rfl⟩ := List.mem_map.1 h
    exact Nat.le_add_right _ _

/-- A byte of a save region after a doubleword has been written there. -/
theorem State.byteAt_writeNat_save (s : State) (part v : Nat) {p x : Nat} (hp : p + 8 ≤ 2 ^ 40) (hx : x < 2 ^ 40) :
    (s.writeNat (savePlace part p) v 8).byteAt (savePlace part x) =
      if p ≤ x ∧ x < p + 8 then byteOf v (x - p) else s.byteAt (savePlace part x) := by
  have hlines : ∀ l ∈ linesOf (savePlace part p) (bytesOf v 8).length, isLoft (64 * l) = false := fun l hl => by
    obtain ⟨h1, h2⟩ := mem_linesOf_bounds hl
    refine Bool.and_eq_false_iff.2 (.inr (decide_eq_false ?_))
    rw [bytesOf_length] at h2
    unfold savePlace at h1 h2
    omega
  have hbytes : ∀ k, k < (bytesOf v 8).length → isLoft (savePlace part p + k) = false := fun k hk => by
    rw [bytesOf_length] at hk
    rw [show savePlace part p + k = savePlace part (p + k) by unfold savePlace; omega]
    exact isLoft_savePlace part (by omega)
  rw [State.byteAt_of_not_loft _ (isLoft_savePlace part hx), State.byteAt_of_not_loft _ (isLoft_savePlace part hx),
    State.writeNat, State.write_mem, State.rekey_of_not_loft s _ hlines, State.memByte_putBytes s _ _ hbytes, bytesOf_length]
  have hsub : savePlace part x - savePlace part p = x - p := by unfold savePlace; omega
  have hiff : (savePlace part p ≤ savePlace part x ∧ savePlace part x < savePlace part p + 8) ↔ (p ≤ x ∧ x < p + 8) := by
    unfold savePlace; omega
  rw [hsub]
  simp only [hiff]
  split
  · rename_i h
    simp [bytesOf, show x - p < 8 by omega]
  · rfl

/-- Doublewords written one after another in a save region stand there. -/
theorem State.byteAt_foldl_writeNat (s : State) (part base : Nat) (f : Nat → Nat) {m n k : Nat} (hb : base + 8 * m ≤ 2 ^ 40)
    (hn : n < m) (hk : k < 8) :
    ((List.range m).foldl (fun s1 n => s1.writeNat (savePlace part (base + 8 * n)) (f n) 8) s).byteAt
      (savePlace part (base + 8 * n + k)) = byteOf (f n) k := by
  induction m with
  | zero => exact absurd hn (Nat.not_lt_zero n)
  | succ m ih =>
    rw [List.range_succ, List.foldl_append, List.foldl_cons, List.foldl_nil,
      State.byteAt_writeNat_save _ _ _ (by omega) (by omega)]
    by_cases hnm : n = m
    · subst hnm
      rw [if_pos (by omega), Nat.add_sub_cancel_left]
    · rw [if_neg (by omega)]
      exact ih (by omega) (by omega)

theorem State.byteAt_setCore (s : State) (c : Nat) (k : Core) (p : Nat) : (s.setCore c k).byteAt p = s.byteAt p := rfl

theorem State.natAt_setCore (s : State) (c : Nat) (k : Core) (p n : Nat) : (s.setCore c k).natAt p n = s.natAt p n := by
  induction n generalizing p with
  | zero => rfl
  | succ n ih => rw [State.natAt, State.natAt, State.byteAt_setCore, ih]

/-- The control registers of a context stand in its save record. -/
theorem State.natAt_writeRecord (s : State) (core : CoreId) (c : Context) (t : Task) {n : Nat} (hn : n < 256) :
    (s.writeRecord core.val c t).natAt (savePlace t.part (131072 * core.val + 0x1000 + 8 * n)) 8 =
      (s.savedReg core.val c t n).toNat := by
  have hcore := core.isLt
  rw [State.natAt_eq (v := (s.savedReg core.val c t n).toNat)]
  · exact Nat.mod_eq_of_lt (s.savedReg core.val c t n).isLt
  · intro k hk
    rw [show savePlace t.part (131072 * core.val + 0x1000 + 8 * n) + k
      = savePlace t.part (131072 * core.val + 0x1000 + 8 * n + k) by unfold savePlace; omega]
    exact State.byteAt_foldl_writeNat s t.part _ (fun n => (s.savedReg core.val c t n).toNat) (by omega) hn hk

theorem exec_bankSpillDone {s : State} {core : CoreId} {t : Task} (ht : (s.core core.val).other.task = some t)
    (hsp : (s.core core.val).spilling = true) (hs : (s.core core.val).swapping = false) :
    exec (.bankSpillDone core) s = .next ((s.writeRecord core.val (s.core core.val).other t).setCore core.val
      { (s.writeRecord core.val (s.core core.val).other t).core core.val with spilling := false }) := by
  change execBankSpillDone core s = _
  simp [execBankSpillDone, ht, hsp, hs]

/-! ### Scratchpad banks -/

/-- The storage addresses of bank b in the image of a scratchpad that starts at base. -/
def bankMember (base b a : Nat) : Bool := decide (base ≤ a) && inBank b (a - base)

theorem bankMember_add {base b o : Nat} (h : inBank b o = true) : bankMember base b (base + o) = true := by
  simp [bankMember, h]

theorem inBank_lt {b o : Nat} (h : inBank b o = true) : o < 2 ^ 22 :=
  of_decide_eq_true (Bool.and_eq_true_iff.1 h).1

/-- An address outside the stretch of an image lies in none of its banks. -/
theorem bankMember_of_far {base b a : Nat} (h : a < base ∨ base + 2 ^ 22 ≤ a) : bankMember base b a = false := by
  cases hm : bankMember base b a with
  | false => rfl
  | true =>
    obtain ⟨hle, hin⟩ := Bool.and_eq_true_iff.1 hm
    have hle := of_decide_eq_true hle
    have hlt := inBank_lt hin
    omega

section

variable {α : Type} [DecidableEq α] {d : α} {xs m : Sparse α} {g : Nat → Nat} {j : Nat}

theorem Sparse.get_foldl_put_of_ne (h : ∀ e ∈ xs, g e.1 ≠ j) :
    Sparse.get d (xs.foldl (fun m e => Sparse.put d m (g e.1) e.2) m) j = Sparse.get d m j := by
  induction xs generalizing m with
  | nil => rfl
  | cons e t ih =>
    rw [List.foldl_cons, ih fun e he => h e (List.mem_cons_of_mem _ he), Sparse.get_put,
      if_neg (h e List.mem_cons_self).symm]

/-- A table written under new keys to places that held nothing. -/
theorem Sparse.get_foldl_put {k : Nat} (hr : xs.rising = true) (hg : ∀ e ∈ xs, g e.1 = j ↔ e.1 = k)
    (hm : Sparse.get d m j = d) :
    Sparse.get d (xs.foldl (fun m e => Sparse.put d m (g e.1) e.2) m) j = Sparse.get d xs k := by
  induction xs generalizing m with
  | nil => exact hm
  | cons e t ih =>
    obtain ⟨a, x⟩ := e
    rw [Sparse.rising_cons, Bool.and_eq_true] at hr
    have ha : g a = j ↔ a = k := hg (a, x) List.mem_cons_self
    have ht (e : Nat × α) (he : e ∈ t) : g e.1 = j ↔ e.1 = k := hg e (List.mem_cons_of_mem _ he)
    rw [List.foldl_cons, Sparse.get]
    by_cases hak : a = k
    · have hne (e : Nat × α) (he : e ∈ t) : g e.1 ≠ j := fun h => by
        have hlt := of_decide_eq_true (List.all_eq_true.1 hr.1 e he)
        exact absurd ((ht e he).1 h) (by omega)
      rw [if_pos hak, Sparse.get_foldl_put_of_ne hne, Sparse.get_put, if_pos (ha.2 hak).symm]
    · rw [if_neg hak, ih hr.2 ht]
      rwa [Sparse.get_put, if_neg fun h => hak (ha.1 h.symm)]

end

/-- A bank moved to another image reads there as it read where it was. -/
theorem State.memByte_moveBank (s : State) {src dst b o : Nat} (hs : s.memOk = true) (ho : inBank b o = true) :
    memByte (s.moveBank src dst b).mem (dst + o) = memByte s.mem (src + o) := by
  have hcells : memByte (s.mem.filter fun e => bankMember src b e.1) (src + o) = memByte s.mem (src + o) :=
    (Sparse.get_filter unlisted s.mem (bankMember src b) _).trans (if_pos (bankMember_add ho))
  rw [← hcells]
  refine Sparse.get_foldl_put (g := fun a => a - src + dst) (Sparse.rising_filter _ _ (Bool.and_eq_true_iff.1 hs).1)
    (fun e he => ?_) ?_
  · have hle := of_decide_eq_true (Bool.and_eq_true_iff.1 (List.mem_filter.1 he).2).1
    omega
  · refine (Sparse.get_filter unlisted s.mem (fun a => !bankMember dst b a && !bankMember src b a) _).trans (if_neg ?_)
    simp [bankMember_add ho]

/-- Moving a bank leaves every other byte as it is. -/
theorem State.memByte_moveBank_of_far (s : State) {src dst b a : Nat} (hsrc : bankMember src b a = false)
    (hdst : bankMember dst b a = false) : memByte (s.moveBank src dst b).mem a = memByte s.mem a := by
  refine (Sparse.get_foldl_put_of_ne (g := fun a => a - src + dst) fun e he h => ?_).trans
    ((Sparse.get_filter unlisted s.mem (fun a => !bankMember dst b a && !bankMember src b a) a).trans
      (if_pos (by simp [hsrc, hdst])))
  have hin := (Bool.and_eq_true_iff.1 (List.mem_filter.1 he).2).2
  rw [← h] at hdst
  rw [Nat.add_comm, bankMember_add hin] at hdst
  exact absurd hdst (by decide)

/-- The bit of a scratchpad bank in the masks of banks. -/
def spadBit (b : Nat) : BitVec 64 := 1 <<< b

theorem getLsbD_spadBit {b j : Nat} (hj : j < 64) : (spadBit b).getLsbD j = decide (b = j) := by
  change (BitVec.ofNat 64 (1 <<< b)).getLsbD j = decide (b = j)
  rw [BitVec.getLsbD_ofNat, Nat.one_shiftLeft, Nat.testBit_two_pow, decide_eq_true hj, Bool.true_and]

theorem getLsbD_clear_spadBit (x : BitVec 64) (b j : Fin 64) :
    (x &&& ~~~spadBit b.val).getLsbD j.val = (x.getLsbD j.val && decide (j ≠ b)) := by
  rw [BitVec.getLsbD_and, BitVec.getLsbD_not, getLsbD_spadBit j.isLt, decide_eq_true j.isLt, Bool.true_and, ← decide_not]
  congr 2
  exact propext (not_congr (eq_comm.trans Fin.ext_iff.symm))

/-- A bank is spilled for its owner. -/
def State.bankOut (s : State) (core chain b : Nat) : State :=
  let s0 := s.moveBank (spadPlace core 0) (spadSave chain 0) b
  { s0 with spads := s0.spads.set chain (s0.savedBanks chain ||| spadBit b) }

/-- A bank is filled with what a chain saved of it. -/
def State.bankIn (s : State) (core chain b : Nat) : State :=
  if (s.savedBanks chain).getLsbD b then
    let s0 := s.moveBank (spadSave chain 0) (spadPlace core 0) b
    { s0 with spads := s0.spads.set chain (s0.savedBanks chain &&& ~~~spadBit b) }
  else s

theorem exec_scratchpadBankExchange {s : State} {core : CoreId} {t : Task} {b : Fin 64}
    (ht : (s.core core.val).bank.task = some t) (hf : (s.core core.val).foreign.getLsbD b.val = true)
    (hw : (s.core core.val).wanted.getLsbD b.val = true) :
    exec (.scratchpadBankExchange core b) s =
      (let k := s.core core.val
       let o := Sparse.get 0 k.owners b.val
       let u := (if o = 0 then s else s.bankOut core.val (o - 1) b.val).bankIn core.val t.serial b.val
       .next (u.setCore core.val { u.core core.val with
         foreign := k.foreign &&& ~~~spadBit b.val, wanted := k.wanted &&& ~~~spadBit b.val,
         owners := Sparse.erase k.owners b.val })) := by
  change execScratchpadBankExchange core b s = _
  unfold execScratchpadBankExchange
  simp only [ht, hf, hw]
  rfl

theorem exec_scratchpadBankExchange_of_kept {s : State} {core : CoreId} {b : Fin 64}
    (h : (s.core core.val).foreign.getLsbD b.val = false ∨ (s.core core.val).wanted.getLsbD b.val = false) :
    exec (.scratchpadBankExchange core b) s = .next s := by
  change execScratchpadBankExchange core b s = _
  unfold execScratchpadBankExchange
  dsimp only
  split
  · rfl
  · have hkept : ((s.core core.val).foreign.getLsbD b.val && (s.core core.val).wanted.getLsbD b.val) = false :=
      Bool.and_eq_false_iff.2 h
    rw [hkept]
    rfl

/-! ### The images of a scratchpad -/

theorem spadSave_eq (chain o : Nat) : spadSave chain o = spadSave chain 0 + o := by
  rw [spadSave, spadSave, Nat.add_zero]

theorem spadPlace_eq (core o : Nat) : spadPlace core o = spadPlace core 0 + o := by
  rw [spadPlace, spadPlace, Nat.add_zero]

section

variable {s : State} {core chain b o : Nat}

theorem State.memByte_bankOut (hs : s.memOk = true) (ho : inBank b o = true) :
    memByte (s.bankOut core chain b).mem (spadSave chain o) = memByte s.mem (spadPlace core o) := by
  rw [spadSave_eq chain o, spadPlace_eq core o]
  exact s.memByte_moveBank hs ho

theorem State.memByte_bankOut_of_far {a : Nat} (hp : bankMember (spadPlace core 0) b a = false)
    (hc : bankMember (spadSave chain 0) b a = false) : memByte (s.bankOut core chain b).mem a = memByte s.mem a :=
  s.memByte_moveBank_of_far hp hc

theorem State.memByte_bankIn (hs : s.memOk = true) (ho : inBank b o = true) (hb : (s.savedBanks chain).getLsbD b = true) :
    memByte (s.bankIn core chain b).mem (spadPlace core o) = memByte s.mem (spadSave chain o) := by
  rw [State.bankIn, if_pos hb, spadSave_eq chain o, spadPlace_eq core o]
  exact s.memByte_moveBank hs ho

theorem State.memByte_bankIn_of_far {a : Nat} (hp : bankMember (spadPlace core 0) b a = false)
    (hc : bankMember (spadSave chain 0) b a = false) : memByte (s.bankIn core chain b).mem a = memByte s.mem a := by
  unfold State.bankIn
  split
  · exact s.memByte_moveBank_of_far hc hp
  · rfl

end

theorem bankMember_place_of_save (core : CoreId) (n b : Nat) {o : Nat} :
    bankMember (spadPlace core.val 0) b (spadSave n o) = false := by
  have hcore := core.isLt
  exact bankMember_of_far (by unfold spadSave spadPlace; omega)

theorem bankMember_save_of_ne {n chain b o : Nat} (hn : n ≠ chain) (ho : o < 2 ^ 22) :
    bankMember (spadSave n 0) b (spadSave chain o) = false :=
  bankMember_of_far (by unfold spadSave; omega)

/-- A bank that is exchanged: its owner's bytes go to its save region, and those of the active task come from its own. -/
theorem State.memByte_exchange {s : State} {core : CoreId} {n chain b o : Nat} (hs : s.memOk = true) (hn : n ≠ chain)
    (ho : inBank b o = true) :
    memByte ((s.bankOut core.val n b).bankIn core.val chain b).mem (spadSave n o) = memByte s.mem (spadPlace core.val o)
      ∧ ((s.savedBanks chain).getLsbD b = true →
        memByte ((s.bankOut core.val n b).bankIn core.val chain b).mem (spadPlace core.val o) =
          memByte s.mem (spadSave chain o)) := by
  have hok : (s.bankOut core.val n b).memOk = true := State.memOk_moveBank s _ _ b hs
  have hbanks : (s.bankOut core.val n b).savedBanks chain = s.savedBanks chain := Sparse.get_set_ne _ _ _ hn.symm
  refine ⟨?_, fun hb => ?_⟩
  · rw [State.memByte_bankIn_of_far (bankMember_place_of_save core n b) (bankMember_save_of_ne hn.symm (inBank_lt ho)),
      State.memByte_bankOut hs ho]
  · rw [State.memByte_bankIn hok ho (hbanks ▸ hb),
      State.memByte_bankOut_of_far (bankMember_place_of_save core chain b) (bankMember_save_of_ne hn (inBank_lt ho))]

/-- Settles O43: the fold over the cores that move together for the request, the step of a core by itself for the swap, the
bytes written for the save record, and the two moves of a bank for the exchange. -/
theorem preemptionAndSwap : Obligations.PreemptionAndSwap := by
  intro s core t b c k all back
  refine ⟨fun hp hd hr hcopies => ?_, exec_preemption_of_waiting, exec_swapComplete_of_waiting,
    fun hone hs hp ht hst hsusp hcopies => ⟨fun hrows => ?_, fun hrows => ?_⟩, fun ht hsp hs => ?_,
    exec_scratchpadBankExchange_of_kept, fun hok ht hf hw => ?_⟩
  · refine ⟨_, exec_preemption_of_ready hp hd hr, fun j hj => ?_⟩
    obtain ⟨os, w, f, hswap⟩ := (State.core_foldl_swapCore ((s.together_nodup c).filter _) hcopies).1 j hj
    have hbank := congrArg Core.bank hswap
    rw [hswap]
    exact ⟨rfl, rfl, rfl, rfl, hbank, rfl, rfl, rfl, rfl, rfl, rfl, rfl, rfl, rfl, rfl, rfl⟩
  · refine ⟨_, (exec_swapComplete_alone hone hs hp).trans
      (by rw [State.comeBack_of_home ht hst hsusp hrows, if_pos rfl]), ?_⟩
    rw [State.seatCopies_of_no_copy] <;> rw [State.core_setCore, State.core_setBank]
    · rfl
    · exact hcopies
  · rw [exec_swapComplete_alone hone hs hp, State.comeBack_of_rowsAway ht hst hrows]
    rfl
  · refine ⟨_, exec_bankSpillDone ht hsp hs, by rw [State.core_setCore], fun n hn => ?_⟩
    rw [State.natAt_setCore]
    exact s.natAt_writeRecord core _ t hn
  · refine ⟨_, exec_scratchpadBankExchange ht hf hw, fun j => ?_, fun o n howner hn ho => ?_⟩
    · rw [State.core_setCore]
      exact getLsbD_clear_spadBit _ b j
    · rw [State.setCore_mem]
      rw [show Sparse.get 0 (s.core core.val).owners b.val = n + 1 from howner, if_neg n.succ_ne_zero, Nat.add_sub_cancel]
      exact State.memByte_exchange hok hn ho

end Sys2Proof.Machine
end

section
/-!
SUPPORT. Column operations of stream mode: a word that is due runs or traps as its body says; integer and logic operations
(O38), binary32 operations, conversion and moves (O39), port, index and lane operations (O40).
-/

namespace Sys2Proof.Machine

/-! ### The word that is due -/

theorem State.fabOf_eq_some {s : State} {i : Instr} {f : Fab} (hf : s.fabOf i = some f) :
    ∃ core h nxt w op rest t b, s.due = .word core h nxt w op :: rest ∧ (op != i) = false
      ∧ (({ s with due := rest } : State).bank core).task = some t
      ∧ (({ s with due := rest } : State).bank core).block h nxt = some b
      ∧ f = ⟨{ s with due := rest }, core, h, nxt, t, w, (({ s with due := rest } : State).bank core).handle h, b,
          (({ s with due := rest } : State).bank core).gens⟩ := by
  unfold State.fabOf at hf
  split at hf
  case h_1 core h nxt w op rest hdue =>
    split at hf
    case isTrue => cases hf
    case isFalse hop =>
      dsimp only at hf
      split at hf
      case h_1 t b ht hb =>
        exact ⟨core, h, nxt, w, op, rest, t, b, hdue, Bool.not_eq_true _ ▸ hop, ht, hb, (Option.some.inj hf).symm⟩
      case h_2 => cases hf
  case h_2 => cases hf

theorem colOp_of_fabOf {s : State} {i : Instr} {f : Fab} (hf : s.fabOf i = some f) (body : Fab → FabRes) :
    (∀ g, body f = .ok g → colOp i body s = .next ((f.carry g i).store f.s))
      ∧ ∀ e, body f = .error e → colOp i body s =
          .next (f.s.fabTrap f.w e ((e.1 == cTranslation || e.1 == cAliasKind) && f.asked (inPorts i))) := by
  obtain ⟨core, h, nxt, w, op, rest, t, b, hdue, hop, ht, hb, rfl⟩ := State.fabOf_eq_some hf
  refine ⟨fun g hg => ?_, fun e he => ?_⟩
  · simp only [colOp, hdue, hop, Bool.false_eq_true, if_false, ht, hb, hg]
  · simp only [colOp, hdue, hop, Bool.false_eq_true, if_false, ht, hb, he]

section
variable {s : State} {i : Instr} {f g : Fab} {body : Fab → FabRes}

theorem runs_of_ok (hf : s.fabOf i = some f) (he : exec i s = colOp i body s) (hb : body f = .ok g) (hs : g.s = f.s) :
    Runs s i g :=
  ⟨f, hf, by rw [he, (colOp_of_fabOf hf body).1 g hb, hs]⟩

theorem fails_of_error {e : Nat × Word} (hf : s.fabOf i = some f) (he : exec i s = colOp i body s)
    (hb : body f = .error e) : Fails s i f e :=
  he.trans ((colOp_of_fabOf hf body).2 e hb)

end

/-! ### What a word leaves of the device -/

@[simp] theorem Fab.give_s (f : Fab) (lat : Nat) (d : QDst) (v mask : Half) (tag : Tag) (empty : Bool) :
    (f.give lat d v mask tag empty).s = f.s := by
  cases d with
  | none => rfl
  | cell r => cases empty <;> rfl
  | out p => rfl

@[simp] theorem Fab.pop_s (f : Fab) (p n : Nat) : (f.pop p n).s = f.s := by
  unfold Fab.pop
  split
  · rfl
  · dsimp only
    split <;> rfl

@[simp] theorem Fab.consume_s (f : Fab) (i : Instr) : (f.consume i).s = f.s :=
  List.foldlRecOn (motive := fun g : Fab => g.s = f.s) _ _ rfl fun g hg p _ => (g.pop_s p 1).trans hg

theorem Fab.give_empty (f : Fab) (lat : Nat) (d : QDst) (v w mask : Half) (tag : Tag) :
    f.give lat d v mask tag true = f.give lat d w mask tag true := by
  cases d <;> rfl

theorem runs_of_give {s : State} {i : Instr} {f : Fab} {lat : Nat} {d : QDst} {v mask : Half} {tag : Tag}
    (hf : s.fabOf i = some f) (he : exec i s = colOp i (fun f => .ok (f.give lat d v mask tag false)) s) :
    Runs s i (f.give lat d v mask tag false) :=
  runs_of_ok hf he rfl (f.give_s ..)

/-! ### Words with operands and one result -/

section
variable {s : State} {i : Instr} {f : Fab} {qs : List (QSrc × BitVec 5)} {d : QDst} {ep : Ep} {lat : Nat}
  {ident : Fab → Tag → Half} {ok : Fab → Nat → Tag → Bool} {fn : Fab → List Opnd → Half × Tag} {xs : List Opnd}

theorem runs_of_opnds (hf : s.fabOf i = some f)
    (he : exec i s = colOp i (fun f => f.run i qs d ep lat (ident f) (ok f) (fn f)) s)
    (ho : f.opnds ep (ident f) (ok f) qs = .ok xs) {v : Half} {tag : Tag} (hv : fn f xs = (v, tag)) :
    Runs s i ((f.consume i).give lat d v fullMask tag (ep == .forward && xs.any Opnd.empty)) :=
  runs_of_ok hf he (by simp only [Fab.run, ho, hv]) (by simp)

theorem fails_of_opnds {e : Nat × Word} (hf : s.fabOf i = some f)
    (he : exec i s = colOp i (fun f => f.run i qs d ep lat (ident f) (ok f) (fn f)) s)
    (ho : f.opnds ep (ident f) (ok f) qs = .error e) : Fails s i f e :=
  fails_of_error hf he (by simp only [Fab.run, ho])

end

/-! ### Results under SAT (R252) and shifts -/

theorem satResult_signed (x : Int) : satResult .signed x = BitVec.ofInt 32 (max (-(2 ^ 31)) (min x (2 ^ 31 - 1))) := by
  have h : (if x < -(2 ^ 31) then -(2 ^ 31) else if x > 2 ^ 31 - 1 then 2 ^ 31 - 1 else x)
      = max (-(2 ^ 31)) (min x (2 ^ 31 - 1)) := by omega
  exact congrArg (BitVec.ofInt 32) h

theorem satResult_unsigned (x : Int) : satResult .unsigned x = BitVec.ofInt 32 (max 0 (min x (2 ^ 32 - 1))) := by
  have h : (if x < 0 then 0 else if x > 2 ^ 32 - 1 then 2 ^ 32 - 1 else x) = max 0 (min x (2 ^ 32 - 1)) := by omega
  exact congrArg (BitVec.ofInt 32) h

theorem satResult_wrap_add (x y : Half) : satResult .wrap (satRead .wrap x + satRead .wrap y) = x + y := by
  change BitVec.ofInt 32 (x.toInt + y.toInt) = x + y
  rw [BitVec.ofInt_add, BitVec.ofInt_toInt, BitVec.ofInt_toInt]

theorem satResult_signed_add (x y : Half) : satResult .signed (satRead .signed x + satRead .signed y)
    = BitVec.ofInt 32 (max (-(2 ^ 31)) (min (x.toInt + y.toInt) (2 ^ 31 - 1))) := satResult_signed _

theorem satResult_unsigned_add (x y : Half) : satResult .unsigned (satRead .unsigned x + satRead .unsigned y)
    = BitVec.ofInt 32 (max 0 (min ((x.toNat : Int) + y.toNat) (2 ^ 32 - 1))) := satResult_unsigned _

theorem satResult_wrap_sub (x y : Half) : satResult .wrap (satRead .wrap x - satRead .wrap y) = x - y := by
  change BitVec.ofInt 32 (x.toInt - y.toInt) = x - y
  rw [← BitVec.toInt_inj, BitVec.toInt_sub, BitVec.toInt_ofInt]

theorem satResult_signed_sub (x y : Half) : satResult .signed (satRead .signed x - satRead .signed y)
    = BitVec.ofInt 32 (max (-(2 ^ 31)) (min (x.toInt - y.toInt) (2 ^ 31 - 1))) := satResult_signed _

theorem satResult_unsigned_sub (x y : Half) : satResult .unsigned (satRead .unsigned x - satRead .unsigned y)
    = BitVec.ofInt 32 (max 0 (min ((x.toNat : Int) - y.toNat) (2 ^ 32 - 1))) := satResult_unsigned _

theorem sshiftRight_eq_ofInt_div (x : Half) (n : Nat) : x.sshiftRight n = BitVec.ofInt 32 (x.toInt / 2 ^ n) := by
  rw [BitVec.sshiftRight, Int.shiftRight_eq_div_pow]
  norm_cast

theorem mulSum_one (f x y : Half) :
    mulSum f x y 1 = packedElem x (2 * fcwDa f) 0 (fcwSa f) * packedElem y (2 * fcwDb f) 0 (fcwSb f) :=
  Int.zero_add _

/-! ### Integer words (R252, R254) -/

/-- Integer word i with the sources of o leaves v of its operands; an empty operand under the forward policy forwards an
empty result, and one that traps leaves its fabric trap. -/
def IntegerWord (s : State) (i : Instr) (f : Fab) (o : QOp2) (ident : Tag → Half) (v : Half → Half → Half) : Prop :=
  (∀ x y, f.opnds o.ep ident (fun _ => f.okInt) (srcs2 o) = .ok [x, y] →
    ((o.ep = .forward ∧ (x.empty = true ∨ y.empty = true)) → Runs s i ((f.consume i).give 1 o.dst 0 fullMask 3 true))
    ∧ (¬ (o.ep = .forward ∧ (x.empty = true ∨ y.empty = true)) →
        Runs s i ((f.consume i).give 1 o.dst (v x.val y.val) fullMask 3 (o.ep == .forward && [x, y].any Opnd.empty))))
  ∧ ∀ e, f.opnds o.ep ident (fun _ => f.okInt) (srcs2 o) = .error e → Fails s i f e

theorem integerWord_of_run {s : State} {i : Instr} {f : Fab} {o : QOp2} {ident : Fab → Tag → Half}
    {fn : Fab → List Opnd → Half × Tag} {v : Half → Half → Half} (hf : s.fabOf i = some f)
    (he : exec i s = colOp i (fun f => f.run i (srcs2 o) o.dst o.ep 1 (ident f) (fun _ => f.okInt) (fn f)) s)
    (hv : ∀ x y, fn f [x, y] = (v x.val y.val, 3)) : IntegerWord s i f o (ident f) v := by
  refine ⟨fun x y ho => ?_, fun e ho => fails_of_opnds hf he ho⟩
  have runs := runs_of_opnds hf he ho (hv x y)
  refine ⟨fun ⟨hep, hemp⟩ => ?_, fun _ => runs⟩
  have hgone : (o.ep == .forward && [x, y].any Opnd.empty) = true := by simpa [hep] using hemp
  rwa [hgone, Fab.give_empty (w := 0)] at runs

section
variable {s : State} {i : Instr} {f : Fab} {o : QOp2}

theorem integerWord_of_intWord {ident : Tag → Half} {fn v : Half → Half → Half} (hf : s.fabOf i = some f)
    (he : exec i s = intWord i o ident fn s) (hv : ∀ x y, fn x y = v x y) : IntegerWord s i f o ident v := by
  unfold intWord at he
  exact integerWord_of_run hf he fun x y => congrArg (·, (3 : Tag)) (hv x.val y.val)

theorem integerWord_qadd {sat : Sat} {v : Half → Half → Half} (hf : s.fabOf (.qadd o sat) = some f)
    (hv : ∀ x y, satResult sat (satRead sat x + satRead sat y) = v x y) : IntegerWord s (.qadd o sat) f o zeroId v :=
  integerWord_of_intWord hf rfl hv

theorem integerWord_qsub {sat : Sat} {v : Half → Half → Half} (hf : s.fabOf (.qsub o sat) = some f)
    (hv : ∀ x y, satResult sat (satRead sat x - satRead sat y) = v x y) : IntegerWord s (.qsub o sat) f o zeroId v :=
  integerWord_of_intWord hf rfl hv

theorem integerWord_qmin {u : Bool} {v : Half → Half → Half} (hf : s.fabOf (.qmin o u) = some f)
    (hv : ∀ x y : Half, (if (if u then decide (x.toNat < y.toNat) else decide (x.toInt < y.toInt)) then x else y) = v x y) :
    IntegerWord s (.qmin o u) f o (extreme f.b.fts u true) v := by
  have he : exec (.qmin o u) s = execQmin o u s := rfl
  unfold execQmin minMaxWord at he
  simp only [Bool.bne_false] at he
  exact integerWord_of_run hf he fun x y => congrArg (·, (3 : Tag)) (hv x.val y.val)

theorem integerWord_qmax {u : Bool} {v : Half → Half → Half} (hf : s.fabOf (.qmax o u) = some f)
    (hv : ∀ x y : Half, (if (if u then decide (x.toNat < y.toNat) else decide (x.toInt < y.toInt)) then y else x) = v x y) :
    IntegerWord s (.qmax o u) f o (extreme f.b.fts u false) v := by
  have he : exec (.qmax o u) s = execQmax o u s := rfl
  unfold execQmax minMaxWord at he
  simp only [bne_iff_ne, ne_eq, ite_not] at he
  exact integerWord_of_run hf he fun x y => congrArg (·, (3 : Tag)) (hv x.val y.val)

theorem integerWord_qcmp {c : QCond} {v : Half → Half → Half} (hf : s.fabOf (.qcmp o c) = some f)
    (hc : condFloat c = false) (hv : ∀ x y, (if condHolds c x y then 1 else 0) = v x y) :
    IntegerWord s (.qcmp o c) f o zeroId v := by
  have he : exec (.qcmp o c) s = execQcmp o c s := rfl
  unfold execQcmp at he
  simp only [hc] at he
  exact integerWord_of_run hf he fun x y => congrArg (·, (3 : Tag)) (hv x.val y.val)

end

/-! ### Words on operands of every class or of the FCW's digits (R252, R253) -/

section
variable {s : State} {i : Instr} {f : Fab} {x y z : Opnd}

theorem runs_bitWord {o : QOp2} {ident : Tag → Half} {fn : Half → Half → Half} (hf : s.fabOf i = some f)
    (he : exec i s = bitWord i o ident fn s) (ho : f.opnds o.ep ident (fun _ => f.okAny) (srcs2 o) = .ok [x, y]) :
    Runs s i ((f.consume i).give 1 o.dst (fn x.val y.val) fullMask 0 (o.ep == .forward && [x, y].any Opnd.empty)) := by
  unfold bitWord at he
  exact runs_of_opnds hf he ho rfl

theorem runs_shiftWord_src {o : QOp1} {q : QSrc} {fn : Half → Nat → Half} (hf : s.fabOf i = some f)
    (he : exec i s = shiftWord i o (.src q) fn s)
    (ho : f.opnds o.ep zeroId (fun _ => f.okAny) [(o.s1, o.xoff), (q, 0)] = .ok [x, y]) :
    Runs s i ((f.consume i).give 1 o.dst (fn x.val (y.val.toNat % 32)) fullMask 0
      (o.ep == .forward && [x, y].any Opnd.empty)) := by
  unfold shiftWord at he
  exact runs_of_opnds hf he ho rfl

theorem runs_shiftWord_imm {o : QOp1} {n : BitVec 5} {fn : Half → Nat → Half} (hf : s.fabOf i = some f)
    (he : exec i s = shiftWord i o (.imm n) fn s)
    (ho : f.opnds o.ep zeroId (fun _ => f.okAny) [(o.s1, o.xoff)] = .ok [x]) :
    Runs s i ((f.consume i).give 1 o.dst (fn x.val n.toNat) fullMask 0 (o.ep == .forward && [x].any Opnd.empty)) := by
  unfold shiftWord at he
  exact runs_of_opnds hf he ho rfl

theorem runs_qmul {o : QOp2} {sat : Sat} (hf : s.fabOf (.qmul o sat) = some f)
    (ho : f.opnds o.ep zeroId f.okMul (srcs2 o) = .ok [x, y]) :
    Runs s (.qmul o sat) ((f.consume (.qmul o sat)).give 2 o.dst (satResult sat (mulSum f.fcw x.val y.val 1)) fullMask 3
      (o.ep == .forward && [x, y].any Opnd.empty)) := by
  have he : exec (.qmul o sat) s = execQmul o sat s := rfl
  unfold execQmul at he
  exact runs_of_opnds hf he ho rfl

theorem runs_qmac {o : QOp3} {sat : Sat} (hf : s.fabOf (.qmac o sat) = some f)
    (ho : f.opnds o.ep zeroId f.okMul (srcs3 o) = .ok [x, y, z]) :
    Runs s (.qmac o sat) ((f.consume (.qmac o sat)).give 3 o.dst
      (satResult sat (z.val.toInt + mulSum f.fcw x.val y.val (macTerms f.fcw))) fullMask 3
      (o.ep == .forward && [x, y, z].any Opnd.empty)) := by
  have he : exec (.qmac o sat) s = execQmac o sat s := rfl
  unfold execQmac at he
  exact runs_of_opnds hf he ho rfl

theorem runs_qsel {o : QOp3} (hf : s.fabOf (.qsel o) = some f)
    (ho : f.opnds o.ep zeroId (fun _ => f.okAny) (srcs3 o) = .ok [x, y, z]) :
    Runs s (.qsel o) ((f.consume (.qsel o)).give 1 o.dst (if z.val = 0 then y else x).val fullMask
      (if z.val = 0 then y else x).tag (o.ep == .forward && [x, y, z].any Opnd.empty)) := by
  have he : exec (.qsel o) s = execQsel o s := rfl
  unfold execQsel at he
  refine runs_of_opnds hf he ho ?_
  by_cases hz : z.val = 0
  · have hc : (opVal [x, y, z] 2 == 0) = true := beq_iff_eq.2 hz
    simp only [hc, if_pos hz]
    rfl
  · have hc : (opVal [x, y, z] 2 == 0) = false := beq_eq_false_iff_ne.2 hz
    simp only [hc, if_neg hz]
    rfl

end

/-- Settles O38: each operation by the rule of its word, with what its result is. -/
theorem columnIntegerOperations : Obligations.ColumnIntegerOperations := by
  intro s i f hf gone put int2 bit2 clampS clampU shift
  refine ⟨fun o => ⟨?addWrap, ?addSigned, ?addUnsigned, ?subWrap, ?subSigned, ?subUnsigned, ?minSigned, ?minUnsigned,
    ?maxSigned, ?maxUnsigned, ?cmpEq, ?cmpLt, ?cmpLeu, ?and, ?or, ?xor, ?mul⟩, fun o _ => ?shl, fun o _ => ?shr,
    fun o _ => ?sra, fun o x y z => ⟨?macWrap, ?macSigned, ?sel⟩⟩
  case addWrap => rintro rfl; exact (integerWord_qadd hf satResult_wrap_add :)
  case addSigned => rintro rfl; exact (integerWord_qadd hf satResult_signed_add :)
  case addUnsigned => rintro rfl; exact (integerWord_qadd hf satResult_unsigned_add :)
  case subWrap => rintro rfl; exact (integerWord_qsub hf satResult_wrap_sub :)
  case subSigned => rintro rfl; exact (integerWord_qsub hf satResult_signed_sub :)
  case subUnsigned => rintro rfl; exact (integerWord_qsub hf satResult_unsigned_sub :)
  case minSigned =>
    rintro rfl
    exact (integerWord_qmin (v := fun x y => if x.toInt < y.toInt then x else y) hf fun x y => by simp :)
  case minUnsigned =>
    rintro rfl
    exact (integerWord_qmin (v := fun x y => if x.toNat < y.toNat then x else y) hf fun x y => by simp :)
  case maxSigned =>
    rintro rfl
    exact (integerWord_qmax (v := fun x y => if x.toInt < y.toInt then y else x) hf fun x y => by simp :)
  case maxUnsigned =>
    rintro rfl
    exact (integerWord_qmax (v := fun x y => if x.toNat < y.toNat then y else x) hf fun x y => by simp :)
  case cmpEq =>
    rintro rfl
    exact (integerWord_qcmp (v := fun x y => if x = y then 1 else 0) hf rfl fun x y => by simp [condHolds] :)
  case cmpLt =>
    rintro rfl
    exact (integerWord_qcmp (v := fun x y => if x.toInt < y.toInt then 1 else 0) hf rfl fun x y => by simp [condHolds] :)
  case cmpLeu =>
    rintro rfl
    exact (integerWord_qcmp (v := fun x y => if x.toNat ≤ y.toNat then 1 else 0) hf rfl fun x y => by simp [condHolds] :)
  case and => rintro rfl x y ho; exact (runs_bitWord hf rfl ho :)
  case or => rintro rfl x y ho; exact (runs_bitWord hf rfl ho :)
  case xor => rintro rfl x y ho; exact (runs_bitWord hf rfl ho :)
  case mul => rintro rfl x y ho; exact mulSum_one f.fcw x.val y.val ▸ (runs_qmul hf ho :)
  case shl =>
    constructor
    · rintro q x y rfl ho; exact (runs_shiftWord_src hf rfl ho :)
    · rintro n x rfl ho; exact (runs_shiftWord_imm hf rfl ho :)
  case shr =>
    constructor
    · rintro q x y rfl ho; exact (runs_shiftWord_src hf rfl ho :)
    · rintro n x rfl ho; exact (runs_shiftWord_imm hf rfl ho :)
  case sra =>
    constructor
    · rintro q x y rfl ho
      have runs := runs_shiftWord_src hf rfl ho
      rwa [sshiftRight_eq_ofInt_div] at runs
    · rintro n x rfl ho
      have runs := runs_shiftWord_imm hf rfl ho
      rwa [sshiftRight_eq_ofInt_div] at runs
  case macWrap => rintro rfl ho; exact (runs_qmac hf ho :)
  case macSigned => rintro rfl ho; have runs := runs_qmac hf ho; rwa [satResult_signed] at runs
  case sel => rintro rfl ho; exact (runs_qsel hf ho :)

/-! ### Binary32 words (R255) -/

section
variable {s : State} {i : Instr} {f : Fab} {x y z : Opnd}

theorem runs_floatWord {o : QOp2} {lat : Nat} {ident : Tag → Half} {fn : Half → Half → Half} (hf : s.fabOf i = some f)
    (he : exec i s = floatWord i o lat ident fn s)
    (ho : f.opnds o.ep ident (fun _ => okF32) (srcs2 o) = .ok [x, y]) :
    Runs s i ((f.consume i).give lat o.dst (fn x.val y.val) fullMask 5 (o.ep == .forward && [x, y].any Opnd.empty)) := by
  unfold floatWord at he
  exact runs_of_opnds hf he ho rfl

theorem exec_qfadd (o : QOp2) (rm : Rm) (s : State) :
    exec (.qfadd o rm) s = floatWord (.qfadd o rm) o 4 zeroId (fun a b => (f32Add rm a b).1) s := rfl

theorem exec_qfmul (o : QOp2) (rm : Rm) (s : State) :
    exec (.qfmul o rm) s = floatWord (.qfmul o rm) o 4 zeroId (fun a b => (f32Mul rm a b).1) s := rfl

theorem exec_qfmin (o : QOp2) (s : State) :
    exec (.qfmin o) s = floatWord (.qfmin o) o 1 (fun _ => 0x7F800000) (fun a b => (f32Min a b).1) s := rfl

theorem exec_qfmax (o : QOp2) (s : State) :
    exec (.qfmax o) s = floatWord (.qfmax o) o 1 (fun _ => 0xFF800000) (fun a b => (f32Max a b).1) s := rfl

theorem runs_qfma {o : QOp3} {rm : Rm} (hf : s.fabOf (.qfma o rm) = some f)
    (ho : f.opnds o.ep zeroId (fun _ => okF32) (srcs3 o) = .ok [x, y, z]) :
    Runs s (.qfma o rm) ((f.consume (.qfma o rm)).give 4 o.dst (f32Fma rm false z.val x.val y.val).1 fullMask 5
      (o.ep == .forward && [x, y, z].any Opnd.empty)) := by
  have he : exec (.qfma o rm) s = execQfma o rm s := rfl
  unfold execQfma at he
  exact runs_of_opnds hf he ho rfl

end

/-! ### Conversion and moves (R256, R257) -/

theorem subPut_zero (w k v : Nat) : subPut 0 w k v = BitVec.ofNat 32 (v % 2 ^ w * 2 ^ (w * k)) := by
  simp [subPut, subGet]

theorem subPut_zero_mask (w k : Nat) : subPut 0 w k (2 ^ w - 1) = BitVec.ofNat 32 ((2 ^ w - 1) * 2 ^ (w * k)) := by
  rw [subPut_zero, Nat.mod_eq_of_lt (Nat.sub_lt (Nat.two_pow_pos w) Nat.one_pos)]

section
variable {s : State} {f : Fab} {o : QOp1} {t : Tag} {rm : Rm} {ov : Ovf} {ds ss : BitVec 3} {x : Opnd} {fs fd : Fmt} {y : Conv}

theorem runs_qcvt (hf : s.fabOf (.qcvt o t rm ov ds ss) = some f) (hx : x.empty = false)
    (ho : f.opnds o.ep zeroId
      (fun _ g => (cvtSource f.b.fts g).isSome && decide (ss.toNat < 32 / containerOf f.b.fts g)) [(o.s1, o.xoff)] = .ok [x])
    (hfs : cvtSource f.b.fts x.tag = some fs) (hfd : fmtOf f.b.fts t = some fd)
    (hds : ds.toNat < 32 / containerOf f.b.fts t)
    (hy : convert (fs.decode (subGet x.val (containerOf f.b.fts x.tag) ss.toNat)) fd rm ov 0 = y)
    (hov : y.ovf = false ∨ ov ≠ .trap) :
    Runs s (.qcvt o t rm ov ds ss) ((f.consume (.qcvt o t rm ov ds ss)).give 2 o.dst
      (subPut 0 (containerOf f.b.fts t) ds.toNat y.bits)
      (subPut 0 (containerOf f.b.fts t) ds.toNat (2 ^ containerOf f.b.fts t - 1)) t false) := by
  have he : exec (.qcvt o t rm ov ds ss) s = execQcvt o t rm ov ds ss s := rfl
  unfold execQcvt at he
  have hgo : (y.ovf && ov == .trap) = false := by simpa [imp_iff_not_or] using hov
  refine runs_of_ok hf he ?_ (by simp)
  simp only [ho, List.getD_cons_zero, hx, Bool.and_false, Bool.false_eq_true, if_false, hfd, Nat.not_le.2 hds, hfs, hy, hgo]

theorem fails_qcvt (hf : s.fabOf (.qcvt o t rm .trap ds ss) = some f) (hx : x.empty = false)
    (ho : f.opnds o.ep zeroId
      (fun _ g => (cvtSource f.b.fts g).isSome && decide (ss.toNat < 32 / containerOf f.b.fts g)) [(o.s1, o.xoff)] = .ok [x])
    (hfs : cvtSource f.b.fts x.tag = some fs) (hfd : fmtOf f.b.fts t = some fd)
    (hds : ds.toNat < 32 / containerOf f.b.fts t)
    (hy : convert (fs.decode (subGet x.val (containerOf f.b.fts x.tag) ss.toNat)) fd rm .trap 0 = y)
    (hov : y.ovf = true) : Fails s (.qcvt o t rm .trap ds ss) f (cConvert, 1 <<< f.w.lane) := by
  have he : exec (.qcvt o t rm .trap ds ss) s = execQcvt o t rm .trap ds ss s := rfl
  unfold execQcvt at he
  refine fails_of_error hf he ?_
  simp only [ho, List.getD_cons_zero, hx, Bool.and_false, Bool.false_eq_true, if_false, hfd, Nat.not_le.2 hds, hfs, hy, hov]
  rfl

end

section
variable {s : State} {f : Fab} {h : QHead} {d : QDst} {ep : Ep} {s1 : QSrc} {xoff : BitVec 5} {x : Opnd}

theorem runs_qmov_move (hf : s.fabOf (.qmov h d (.move s1 xoff) ep) = some f)
    (ho : f.opnds ep zeroId (fun _ => f.okAny) [(s1, xoff)] = .ok [x]) :
    Runs s (.qmov h d (.move s1 xoff) ep) ((f.consume (.qmov h d (.move s1 xoff) ep)).give 1 d x.val fullMask x.tag
      (ep == .forward && [x].any Opnd.empty)) := by
  have he : exec (.qmov h d (.move s1 xoff) ep) s = execQmov h d (.move s1 xoff) ep s := rfl
  unfold execQmov at he
  exact runs_of_opnds hf he ho rfl

theorem runs_qmov_tag {t : Tag} (hf : s.fabOf (.qmov h d (.tag s1 xoff t) ep) = some f)
    (ho : f.opnds ep zeroId (fun _ => f.okAny) [(s1, xoff)] = .ok [x]) :
    Runs s (.qmov h d (.tag s1 xoff t) ep) ((f.consume (.qmov h d (.tag s1 xoff t) ep)).give 1 d x.val fullMask t
      (ep == .forward && [x].any Opnd.empty)) := by
  have he : exec (.qmov h d (.tag s1 xoff t) ep) s = execQmov h d (.tag s1 xoff t) ep s := rfl
  unfold execQmov at he
  exact runs_of_opnds hf he ho rfl

end

/-- Settles O39: the binary32 words, a conversion within its format and one beyond it, and each form of QMOV. -/
theorem columnFloatAndMoves : Obligations.ColumnFloatAndMoves := by
  intro s i f hf gone float2
  refine ⟨fun o rm => ⟨?add, ?mul, ?min, ?max⟩, ?fma, ?cvt, fun h d ep s1 xoff t x ho => ⟨?move, ?tag⟩,
    fun h d ep imm b => ⟨?lo, ?mid, ?hi⟩⟩
  case add => rintro rfl x y ho; exact (runs_floatWord hf (exec_qfadd o rm s) ho :)
  case mul => rintro rfl x y ho; exact (runs_floatWord hf (exec_qfmul o rm s) ho :)
  case min => rintro rfl x y ho; exact (runs_floatWord hf (exec_qfmin o s) ho :)
  case max => rintro rfl x y ho; exact (runs_floatWord hf (exec_qfmax o s) ho :)
  case fma => rintro o rm x y z rfl ho; exact (runs_qfma hf ho :)
  case cvt =>
    rintro o t rm ov ds ss x fs fd rfl hx ws wd ho hfs hfd hds y
    refine ⟨fun hov => ?_, ?_⟩
    · have runs := runs_qcvt hf hx ho hfs hfd hds rfl hov
      rwa [subPut_zero, subPut_zero_mask] at runs
    · rintro hov rfl
      exact (fails_qcvt hf hx ho hfs hfd hds rfl hov :)
  case move => rintro rfl; exact (runs_qmov_move hf ho :)
  case tag => rintro rfl; exact (runs_qmov_tag hf ho :)
  case lo => rintro rfl; exact runs_of_give hf rfl
  case mid => rintro rfl; exact runs_of_give hf rfl
  case hi => rintro rfl; exact runs_of_give hf rfl

/-! ### Ports, indices and other lanes (R258 to R264) -/

theorem Fab.peek_stream {f : Fab} {p l k : Nat} {e : StreamEnt} {tok : Token}
    (he : f.b.prog.feeder f.w.tile p = some e) (hk : e.src.kind = 1) (hq : (laneList (f.gen e.src.idx).rx l)[k]? = some tok) :
    f.peek p l k = if tok.row == .first then .error (cProtection, 0) else .ok tok := by
  simp only [Fab.peek, he, hk, hq, if_true]

section
variable {s : State} {f : Fab} {h : QHead} {x g : Opnd}

theorem runs_qrecv {r p : Fin _} {peek : Bool} {ep : Ep} (hf : s.fabOf (.qrecv h (some r) p peek ep) = some f)
    (ho : f.opnds ep zeroId (fun _ => f.okAny) [(.inp p, 0)] = .ok [x]) :
    Runs s (.qrecv h (some r) p peek ep) ((if peek then f else f.pop p.val 1).give 1 (.cell r) x.val fullMask x.tag
      (ep == .forward && x.empty)) := by
  have he : exec (.qrecv h (some r) p peek ep) s = execQrecv h (some r) p peek ep s := rfl
  unfold execQrecv at he
  refine runs_of_ok hf he (by simp only [ho]; rfl) ?_
  cases peek <;> simp

theorem runs_qsend {p : Fin 8} {s1 : QSrc} {e : Bool} {xoff : BitVec 5} {ep : Ep}
    (hf : s.fabOf (.qsend h p s1 none e xoff ep) = some f)
    (ho : f.opnds ep zeroId (fun _ => f.okAny) [(s1, xoff)] = .ok [x]) :
    Runs s (.qsend h p s1 none e xoff ep) ((f.consume (.qsend h p s1 none e xoff ep)).give 1 (.out p) x.val fullMask x.tag
      (e || (ep == .forward && x.empty))) := by
  have he : exec (.qsend h p s1 none e xoff ep) s = execQsend h p s1 none e xoff ep s := rfl
  unfold execQsend at he
  exact runs_of_ok hf he (by simp [ho]) (by simp)

section
variable {p : Fin 8} {s1 : QSrc} {c : Fin 16} {e : Bool} {xoff : BitVec 5} {ep : Ep}

theorem runs_qsend_gate (hf : s.fabOf (.qsend h p s1 (some c) e xoff ep) = some f)
    (ho : f.opnds ep zeroId (fun _ => f.okAny) [(s1, xoff), (.cell c, 0)] = .ok [x, g]) :
    Runs s (.qsend h p s1 (some c) e xoff ep) ((f.consume (.qsend h p s1 (some c) e xoff ep)).give 1 (.out p) x.val fullMask
      x.tag (e || g.val == 0 || (ep == .forward && x.empty))) := by
  have he : exec (.qsend h p s1 (some c) e xoff ep) s = execQsend h p s1 (some c) e xoff ep s := rfl
  unfold execQsend at he
  exact runs_of_ok hf he (by simp only [ho]; rfl) (by simp)

theorem fails_qsend_gate {y : Nat × Word} (hf : s.fabOf (.qsend h p s1 (some c) e xoff ep) = some f)
    (ho : f.opnds ep zeroId (fun _ => f.okAny) [(s1, xoff), (.cell c, 0)] = .error y) :
    Fails s (.qsend h p s1 (some c) e xoff ep) f y := by
  have he : exec (.qsend h p s1 (some c) e xoff ep) s = execQsend h p s1 (some c) e xoff ep s := rfl
  unfold execQsend at he
  exact fails_of_error hf he (by simp only [ho])

end

theorem runs_qempty {r p : Fin _} {c : Bool} {tok : Token} (hf : s.fabOf (.qempty h (some r) p c) = some f)
    (ho : f.head p.val = .ok tok) :
    Runs s (.qempty h (some r) p c) ((if c then f.pop p.val 1 else f).give 1 (.cell r) (if tok.empty then 1 else 0)
      fullMask 3 false) := by
  have he : exec (.qempty h (some r) p c) s = execQempty h (some r) p c s := rfl
  unfold execQempty at he
  refine runs_of_ok hf he (by simp only [ho]; rfl) ?_
  cases c <;> simp

theorem runs_qiter {d : QDst} {item : BitVec 3} (hf : s.fabOf (.qiter h d item) = some f) :
    Runs s (.qiter h d item) (f.give 1 d (BitVec.ofNat 32 (if item.toNat < 4 then f.w.iv.getD item.toNat 0 else f.w.init))
      fullMask 3 false) := by
  have he : exec (.qiter h d item) s = execQiter h d item s := rfl
  unfold execQiter at he
  exact runs_of_ok hf he rfl (f.give_s ..)

/-- A word that moves a register of another lane moves an accepted tag with it, and traps FORMAT_TAG on any other. -/
theorem move_result {i : Instr} {body : Fab → FabRes} {d : QDst} {c : Half × Tag} (hf : s.fabOf i = some f)
    (he : exec i s = colOp i body s) (hb : body f = f.move d c) :
    (f.okAny c.2 = true → Runs s i (f.give 1 d c.1 fullMask c.2 false))
      ∧ (f.okAny c.2 = false → Fails s i f (cFormatTag, c.2.zeroExtend 64)) := by
  refine ⟨fun hc => runs_of_ok hf he ?_ (f.give_s ..), fun hc => fails_of_error hf he ?_⟩
  · rw [hb, Fab.move, if_pos hc]
  · rw [hb, Fab.move, if_neg (Bool.not_eq_true _ ▸ hc)]
    rfl

theorem qlane_result {d : QDst} {c : Fin 16} {xoff : BitVec 5} {z : Bool} {v : Half × Tag}
    (hf : s.fabOf (.qlane h d c xoff z) = some f)
    (hv : (if z && (decide ((f.w.lane : Int) - xoff.toInt < 0) || decide (15 < (f.w.lane : Int) - xoff.toInt)) then (0, 0)
      else f.cell (laneBack f.w.lane xoff.toInt) c.val) = v) :
    (f.okAny v.2 = true → Runs s (.qlane h d c xoff z) (f.give 1 d v.1 fullMask v.2 false))
      ∧ (f.okAny v.2 = false → Fails s (.qlane h d c xoff z) f (cFormatTag, v.2.zeroExtend 64)) := by
  have he : exec (.qlane h d c xoff z) s = execQlane h d c xoff z s := rfl
  unfold execQlane at he
  exact move_result hf he (by simp only [hv])

theorem qbcast_result {d : QDst} {c : Fin 16} {k : BitVec 4} (hf : s.fabOf (.qbcast h d c k) = some f) :
    (f.okAny (f.cell k.toNat c.val).2 = true →
        Runs s (.qbcast h d c k) (f.give 1 d (f.cell k.toNat c.val).1 fullMask (f.cell k.toNat c.val).2 false))
      ∧ (f.okAny (f.cell k.toNat c.val).2 = false →
        Fails s (.qbcast h d c k) f (cFormatTag, (f.cell k.toNat c.val).2.zeroExtend 64)) := by
  have he : exec (.qbcast h d c k) s = execQbcast h d c k s := rfl
  unfold execQbcast at he
  exact move_result hf he rfl

/-- The sum of the lanes from 0 up to the word's own, whose operand is v (R264). -/
def Fab.sumUpTo (f : Fab) (v : Half) : Half :=
  match if f.w.lane = 0 then none else Sparse.find f.b.red f.w.redKey with
  | some y => y + v
  | none => v

theorem Fab.sumUpTo_first {f : Fab} (hl : f.w.lane = 0) (v : Half) : f.sumUpTo v = v := by
  rw [Fab.sumUpTo, if_pos hl]

theorem Fab.sumUpTo_next {f : Fab} {y : Half} (hl : f.w.lane ≠ 0) (hy : Sparse.find f.b.red f.w.redKey = some y) (v : Half) :
    f.sumUpTo v = y + v := by
  rw [Fab.sumUpTo, if_neg hl, hy]

theorem runs_qredl_add {d : QDst} {s1 : QSrc} {rm : Rm} {ep : Ep} (hf : s.fabOf (.qredl h d s1 .add rm ep) = some f)
    (hne : ep = .forward → x.empty = false) (ho : f.opnds ep zeroId (fun _ => f.okInt) [(s1, 0)] = .ok [x]) :
    Runs s (.qredl h d s1 .add rm ep)
      ((let g := f.consume (.qredl h d s1 .add rm ep)
        { g with b := { g.b with red := g.b.red.set f.w.redKey (f.sumUpTo x.val) } }).give 1 d (f.sumUpTo x.val) fullMask 3
          false) := by
  have he : exec (.qredl h d s1 .add rm ep) s = execQredl h d s1 .add rm ep s := rfl
  unfold execQredl at he
  have hgo : (ep == .forward && x.empty) = false := by simpa using hne
  refine runs_of_ok hf he ?_ (by simp)
  simp only [redFloat, Bool.false_eq_true, if_false, ho, List.getD_cons_zero, hgo]
  rfl

end

/-- Settles O40: each operation by the rule of its word; a token that a stream feeds by what its queue holds. -/
theorem columnPortsAndLanes : Obligations.ColumnPortsAndLanes := by
  intro s i f hf l back moved
  refine ⟨?nop, ?recv, ?row, ?send, ?gate, ?empty, ?iter, ?lane, ?bcast, ?redl⟩
  case nop => rintro h rfl; exact runs_of_ok hf rfl rfl rfl
  case recv => rintro h r p peek ep x rfl ho; exact (runs_qrecv hf ho :)
  case row =>
    intro e p k tok he hk hq
    rw [Fab.peek_stream he hk hq]
    exact ⟨fun hr => if_pos (beq_iff_eq.2 hr), fun hr => if_neg (mt beq_iff_eq.1 hr)⟩
  case send => rintro h p s1 e xoff ep x rfl ho; exact (runs_qsend hf ho :)
  case gate =>
    rintro h p s1 c e xoff ep rfl
    exact ⟨fun x g ho => (runs_qsend_gate hf ho :), fun y ho => (fails_qsend_gate hf ho :)⟩
  case empty => rintro h r p c tok rfl ho; exact (runs_qempty hf ho :)
  case iter =>
    rintro h d item rfl
    have runs := runs_qiter hf
    refine ⟨fun hi => ?_, fun hi => ?_⟩
    · rwa [if_pos hi] at runs
    · rwa [if_neg (Nat.not_lt.2 hi)] at runs
  case lane =>
    rintro h d c xoff z rfl
    refine ⟨fun hz hj => qlane_result hf (if_pos ?_), fun hj => qlane_result hf (if_neg ?_)⟩
    · simpa [hz] using hj
    · intro ha
      rw [Bool.and_eq_true, Bool.or_eq_true, decide_eq_true_eq, decide_eq_true_eq] at ha
      rcases hj with hz | hj
      · simp [hz] at ha
      · omega
  case bcast => rintro h d c k rfl; exact (qbcast_result hf :)
  case redl =>
    rintro h d s1 rm ep x rfl hne ho
    exact ⟨f.sumUpTo x.val, fun hl => f.sumUpTo_first hl _, fun y hl hy => f.sumUpTo_next hl hy _,
      (runs_qredl_add hf hne ho :)⟩

end Sys2Proof.Machine
end

section
/-!
SUPPORT. Vector instructions at issue: one whose checks pass joins those unfinished, one whose checks fail traps. Binary32
instructions (O23).
-/

namespace Sys2Proof.Machine

/-! ### What an instruction answers when it can issue -/

section
variable {s s1 : State} {t : Task} {i : Instr} {keys : Context → List Nat} {body : State → Task → Res}

theorem completes_of_done (he : exec i s = .next (issue i keys body s)) (hb : body s t = .done s1) :
    Completes s t i (keys s.ctx) (s.after t i s1) :=
  fun h => he.trans (congrArg _ (issue_done h hb))

theorem traps_of_trap {cause : Nat} {info : Word} (he : exec i s = .next (issue i keys body s))
    (hb : body s t = .trap s cause info) : Traps s t i (keys s.ctx) cause info :=
  fun h => he.trans (congrArg _ (issue_trap h hb))

theorem completes_of_stall (he : exec i s = .next (issue i keys body s)) (hb : body s t = .stall) :
    Completes s t i (keys s.ctx) (s.waits 0) := fun h => by
  rw [he, issue_settles h, hb, State.settle, if_neg (by rw [State.interrupted_of_canIssue h]; exact Bool.false_ne_true)]
  rfl

end

/-! ### Tags of sources (R190) -/

theorem firstBad_of_all {ok : Tag → Bool} {ts : List Tag} (h : ∀ t ∈ ts, ok t = true) : firstBad ok ts = none := by
  induction ts with
  | nil => rfl
  | cons t ts ih =>
    rw [firstBad, if_pos (h t List.mem_cons_self), ih fun u hu => h u (List.mem_cons_of_mem t hu)]

theorem firstBad_append {ok : Tag → Bool} {ts us : List Tag} {t : Tag} (h : ∀ u ∈ ts, ok u = true) (ht : ok t = false) :
    firstBad ok (ts ++ t :: us) = some t := by
  induction ts with
  | nil => exact if_neg (Bool.not_eq_true _ ▸ ht)
  | cons u ts ih =>
    rw [List.cons_append, firstBad, if_pos (h u List.mem_cons_self), ih fun v hv => h v (List.mem_cons_of_mem u hv)]

theorem withTags_of_all {s : State} {ok : Tag → Bool} {ts : List Tag} {k : Res} (h : ∀ t ∈ ts, ok t = true) :
    withTags s ok ts k = k := by
  rw [withTags, firstBad_of_all h]

theorem withTags_of_bad {s : State} {ok : Tag → Bool} {ts us : List Tag} {t : Tag} {k : Res} (h : ∀ u ∈ ts, ok u = true)
    (ht : ok t = false) : withTags s ok (ts ++ t :: us) k = .trap s cFormatTag (t.zeroExtend 64) := by
  rw [withTags, firstBad_append h ht]
  rfl

/-! ### Binary32 instructions (R192) -/

theorem vecFlags_suppressed (sf : Bool) (m : Mask) (fl : Nat → BitVec 5) :
    vecFlags sf m fl = if sf then 0 else vecFlags false m fl := by
  cases sf <;> rfl

section
variable {s : State} {t : Task} {i : Instr} {a b c : VReg} {f : VCtl}

theorem completes_fpOp (srcs : List VReg) (op : Context → Nat → Half × BitVec 5) (he : exec i s = fpOp i a srcs f op s)
    (htag : ∀ r ∈ srcs, (s.ctx.vec r).tag = 5) :
    Completes s t i (keysV (a :: srcs) f.pred) (s.after t i (launchVec i a (fun l => (op s.ctx l).1) (s.ctx.pred f.pred) 5
      (if f.sf then 0 else vecFlags false (s.ctx.pred f.pred) fun l => (op s.ctx l).2) s)) := by
  rw [← vecFlags_suppressed]
  exact completes_of_done (keys := fun _ => keysV (a :: srcs) f.pred) he (withTags_of_all (by simpa using htag))

theorem traps_fpOp (rs rs' : List VReg) (r : VReg) (op : Context → Nat → Half × BitVec 5)
    (he : exec i s = fpOp i a (rs ++ r :: rs') f op s) (htag : ∀ q ∈ rs, (s.ctx.vec q).tag = 5) (hr : (s.ctx.vec r).tag ≠ 5) :
    Traps s t i (keysV (a :: (rs ++ r :: rs')) f.pred) cFormatTag ((s.ctx.vec r).tag.zeroExtend 64) := by
  refine traps_of_trap (keys := fun _ => keysV (a :: (rs ++ r :: rs')) f.pred) he ?_
  simp only [List.map_append, List.map_cons]
  exact withTags_of_bad (by simpa using htag) (beq_eq_false_iff_ne.2 hr)

theorem completes_fp2 (op : Half → Half → Half × BitVec 5) (he : exec i s = fp2 i a b c f op s)
    (htag : ∀ r ∈ [b, c], (s.ctx.vec r).tag = 5) :
    Completes s t i (keysV [a, b, c] f.pred) (s.after t i (launchVec i a
      (fun l => (op ((s.ctx.vec b).lane l) ((s.ctx.vec c).lane l)).1) (s.ctx.pred f.pred) 5
      (if f.sf then 0 else vecFlags false (s.ctx.pred f.pred) fun l =>
        (op ((s.ctx.vec b).lane l) ((s.ctx.vec c).lane l)).2) s)) :=
  completes_fpOp [b, c] (fun x l => op ((x.vec b).lane l) ((x.vec c).lane l)) he htag

theorem completes_fp1 (op : Half → Half × BitVec 5) (he : exec i s = fp1 i a b f op s)
    (htag : ∀ r ∈ [b], (s.ctx.vec r).tag = 5) :
    Completes s t i (keysV [a, b] f.pred) (s.after t i (launchVec i a (fun l => (op ((s.ctx.vec b).lane l)).1)
      (s.ctx.pred f.pred) 5 (if f.sf then 0 else vecFlags false (s.ctx.pred f.pred) fun l =>
        (op ((s.ctx.vec b).lane l)).2) s)) :=
  completes_fpOp [b] (fun x l => op ((x.vec b).lane l)) he htag

theorem completes_fused (neg : Bool) (he : exec i s = fpOp i a [a, b, c] f
      (fun x l => f32Fma f.rm neg ((x.vec a).lane l) ((x.vec b).lane l) ((x.vec c).lane l)) s)
    (htag : ∀ r ∈ [a, b, c], (s.ctx.vec r).tag = 5) :
    Completes s t i (keysV [a, a, b, c] f.pred) (s.after t i (launchVec i a
      (fun l => (f32Fma f.rm neg ((s.ctx.vec a).lane l) ((s.ctx.vec b).lane l) ((s.ctx.vec c).lane l)).1)
      (s.ctx.pred f.pred) 5 (if f.sf then 0 else vecFlags false (s.ctx.pred f.pred) fun l =>
        (f32Fma f.rm neg ((s.ctx.vec a).lane l) ((s.ctx.vec b).lane l) ((s.ctx.vec c).lane l)).2) s)) :=
  completes_fpOp [a, b, c] (fun x l => f32Fma f.rm neg ((x.vec a).lane l) ((x.vec b).lane l) ((x.vec c).lane l)) he htag

theorem traps_fp2_first (op : Half → Half → Half × BitVec 5) (he : exec i s = fp2 i a b c f op s)
    (hb : (s.ctx.vec b).tag ≠ 5) :
    Traps s t i (keysV [a, b, c] f.pred) cFormatTag ((s.ctx.vec b).tag.zeroExtend 64) :=
  traps_fpOp [] [c] b (fun x l => op ((x.vec b).lane l) ((x.vec c).lane l)) he (List.forall_mem_nil _) hb

theorem traps_fp2_second (op : Half → Half → Half × BitVec 5) (he : exec i s = fp2 i a b c f op s)
    (hb : (s.ctx.vec b).tag = 5) (hc : (s.ctx.vec c).tag ≠ 5) :
    Traps s t i (keysV [a, b, c] f.pred) cFormatTag ((s.ctx.vec c).tag.zeroExtend 64) :=
  traps_fpOp [b] [] c (fun x l => op ((x.vec b).lane l) ((x.vec c).lane l)) he (by simpa using hb) hc

theorem traps_fp1 (op : Half → Half × BitVec 5) (he : exec i s = fp1 i a b f op s) (hb : (s.ctx.vec b).tag ≠ 5) :
    Traps s t i (keysV [a, b] f.pred) cFormatTag ((s.ctx.vec b).tag.zeroExtend 64) :=
  traps_fpOp [] [] b (fun x l => op ((x.vec b).lane l)) he (List.forall_mem_nil _) hb

end

/-- Settles O23: each instruction is a lane-wise operation whose sources carry FT5, with its own function of the lanes. -/
theorem vectorFloatIssues : Obligations.VectorFloatIssues := by
  intro s t a b c f v tag m ks result
  exact ⟨completes_fp2 (f32Add f.rm) rfl, completes_fp2 (f32Sub f.rm) rfl, completes_fp2 (f32Mul f.rm) rfl,
    completes_fused false rfl, completes_fused true rfl, completes_fp2 f32Min rfl, completes_fp2 f32Max rfl,
    completes_fp1 f32Abs rfl, completes_fp1 f32Neg rfl, completes_fp2 (f32Div f.rm) rfl, completes_fp1 (f32Sqrt f.rm) rfl,
    completes_fp1 (f32Rcp f.rm) rfl, completes_fp1 (f32Rsq f.rm) rfl,
    fun hb => ⟨traps_fp2_first (f32Add f.rm) rfl hb, traps_fp1 (f32Sqrt f.rm) rfl hb⟩,
    traps_fp2_second (f32Mul f.rm) rfl⟩

end Sys2Proof.Machine
end

section
/-!
SUPPORT. Comparisons, selection, single lanes, flags, draws and reductions at issue (O26).
-/

namespace Sys2Proof.Machine

/-! ### Comparisons (R193) -/

/-- The bits at which g holds. -/
def bitsWhere (n : Nat) (g : Nat → Bool) : BitVec n :=
  (List.range n).foldl (fun (w : BitVec n) l => if g l then w ||| ((1 : BitVec n) <<< l) else w) 0

section
variable {s : State} {t : Task} {i : Instr} {p : PReg} {b c : VReg} {q : PReg} {sf u : Bool}
  (flt : Half → Half → Bool × BitVec 5) (int : Half → Half → Bool)

theorem completes_cmpOp_int (he : exec i s = cmpOp i p b c q sf u flt int s) (hb : (s.ctx.vec b).tag = 3)
    (hc : (s.ctx.vec c).tag = 3) :
    Completes s t i (keyP p ++ keysV [b, c] q) (s.launched t i (s.ctx.entry i (.pred p (bitsWhere 16 fun l =>
      (s.ctx.pred q).getLsbD l && int ((s.ctx.vec b).lane l) ((s.ctx.vec c).lane l)) 0) 0 0 0 0 .plain .core [])) := by
  refine completes_of_done (keys := fun _ => keyP p ++ keysV [b, c] q) he ?_
  simp only [hb, hc]
  rfl

theorem completes_cmpOp_float (he : exec i s = cmpOp i p b c q sf false flt int s) (hb : (s.ctx.vec b).tag = 5)
    (hc : (s.ctx.vec c).tag = 5) :
    Completes s t i (keyP p ++ keysV [b, c] q) (s.launched t i (s.ctx.entry i (.pred p (bitsWhere 16 fun l =>
      (s.ctx.pred q).getLsbD l && (flt ((s.ctx.vec b).lane l) ((s.ctx.vec c).lane l)).1)
      (vecFlags sf (s.ctx.pred q) fun l => (flt ((s.ctx.vec b).lane l) ((s.ctx.vec c).lane l)).2)) 0 0 0 0 .plain .core [])) := by
  refine completes_of_done (keys := fun _ => keyP p ++ keysV [b, c] q) he ?_
  simp only [hb, hc]
  rfl

theorem traps_cmpOp_unsigned (he : exec i s = cmpOp i p b c q sf true flt int s) (hb : (s.ctx.vec b).tag = 5)
    (hc : (s.ctx.vec c).tag = 5) : Traps s t i (keyP p ++ keysV [b, c] q) cIllegal (word0 i) := by
  refine traps_of_trap (keys := fun _ => keyP p ++ keysV [b, c] q) he ?_
  simp only [hb, hc]
  rfl

theorem traps_cmpOp_tag (he : exec i s = cmpOp i p b c q sf u flt int s) (h3 : (s.ctx.vec b).tag ≠ 3)
    (h5 : (s.ctx.vec b).tag ≠ 5) :
    Traps s t i (keyP p ++ keysV [b, c] q) cFormatTag ((s.ctx.vec b).tag.zeroExtend 64) := by
  refine traps_of_trap (keys := fun _ => keyP p ++ keysV [b, c] q) he ?_
  simp only [beq_eq_false_iff_ne.2 h3, beq_eq_false_iff_ne.2 h5, Bool.false_and, Bool.or_false, Bool.false_eq_true, if_false]
  rfl

end

/-! ### Selection, single lanes and flags (R194, R197, R200) -/

theorem anyTag_of_valid {c : Context} {g : Tag} (h : classOf c.ft g ≠ .invalid) : anyTag c g = true := by
  simp [anyTag, Context.badTag, h]

section
variable {s : State} {t : Task}

theorem completes_vsel {a b c : VReg} {q : PReg} (hb : classOf s.ctx.ft (s.ctx.vec b).tag ≠ .invalid)
    (hc : (s.ctx.vec b).tag = (s.ctx.vec c).tag) :
    Completes s t (.vsel a b c q) (keysV [a, b, c] q) (s.after t (.vsel a b c q) (launchVec (.vsel a b c q) a
      (fun l => if (s.ctx.pred q).getLsbD l then (s.ctx.vec b).lane l else (s.ctx.vec c).lane l) 0xFFFF
      (s.ctx.vec b).tag 0 s)) := by
  refine completes_of_done (keys := fun _ => keysV [a, b, c] q) rfl ?_
  have hok : ∀ g ∈ [(s.ctx.vec b).tag, (s.ctx.vec c).tag], (!s.ctx.badTag g) = true := by
    rw [← hc]
    simpa [anyTag] using anyTag_of_valid hb
  refine (withTags_of_all hok).trans (if_neg ?_)
  simp [hc]

theorem completes_vins {a : VReg} {x : XReg} {k : BitVec 4} :
    Completes s t (.vins a x k) (keyV a ++ keysOf [x] s.ctx)
      (s.launched t (.vins a x k) (s.ctx.entry (.vins a x k) (.ins a k) 0 (s.ctx.x x) 0 0 .plain .core [])) :=
  completes_of_done (keys := fun c => keyV a ++ keysOf [x] c) rfl rfl

theorem completes_vext {x : XReg} {b : VReg} {z : Bool} {k : BitVec 4}
    (hb : classOf s.ctx.ft (s.ctx.vec b).tag ≠ .invalid) :
    Completes s t (.vext x b z k) (keyV b ++ keysOf [x] s.ctx) (s.launched t (.vext x b z k) (s.ctx.entry (.vext x b z k)
      (.toX x (if z then ((s.ctx.vec b).lane k.toNat).zeroExtend 64 else ((s.ctx.vec b).lane k.toNat).signExtend 64))
      0 0 0 0 .plain .core [])) :=
  completes_of_done (keys := fun c => keyV b ++ keysOf [x] c) rfl
    (withTags_of_all (by simpa using anyTag_of_valid hb))

theorem completes_vflags {x : XReg} {f : BitVec 3} {clr : Bool} {q : PReg} :
    Completes s t (.vflags x f clr q) (keysOf [x] s.ctx ++ keyP q) (s.launched t (.vflags x f clr q)
      (s.ctx.entry (.vflags x f clr q) (.flags x f clr (s.ctx.pred q)) 0 0 0 0 .plain .core [])) :=
  completes_of_done (keys := fun c => keysOf [x] c ++ keyP q) rfl rfl

theorem completes_vrng {a : VReg} {q : PReg} :
    Completes s t (.vrng a q) (keysV [a] q) (s.after t (.vrng a q)
      ((launchVec (.vrng a q) a (fun l => gen s.ctx.gkey (s.ctx.gctr + BitVec.ofNat 128 l)) (s.ctx.pred q) 0 0 s).mapCtx
        fun d => { d with gctr := d.gctr + 16 })) :=
  completes_of_done (keys := fun _ => keysV [a] q) rfl rfl

end

/-! ### Reductions (R198) -/

section
variable {s : State} {t : Task} {i : Instr} {a b : VReg} {q : PReg} {sat : BitVec 2} {add : Bool}
  {flt : State → Task → List Half → Half × BitVec 5} {int : List Half → Half}

/-- A reduction with RNE and SF 0, whose result r under tag g goes to lane 0 with flags fl. -/
def State.reduced (s : State) (t : Task) (i : Instr) (a : VReg) (r : Half) (g : Tag) (fl : BitVec 5) : State :=
  s.after t i (launchVec i a (fun l => if l = 0 then r else 0) 0xFFFF g (laneFlags 0 fl) s)

theorem completes_redOp_int (he : exec i s = redOp i a b ⟨q, false, .rne⟩ sat add flt int s)
    (hb : (s.ctx.vec b).tag = 3) (hsat : sat = 0 ∨ sat = 2) :
    Completes s t i (keysV [a, b] q) (s.reduced t i a (int (activeLanes (s.ctx.vec b) (s.ctx.pred q))) 3 0) := by
  refine completes_of_done (keys := fun _ => keysV [a, b] q) he ?_
  rcases hsat with rfl | rfl <;> · simp only [hb]; rfl

theorem completes_redOp_float (he : exec i s = redOp i a b ⟨q, false, .rne⟩ 0 add flt int s)
    (hb : (s.ctx.vec b).tag = 5) :
    Completes s t i (keysV [a, b] q) (s.reduced t i a (flt s t (activeLanes (s.ctx.vec b) (s.ctx.pred q))).1 5
      (flt s t (activeLanes (s.ctx.vec b) (s.ctx.pred q))).2) := by
  refine completes_of_done (keys := fun _ => keysV [a, b] q) he ?_
  simp only [hb]
  cases add <;> rfl

theorem completes_vredadd_int (hb : (s.ctx.vec b).tag = 3) (hsat : sat = 0 ∨ sat = 2) :
    Completes s t (.vredadd a b ⟨q, false, .rne⟩ sat) (keysV [a, b] q) (s.reduced t (.vredadd a b ⟨q, false, .rne⟩ sat) a
      (redAddI sat (activeLanes (s.ctx.vec b) (s.ctx.pred q))) 3 0) :=
  completes_redOp_int (add := true) (flt := fun s t xs =>
    if ((s.ctxInfo t.part t.ctx).compat.getD 0).getLsbD 0 then redAddOld .rne xs else redAddF .rne xs) rfl hb hsat

theorem completes_vredadd_float (hb : (s.ctx.vec b).tag = 5)
    (hc : ((s.ctxInfo t.part t.ctx).compat.getD 0).getLsbD 0 = false) :
    Completes s t (.vredadd a b ⟨q, false, .rne⟩ 0) (keysV [a, b] q) (s.reduced t (.vredadd a b ⟨q, false, .rne⟩ 0) a
      (redAddF .rne (activeLanes (s.ctx.vec b) (s.ctx.pred q))).1 5
      (redAddF .rne (activeLanes (s.ctx.vec b) (s.ctx.pred q))).2) := by
  have runs := completes_redOp_float (t := t) (i := .vredadd a b ⟨q, false, .rne⟩ 0) (add := true) (int := redAddI 0)
    (flt := fun s t xs => if ((s.ctxInfo t.part t.ctx).compat.getD 0).getLsbD 0 then redAddOld .rne xs else redAddF .rne xs)
    rfl hb
  simpa only [hc, Bool.false_eq_true, if_false] using runs

theorem completes_vredmax_int (hb : (s.ctx.vec b).tag = 3) (hsat : sat = 0 ∨ sat = 2) :
    Completes s t (.vredmax a b ⟨q, false, .rne⟩ sat) (keysV [a, b] q) (s.reduced t (.vredmax a b ⟨q, false, .rne⟩ sat) a
      (redMaxI sat (activeLanes (s.ctx.vec b) (s.ctx.pred q))) 3 0) :=
  completes_redOp_int (add := false) (flt := fun _ _ xs => redMaxF xs) rfl hb hsat

theorem completes_vredmax_float (hb : (s.ctx.vec b).tag = 5) :
    Completes s t (.vredmax a b ⟨q, false, .rne⟩ 0) (keysV [a, b] q) (s.reduced t (.vredmax a b ⟨q, false, .rne⟩ 0) a
      (redMaxF (activeLanes (s.ctx.vec b) (s.ctx.pred q))).1 5 (redMaxF (activeLanes (s.ctx.vec b) (s.ctx.pred q))).2) :=
  completes_redOp_float (add := false) (int := redMaxI 0) (flt := fun _ _ xs => redMaxF xs) rfl hb

end

theorem ofInt_foldl_toInt (xs : List Half) (n : Int) :
    BitVec.ofInt 32 (xs.foldl (fun n x => n + x.toInt) n) = xs.foldl (· + ·) (BitVec.ofInt 32 n) := by
  induction xs generalizing n with
  | nil => rfl
  | cons x xs ih => rw [List.foldl_cons, ih, List.foldl_cons, BitVec.ofInt_add, BitVec.ofInt_toInt]

theorem redAddI_wrap (xs : List Half) : redAddI 0 xs = xs.foldl (· + ·) 0 := ofInt_foldl_toInt xs 0

theorem redAddI_unsigned (xs : List Half) : redAddI 2 xs
    = BitVec.ofInt 32 (max 0 (min (xs.foldl (fun n y => n + (y.toNat : Int)) 0) (2 ^ 32 - 1))) := satResult_unsigned _

theorem foldl_slt_eq_max (xs : List Half) (m : Half) : xs.foldl (fun m x => if m.slt x then x else m) m
    = BitVec.ofInt 32 (xs.foldl (fun n y => max n y.toInt) m.toInt) := by
  induction xs generalizing m with
  | nil => exact BitVec.ofInt_toInt.symm
  | cons x xs ih =>
    have hmax : (if m.slt x then x else m).toInt = max m.toInt x.toInt := by
      rw [BitVec.slt_eq_decide]
      split <;> rename_i h <;> simp only [decide_eq_true_eq] at h <;> omega
    rw [List.foldl_cons, ih, hmax, List.foldl_cons]

theorem foldl_ult_eq_max (xs : List Half) (m : Half) : xs.foldl (fun m x => if m.ult x then x else m) m
    = BitVec.ofNat 32 (xs.foldl (fun n y => max n y.toNat) m.toNat) := by
  induction xs generalizing m with
  | nil => simp
  | cons x xs ih =>
    have hmax : (if m.ult x then x else m).toNat = max m.toNat x.toNat := by
      rw [BitVec.ult_eq_decide]
      split <;> rename_i h <;> simp only [decide_eq_true_eq] at h <;> omega
    rw [List.foldl_cons, ih, hmax, List.foldl_cons]

theorem redMaxI_signed (xs : List Half) :
    redMaxI 0 xs = BitVec.ofInt 32 (xs.foldl (fun n y => max n y.toInt) (-(2 ^ 31))) := foldl_slt_eq_max xs 0x80000000

theorem redMaxI_unsigned (xs : List Half) : redMaxI 2 xs = BitVec.ofNat 32 (xs.foldl (fun n y => max n y.toNat) 0) :=
  foldl_ult_eq_max xs 0

/-- Settles O26: each instruction by the rule of its form; the integer reductions are sums and maxima of numbers. -/
theorem vectorSelectsIssue : Obligations.VectorSelectsIssue := by
  intro s t a b c p q x sf u z clr k f c0 v tag m bits sets active plain lane0
  refine ⟨fun hb hc => ⟨?eqInt, ?lt, ?ltu, ?le, ?leu⟩, fun hb hc => ⟨?eqFloat, ?ltFloat, ?ltIllegal⟩, ?badTag,
    completes_vsel, completes_vins, completes_vext, completes_vflags, completes_vrng, fun hb => ⟨?add, ?addu, ?max, ?maxu⟩,
    fun hb => ⟨?maxFloat, fun hc => ?addFloat⟩⟩
  case eqInt => exact completes_cmpOp_int (f32Cmp false Val.eqv) (fun x y => x == y) rfl hb hc
  case lt => exact completes_cmpOp_int (f32Cmp true Val.lt) (fun x y => x.slt y) rfl hb hc
  case ltu => exact completes_cmpOp_int (f32Cmp true Val.lt) (fun x y => x.ult y) rfl hb hc
  case le => exact completes_cmpOp_int (f32Cmp true fun x y => !Val.lt y x) (fun x y => x.sle y) rfl hb hc
  case leu => exact completes_cmpOp_int (f32Cmp true fun x y => !Val.lt y x) (fun x y => x.ule y) rfl hb hc
  case eqFloat => exact completes_cmpOp_float (f32Cmp false Val.eqv) (fun x y => x == y) rfl hb hc
  case ltFloat => exact completes_cmpOp_float (f32Cmp true Val.lt) (fun x y => x.slt y) rfl hb hc
  case ltIllegal => exact traps_cmpOp_unsigned (f32Cmp true Val.lt) (fun x y => x.ult y) rfl hb hc
  case badTag => exact traps_cmpOp_tag (f32Cmp false Val.eqv) (fun x y => x == y) rfl
  case add => rw [← redAddI_wrap]; exact completes_vredadd_int hb (.inl rfl)
  case addu => rw [← redAddI_unsigned]; exact completes_vredadd_int hb (.inr rfl)
  case max => rw [← redMaxI_signed]; exact completes_vredmax_int hb (.inl rfl)
  case maxu => rw [← redMaxI_unsigned]; exact completes_vredmax_int hb (.inr rfl)
  case maxFloat => exact completes_vredmax_float hb
  case addFloat => exact completes_vredadd_float hb hc

end Sys2Proof.Machine
end

section
/-!
SUPPORT. VCVT at issue: sub-containers, and the mask of the lanes that overflow (O27).
-/

namespace Sys2Proof.Machine

/-! ### Masks of lanes -/

theorem getLsbD_foldl_or_bit {n : Nat} (g : Nat → Bool) (ls : List Nat) (w : BitVec n) {l : Nat} (hl : l < n) :
    (ls.foldl (fun (w : BitVec n) l => if g l then w ||| ((1 : BitVec n) <<< l) else w) w).getLsbD l
      = (w.getLsbD l || (decide (l ∈ ls) && g l)) := by
  induction ls generalizing w with
  | nil => simp
  | cons k ls ih =>
    have hbit : ((1 : BitVec n) <<< k).getLsbD l = decide (l = k) := by
      change (BitVec.twoPow n k).getLsbD l = _
      rw [BitVec.getLsbD_twoPow, ← Bool.decide_and]
      exact decide_eq_decide.2 ⟨fun h => h.2.symm, fun h => ⟨h ▸ hl, h.symm⟩⟩
    have hput : (if g k then w ||| ((1 : BitVec n) <<< k) else w).getLsbD l = (w.getLsbD l || (decide (l = k) && g k)) := by
      split <;> simp_all only [BitVec.getLsbD_or, Bool.and_true, Bool.and_false, Bool.or_false]
    rw [List.foldl_cons, ih, hput]
    by_cases hk : l = k
    · subst hk
      cases g l <;> simp
    · simp [hk]

theorem getLsbD_bitsWhere {n : Nat} (g : Nat → Bool) {l : Nat} (hl : l < n) : (bitsWhere n g).getLsbD l = g l := by
  rw [bitsWhere, getLsbD_foldl_or_bit g _ _ hl, decide_eq_true (List.mem_range.2 hl), Bool.true_and]
  exact (congrArg (· || g l) BitVec.getLsbD_zero).trans (Bool.false_or _)

theorem bitsWhere_eq {n : Nat} {g : Nat → Bool} {w : BitVec n} (h : ∀ l, l < n → w.getLsbD l = g l) : bitsWhere n g = w :=
  BitVec.eq_of_getLsbD_eq fun l hl => (getLsbD_bitsWhere g hl).trans (h l hl).symm

/-! ### Sub-containers of a lane (R201) -/

theorem subPut_eq (x : Half) (w k v : Nat) : subPut x w k v = BitVec.ofNat 32 (x.toNat % 2 ^ (w * k)
    + v % 2 ^ w * 2 ^ (w * k) + x.toNat / 2 ^ (w * k + w) * 2 ^ (w * k + w)) := by
  have hlow := Nat.div_add_mod x.toNat (2 ^ (w * k))
  have hsub := Nat.div_add_mod (x.toNat / 2 ^ (w * k)) (2 ^ w)
  rw [Nat.div_div_eq_div_mul, ← Nat.pow_add] at hsub
  have hparts : x.toNat = x.toNat / 2 ^ (w * k + w) * 2 ^ (w * k + w) + subGet x w k * 2 ^ (w * k)
      + x.toNat % 2 ^ (w * k) := by
    conv_lhs => rw [← hlow, ← hsub]
    rw [subGet, Nat.pow_add]
    ring
  unfold subPut
  congr 1
  omega

/-! ### VCVT -/

section
variable {s : State} {t : Task} {a b : VReg} {tg : Tag} {f : VCtl} {ov : Ovf} {ds ss : BitVec 3} {fs fd : Fmt}

theorem traps_vcvt_source (hs : cvtSource s.ctx.ft (s.ctx.vec b).tag = none) :
    Traps s t (.vcvt a b tg f ov ds ss) (keysV [a, b] f.pred) cFormatTag ((s.ctx.vec b).tag.zeroExtend 64) := by
  refine traps_of_trap (keys := fun _ => keysV [a, b] f.pred) rfl ?_
  simp only [hs]
  rfl

theorem traps_vcvt_target (hs : cvtSource s.ctx.ft (s.ctx.vec b).tag = some fs) (hd : fmtOf s.ctx.ft tg = none) :
    Traps s t (.vcvt a b tg f ov ds ss) (keysV [a, b] f.pred) cFormatTag (tg.zeroExtend 64) := by
  refine traps_of_trap (keys := fun _ => keysV [a, b] f.pred) rfl ?_
  simp only [hs, hd]
  rfl

/-- What the conversion of lane l comes to. -/
def Context.converted (c : Context) (b : VReg) (f : VCtl) (ov : Ovf) (ss : BitVec 3) (fs fd : Fmt) (l : Nat) : Conv :=
  convert (fs.decode (subGet ((c.vec b).lane l) (containerOf c.ft (c.vec b).tag) ss.toNat)) fd f.rm ov
    (Machine.gen c.gkey (c.gctr + BitVec.ofNat 128 l))

/-- The active lanes whose conversion overflows under OV = TRAP. -/
def Context.cvtOver (c : Context) (b : VReg) (f : VCtl) (ov : Ovf) (ss : BitVec 3) (fs fd : Fmt) : Mask :=
  bitsWhere 16 fun l => (c.pred f.pred).getLsbD l && (c.converted b f ov ss fs fd l).ovf && ov == .trap

section
variable (hs : cvtSource s.ctx.ft (s.ctx.vec b).tag = some fs) (hd : fmtOf s.ctx.ft tg = some fd)
  (hss : ss.toNat < 32 / containerOf s.ctx.ft (s.ctx.vec b).tag) (hds : ds.toNat < 32 / containerOf s.ctx.ft tg)
include hs hd hss hds

theorem completes_vcvt (hov : s.ctx.cvtOver b f ov ss fs fd = 0) :
    let s1 := launchVec (.vcvt a b tg f ov ds ss) a (fun l => subPut ((s.ctx.vec a).lane l) (containerOf s.ctx.ft tg) ds.toNat
        (s.ctx.converted b f ov ss fs fd l).bits) (s.ctx.pred f.pred) tg
      (vecFlags f.sf (s.ctx.pred f.pred) fun l => (s.ctx.converted b f ov ss fs fd l).flags) s
    Completes s t (.vcvt a b tg f ov ds ss) (keysV [a, b] f.pred) (s.after t (.vcvt a b tg f ov ds ss)
      (if f.rm = .stoch then s1.mapCtx fun d => { d with gctr := d.gctr + 16 } else s1)) := by
  intro s1
  refine completes_of_done (keys := fun _ => keysV [a, b] f.pred) rfl ?_
  simp only [hs, hd, Nat.not_le.2 hss, Nat.not_le.2 hds, decide_false, Bool.or_self, Bool.false_eq_true, if_false]
  refine (if_neg (by rw [bne_iff_ne, not_not]; exact hov)).trans ?_
  simp only [beq_iff_eq]
  rfl

theorem traps_vcvt_overflow (hov : s.ctx.cvtOver b f ov ss fs fd ≠ 0) :
    Traps s t (.vcvt a b tg f ov ds ss) (keysV [a, b] f.pred) cConvert ((s.ctx.cvtOver b f ov ss fs fd).zeroExtend 64) := by
  refine traps_of_trap (keys := fun _ => keysV [a, b] f.pred) rfl ?_
  simp only [hs, hd, Nat.not_le.2 hss, Nat.not_le.2 hds, decide_false, Bool.or_self, Bool.false_eq_true, if_false]
  exact if_pos (bne_iff_ne.2 hov)

end

end

/-- Settles O27: the sub-container by the parts of a lane around it, the lanes that overflow bit by bit. -/
theorem vectorConversionIssues : Obligations.VectorConversionIssues := by
  intro s t a b tg f ov ds ss fs fd c i tb m ws wd elem y new big ks
  refine ⟨traps_vcvt_source, traps_vcvt_target, fun hs hd hss hds => ⟨fun hov => ?_, ?_⟩⟩
  · intro s1
    have hnone : c.cvtOver b f ov ss fs fd = 0 := bitsWhere_eq fun l hl => by
      have hl : (m.getLsbD l && (y l).ovf && ov == .trap) = false := by
        rcases hov with hne | hfit
        · rw [beq_eq_false_iff_ne.2 hne, Bool.and_false]
        · rw [Bool.and_eq_false_iff]
          exact .inl (by simpa [big] using hfit l hl)
      exact BitVec.getLsbD_zero.trans hl.symm
    have runs := completes_vcvt (t := t) (a := a) hs hd hss hds hnone
    simp only [subPut_eq, vecFlags_suppressed f.sf] at runs
    exact runs
  · rintro rfl w hw hbig
    have hover : c.cvtOver b f .trap ss fs fd = w := bitsWhere_eq fun l hl => by
      have hl : w.getLsbD l = (m.getLsbD l && (y l).ovf) := by
        rw [Bool.eq_iff_iff, Bool.and_eq_true]
        exact hbig l hl
      exact hl.trans (Bool.and_true _).symm
    have traps := traps_vcvt_overflow (t := t) (a := a) hs hd hss hds (hover.trans_ne hw)
    rwa [hover] at traps

end Sys2Proof.Machine
end

section
/-!
SUPPORT. Vector instructions when they complete (O28).
-/

namespace Sys2Proof.Machine

/-! ### Completion of an entry that works on registers alone -/

/-- The entry does all its work on registers: it is no access, no tile copy and no fence. -/
def Entry.onRegisters (e : Entry) : Prop :=
  match e.op with
  | .int .. | .toX .. | .vec .. | .ins .. | .pred .. | .flags .. => True
  | _ => False

theorem Entry.not_flags_of_usesFlags {x : Entry} (h : x.usesFlags = false) (d : XReg) (f : BitVec 3) (clr : Bool) (m : Mask) :
    x.op ≠ .flags d f clr m := fun hop => by
  rw [Entry.usesFlags, hop] at h
  cases h

theorem flagsOrdered_of_none {e : Entry} {before : List Entry} (h : ∀ x ∈ before, x.usesFlags = false) :
    flagsOrdered e before = true := by
  unfold flagsOrdered
  split
  · rw [Bool.not_eq_true', List.any_eq_false]
    exact fun x hx => Bool.not_eq_true _ ▸ h x hx
  iterate 2
    rw [Bool.not_eq_true', List.any_eq_false]
    intro x hx hflags
    split at hflags
    · rename_i hop
      exact Entry.not_flags_of_usesFlags (h x hx) _ _ _ _ hop
    · cases hflags
  · rfl

section
variable {s : State} {core : Nat} {t : Task} {before after : List Entry} {e : Entry}

theorem State.completeEntry_registers (he : e.onRegisters) (hf : flagsOrdered e before = true) :
    s.completeEntry core t before e after
      = s.setBank core { (s.bank core).finish e with fly := (s.bank core).trim (before ++ after) } := by
  unfold Entry.onRegisters at he
  unfold State.completeEntry
  split <;> rename_i hop
  iterate 8 rw [hop] at he; exact he.elim
  · rw [if_pos hf]
    simp

end

theorem exec_complete_registers {s : State} {core : CoreId} {k : Fin 8} {t : Task} {before after : List Entry} {e : Entry}
    {c1 : Context} (ht : (s.bank core.val).task = some t) (hswap : (s.core core.val).swapping = false)
    (hk : splitEntry (s.bank core.val).fly k.val = some (before, e, after)) (hf : ∀ x ∈ before, x.usesFlags = false)
    (he : e.onRegisters) (hc : (s.bank core.val).finish e = c1) :
    ∃ u, exec (.variableLatencyComplete core k) s = .next u
      ∧ u.bank core.val = { c1 with fly := (s.bank core.val).trim (before ++ after) } ∧ u.mem = s.mem ∧ u.rows = s.rows
      ∧ ∀ j, j ≠ core.val → u.core j = s.core j := by
  refine ⟨_, exec_variableLatencyComplete ht hswap hk, ?_⟩
  rw [State.completeEntry_registers he (flagsOrdered_of_none hf), hc]
  exact ⟨State.bank_setBank .., rfl, rfl, fun j hj => State.core_setBank_ne s _ hj⟩

/-! ### What each kind leaves -/

theorem mergeLanes_getElem (old new : Lanes) (m : Mask) (l : Fin 16) :
    (mergeLanes old new m)[l] = if m.getLsbD l.val then new[l] else old[l] := by
  simp [mergeLanes]

theorem getElem_setLane (v : Lanes) (j : BitVec 4) (x : Half) (l : Fin 16) :
    (v.setIfInBounds j.toNat x)[l] = if l.val = j.toNat then x else v[l] := by
  simp [Vector.getElem_setIfInBounds, eq_comm]

/-- VSTAT once VFLAGS has read flag f under a mask. -/
def Context.vstatAfter (c : Context) (f : BitVec 3) (clr : Bool) (m : Mask) : BitVec 80 :=
  if clr then (c.clearFlag f.toNat m).vstat else c.vstat

theorem getLsbD_vstatAfter (c : Context) (f : BitVec 3) (clr : Bool) (m : Mask) {b : Nat} (hb : b < 80) :
    (c.vstatAfter f clr m).getLsbD b = (c.vstat.getLsbD b
      && !(clr && decide (16 * f.toNat ≤ b ∧ b < 16 * f.toNat + 16) && m.getLsbD (b - 16 * f.toNat))) := by
  cases clr
  · simp [Context.vstatAfter]
  · have hmask : ((m.zeroExtend 80) <<< (16 * f.toNat)).getLsbD b
        = (decide (16 * f.toNat ≤ b ∧ b < 16 * f.toNat + 16) && m.getLsbD (b - 16 * f.toNat)) := by
      rw [BitVec.getLsbD_shiftLeft, BitVec.zeroExtend, BitVec.getLsbD_setWidth]
      by_cases hr : 16 * f.toNat ≤ b ∧ b < 16 * f.toNat + 16
      · have hl : b - 16 * f.toNat < 80 := by omega
        simp [hr, hb, hl]
      · have hout : b < 16 * f.toNat ∨ 16 ≤ b - 16 * f.toNat := by omega
        rcases hout with h | h
        · simp [hr, h]
        · simp [hr, BitVec.getLsbD_of_ge m _ h]
    simp only [Context.vstatAfter, if_true, Context.clearFlag, BitVec.getLsbD_and, BitVec.getLsbD_not, hmask]
    simp [hb]

theorem Context.finish_pred (c : Context) {e : Entry} {d : PReg} {m : Mask} {fl : BitVec 80} (h : e.op = .pred d m fl) :
    c.finish e = { c.setPred d m with vstat := c.vstat ||| fl } := by
  rw [Context.finish, h]
  simp only [Context.raise, Context.setPred_vstat]

theorem Context.with_vstat_self {c : Context} {v : BitVec 80} (h : c.vstat = v) : c = { c with vstat := v } := by
  subst h; rfl

theorem Context.finish_flags (c : Context) {e : Entry} {d : XReg} {f : BitVec 3} {clr : Bool} {m : Mask}
    (h : e.op = .flags d f clr m) : c.finish e
      = { c.setXAt e.wpe d ((c.vstat.extractLsb' (16 * f.toNat) 16 &&& m).zeroExtend 64) with vstat := c.vstatAfter f clr m } := by
  rw [Context.finish, h]
  cases clr
  · exact Context.with_vstat_self (Context.setXAt_vstat ..)
  · simp only [Context.vstatAfter, Context.flagBits, Context.clearFlag, Context.setXAt_vstat, if_true]

/-- Settles O28: each kind is an entry that works on registers alone, with its own change of the bank. -/
theorem vectorCompletes : Obligations.VectorCompletes := by
  intro s core k t before after e c ht hswap hk hf done
  have hdone {c1 : Context} (he : e.onRegisters) (hc : c.finish e = c1) : done c1 :=
    exec_complete_registers ht hswap hk hf he hc
  refine ⟨fun d new m tag fl hop => ?vec, fun d j hop => ?ins, fun d m fl hop => ?pred, fun d v hop => ?toX,
    fun d f clr m hop _ => ?flags⟩
  all_goals have he : e.onRegisters := by rw [Entry.onRegisters, hop]; trivial
  case vec =>
    exact ⟨⟨mergeLanes (c.vec d).lanes new m, tag⟩, rfl, mergeLanes_getElem _ _ _, hdone he (by rw [Context.finish, hop]; rfl)⟩
  case ins => exact ⟨⟨(c.vec d).lanes.setIfInBounds j.toNat (e.opb.truncate 32), (c.vec d).tag⟩, rfl, getElem_setLane _ j _,
      hdone he (by rw [Context.finish, hop])⟩
  case pred => exact hdone he (c.finish_pred hop)
  case toX => exact hdone he (by rw [Context.finish, hop])
  case flags => exact ⟨c.vstatAfter f clr m, fun b => getLsbD_vstatAfter c f clr m, hdone he (c.finish_flags hop)⟩

end Sys2Proof.Machine
end

section
/-!
SUPPORT. Control registers: what each number reads as and what a write of it changes (O30).
-/

namespace Sys2Proof.Machine

/-! ### CRD and CWR carry out the access of their register -/

section
variable {s s1 : State} {t : Task} {a : XReg} {n : BitVec 12} {v : Word}

theorem writes_crd (h : s.crRead t n.toNat = .val v) : Writes s t (.crd a n) (keysOf [a] s.ctx) a v :=
  completes_of_done (keys := keysOf [a]) rfl (by simp only [h])

theorem traps_crd_illegal (h : s.crRead t n.toNat = .illegal) :
    Traps s t (.crd a n) (keysOf [a] s.ctx) cIllegal (word0 (.crd a n)) :=
  traps_of_trap (keys := keysOf [a]) rfl (by simp only [h])

theorem completes_cwr (h : s.crWrite t n.toNat (s.ctx.x a) = .put s1) :
    Completes s t (.cwr a n) (keysOf [a] s.ctx) (s.after t (.cwr a n) s1) :=
  completes_of_done (keys := keysOf [a]) rfl (by simp only [h])

theorem traps_cwr_illegal (h : s.crWrite t n.toNat (s.ctx.x a) = .illegal) :
    Traps s t (.cwr a n) (keysOf [a] s.ctx) cIllegal (word0 (.cwr a n)) :=
  traps_of_trap (keys := keysOf [a]) rfl (by simp only [h])

theorem waits_cwr (h : s.crWrite t n.toNat (s.ctx.x a) = .stall) :
    Completes s t (.cwr a n) (keysOf [a] s.ctx) (s.waits 0) :=
  completes_of_stall (keys := keysOf [a]) rfl (by simp only [h])

/-- PROTECTION of a register of the command processor: the trap of instruction i of s, with some TINFO. -/
def Protects (s : State) (t : Task) (i : Instr) (keys : List Nat) : Prop :=
  ∀ u, s.canIssue t i keys = true → exec i s = .next u →
    ∃ (s1 : State) (info : Word), u = s1.syncTrap s.cur t cProtection info s.ctx.pc (s.nextPc s.cur s.ctx.pc (words i))

theorem protects_of_trap {i : Instr} {keys : Context → List Nat} {body : State → Task → Res} {info : Word}
    (he : exec i s = .next (issue i keys body s)) (hb : body s t = .trap s1 cProtection info) :
    Protects s t i (keys s.ctx) := fun u h hu => by
  rw [he, issue_settles h, hb] at hu
  exact ⟨s1, info, (Host.Outcome.next.inj hu).symm⟩

theorem protects_crd (h : s.crRead t n.toNat = .protect) : Protects s t (.crd a n) (keysOf [a] s.ctx) :=
  protects_of_trap (keys := keysOf [a]) rfl (by simp only [h]; rfl)

theorem protects_cwr (h : s.crWrite t n.toNat (s.ctx.x a) = .protect) : Protects s t (.cwr a n) (keysOf [a] s.ctx) :=
  protects_of_trap (keys := keysOf [a]) rfl (by simp only [h]; rfl)

end

/-! ### Reading by ranges of numbers (R146) -/

theorem toNat_crNumber {n : Nat} (h : n < 4096) : (BitVec.ofNat 12 n).toNat = n := by
  rw [BitVec.toNat_ofNat, Nat.mod_eq_of_lt h]

section
variable {s : State} {t : Task} {k : Nat}

theorem State.crRead_format (hk : k < 64) : s.crRead t (0x40 + k) = .val ((ftRead s.ctx.ft k).zeroExtend 64) := by
  unfold State.crRead
  split
  iterate 12 omega
  rw [if_pos (by simp; omega), Nat.add_sub_cancel_left]

theorem State.crRead_trap {n : Nat} (h1 : 0x80 ≤ n) (h2 : n < 0xC0) : s.crRead t n = s.ctx.trapReg n := by
  unfold State.crRead
  split
  iterate 12 omega
  rw [if_neg (by simp; omega), if_pos (by simp; omega)]

theorem State.crRead_desc {n j : Nat} (r : DReg) (hj : j < 2) (hn : n = 0xC0 + 2 * r.val + j)
    (hf : ∀ e ∈ s.ctx.fly, e.dests.contains (1040 + r.val) = false) :
    s.crRead t n = .val ((s.ctx.desc r).extractLsb' (64 * j) 64) := by
  have hfree : (s.ctx.fly.any fun e => e.dests.contains (1040 + r.val)) = false := by
    rw [List.any_eq_false]
    exact fun e he => Bool.not_eq_true _ ▸ hf e he
  have hr : (n - 0xC0) / 2 = r.val := by omega
  have hhalf : n % 2 = j := by omega
  unfold State.crRead
  split
  iterate 12 omega
  rw [if_neg (by simp; omega), if_neg (by simp; omega), if_pos (by simp; omega), hr, hhalf]
  exact if_neg (Bool.eq_false_iff.1 hfree)

theorem State.crRead_cp {n : Nat} (h1 : 0x100 ≤ n) (h2 : n < 0x200) (hc : Config.cpCore ≤ s.cur) : s.crRead t n =
    if n = 0x100 then .val (s.cprole s.cur t.part)
    else if 0x110 ≤ n && n < 0x118 then .val (s.kickWord t.part (n - 0x110))
    else if n = 0x120 then .val s.jbase
    else if n = 0x121 then .val (s.jhead.zeroExtend 64)
    else if n = 0x122 then .val (s.jtail.zeroExtend 64)
    else if n = 0x130 then .val (s.part t.part).qtime
    else .illegal := by
  unfold State.crRead
  split
  iterate 12 omega
  rw [if_neg (by simp; omega), if_neg (by simp; omega), if_neg (by simp; omega), if_pos (by simp; omega),
    if_neg (Nat.not_lt.2 hc)]

theorem State.crRead_protect {n : Nat} (h1 : 0x100 ≤ n) (h2 : n < 0x200) (hc : s.cur < Config.cpCore) :
    s.crRead t n = .protect := by
  unfold State.crRead
  split
  iterate 12 omega
  rw [if_neg (by simp; omega), if_neg (by simp; omega), if_neg (by simp; omega), if_pos (by simp; omega), if_pos hc]

theorem State.cprole_eq (s : State) (core part : Nat) : s.cprole core part = BitVec.ofNat 64 ((s.part part).epoch.toNat * 256
    + (if Sparse.get false s.take (core - 384) then 16 else 0)
    + (match s.role core with | .active => 1 | .standby => 2 | .out => 0)) := by
  unfold State.cprole
  change BitVec.ofNat 64 (_ + (Sparse.get false s.take (core - 384)).toNat * 16 + _) = _
  cases Sparse.get false s.take (core - 384) <;> cases s.role core <;> rfl

theorem State.crRead_kick (hk : k < 8) (hc : Config.cpCore ≤ s.cur) {w : Word}
    (hw : ∀ b, b < 64 → w.getLsbD b = (s.queue t.part (64 * k + b)).kick) : s.crRead t (0x110 + k) = .val w := by
  have hread := State.crRead_cp (s := s) (t := t) (n := 0x110 + k) (by omega) (by omega) hc
  rw [hread, if_neg (by omega), if_pos (by simp; omega), Nat.add_sub_cancel_left]
  exact congrArg _ (bitsWhere_eq hw)

/-! ### Trap registers as they read (R345, R348) -/

theorem Context.trapReg_window {c : Context} (hk : k < 8) : c.trapReg (0x90 + k)
    = if c.trapst then .val (c.rqDword c.rqsel.toNat k) else .illegal := by
  unfold Context.trapReg
  extract_lets inTrap
  split
  iterate 13 omega
  rw [if_pos (by simp; omega), Nat.add_sub_cancel_left]

theorem Context.rqDword_eq (c : Context) (j k : Nat) : c.rqDword j k = match c.rq[j]? with
    | none => 0
    | some e => match k with
      | 0 => BitVec.ofNat 64 ((e.words.getD 0 0).toNat * 2 ^ 32 + (e.words.length - 1) * 2 ^ 30 + e.cause.toNat * 2 ^ 18
          + e.pc % 2 ^ 18)
      | 1 => BitVec.ofNat 64 ((e.words.getD 1 0).toNat + (e.words.getD 2 0).toNat * 2 ^ 32)
      | 2 => BitVec.ofNat 64 (e.words.getD 3 0).toNat
      | 3 => e.opa
      | 4 => e.opb
      | 5 => e.opc
      | 6 => e.addr
      | _ => BitVec.ofNat 64 e.wpe := by
  unfold Context.rqDword
  cases c.rq[j]? <;> rfl

end

theorem Context.flagsBusy_of_none {c : Context} (h : ∀ e ∈ c.fly, e.usesFlags = false) : c.flagsBusy = false := by
  rw [Context.flagsBusy, List.any_eq_false]
  exact fun e he => Bool.not_eq_true _ ▸ h e he

/-! ### Writing by ranges of numbers (R146, R219) -/

section
variable {s : State} {t : Task} {v : Word} {n k : Nat}

theorem State.crWrite_fixed_format (hk : k < 16) : s.crWrite t (0x40 + k) v = .illegal := by
  unfold State.crWrite
  extract_lets c put
  split
  iterate 7 omega
  rw [if_neg (by simp; omega), if_neg (by simp; omega), if_neg (by simp; omega), if_neg (by simp; omega)]

theorem State.crWrite_format (h1 : 16 ≤ k) (h2 : k < 64) (hv : v.toNat < 2 ^ 32) (hok : ftValid (v.truncate 32) = true)
    (hf : s.ctx.tileBusy = false) :
    s.crWrite t (0x40 + k) v = .put (s.setCtx { s.ctx with ft := s.ctx.ft.set k (v.truncate 32) }) := by
  unfold State.crWrite
  extract_lets c put
  split
  iterate 7 omega
  rw [if_pos (by simp; omega), Nat.add_sub_cancel_left, Nat.div_eq_of_lt hv, hok]
  exact if_neg (Bool.eq_false_iff.1 hf)

theorem State.crWrite_bad_format (h1 : 16 ≤ k) (h2 : k < 64) (hv : 2 ^ 32 ≤ v.toNat ∨ ftValid (v.truncate 32) = false) :
    s.crWrite t (0x40 + k) v = .illegal := by
  unfold State.crWrite
  extract_lets c put
  split
  iterate 7 omega
  rw [if_pos (by simp; omega), if_pos]
  rw [Bool.or_eq_true, bne_iff_ne, Bool.not_eq_true']
  exact hv.imp (fun hbig => (Nat.div_pos hbig (by decide)).ne') id

theorem State.crWrite_trap_some {d : Context} (h1 : 0x80 ≤ n) (h2 : n < 0xC0) (hd : s.ctx.trapWrite n v = some d) :
    s.crWrite t n v = .put (s.setCtx d) := by
  unfold State.crWrite
  extract_lets c put
  split
  iterate 7 omega
  rw [if_neg (by simp; omega), if_pos (by simp; omega), hd]

theorem State.crWrite_trap_none (h1 : 0x80 ≤ n) (h2 : n < 0xC0) (hd : s.ctx.trapWrite n v = none) :
    s.crWrite t n v = .illegal := by
  unfold State.crWrite
  extract_lets c put
  split
  iterate 7 omega
  rw [if_neg (by simp; omega), if_pos (by simp; omega), hd]

theorem State.crWrite_desc {j : Nat} (r : DReg) (hj : j < 2) (hn : n = 0xC0 + 2 * r.val + j)
    (hf : ∀ e ∈ s.ctx.fly, e.dests.contains (1040 + r.val) = false) :
    s.crWrite t n v = .put (s.setCtx (s.ctx.setDesc r (putHalf (s.ctx.desc r) j v))) := by
  have hfree : (s.ctx.fly.any fun e => e.dests.contains (1040 + r.val)) = false := by
    rw [List.any_eq_false]
    exact fun e he => Bool.not_eq_true _ ▸ hf e he
  have hr : (n - 0xC0) / 2 = r.val := by omega
  have hhalf : n % 2 = j := by omega
  unfold State.crWrite
  extract_lets c put q
  split
  iterate 7 omega
  rw [if_neg (by simp; omega), if_neg (by simp; omega), if_pos (by simp; omega), show q = r.val from hr, hhalf]
  exact if_neg (Bool.eq_false_iff.1 hfree)

theorem State.crWrite_role (hn : n = 0x100) (hc : Config.cpCore ≤ s.cur) :
    s.crWrite t n v = .put (if v.getLsbD 4 then s.takeClear (s.cur - Config.cpCore) else s) := by
  unfold State.crWrite
  extract_lets c put
  split
  iterate 7 omega
  rw [if_neg (by simp; omega), if_neg (by simp; omega), if_neg (by simp; omega), if_pos (by simp; omega),
    if_neg (Nat.not_lt.2 hc), if_pos hn]

section
variable (h1 : 0x110 ≤ n) (h2 : n < 0x200)
  (hn : ((0x110 ≤ n && n < 0x118) || (0x120 ≤ n && n ≤ 0x122) || n = 0x130) = true) (hc : Config.cpCore ≤ s.cur)
include h1 h2 hn hc

theorem State.crWrite_standby (hr : s.role s.cur = .standby) : s.crWrite t n v = .protect := by
  unfold State.crWrite
  extract_lets c put
  split
  iterate 7 omega
  rw [if_neg (by simp; omega), if_neg (by simp; omega), if_neg (by simp; omega), if_pos (by simp; omega),
    if_neg (Nat.not_lt.2 hc), if_neg (by omega), if_pos hn, if_pos (beq_iff_eq.2 hr)]

theorem State.crWrite_serving (hr : s.role s.cur ≠ .standby) : s.crWrite t n v =
    if n = 0x130 then .illegal
    else if n = 0x120 then .put { s with jbase := v }
    else if n = 0x121 then if s.ctx.storing then .stall else .put { s with jhead := v.extractLsb' 0 11 }
    else if n = 0x122 then .put { s with jtail := v.extractLsb' 0 11 }
    else .put (s.kickClear t.part (n - 0x110) v) := by
  unfold State.crWrite
  extract_lets c put
  split
  iterate 7 omega
  rw [if_neg (by simp; omega), if_neg (by simp; omega), if_neg (by simp; omega), if_pos (by simp; omega),
    if_neg (Nat.not_lt.2 hc), if_neg (by omega), if_pos hn, if_neg (mt beq_iff_eq.1 hr)]

end

theorem State.crWrite_kick (hr : s.role s.cur ≠ .standby) (hk : k < 8) (hc : Config.cpCore ≤ s.cur) :
    s.crWrite t (0x110 + k) v = .put (s.kickClear t.part k v) := by
  have hwrite := State.crWrite_serving (s := s) (t := t) (v := v) (n := 0x110 + k) (by omega) (by omega) (by simp; omega) hc hr
  rw [hwrite, if_neg (by omega), if_neg (by omega), if_neg (by omega), if_neg (by omega), Nat.add_sub_cancel_left]

end

/-! ### What holds a write back -/

theorem keyX_lt (wp : Nat) (r : XReg) : ∀ k ∈ keyX wp r, k < 272 := by
  intro k hk
  cases r with
  | w i =>
    rw [List.mem_singleton.1 hk, ringIndex]
    omega
  | g i =>
    rw [keyX] at hk
    split at hk
    · cases hk
    · rw [List.mem_singleton.1 hk]
      omega

theorem Entry.dests_lt {e : Entry} (h : e.isLdt = false) : ∀ k ∈ e.dests, k < 1040 := by
  intro k hk
  have below {d : XReg} (hk : k ∈ keyX e.wpe d) : k < 1040 := (keyX_lt e.wpe d k hk).trans (by decide)
  unfold Entry.dests at hk
  unfold Entry.isLdt at h
  split at hk
  iterate 6 exact below hk
  iterate 3
    rw [List.mem_singleton.1 hk]
    omega
  · unfold keyP at hk
    split at hk
    · cases hk
    · rw [List.mem_singleton.1 hk]
      omega
  · rename_i hop
    rw [hop] at h
    cases h
  iterate 3 cases hk

theorem Entry.dests_contains_desc {e : Entry} (h : e.isLdt = false) (r : DReg) : e.dests.contains (1040 + r.val) = false := by
  rw [← Bool.not_eq_true, List.contains_iff_mem]
  intro hr
  have := Entry.dests_lt h _ hr
  omega

theorem Context.tileBusy_of_none {c : Context} (h : ∀ e ∈ c.fly, e.isLdt = false) : c.tileBusy = false := by
  change c.fly.any Entry.isLdt = false
  rw [List.any_eq_false]
  exact fun e he => Bool.not_eq_true _ ▸ h e he

theorem Context.storing_of_none {c : Context} (h : ∀ e ∈ c.fly, e.isStore = false) : c.storing = false := by
  rw [Context.storing, List.any_eq_false]
  exact fun e he => Bool.not_eq_true _ ▸ h e he

/-! ### Clearing TAKE and KICK bits (R338, R397) -/

/-- The same memory and cores, and the same TAKE bits. -/
def State.SameTake (s u : State) : Prop := u.mem = s.mem ∧ u.cores = s.cores ∧ u.take = s.take

theorem State.takeClear_spec (s : State) (k : Nat) : Sparse.get false (s.takeClear k).take k = false
    ∧ (s.takeClear k).mem = s.mem ∧ (s.takeClear k).cores = s.cores := by
  unfold State.takeClear
  by_cases h : Sparse.get false s.take k = true
  · rw [if_pos h]
    extract_lets s1 ps
    have hfold : s1.SameTake (ps.foldl (fun s p =>
        s.sendPlain (chanKey p ctlChan) p ctlChan mtSyncReq (BitVec.ofNat 96 (s.part p).epoch.toNat) []) s1) :=
      List.foldlRecOn (motive := s1.SameTake) ps _ ⟨rfl, rfl, rfl⟩ fun u hu _ _ => hu
    obtain ⟨hmem, hcores, htake⟩ := hfold
    exact ⟨htake ▸ Sparse.get_set_self false s.take k false, hmem, hcores⟩
  · rw [if_neg h]
    exact ⟨Bool.eq_false_iff.2 h, rfl, rfl⟩

theorem State.takeClear_of_clear {s : State} {k : Nat} (h : Sparse.get false s.take k = false) : s.takeClear k = s :=
  if_neg (Bool.eq_false_iff.1 h)

theorem State.queue_setQueue_ne (s : State) {p q r : Nat} (x : Queue) (h : r ≠ q) :
    (s.setQueue p q x).queue p r = s.queue p r :=
  Sparse.get_set_ne _ _ _ (by omega)

section
variable {part n : Nat} {m : Word}

/-- Clear the KICK bit of one queue of a register if the mask names it. -/
def State.kickClearBit (part n : Nat) (m : Word) (s : State) (b : Nat) : State :=
  if m.getLsbD b then s.setQueue part (64 * n + b) { s.queue part (64 * n + b) with kick := false } else s

theorem State.kick_kickClearBit (s : State) (b q : Nat) : ((s.kickClearBit part n m b).queue part q).kick
    = ((s.queue part q).kick && !(decide (q = 64 * n + b) && m.getLsbD b)) := by
  unfold State.kickClearBit
  by_cases hq : q = 64 * n + b
  · subst hq
    cases m.getLsbD b <;> simp
  · cases m.getLsbD b <;> simp [hq, State.queue_setQueue_ne]

theorem State.kick_foldl_kickClearBit (bs : List Nat) (s : State) (q : Nat) :
    ((bs.foldl (State.kickClearBit part n m) s).queue part q).kick
      = ((s.queue part q).kick && !(bs.any fun b => decide (q = 64 * n + b) && m.getLsbD b)) := by
  induction bs generalizing s with
  | nil => simp
  | cons b bs ih => rw [List.foldl_cons, ih, State.kick_kickClearBit, List.any_cons, Bool.and_assoc, Bool.not_or]

theorem any_range_bit (q : Nat) : ((List.range 64).any fun b => decide (q = 64 * n + b) && m.getLsbD b)
    = (q / 64 == n && m.getLsbD (q % 64)) := by
  rw [Bool.eq_iff_iff, List.any_eq_true]
  simp only [List.mem_range, Bool.and_eq_true, decide_eq_true_eq, beq_iff_eq]
  constructor
  · rintro ⟨b, hb, rfl, hm⟩
    have hmod : (64 * n + b) % 64 = b := by omega
    exact ⟨by omega, hmod.symm ▸ hm⟩
  · rintro ⟨hn, hm⟩
    exact ⟨q % 64, by omega, by omega, hm⟩

theorem State.kickClear_spec (s : State) : (s.kickClear part n m).mem = s.mem ∧ (s.kickClear part n m).cores = s.cores
    ∧ ∀ q, ((s.kickClear part n m).queue part q).kick = ((s.queue part q).kick && !(q / 64 == n && m.getLsbD (q % 64))) := by
  have hsame : (s.kickClear part n m).mem = s.mem ∧ (s.kickClear part n m).cores = s.cores :=
    List.foldlRecOn (motive := fun u : State => u.mem = s.mem ∧ u.cores = s.cores) _ _ ⟨rfl, rfl⟩ fun u hu b _ => by
      split <;> exact hu
  refine ⟨hsame.1, hsame.2, fun q => ?_⟩
  rw [← any_range_bit]
  exact State.kick_foldl_kickClearBit (List.range 64) s q

end

/-! ### Trap registers as they are written (R345, R346) -/

section
variable {c : Context} {v : Word} {n : Nat} {e : Entry}

theorem Context.trapWrite_cause (ht : c.trapst = true) : c.trapWrite 0x80 v = some { c with frame :=
    { c.frame with dslot := v.getLsbD 13, dxfer := if v.extractLsb' 8 2 == 3 then c.frame.dxfer else v.extractLsb' 8 2 } } :=
  if_pos ht

theorem Context.trapWrite_entry {k : Nat} (h1 : 3 ≤ k) (h2 : k < 7) (ht : c.trapst = true)
    (he : c.rq[c.rqsel.toNat]? = some e) :
    c.trapWrite (0x90 + k) v = some { c with rq := c.rq.set c.rqsel.toNat (e.setDword k v) } := by
  unfold Context.trapWrite
  extract_lets inTrap
  split
  iterate 9 omega
  rw [if_pos (by simp; omega), he, Nat.add_sub_cancel_left]
  exact if_pos ht

theorem Context.trapWrite_no_entry (h1 : 0x93 ≤ n) (h2 : n < 0x97) (ht : c.trapst = false) : c.trapWrite n v = none := by
  unfold Context.trapWrite
  extract_lets inTrap
  split
  iterate 9 omega
  rw [if_pos (by simp; omega)]
  split <;> exact if_neg (Bool.eq_false_iff.1 ht)

end

/-! ### Registers by their number -/

section
variable {s s1 : State} {t : Task} {a : XReg} {n : Nat} {v : Word}

theorem writes_crd_number (hn : n < 4096) (h : s.crRead t n = .val v) :
    Writes s t (.crd a (BitVec.ofNat 12 n)) (keysOf [a] s.ctx) a v :=
  writes_crd ((congrArg _ (toNat_crNumber hn)).trans h)

theorem traps_crd_number (hn : n < 4096) (h : s.crRead t n = .illegal) :
    Traps s t (.crd a (BitVec.ofNat 12 n)) (keysOf [a] s.ctx) cIllegal (word0 (.crd a (BitVec.ofNat 12 n))) :=
  traps_crd_illegal ((congrArg _ (toNat_crNumber hn)).trans h)

theorem completes_cwr_number (hn : n < 4096) (h : s.crWrite t n (s.ctx.x a) = .put s1) :
    Completes s t (.cwr a (BitVec.ofNat 12 n)) (keysOf [a] s.ctx) (s.after t (.cwr a (BitVec.ofNat 12 n)) s1) :=
  completes_cwr ((congrArg (s.crWrite t · _) (toNat_crNumber hn)).trans h)

theorem traps_cwr_number (hn : n < 4096) (h : s.crWrite t n (s.ctx.x a) = .illegal) :
    Traps s t (.cwr a (BitVec.ofNat 12 n)) (keysOf [a] s.ctx) cIllegal (word0 (.cwr a (BitVec.ofNat 12 n))) :=
  traps_cwr_illegal ((congrArg (s.crWrite t · _) (toNat_crNumber hn)).trans h)

theorem protects_cwr_number (hn : n < 4096) (h : s.crWrite t n (s.ctx.x a) = .protect) :
    Protects s t (.cwr a (BitVec.ofNat 12 n)) (keysOf [a] s.ctx) :=
  protects_cwr ((congrArg (s.crWrite t · _) (toNat_crNumber hn)).trans h)

end

theorem completes_cwr_entry {s : State} {t : Task} {a : XReg} {e : Entry} (k : Nat) (h1 : 3 ≤ k) (h2 : k < 7)
    (ht : s.ctx.trapst = true) (he : s.ctx.rq[s.ctx.rqsel.toNat]? = some e) :
    Completes s t (.cwr a (BitVec.ofNat 12 (0x90 + k))) (keysOf [a] s.ctx) (s.after t (.cwr a (BitVec.ofNat 12 (0x90 + k)))
      (s.setCtx { s.ctx with rq := s.ctx.rq.set s.ctx.rqsel.toNat (e.setDword k (s.ctx.x a)) })) :=
  completes_cwr_number (by omega) (State.crWrite_trap_some (by omega) (by omega) (Context.trapWrite_entry h1 h2 ht he))

/-- Settles O30: each register by the rule of its range of numbers. -/
theorem controlRegisters : Obligations.ControlRegisters := by
  refine ⟨?reads, ?writes⟩
  case' reads =>
    intro s t a c gives traps
    refine ⟨?coreid, ?ctxid, ?wp, ?rkbase, ?rklimit, ?lo, fun hf => ⟨?vstat, ?vstatHigh⟩, ?rev, ?gkey, ?gctr, ?gctrHigh,
      fun k hk => ?format, ?tcause, ?tpc, ?ttgt, ?tinfo, ?twp, ?tvec, ?tsave0, ?tsave1, ?wdcnt, ?wdlim,
      fun ht => ⟨?rqsel, ?trsel, ?trwin⟩, fun ht k hk => ?entry, fun ht => ⟨?noRqsel, ?noTrwin, fun k hk => ?noEntry⟩,
      fun hc => ⟨?cprole, fun k w hk hw => ?kick, ?jbase, ?jhead, ?jtail, ?qtime, ?cp101, ?cp118, ?cp123, ?cp1FF⟩,
      fun k hf => ⟨?desc, ?descHigh⟩, ?cr002, ?cr0FF, ?crFFF, ?protect⟩
  case format => exact writes_crd_number (by omega) (State.crRead_format hk)
  case vstat | vstatHigh => exact writes_crd (if_neg (Bool.eq_false_iff.1 (Context.flagsBusy_of_none hf)))
  case rqsel | trsel | trwin => exact writes_crd (if_pos ht)
  case entry =>
    have hread : s.crRead t (0x90 + k) = .val (c.rqDword c.rqsel.toNat k) :=
      (State.crRead_trap (by omega) (by omega)).trans ((Context.trapReg_window hk).trans (if_pos ht))
    exact writes_crd_number (by omega) (hread.trans (congrArg _ (c.rqDword_eq c.rqsel.toNat k)))
  case noRqsel | noTrwin => exact traps_crd_illegal (if_neg (Bool.eq_false_iff.1 ht))
  case noEntry =>
    refine traps_crd_number (by omega) ?_
    rw [State.crRead_trap (by omega) (by omega), Context.trapReg_window hk, if_neg (Bool.eq_false_iff.1 ht)]
  case cprole => exact writes_crd ((State.crRead_cp (by decide) (by decide) hc).trans (congrArg _ (s.cprole_eq s.cur t.part)))
  case kick => exact writes_crd_number (by omega) (State.crRead_kick hk hc hw)
  case jbase | jhead | jtail | qtime => exact writes_crd (State.crRead_cp (by decide) (by decide) hc)
  case cp101 | cp118 | cp123 | cp1FF => exact traps_crd_illegal (State.crRead_cp (by decide) (by decide) hc)
  case desc => exact writes_crd_number (by omega) (State.crRead_desc (j := 0) k (by decide) rfl hf)
  case descHigh => exact writes_crd_number (by omega) (State.crRead_desc (j := 1) k (by decide) (by omega) hf)
  case cr002 | cr0FF | crFFF => exact traps_crd_illegal rfl
  case protect => exact fun hc => protects_crd (State.crRead_protect (by decide) (by decide) hc)
  case' writes =>
    intro s t a c v puts traps free
    refine ⟨fun hw => ?putRkbase, fun hw => ?noRkbase, ?putRklimit, fun hf => ⟨?putVstat, ?putVstatHigh⟩, ?putGkey, ?putGctr,
      ?putGctrHigh, fun k h16 h64 => ⟨fun hf hv hok => ?putFormat, fun hv => ?badFormat⟩, fun k hk => ?fixedFormat,
      ?putTvec, ?putTsave0, ?putTsave1, fun ht => ⟨?putTpc, ?putTtgt, ?putRqsel, ?putTrsel, ?putTrwin, fun hx => ?putCause,
      fun hx => ?putCauseKept⟩, fun ht e he => ⟨?putOpa, ?putOpb, ?putOpc, ?putAddr⟩, ?cr090, ?cr091, ?cr092, ?cr097,
      fun ht => ⟨?noCause, ?noTpc, ?noTrwinW, ?noOpa⟩, fun hc => ⟨fun hk => ?keepTake, fun hv => ?clearTake,
      fun hr => ⟨?putJbase, ?putJtail, fun hf => ?putJhead, fun hf => ?waitJhead, fun k hk => ?putKick, ?noQtime⟩,
      fun hr => ⟨?standbyJbase, ?standbyJhead, ?standbyJtail, fun k hk => ?standbyKick⟩⟩,
      fun hf k => ⟨?putDesc, ?putDescHigh⟩, ?cr000, ?cr010, ?cr013, ?cr028, ?cr0A9, ?crFFFW⟩
  case putRkbase => exact completes_cwr (if_neg (by simpa using hw))
  case noRkbase => exact traps_cwr_illegal (if_pos (by simpa using hw))
  case putVstat | putVstatHigh =>
    exact completes_cwr (if_neg (Bool.eq_false_iff.1 (Context.flagsBusy_of_none fun e he => (hf e he).1)))
  case putFormat =>
    exact completes_cwr_number (by omega)
      (State.crWrite_format h16 h64 hv hok (Context.tileBusy_of_none fun e he => (hf e he).2))
  case badFormat => exact traps_cwr_number (by omega) (State.crWrite_bad_format h16 h64 hv)
  case fixedFormat => exact traps_cwr_number (by omega) (State.crWrite_fixed_format hk)
  case putTvec | putTsave0 | putTsave1 => exact completes_cwr (State.crWrite_trap_some (by decide) (by decide) rfl)
  case putTpc | putTtgt | putRqsel | putTrsel | putTrwin =>
    exact completes_cwr (State.crWrite_trap_some (by decide) (by decide) (if_pos ht))
  case putCause =>
    have hd := Context.trapWrite_cause (v := v) ht
    rw [if_neg (by simpa using hx)] at hd
    exact completes_cwr (State.crWrite_trap_some (by decide) (by decide) hd)
  case putCauseKept =>
    have hd := Context.trapWrite_cause (v := v) ht
    rw [if_pos (by simpa using hx)] at hd
    exact completes_cwr (State.crWrite_trap_some (by decide) (by decide) hd)
  case putOpa => exact completes_cwr_entry 3 (by decide) (by decide) ht he
  case putOpb => exact completes_cwr_entry 4 (by decide) (by decide) ht he
  case putOpc => exact completes_cwr_entry 5 (by decide) (by decide) ht he
  case putAddr => exact completes_cwr_entry 6 (by decide) (by decide) ht he
  case cr090 | cr091 | cr092 | cr097 | cr0A9 => exact traps_cwr_illegal (State.crWrite_trap_none (by decide) (by decide) rfl)
  case noCause | noTpc | noTrwinW =>
    exact traps_cwr_illegal (State.crWrite_trap_none (by decide) (by decide) (if_neg (Bool.eq_false_iff.1 ht)))
  case noOpa =>
    exact traps_cwr_illegal (State.crWrite_trap_none (by decide) (by decide)
      (Context.trapWrite_no_entry (by decide) (by decide) ht))
  case keepTake =>
    refine completes_cwr ((State.crWrite_role rfl hc).trans (congrArg _ ?_))
    rcases hk with hv | hk
    · exact if_neg (Bool.eq_false_iff.1 hv)
    · exact (ite_eq_right_iff.2 fun _ => State.takeClear_of_clear hk)
  case clearTake =>
    exact ⟨_, completes_cwr ((State.crWrite_role rfl hc).trans (congrArg _ (if_pos hv))), s.takeClear_spec _⟩
  case putJbase | putJtail => exact completes_cwr (State.crWrite_serving (by decide) (by decide) rfl hc hr)
  case putJhead =>
    exact completes_cwr ((State.crWrite_serving (by decide) (by decide) rfl hc hr).trans
      (if_neg (Bool.eq_false_iff.1 (Context.storing_of_none hf))))
  case waitJhead =>
    exact waits_cwr ((State.crWrite_serving (by decide) (by decide) rfl hc hr).trans (if_pos (List.any_eq_true.2 hf)))
  case putKick =>
    obtain ⟨hmem, hcores, hkick⟩ := s.kickClear_spec (part := t.part) (n := k) (m := v)
    exact ⟨_, completes_cwr_number (by omega) (State.crWrite_kick hr hk hc), hmem, hcores, fun q _ => hkick q⟩
  case noQtime => exact traps_cwr_illegal (State.crWrite_serving (by decide) (by decide) rfl hc hr)
  case standbyJbase | standbyJhead | standbyJtail =>
    exact protects_cwr (State.crWrite_standby (by decide) (by decide) rfl hc hr)
  case standbyKick =>
    exact protects_cwr_number (by omega) (State.crWrite_standby (by omega) (by omega) (by simp; omega) hc hr)
  case putDesc =>
    exact completes_cwr_number (by omega) (State.crWrite_desc (j := 0) k (by decide) rfl fun e he =>
      Entry.dests_contains_desc (hf e he) k)
  case putDescHigh =>
    exact completes_cwr_number (by omega) (State.crWrite_desc (j := 1) k (by decide) (by omega) fun e he =>
      Entry.dests_contains_desc (hf e he) k)
  case cr000 | cr010 | cr013 | cr028 | crFFFW => exact traps_cwr_illegal rfl
  case putRklimit | putGkey | putGctr | putGctrHigh => exact completes_cwr rfl
  all_goals exact writes_crd rfl

end Sys2Proof.Machine
end

section
/-!
SUPPORT. Tile and rule operations of a column: what they leave of the device, the drain of one element, the steps of a
QTSTEP, and what each operation checks (O41).
-/

namespace Sys2Proof.Machine

/-! ### Words leave the device as it was -/

/-- What a word's outcome carries stands on the device s. -/
def FabRes.On (r : FabRes) (s : State) : Prop := ∀ g, r = .ok g → g.s = s

section
variable {s : State}

theorem FabRes.on_error (e : Nat × Word) : FabRes.On (.error e) s := fun _ h => by cases h

theorem FabRes.on_ok {f : Fab} (h : f.s = s) : FabRes.On (.ok f) s := fun _ hg => Except.ok.inj hg ▸ h

theorem FabRes.On.ite {c : Prop} {_ : Decidable c} {a b : FabRes} (ha : a.On s) (hb : b.On s) :
    FabRes.On (if c then a else b) s := by
  split <;> assumption

end

@[simp] theorem Fab.giveStage_s (f : Fab) (stage reg : Nat) (v : Half) (tag : Tag) : (f.giveStage stage reg v tag).s = f.s := rfl

@[simp] theorem Fab.countDrained_s (f : Fab) (n : Nat) : (f.countDrained n).s = f.s := rfl

@[simp] theorem Fab.sendAt_s (f : Fab) (cyc p v : Nat) (tag : Tag) (pk : Bool) : (f.sendAt cyc p v tag pk).s = f.s := rfl

theorem Fab.foldl_pop_s (f : Fab) (xs : List Nat) (p n : Nat → Nat) :
    (xs.foldl (fun g k => g.pop (p k) (n k)) f).s = f.s :=
  List.foldlRecOn (motive := fun g : Fab => g.s = f.s) _ _ rfl fun g hg k _ => (g.pop_s (p k) (n k)).trans hg

theorem Fab.latch_on (f : Fab) : f.latch.On f.s := by
  unfold Fab.latch
  extract_lets x
  split
  · exact FabRes.on_error _
  · have hpop := f.foldl_pop_s (List.range 4) (4 + ·) fun s => x.offs.getD s 0
    split
    · exact FabRes.on_ok hpop
    · exact FabRes.on_ok hpop

theorem Fab.latched_on (f : Fab) : f.latched.On f.s := by
  unfold Fab.latched
  split
  · exact FabRes.on_error _
  · exact FabRes.on_ok rfl

theorem Fab.stepStart_on (f : Fab) (j : Job) : (f.stepStart j).On f.s := by
  unfold Fab.stepStart
  extract_lets l
  have hlatch : FabRes.On (if j.lb then f.latch else f.latched) f.s := .ite f.latch_on f.latched_on
  split
  · exact FabRes.on_error _
  · rename_i g hg
    exact FabRes.on_ok (hlatch g hg)

theorem Fab.stepTake_on (f : Fab) (j : Job) : (f.stepTake j).On f.s := by
  unfold Fab.stepTake
  extract_lets l r c got first need ports rs toks miss rate bad
  split
  · exact FabRes.on_error _
  · exact FabRes.on_ok (f.foldl_pop_s ports (j.port + ·) fun _ => 1)

theorem Fab.addRepeat_s (f : Fab) (j : Job) (r : Nat) : (f.addRepeat j r).s = f.s := by
  unfold Fab.addRepeat
  extract_lets l toks
  split <;> rfl

@[simp] theorem Fab.addDue_s (f : Fab) : f.addDue.s = f.s := by
  unfold Fab.addDue
  split
  · rfl
  · refine List.foldlRecOn (motive := fun g : Fab => g.s = f.s) _ _ rfl fun g hg r _ => ?_
    split
    · exact (g.addRepeat_s _ r).trans hg
    · exact hg

theorem Fab.headerWord_on (f : Fab) (p : Parse) (w : Half) : (f.headerWord p w).On f.s := by
  unfold Fab.headerWord
  refine .ite (FabRes.on_error _) ?_
  split
  · exact FabRes.on_error _
  · exact .ite (FabRes.on_ok rfl) (FabRes.on_ok rfl)

theorem Fab.recordWord_on (f : Fab) (p : Parse) (w : Half) : (f.recordWord p w).On f.s := by
  unfold Fab.recordWord
  extract_lets n rules start
  have hstart (q : Parse) : (start q).On f.s := FabRes.on_ok (by split <;> rfl)
  refine .ite ?_ (.ite (FabRes.on_error _) (.ite (.ite (FabRes.on_error _) (hstart _)) (hstart _)))
  exact .ite (FabRes.on_error _) (.ite (FabRes.on_error _) (hstart _))

theorem Fab.symbolWord_on (f : Fab) (p : Parse) (pos : Nat) (w : Half) : (f.symbolWord p pos w).On f.s := by
  unfold Fab.symbolWord
  extract_lets n add k rules early
  have hadd (t : Int) (o : Bool) : (add t o).On f.s := FabRes.on_ok (by split <;> rfl)
  refine .ite (.ite (FabRes.on_error _) (.ite (FabRes.on_error _) (hadd _ _))) (.ite (hadd _ _) ?_)
  split
  · exact FabRes.on_error _
  · split
    · exact FabRes.on_error _
    · exact hadd _ _

theorem Fab.parseWord_on (f : Fab) (w : Half) : (f.parseWord w).On f.s := by
  unfold Fab.parseWord
  extract_lets p q
  exact .ite (f.headerWord_on p w) (.ite (f.symbolWord_on q p.pos w) (.ite (f.recordWord_on q w)
    (.ite (FabRes.on_error _) (FabRes.on_ok rfl))))

/-! ### Scales and drains (R269, R270) -/

section
variable {s : State} {f : Fab} {h : QHead}

theorem runs_qscale_lane {s1 : QSrc} {x : Opnd} (hf : s.fabOf (.qscale h (.lane s1)) = some f)
    (ho : f.opnds .absorb zeroId (fun _ t => t == 13) [(s1, 0)] = .ok [x]) :
    Runs s (.qscale h (.lane s1)) ((f.consume (.qscale h (.lane s1))).giveStage 4 0 x.val 13) := by
  have he : exec (.qscale h (.lane s1)) s = execQscale h (.lane s1) s := rfl
  unfold execQscale at he
  exact runs_of_ok hf he (by simp only [ho]; rfl) (by simp)

theorem runs_qscale_tensor {p : BitVec 3} (hf : s.fabOf (.qscale h (.tensor p)) = some f) :
    Runs s (.qscale h (.tensor p)) ((f.giveStage 5 0 (f.tensorScale p.toNat) 5).giveStage 5 1 (f.tensorScale 4) 5) := by
  have he : exec (.qscale h (.tensor p)) s = execQscale h (.tensor p) s := rfl
  unfold execQscale at he
  exact runs_of_ok hf he rfl rfl

section
variable {p : Fin 8} {n0 : BitVec 4} {g : BitVec 5} {ov : Ovf} {rm : Rm} {pk : Bool}

theorem fails_qdrain_no_stream (hf : s.fabOf (.qdrain h p n0 g ov rm pk) = some f) (ht : f.outTag p.val = none) :
    Fails s (.qdrain h p n0 g ov rm pk) f (cTiming, 0) := by
  have he : exec (.qdrain h p n0 g ov rm pk) s = execQdrain h p n0 g ov rm pk s := rfl
  unfold execQdrain at he
  exact fails_of_error hf he (by simp only [ht])

/-- The drain of the accumulator that a QDRAIN to FT5 names. -/
def Fab.drained (f : Fab) (n0 : BitVec 4) (g : BitVec 5) (ov : Ovf) (rm : Rm) : Conv :=
  tunDrain (f.tun (16 * g.toNat + n0.toNat)) Fmt.fp32 rm ov (f.draw f.drainCount) (f.drainScale 0) (f.drainScale 1)

theorem fmtOf_binary32 (fts : Sparse Half) : fmtOf fts 5 = some .fp32 := rfl

theorem containerOf_binary32 (fts : Sparse Half) : containerOf fts 5 = 32 := rfl

section
variable (ht : f.outTag p.val = some 5) (hw : f.slots p.val = 2)
include ht hw

/-- A drain to FT5 over two slots drains one element. -/
theorem qdrain_binary32 (s : State) (h : QHead) (n0 : BitVec 4) (g : BitVec 5) (ov : Ovf) (rm : Rm) (pk : Bool) :
    ∃ body, exec (.qdrain h p n0 g ov rm pk) s = colOp (.qdrain h p n0 g ov rm pk) body s
    ∧ body f = if ov == .trap && (f.drained n0 g ov rm).ovf then .error (cConvert, 1 <<< f.w.lane)
      else .ok ((f.countDrained 1).sendAt (f.b.cyc + 1) p.val ((f.drained n0 g ov rm).bits % 2 ^ 32) 5 pk) := by
  have he : exec (.qdrain h p n0 g ov rm pk) s = execQdrain h p n0 g ov rm pk s := rfl
  unfold execQdrain at he
  refine ⟨_, he, ?_⟩
  have hone : min (min 16 (16 * 2 / 32)) (16 - n0.toNat) = 1 := by omega
  simp only [ht, hw, fmtOf_binary32, containerOf_binary32, hone]
  simp [Fab.drained]

end

theorem runs_qdrain_binary32 (hf : s.fabOf (.qdrain h p n0 g ov rm pk) = some f) (ht : f.outTag p.val = some 5)
    (hw : f.slots p.val = 2) (hov : (f.drained n0 g ov rm).ovf = false ∨ ov ≠ .trap) :
    Runs s (.qdrain h p n0 g ov rm pk)
      ((f.countDrained 1).sendAt (f.b.cyc + 1) p.val ((f.drained n0 g ov rm).bits % 2 ^ 32) 5 pk) := by
  obtain ⟨body, he, hb⟩ := qdrain_binary32 ht hw s h n0 g _ rm pk
  refine runs_of_ok hf he (hb.trans (if_neg ?_)) rfl
  rcases hov with hy | hy <;> simp [hy]

theorem fails_qdrain_overflow (hf : s.fabOf (.qdrain h p n0 g .trap rm pk) = some f) (ht : f.outTag p.val = some 5)
    (hw : f.slots p.val = 2) (hy : (f.drained n0 g .trap rm).ovf = true) :
    Fails s (.qdrain h p n0 g .trap rm pk) f (cConvert, 1 <<< f.w.lane) := by
  obtain ⟨body, he, hb⟩ := qdrain_binary32 ht hw s h n0 g _ rm pk
  exact fails_of_error hf he (hb.trans (if_pos (by rw [hy]; rfl)))

end

end

/-! ### QTSTEP (R267, R268) -/

theorem Block.job_append_self {b : Block} {j : Job} (h : b.job j.word = none) :
    ({ b with jobs := b.jobs ++ [j] } : Block).job j.word = some j := by
  unfold Block.job at h ⊢
  rw [List.find?_append, h]
  simp

theorem worstTrap_pair (x y : Nat × Word) : worstTrap [x, y] = some (if causeRank y.1 < causeRank x.1 then y else x) := by
  unfold worstTrap
  simp only [worstTrap]
  split <;> rfl

section
variable {s : State} {f f1 : Fab} {h : QHead} {p : Fin 4} {rep : BitVec 4} {gb : BitVec 5} {na : BitVec 2} {lb za : Bool}

/-- The job of a QTSTEP that begins. -/
def Fab.newJob (f : Fab) (p : Fin 4) (rep : BitVec 4) (gb : BitVec 5) (na : BitVec 2) (lb za : Bool) : Job :=
  ⟨f.w, p.val, rep.toNat + 1, gb.toNat, na.toNat + 1, lb, za, f.interval, [], [], []⟩

/-- The block with a QTSTEP that has begun. -/
def Fab.withJob (f : Fab) (j : Job) : Fab := { f with b := { f.b with jobs := f.b.jobs ++ [j] } }

/-- The first cycle of a QTSTEP in a lane: its job begins and takes the tokens of its first repeat. -/
theorem qtstep_first (s : State) (f : Fab) (h : QHead) (p : Fin 4) (rep : BitVec 4) (gb : BitVec 5) (na : BitVec 2)
    (lb za : Bool) (hn : f.b.job f.w = none) (hr : f.w.rel = 0) :
    ∃ body, exec (.qtstep h p rep gb na lb za) s = colOp (.qtstep h p rep gb na lb za) body s
      ∧ body f = match (f.withJob (f.newJob p rep gb na lb za)).stepStart (f.newJob p rep gb na lb za) with
        | .error e =>
          .error ((worstTrap (e :: (match (f.withJob (f.newJob p rep gb na lb za)).stepTake (f.newJob p rep gb na lb za) with
            | .error x => [x]
            | .ok _ => []))).getD e)
        | .ok f2 =>
          match (match f2.b.job f2.w with
            | some j => if 0 < j.rep * j.interval then f2.stepTake j else .ok f2
            | none => .ok f2) with
          | .error e => .error e
          | .ok f3 => .ok f3.addDue := by
  have he : exec (.qtstep h p rep gb na lb za) s = execQtstep h p rep gb na lb za s := rfl
  unfold execQtstep at he
  refine ⟨_, he, ?_⟩
  have hj : (f.withJob (f.newJob p rep gb na lb za)).b.job f.w = some (f.newJob p rep gb na lb za) :=
    Block.job_append_self (j := f.newJob p rep gb na lb za) hn
  unfold Fab.withJob Fab.newJob at hj
  simp only [hn, hr, if_true, hj] <;> rfl

section
variable (hf : s.fabOf (.qtstep h p rep gb na lb za) = some f) (hn : f.b.job f.w = none) (hr : f.w.rel = 0)
include hf hn hr

theorem fails_qtstep_start {e : Nat × Word} {g : Fab}
    (hs : (f.withJob (f.newJob p rep gb na lb za)).stepStart (f.newJob p rep gb na lb za) = .error e)
    (ht : (f.withJob (f.newJob p rep gb na lb za)).stepTake (f.newJob p rep gb na lb za) = .ok g) :
    Fails s (.qtstep h p rep gb na lb za) f e := by
  obtain ⟨body, he, hb⟩ := qtstep_first s f h p rep gb na lb za hn hr
  simp only [hs, ht] at hb
  exact fails_of_error hf he hb

theorem fails_qtstep_both {e e2 : Nat × Word}
    (hs : (f.withJob (f.newJob p rep gb na lb za)).stepStart (f.newJob p rep gb na lb za) = .error e)
    (ht : (f.withJob (f.newJob p rep gb na lb za)).stepTake (f.newJob p rep gb na lb za) = .error e2) :
    Fails s (.qtstep h p rep gb na lb za) f (if causeRank e2.1 < causeRank e.1 then e2 else e) := by
  obtain ⟨body, he, hb⟩ := qtstep_first s f h p rep gb na lb za hn hr
  simp only [hs, ht, worstTrap_pair] at hb
  exact fails_of_error hf he hb

section
variable {f2 : Fab} {j2 : Job} (hs : (f.withJob (f.newJob p rep gb na lb za)).stepStart (f.newJob p rep gb na lb za) = .ok f2)
  (hj : f2.b.job f2.w = some j2) (hpos : 0 < j2.rep * j2.interval)
include hs hj hpos

theorem fails_qtstep_take {e : Nat × Word} (ht : f2.stepTake j2 = .error e) : Fails s (.qtstep h p rep gb na lb za) f e := by
  obtain ⟨body, he, hb⟩ := qtstep_first s f h p rep gb na lb za hn hr
  simp only [hs, hj, if_pos hpos, ht] at hb
  exact fails_of_error hf he hb

theorem runs_qtstep {f3 : Fab} (ht : f2.stepTake j2 = .ok f3) : Runs s (.qtstep h p rep gb na lb za) f3.addDue := by
  obtain ⟨body, he, hb⟩ := qtstep_first s f h p rep gb na lb za hn hr
  simp only [hs, hj, if_pos hpos, ht] at hb
  have hstart : f2.s = (f.withJob (f.newJob p rep gb na lb za)).s := Fab.stepStart_on _ _ f2 hs
  have htake : f3.s = f2.s := f2.stepTake_on j2 f3 ht
  exact runs_of_ok hf he hb (f3.addDue_s.trans (htake.trans hstart))

end
end
end

/-! ### QRSYM (R284, R288) -/

section
variable {s : State} {f : Fab} {h : QHead} {tok : Token}

/-- The word of a symbol group that the word's column takes. -/
def Fab.symbolOf (f : Fab) (tok : Token) : Half := if tok.empty then 0 else BitVec.ofNat 32 (tok.val.toNat / 2 ^ (32 * f.w.col))

section
variable (hf : s.fabOf (.qrsym h) = some f) (hp : f.peek 0 f.w.lane 0 = .ok tok)
include hf hp

theorem fails_qrsym_no_symbol (hr : tok.rsym = false) : Fails s (.qrsym h) f (cProtection, 0) := by
  have he : exec (.qrsym h) s = execQrsym h s := rfl
  unfold execQrsym at he
  exact fails_of_error hf he (by simp only [hp, hr]; rfl)

theorem fails_qrsym_word {e : Nat × Word} (hr : tok.rsym = true) (hw : f.parseWord (f.symbolOf tok) = .error e) :
    Fails s (.qrsym h) f e := by
  have he : exec (.qrsym h) s = execQrsym h s := rfl
  unfold execQrsym at he
  unfold Fab.symbolOf at hw
  exact fails_of_error hf he (by simp only [hp, hr, Bool.not_true, Bool.false_eq_true, if_false, hw])

theorem runs_qrsym {g : Fab} (hr : tok.rsym = true) (hw : f.parseWord (f.symbolOf tok) = .ok g) :
    Runs s (.qrsym h) (if f.w.col = 3 then g.pop 0 1 else g) := by
  have he : exec (.qrsym h) s = execQrsym h s := rfl
  unfold execQrsym at he
  have hs := f.parseWord_on (f.symbolOf tok) g hw
  unfold Fab.symbolOf at hw
  refine runs_of_ok hf he (by simp only [hp, hr, Bool.not_true, Bool.false_eq_true, if_false, hw]) ?_
  split
  · exact (g.pop_s 0 1).trans hs
  · exact hs

end
end

/-- A matrix without a row breaks its grammar at its first word. -/
theorem Fab.parseWord_no_row {f : Fab} {w : Half} (hp : Sparse.find f.b.parse f.laneKey = none) (hw : w.toNat % 2 ^ 16 = 0) :
    f.parseWord w = .error (cRuleOrder, 0) := by
  have hstart : Sparse.get Parse.start f.b.parse f.laneKey = Parse.start := by rw [Sparse.get_eq_find, hp]; rfl
  have hbad : hdrBad 0 w = true := by
    unfold hdrBad
    simp only [hw, beq_self_eq_true, Bool.or_true]
  unfold Fab.parseWord
  rw [hstart]
  exact (if_pos (by decide)).trans (if_pos hbad)

/-! ### QRLOAD and QRDRAIN (R286, R287) -/

theorem Fab.pop_w (f : Fab) (p n : Nat) : (f.pop p n).w = f.w := by
  unfold Fab.pop
  split
  · rfl
  · dsimp only
    split <;> rfl

theorem Fab.pop_cyc (f : Fab) (p n : Nat) : (f.pop p n).b.cyc = f.b.cyc := by
  unfold Fab.pop
  split
  · rfl
  · dsimp only
    split <;> rfl

theorem Fab.loadEntry_pop (f : Fab) (p n k : Nat) (v : Word) : (f.pop p n).loadEntry k v =
    (let g := f.pop p n
     { g with b := { g.b with
        pend := g.b.pend ++ [.rule f.b.cyc f.w.tile f.w.lane k v, .final f.b.cyc f.w.tile f.w.lane k false],
        finG := Sparse.erase g.b.finG (f.markKey k) } }) := by
  unfold Fab.loadEntry Fab.putEntry Fab.markKey
  simp only [f.pop_w p n, f.pop_cyc p n]

section
variable {s : State} {f : Fab} {h : QHead} {p : Fin 8} {e0 : BitVec 10} {tok : Token} {e : StreamEnt}

section
variable (hf : s.fabOf (.qrload h p e0) = some f) (hp : f.peek p.val f.w.lane 0 = .ok tok)
  (he : f.b.prog.feeder f.w.tile p.val = some e)
include hf hp he

theorem fails_qrload_tag (ht : tok.tag ≠ 14 ∨ e.slots ≠ 4) : Fails s (.qrload h p e0) f (cFormatTag, tok.tag.zeroExtend 64) := by
  have hx : exec (.qrload h p e0) s = execQrload h p e0 s := rfl
  unfold execQrload at hx
  have hbad : (!(e.slots == 4) || tok.tag != 14) = true := by
    rw [Bool.or_eq_true, Bool.not_eq_true', beq_eq_false_iff_ne, bne_iff_ne]
    exact ht.symm
  exact fails_of_error hf hx (by simp only [hp, he, hbad]; rfl)

section
variable (ht : tok.tag = 14) (hs : e.slots = 4)
include ht hs

theorem fails_qrload_protection (hk : tok.rsym = true ∨ 1024 ≤ e0.toNat + f.w.init) :
    Fails s (.qrload h p e0) f (cProtection, 0) := by
  have hx : exec (.qrload h p e0) s = execQrload h p e0 s := rfl
  unfold execQrload at hx
  have hbad : (tok.rsym || decide (1024 ≤ e0.toNat + f.w.init)) = true := by simpa using hk
  exact fails_of_error hf hx (by simp only [hp, he, ht, hs, hbad]; rfl)

theorem runs_qrload (hr : tok.rsym = false) (hk : e0.toNat + f.w.init < 1024) :
    Runs s (.qrload h p e0)
      ((f.pop p.val 1).loadEntry (e0.toNat + f.w.init) (if tok.empty then 0 else tok.val.truncate 64)) := by
  have hx : exec (.qrload h p e0) s = execQrload h p e0 s := rfl
  unfold execQrload at hx
  have hgo : (tok.rsym || decide (1024 ≤ e0.toNat + f.w.init)) = false := by simpa [hr] using hk
  exact runs_of_ok hf hx (by simp only [hp, he, ht, hs, hgo]; rfl) (f.pop_s p.val 1)

end
end
end

section
variable {s : State} {f : Fab} {h : QHead} {p : Fin 8} {e0 : BitVec 10} {ov : Ovf} {rm : Rm}

theorem fails_qrdrain_no_stream (hf : s.fabOf (.qrdrain h p e0 ov rm) = some f) (ht : f.outTag p.val = none) :
    Fails s (.qrdrain h p e0 ov rm) f (cTiming, 0) := by
  have he : exec (.qrdrain h p e0 ov rm) s = execQrdrain h p e0 ov rm s := rfl
  unfold execQrdrain at he
  exact fails_of_error hf he (by simp only [ht])

theorem fmtOf_tun64 (fts : Sparse Half) : fmtOf fts 14 = none := rfl

/-- What keeps QRDRAIN from entry k: its number, or its marks. -/
def Fab.entryFault (f : Fab) (k : Nat) : List (Nat × Word) :=
  if 1024 ≤ k then [(cProtection, (0 : Word))]
  else if !(f.mark k).1 then [(cRuleOrder, 0)] else if (f.mark k).2 then [(cRuleOverflow, 0)] else []

section
variable (hf : s.fabOf (.qrdrain h p e0 ov rm) = some f) (ht : f.outTag p.val = some 14) (hw : f.slots p.val = 4)
include hf ht hw

theorem fails_qrdrain {e : Nat × Word} (he : f.entryFault (e0.toNat + f.w.init) = [e]) :
    Fails s (.qrdrain h p e0 ov rm) f e := by
  have hx : exec (.qrdrain h p e0 ov rm) s = execQrdrain h p e0 ov rm s := rfl
  unfold execQrdrain at hx
  unfold Fab.entryFault at he
  refine fails_of_error hf hx ?_
  simp only [ht, hw, he]
  rfl

theorem runs_qrdrain (he : f.entryFault (e0.toNat + f.w.init) = []) : Runs s (.qrdrain h p e0 ov rm)
    ((f.countDrained 1).sendAt (f.b.cyc + 1) p.val (f.entry (e0.toNat + f.w.init)).toNat 14 false) := by
  have hx : exec (.qrdrain h p e0 ov rm) s = execQrdrain h p e0 ov rm s := rfl
  unfold execQrdrain at hx
  unfold Fab.entryFault at he
  refine runs_of_ok hf hx ?_ rfl
  simp only [ht, hw, he, fmtOf_tun64]
  rfl

end

theorem Fab.entryFault_number {k : Nat} (hk : 1024 ≤ k) : f.entryFault k = [(cProtection, 0)] := if_pos hk

theorem Fab.entryFault_order {k : Nat} (hk : k < 1024) (hm : (f.mark k).1 = false) : f.entryFault k = [(cRuleOrder, 0)] := by
  rw [Fab.entryFault, if_neg (Nat.not_le.2 hk), hm]
  rfl

theorem Fab.entryFault_overflow {k : Nat} (hk : k < 1024) (hm : (f.mark k).1 = true) (ho : (f.mark k).2 = true) :
    f.entryFault k = [(cRuleOverflow, 0)] := by
  rw [Fab.entryFault, if_neg (Nat.not_le.2 hk), hm, ho]
  rfl

theorem Fab.entryFault_final {k : Nat} (hk : k < 1024) (hm : f.mark k = (true, false)) : f.entryFault k = [] := by
  rw [Fab.entryFault, if_neg (Nat.not_le.2 hk), hm]
  rfl

end

/-- Settles O41: each operation by the rule of its word. -/
theorem columnTileOperations : Obligations.ColumnTileOperations := by
  intro s i f hf
  refine ⟨?scaleLane, ?scaleTensor, ?drain, ?step, ?sym, ?load, ?ruleDrain⟩
  case scaleLane => rintro h s1 x rfl ho; exact runs_qscale_lane hf ho
  case scaleTensor => rintro h p rfl; exact runs_qscale_tensor hf
  case drain =>
    rintro h p n0 g ov rm pk rfl
    refine ⟨fails_qdrain_no_stream hf, fun ht hw => ⟨runs_qdrain_binary32 hf ht hw, ?_⟩⟩
    rintro hy rfl
    exact fails_qdrain_overflow hf ht hw hy
  case step =>
    rintro h p rep gb na lb za f2 f3 j2 rfl hn hr
    exact ⟨fun e hs => ⟨fun g => fails_qtstep_start hf hn hr hs, fun e2 => fails_qtstep_both hf hn hr hs⟩,
      fun hs hj hpos => ⟨fun e => fails_qtstep_take hf hn hr hs hj hpos, runs_qtstep hf hn hr hs hj hpos⟩⟩
  case sym =>
    rintro h tok rfl hp
    exact ⟨fails_qrsym_no_symbol hf hp, fun g => runs_qrsym hf hp,
      fun hr hn hw => fails_qrsym_word hf hp hr (Fab.parseWord_no_row hn hw)⟩
  case load =>
    rintro h p e0 tok e rfl hp he
    refine ⟨fails_qrload_tag hf hp he, fails_qrload_protection hf hp he, fun ht hs hr hk => ?_⟩
    have runs := runs_qrload hf hp he ht hs hr hk
    rwa [Fab.loadEntry_pop] at runs
  case ruleDrain =>
    rintro h p e0 ov rm rfl
    exact ⟨fails_qrdrain_no_stream hf, fun ht hw hk => fails_qrdrain hf ht hw (Fab.entryFault_number hk),
      fun ht hw hk => ⟨fun hm => fails_qrdrain hf ht hw (Fab.entryFault_order hk hm),
        fun hm ho => fails_qrdrain hf ht hw (Fab.entryFault_overflow hk hm ho),
        fun hm _ => runs_qrdrain hf ht hw (Fab.entryFault_final hk hm)⟩⟩

end Sys2Proof.Machine
end

section
/-!
SUPPORT. Binary32 encodings: the fields of a word, the number it stands for, and its classes (R60, R86).
-/

namespace Sys2Proof.Machine

/-! ### Fields and numbers -/

/-- The exponent field of a binary32 word. -/
def f32Exp (b : Half) : Nat := (b.extractLsb' 23 8).toNat

/-- The significand field. -/
def f32Frac (b : Half) : Nat := (b.extractLsb' 0 23).toNat

/-- The number as a multiple of the smallest subnormal, for a word that is no NaN and no infinity. -/
def f32Num (b : Half) : Int :=
  (if b.getLsbD 31 then -1 else 1) * (if f32Exp b = 0 then (f32Frac b : Int) else ((2 ^ 23 + f32Frac b) * 2 ^ (f32Exp b - 1) : Nat))

/-- The integer significand of a number, with its leading one. -/
def f32Sig (b : Half) : Nat := if f32Exp b = 0 then f32Frac b else 2 ^ 23 + f32Frac b

/-- The exponent of a number's last place. -/
def f32Unit (b : Half) : Int := if f32Exp b = 0 then -149 else (f32Exp b : Int) - 150

section
variable (b : Half)

theorem f32Exp_eq : f32Exp b = b.toNat / 2 ^ 23 % 2 ^ 8 := by
  rw [f32Exp, BitVec.extractLsb'_toNat, Nat.shiftRight_eq_div_pow]

theorem f32Frac_eq : f32Frac b = b.toNat % 2 ^ 23 := by
  rw [f32Frac, BitVec.extractLsb'_toNat, Nat.shiftRight_zero]

theorem f32Exp_lt : f32Exp b < 256 := (b.extractLsb' 23 8).isLt

theorem f32Frac_lt : f32Frac b < 2 ^ 23 := (b.extractLsb' 0 23).isLt

theorem getLsbD_eq_div (n : Nat) : b.getLsbD n = decide (b.toNat / 2 ^ n % 2 = 1) := Nat.testBit_eq_decide_div_mod_eq

/-- A word is what its fields encode. -/
theorem ofNat_packFlt_fields : BitVec.ofNat 32 (packFlt true 8 23 (b.getLsbD 31) (f32Exp b) (f32Frac b)) = b := by
  apply BitVec.eq_of_toNat_eq
  have hlt := b.isLt
  rw [BitVec.toNat_ofNat, f32Exp_eq, f32Frac_eq, getLsbD_eq_div, packFlt]
  by_cases h : b.toNat / 2 ^ 31 % 2 = 1
  · simp only [h, decide_true, Bool.and_self, if_true]
    omega
  · simp only [h, decide_false, Bool.and_false, Bool.false_eq_true, if_false]
    omega

theorem quiet_iff : b.getLsbD 22 = false ↔ f32Frac b < 2 ^ 22 := by
  rw [getLsbD_eq_div, f32Frac_eq, decide_eq_false_iff_not]
  omega

theorem f32_eq : f32 b =
    if f32Exp b = 255 then (if f32Frac b = 0 then .inf (b.getLsbD 31) else .nan (decide (f32Frac b < 2 ^ 22)))
    else .fin (b.getLsbD 31) (f32Sig b) (f32Unit b) := by
  have hneg : decide (b.toNat / 2 ^ (23 + 8) % 2 = 1) = b.getLsbD 31 := (getLsbD_eq_div b 31).symm
  have hdecode : f32 b = if f32Exp b == 255 then (if f32Frac b = 0 then .inf (b.getLsbD 31) else
      .nan (decide (f32Frac b < 2 ^ 22)))
    else .fin (b.getLsbD 31) (fltMag 23 127 true (f32Exp b) (f32Frac b)).1 (fltMag 23 127 true (f32Exp b) (f32Frac b)).2 := by
    rw [f32Exp_eq, f32Frac_eq, ← hneg]
    rfl
  rw [hdecode, f32Sig, f32Unit]
  unfold fltMag
  by_cases he : f32Exp b = 0
  · simp [he]
  · have hunit : (f32Exp b : Int) - 127 - (23 : Nat) = f32Exp b - 150 := by omega
    simp only [beq_iff_eq, if_neg he, hunit]

theorem f32_of_fin (h : f32Exp b ≠ 255) : f32 b = .fin (b.getLsbD 31) (f32Sig b) (f32Unit b) := by
  rw [f32_eq, if_neg h]

theorem f32_of_inf (h : f32Exp b = 255) (hf : f32Frac b = 0) : f32 b = .inf (b.getLsbD 31) := by
  rw [f32_eq, if_pos h, if_pos hf]

theorem f32_of_nan (h : f32Exp b = 255) (hf : f32Frac b ≠ 0) : f32 b = .nan (decide (b.getLsbD 22 = false)) := by
  rw [f32_eq, if_pos h, if_neg hf]
  exact congrArg _ (decide_eq_decide.2 (quiet_iff b).symm)

theorem f32Sig_lt : f32Sig b < 2 ^ 24 := by
  have hf := f32Frac_lt b
  unfold f32Sig
  split <;> omega

theorem f32Sig_eq_zero_iff : f32Sig b = 0 ↔ f32Exp b = 0 ∧ f32Frac b = 0 := by
  unfold f32Sig
  split <;> simp_all

end

/-! ### Numbers as rationals -/

/-- The rational number of a sign, a significand and an exponent. -/
def scaled (n : Bool) (m : Nat) (e : Int) : ℚ := (if n then -1 else 1) * m * 2 ^ e

theorem scaled_eq_zero {n : Bool} {m : Nat} {e : Int} : scaled n m e = 0 ↔ m = 0 := by
  cases n <;> simp [scaled, zpow_ne_zero]

theorem two_zpow_of_le {a b : Int} (h : b ≤ a) : (2 : ℚ) ^ a = ((2 ^ (a - b).toNat : Nat) : ℚ) * 2 ^ b := by
  rw [Nat.cast_pow, Nat.cast_ofNat, ← zpow_natCast, ← zpow_add₀ two_ne_zero, Int.toNat_of_nonneg (by omega)]
  congr 1
  omega

theorem scaled_f32 (b : Half) : scaled (b.getLsbD 31) (f32Sig b) (f32Unit b) = f32Num b * 2 ^ (-149 : Int) := by
  unfold scaled f32Sig f32Unit f32Num
  by_cases he : f32Exp b = 0
  · cases b.getLsbD 31 <;> simp [he]
  · have hunit : (-149 : Int) ≤ (f32Exp b : Int) - 150 := by omega
    have hexp : ((f32Exp b : Int) - 150 - -149).toNat = f32Exp b - 1 := by omega
    rw [if_neg he, if_neg he, if_neg he, two_zpow_of_le hunit, hexp]
    push_cast
    cases b.getLsbD 31 <;> simp <;> ring

theorem intAt_mul_zpow (n : Bool) (m : Nat) {e q : Int} (h : q ≤ e) :
    ((Val.intAt n m e q : Int) : ℚ) * 2 ^ q = scaled n m e := by
  unfold Val.intAt scaled
  rw [two_zpow_of_le h]
  cases n <;> · push_cast; simp; ring

end Sys2Proof.Machine
end

section
/-!
SUPPORT. A number that binary32 represents is left as it is by rounding (R80, R192).
-/

namespace Sys2Proof.Machine

/-! ### Rounding of a multiple of the grid -/

theorem splitAt_exact {m j : Nat} {e q : Int} (h : (m : ℚ) * 2 ^ e = j * 2 ^ q) : ∃ d, splitAt m e q = (j, 0, d) := by
  have hq : (2 : ℚ) ^ q ≠ 0 := zpow_ne_zero q two_ne_zero
  unfold splitAt
  by_cases he : e ≥ q
  · have hj : m * 2 ^ (e - q).toNat = j := by
      rw [two_zpow_of_le he, ← mul_assoc] at h
      exact_mod_cast mul_right_cancel₀ hq h
    exact ⟨1, by rw [if_pos he, hj]⟩
  · have hm : m = j * 2 ^ (q - e).toNat := by
      rw [two_zpow_of_le (Int.le_of_lt (Int.not_le.1 he)), ← mul_assoc] at h
      exact_mod_cast mul_right_cancel₀ (zpow_ne_zero e two_ne_zero) h
    refine ⟨2 ^ (q - e).toNat, ?_⟩
    rw [if_neg he, hm]
    simp only [Nat.mul_div_cancel _ (Nat.two_pow_pos _), Nat.mul_mod_left]

theorem roundGrid_exact {m j : Nat} {e q : Int} (h : (m : ℚ) * 2 ^ e = j * 2 ^ q) (rm : Rm) (neg : Bool) (odd : Nat → Bool)
    (draw : Half) : roundGrid rm neg odd m e q draw = (j, true) := by
  obtain ⟨d, hd⟩ := splitAt_exact h
  simp [roundGrid, hd, roundsUp]

/-! ### The place of the leading bit -/

theorem bitLen_bounds {m : Nat} (h : m ≠ 0) : (2 : ℚ) ^ ((bitLen m : Int) - 1) ≤ m ∧ (m : ℚ) < 2 ^ (bitLen m : Int) := by
  have hlen : (bitLen m : Int) - 1 = (Nat.log2 m : Nat) := by simp [bitLen, h]
  rw [hlen, zpow_natCast, zpow_natCast]
  refine ⟨by exact_mod_cast Nat.log2_self_le h, ?_⟩
  rw [bitLen, if_neg h]
  exact_mod_cast Nat.lt_log2_self

theorem leadingBit_unique {x : ℚ} {i j : Int} (hi : (2 : ℚ) ^ i ≤ x ∧ x < 2 ^ (i + 1)) (hj : (2 : ℚ) ^ j ≤ x ∧ x < 2 ^ (j + 1)) :
    i = j := by
  have h1 : i < j + 1 := (zpow_lt_zpow_iff_right₀ one_lt_two).1 (hi.1.trans_lt hj.2)
  have h2 : j < i + 1 := (zpow_lt_zpow_iff_right₀ one_lt_two).1 (hj.1.trans_lt hi.2)
  omega

theorem leadingBit {m : Nat} (h : m ≠ 0) (e : Int) : (2 : ℚ) ^ (e + bitLen m - 1) ≤ m * 2 ^ e
    ∧ (m : ℚ) * 2 ^ e < 2 ^ (e + bitLen m - 1 + 1) := by
  obtain ⟨h1, h2⟩ := bitLen_bounds h
  have hpos : (0 : ℚ) < 2 ^ e := zpow_pos two_pos e
  have hlow : (2 : ℚ) ^ (e + bitLen m - 1) = 2 ^ ((bitLen m : Int) - 1) * 2 ^ e := by
    rw [← zpow_add₀ two_ne_zero]; congr 1; omega
  have hhigh : (2 : ℚ) ^ (e + bitLen m - 1 + 1) = 2 ^ (bitLen m : Int) * 2 ^ e := by
    rw [← zpow_add₀ two_ne_zero]; congr 1; omega
  rw [hlow, hhigh]
  exact ⟨mul_le_mul_of_nonneg_right h1 hpos.le, mul_lt_mul_of_pos_right h2 hpos⟩

/-- Two ways to write a positive number have their leading bit in one place. -/
theorem leadingBit_eq {m n : Nat} {e f : Int} (hm : m ≠ 0) (hn : n ≠ 0) (h : (m : ℚ) * 2 ^ e = n * 2 ^ f) :
    e + bitLen m = f + bitLen n := by
  have := leadingBit_unique (leadingBit hm e) (h ▸ leadingBit hn f)
  omega

/-! ### A representable number -/

section
variable {z : Half} {m : Nat} {e : Int}

theorem bitLen_normal {f : Nat} (hf : f < 2 ^ 23) : bitLen (2 ^ 23 + f) = 24 := by
  have hlog : Nat.log2 (2 ^ 23 + f) = 23 := (Nat.log2_eq_iff (by omega)).2 ⟨by omega, by omega⟩
  rw [bitLen, if_neg (by omega), hlog]

theorem bitLen_subnormal {f : Nat} (hf : f < 2 ^ 23) : bitLen f ≤ 23 := by
  unfold bitLen
  split
  · omega
  · exact (Nat.log2_lt (by assumption)).2 hf

theorem roundFlt_exact (h0 : f32Sig z ≠ 0) (h : (m : ℚ) * 2 ^ e = f32Sig z * 2 ^ f32Unit z) (rm : Rm) (neg : Bool)
    (draw : Half) : (roundFlt 23 127 true rm neg m e draw).j = f32Sig z ∧ (roundFlt 23 127 true rm neg m e draw).q = f32Unit z
      ∧ (roundFlt 23 127 true rm neg m e draw).exact = true := by
  have hm : m ≠ 0 := by
    rintro rfl
    rw [Nat.cast_zero, zero_mul, eq_comm, mul_eq_zero, Nat.cast_eq_zero] at h
    exact h.elim h0 (zpow_ne_zero _ two_ne_zero)
  have hlead := leadingBit_eq hm h0 h
  have hf := f32Frac_lt z
  unfold roundFlt
  by_cases hz : f32Exp z = 0
  · have hunit : f32Unit z = -149 := if_pos hz
    have hsig : f32Sig z = f32Frac z := if_pos hz
    have hlen := bitLen_subnormal hf
    rw [hsig, hunit] at hlead
    have hsub : e + (bitLen m : Int) - (23 + 1 : Nat) < 1 - 127 - (23 : Nat) := by push_cast; omega
    have hgrid : (m : ℚ) * 2 ^ e = f32Sig z * 2 ^ ((1 : Int) - 127 - (23 : Nat)) := h.trans (by rw [hunit]; rfl)
    simp only [hsub, roundGrid_exact hgrid, decide_true, Bool.and_self, if_true]
    exact ⟨trivial, hunit.symm, trivial⟩
  · have hunit : f32Unit z = (f32Exp z : Int) - 150 := if_neg hz
    have hsig : f32Sig z = 2 ^ 23 + f32Frac z := if_neg hz
    rw [hsig, bitLen_normal hf, hunit] at hlead
    have hqu : e + (bitLen m : Int) - (23 + 1 : Nat) = f32Unit z := by push_cast; omega
    have hsub : ¬ f32Unit z < 1 - 127 - (23 : Nat) := by push_cast; omega
    simp only [hqu, hsub, roundGrid_exact h, decide_false, Bool.and_false, Bool.not_true, Bool.false_eq_true, if_false]
    exact ⟨trivial, trivial, trivial⟩

end

section
variable {z : Half} {r : Rounded} (hj : r.j = f32Sig z) (hq : r.q = f32Unit z)
include hj hq

theorem exceeds_of_number (hz : f32Exp z ≠ 255) : r.exceeds 8 23 127 0 true = false := by
  have hsig := f32Sig_lt z
  have hexp := f32Exp_lt z
  have hunit : f32Unit z ≤ 104 := by unfold f32Unit; split <;> omega
  have hmax : fltMag 23 127 true (fltMax 8 23 0).1 (fltMax 8 23 0).2 = (2 ^ 24 - 1, 104) := by simp [fltMag, fltMax]
  have hscale : (2 ^ 24 - 1) * 1 ≤ (2 ^ 24 - 1) * 2 ^ (104 - f32Unit z).toNat := Nat.mul_le_mul_left _ (Nat.two_pow_pos _)
  rw [Rounded.exceeds, hmax, hj, hq]
  refine (if_pos hunit).trans (decide_eq_false_iff_not.2 ?_)
  dsimp only
  omega

theorem fields_of_number (h0 : f32Sig z ≠ 0) : r.fields 23 127 = (f32Exp z, f32Frac z) := by
  have hf := f32Frac_lt z
  have hsig := f32Sig_lt z
  unfold Rounded.fields
  rw [hj, hq, if_neg h0, if_neg (by omega)]
  unfold f32Sig f32Unit
  by_cases hz : f32Exp z = 0
  · rw [if_pos hz, if_pos hz, hz]
    exact if_pos hf
  · have hexp : ((f32Exp z : Int) - 150 + 127 + (23 : Nat)).toNat = f32Exp z := by omega
    rw [if_neg hz, if_neg hz]
    refine (if_neg (by omega)).trans ?_
    rw [hexp, Nat.add_sub_cancel_left]

end

theorem flags_of_exact {r : Rounded} (h : r.exact = true) : r.flags = 0 := by
  simp [Rounded.flags, h]

theorem scaled_inj {n k : Bool} {m j : Nat} {e q : Int} (hj : j ≠ 0) (h : scaled n m e = scaled k j q) :
    n = k ∧ (m : ℚ) * 2 ^ e = j * 2 ^ q := by
  have hm : 0 ≤ (m : ℚ) * 2 ^ e := by positivity
  have hpos : 0 < (j : ℚ) * 2 ^ q := mul_pos (by exact_mod_cast Nat.pos_of_ne_zero hj) (zpow_pos two_pos q)
  unfold scaled at h
  rw [mul_assoc, mul_assoc] at h
  cases n <;> cases k
  case false.false | true.true => exact ⟨rfl, by simpa using h⟩
  all_goals
    simp only [Bool.false_eq_true, if_false, if_true] at h
    linarith

theorem f32Num_eq_zero_iff (b : Half) : f32Num b = 0 ↔ f32Sig b = 0 := by
  have h : (f32Num b : ℚ) * 2 ^ (-149 : Int) = 0 ↔ f32Sig b = 0 := by rw [← scaled_f32, scaled_eq_zero]
  rw [← h, mul_eq_zero, Int.cast_eq_zero]
  exact ⟨.inl, fun h => h.resolve_right (zpow_ne_zero _ two_ne_zero)⟩

/-- A nonzero number of binary32 rounds to itself, without a flag. -/
theorem toF32_exact {z : Half} {n : Bool} {m : Nat} {e : Int} (hz : f32Exp z ≠ 255) (h0 : f32Num z ≠ 0)
    (h : scaled n m e = f32Num z * 2 ^ (-149 : Int)) (rm : Rm) : toF32 rm (.fin n m e) = (z, 0) := by
  have hsig : f32Sig z ≠ 0 := mt (f32Num_eq_zero_iff z).2 h0
  rw [← scaled_f32] at h
  have hm : m ≠ 0 := by
    rintro rfl
    exact hsig (scaled_eq_zero.1 (h.symm.trans (scaled_eq_zero.2 rfl)))
  obtain ⟨hn, hmag⟩ := scaled_inj hsig h
  obtain ⟨hj, hq, hx⟩ := roundFlt_exact hsig hmag rm n 0
  unfold toF32
  dsimp only
  rw [if_neg hm, exceeds_of_number hj hq hz, fields_of_number hj hq hsig, flags_of_exact hx, hn, ofNat_packFlt_fields]
  rfl

end Sys2Proof.Machine
end

section
/-!
SUPPORT. Binary32 sums, products and fused sums of finite operands (R192).
-/

namespace Sys2Proof.Machine

/-! ### Signs, zeros and infinities -/

/-- Zero of a sign. -/
def f32Zero (n : Bool) : Half := if n then 0x80000000 else 0

/-- Infinity of a sign. -/
def f32Inf (n : Bool) : Half := f32Zero n ||| 0x7F800000

theorem toF32_zero (rm : Rm) (n : Bool) (e : Int) : toF32 rm (.fin n 0 e) = (f32Zero n, 0) := by
  cases n <;> rfl

theorem toF32_inf (rm : Rm) (n : Bool) : toF32 rm (.inf n) = (f32Inf n, 0) := by
  cases n <;> rfl

theorem and_signBit (x : Half) : x &&& 0x80000000 = f32Zero (x.getLsbD 31) := BitVec.and_twoPow x 31

theorem xor_and_signBit (x y : Half) : (x ^^^ y) &&& 0x80000000 = f32Zero (x.getLsbD 31 != y.getLsbD 31) := by
  rw [and_signBit, BitVec.getLsbD_xor, Bool.bne_eq_xor]

theorem eq_f32Zero_of_num {x : Half} (h : f32Num x = 0) : x = f32Zero (x.getLsbD 31) := by
  obtain ⟨he, hf⟩ := (f32Sig_eq_zero_iff x).1 ((f32Num_eq_zero_iff x).1 h)
  have hx := ofNat_packFlt_fields x
  rw [he, hf] at hx
  refine hx.symm.trans ?_
  cases x.getLsbD 31 <;> rfl

theorem eq_f32Inf {x : Half} (he : f32Exp x = 255) (hf : f32Frac x = 0) : x = f32Inf (x.getLsbD 31) := by
  have hx := ofNat_packFlt_fields x
  rw [he, hf] at hx
  refine hx.symm.trans ?_
  cases x.getLsbD 31 <;> rfl

/-! ### Sums and products of values -/

section
variable (rm : Rm) {n k : Bool} {m j : Nat} {e q : Int}

theorem cast_sign_natAbs (x : Int) : (if decide (x < 0) then (-1 : ℚ) else 1) * x.natAbs = x := by
  rw [Nat.cast_natAbs]
  by_cases hx : x < 0
  · simp [hx, abs_of_neg]
  · simp [hx, abs_of_nonneg (Int.not_lt.1 hx)]

theorem intAt_add (n k : Bool) (m j : Nat) (e q : Int) : ((Val.intAt n m e (min e q) + Val.intAt k j q (min e q) : Int) : ℚ)
    * 2 ^ (min e q) = scaled n m e + scaled k j q := by
  rw [Int.cast_add, add_mul, intAt_mul_zpow n m (min_le_left e q), intAt_mul_zpow k j (min_le_right e q)]

theorem intAt_add_eq_zero_iff : Val.intAt n m e (min e q) + Val.intAt k j q (min e q) = 0 ↔ scaled n m e + scaled k j q = 0 := by
  rw [← intAt_add, mul_eq_zero, Int.cast_eq_zero]
  exact ⟨.inl, fun h => h.resolve_right (zpow_ne_zero _ two_ne_zero)⟩

theorem val_add_exact (h : scaled n m e + scaled k j q ≠ 0) : ∃ n' m' e', Val.add rm (.fin n m e) (.fin k j q) = (.fin n' m' e', 0)
    ∧ scaled n' m' e' = scaled n m e + scaled k j q := by
  have h0 := mt intAt_add_eq_zero_iff.1 h
  refine ⟨_, _, _, if_neg h0, ?_⟩
  rw [← intAt_add, scaled, cast_sign_natAbs]

theorem val_add_zero (h : scaled n m e + scaled k j q = 0) : Val.add rm (.fin n m e) (.fin k j q)
    = (.fin (if m = 0 && j = 0 && n == k then n else rm == .rdn) 0 (min e q), 0) :=
  if_pos (intAt_add_eq_zero_iff.2 h)

theorem scaled_mul : scaled (n != k) (m * j) (e + q) = scaled n m e * scaled k j q := by
  unfold scaled
  rw [zpow_add₀ two_ne_zero]
  cases n <;> cases k <;> · push_cast; simp; ring

theorem scaled_neg : scaled (!n) m e = -scaled n m e := by
  unfold scaled
  cases n <;> simp

end

/-! ### Operations on finite words -/

theorem finish_exact {z : Half} {n : Bool} {m : Nat} {e : Int} (hz : f32Exp z ≠ 255) (h0 : f32Num z ≠ 0)
    (h : scaled n m e = f32Num z * 2 ^ (-149 : Int)) (rm : Rm) : finish rm (.fin n m e, 0) 0 = (z, 0) := by
  simp only [finish, toF32_exact hz h0 h, BitVec.or_self]

theorem finish_zero (rm : Rm) (n : Bool) (e : Int) : finish rm (.fin n 0 e, 0) 0 = (f32Zero n, 0) := by
  simp only [finish, toF32_zero, BitVec.or_self]

section
variable {x y a z : Half}

theorem isSig_f32_of_fin (hx : f32Exp x ≠ 255) : (f32 x).isSig = false := by
  rw [f32_of_fin x hx]
  rfl

theorem sigFlag_fin {xs : List Half} (h : ∀ x ∈ xs, f32Exp x ≠ 255) : sigFlag (xs.map f32) = 0 := by
  have hany : (xs.map f32).any Val.isSig = false := by
    simpa using fun x hx => isSig_f32_of_fin (h x hx)
  rw [sigFlag, hany]
  exact if_neg Bool.false_ne_true

theorem sigFlag_fin_two (hx : f32Exp x ≠ 255) (hy : f32Exp y ≠ 255) : sigFlag [f32 x, f32 y] = 0 :=
  sigFlag_fin (xs := [x, y]) (by simp [hx, hy])

theorem sigFlag_fin_three (ha : f32Exp a ≠ 255) (hx : f32Exp x ≠ 255) (hy : f32Exp y ≠ 255) :
    sigFlag [f32 a, f32 x, f32 y] = 0 :=
  sigFlag_fin (xs := [a, x, y]) (by simp [ha, hx, hy])

theorem f32Num_cast_ne_zero (h : f32Num z ≠ 0) : (f32Num z : ℚ) * 2 ^ (-149 : Int) ≠ 0 :=
  mul_ne_zero (Int.cast_ne_zero.2 h) (zpow_ne_zero _ two_ne_zero)

variable (rm : Rm) (hx : f32Exp x ≠ 255) (hy : f32Exp y ≠ 255)
include hx hy

theorem f32Add_exact (hz : f32Exp z ≠ 255) (h0 : f32Num z ≠ 0) (h : f32Num z = f32Num x + f32Num y) :
    f32Add rm x y = (z, 0) := by
  have hsum : scaled (x.getLsbD 31) (f32Sig x) (f32Unit x) + scaled (y.getLsbD 31) (f32Sig y) (f32Unit y)
      = f32Num z * 2 ^ (-149 : Int) := by
    rw [scaled_f32, scaled_f32, h]; push_cast; ring
  obtain ⟨n, m, e, hadd, hval⟩ := val_add_exact rm (hsum.trans_ne (f32Num_cast_ne_zero h0))
  rw [f32Add, sigFlag_fin_two hx hy, f32_of_fin x hx, f32_of_fin y hy, hadd, finish_exact hz h0 (hval.trans hsum)]

theorem f32Sub_exact (hz : f32Exp z ≠ 255) (h0 : f32Num z ≠ 0) (h : f32Num z = f32Num x - f32Num y) :
    f32Sub rm x y = (z, 0) := by
  have hsum : scaled (x.getLsbD 31) (f32Sig x) (f32Unit x) + scaled (!y.getLsbD 31) (f32Sig y) (f32Unit y)
      = f32Num z * 2 ^ (-149 : Int) := by
    rw [scaled_neg, scaled_f32, scaled_f32, h]; push_cast; ring
  obtain ⟨n, m, e, hadd, hval⟩ := val_add_exact rm (hsum.trans_ne (f32Num_cast_ne_zero h0))
  rw [f32Sub, sigFlag_fin_two hx hy, f32_of_fin x hx, f32_of_fin y hy, Val.neg, hadd, finish_exact hz h0 (hval.trans hsum)]

theorem f32Mul_exact (hz : f32Exp z ≠ 255) (h0 : f32Num z ≠ 0) (h : f32Num z * 2 ^ 149 = f32Num x * f32Num y) :
    f32Mul rm x y = (z, 0) := by
  have hq : (f32Num z : ℚ) * 2 ^ 149 = f32Num x * f32Num y := by exact_mod_cast h
  have hval : scaled (x.getLsbD 31 != y.getLsbD 31) (f32Sig x * f32Sig y) (f32Unit x + f32Unit y)
      = f32Num z * 2 ^ (-149 : Int) := by
    rw [scaled_mul, scaled_f32, scaled_f32, mul_mul_mul_comm, ← hq, zpow_neg]
    field_simp
  rw [f32Mul, sigFlag_fin_two hx hy, f32_of_fin x hx, f32_of_fin y hy, Val.mul, finish_exact hz h0 hval]

theorem f32Fma_exact (ha : f32Exp a ≠ 255) (hz : f32Exp z ≠ 255) (h0 : f32Num z ≠ 0)
    (h : f32Num z * 2 ^ 149 = f32Num x * f32Num y + f32Num a * 2 ^ 149) : f32Fma rm false a x y = (z, 0) := by
  have hq : (f32Num z : ℚ) * 2 ^ 149 = f32Num x * f32Num y + f32Num a * 2 ^ 149 := by exact_mod_cast h
  have hsum : scaled (x.getLsbD 31 != y.getLsbD 31) (f32Sig x * f32Sig y) (f32Unit x + f32Unit y)
      + scaled (a.getLsbD 31) (f32Sig a) (f32Unit a) = f32Num z * 2 ^ (-149 : Int) := by
    rw [scaled_mul, scaled_f32, scaled_f32, scaled_f32, mul_mul_mul_comm, eq_sub_of_add_eq hq.symm, zpow_neg]
    field_simp
    norm_cast
    ring
  obtain ⟨n, m, e, hadd, hval⟩ := val_add_exact rm (hsum.trans_ne (f32Num_cast_ne_zero h0))
  rw [f32Fma, sigFlag_fin_three ha hx hy, f32_of_fin x hx, f32_of_fin y hy, f32_of_fin a ha, Val.mul]
  simp only [Bool.false_eq_true, if_false, hadd, BitVec.or_self, finish_exact hz h0 (hval.trans hsum)]

theorem f32Add_zero (h : f32Num x + f32Num y = 0) :
    f32Add rm x y = (if f32Num x = 0 ∧ x = y then x else if rm = .rdn then 0x80000000 else 0, 0) := by
  have hsum : scaled (x.getLsbD 31) (f32Sig x) (f32Unit x) + scaled (y.getLsbD 31) (f32Sig y) (f32Unit y) = 0 := by
    rw [scaled_f32, scaled_f32, ← add_mul, ← Int.cast_add, h, Int.cast_zero, zero_mul]
  rw [f32Add, sigFlag_fin_two hx hy, f32_of_fin x hx, f32_of_fin y hy, val_add_zero rm hsum, finish_zero]
  by_cases h0 : f32Num x = 0
  · have h1 : f32Num y = 0 := by omega
    have hxy : x.getLsbD 31 = y.getLsbD 31 ↔ x = y :=
      ⟨fun hs => by rw [eq_f32Zero_of_num h0, eq_f32Zero_of_num h1, hs], fun he => by rw [he]⟩
    simp only [(f32Num_eq_zero_iff x).1 h0, (f32Num_eq_zero_iff y).1 h1, h0, true_and, decide_true, Bool.true_and, beq_iff_eq, hxy]
    by_cases he : x = y
    · rw [if_pos he, if_pos he, ← eq_f32Zero_of_num h0]
    · rw [if_neg he, if_neg he, f32Zero]
      simp only [beq_iff_eq]
  · have hsig := mt (f32Num_eq_zero_iff x).2 h0
    simp only [hsig, h0, false_and, decide_false, Bool.false_and, Bool.false_eq_true, if_false, f32Zero, beq_iff_eq]

theorem f32Mul_zero (h : f32Num x * f32Num y = 0) : f32Mul rm x y = ((x ^^^ y) &&& 0x80000000, 0) := by
  have hm : f32Sig x * f32Sig y = 0 := by
    rw [Nat.mul_eq_zero, ← f32Num_eq_zero_iff, ← f32Num_eq_zero_iff]
    exact Int.mul_eq_zero.1 h
  rw [f32Mul, sigFlag_fin_two hx hy, f32_of_fin x hx, f32_of_fin y hy, Val.mul, hm, finish_zero, xor_and_signBit]

end
end Sys2Proof.Machine
end

section
/-!
SUPPORT. Binary32 quotients and square roots that are exact (R192).
-/

namespace Sys2Proof.Machine

/-! ### Quotients -/

/-- A power of two may be needed to divide by a, but no more than a has. -/
theorem dvd_mul_two_pow {a b t k : Nat} (h0 : a ≠ 0) (hk : a < 2 ^ k) (h : a ∣ b * 2 ^ t) : a ∣ b * 2 ^ k := by
  obtain ⟨i, o, ho, rfl⟩ := Nat.exists_eq_two_pow_mul_odd h0
  have hodd : o ∣ b := (Nat.Coprime.pow_right t ho.coprime_two_right).dvd_of_dvd_mul_right ((Nat.dvd_mul_left o _).trans h)
  have hi : i ≤ k := ((Nat.pow_lt_pow_iff_right Nat.one_lt_two).1
    ((Nat.le_mul_of_pos_right _ (Nat.pos_of_ne_zero (right_ne_zero_of_mul h0))).trans_lt hk)).le
  rw [mul_comm b]
  exact Nat.mul_dvd_mul (Nat.pow_dvd_pow 2 hi) hodd

theorem dvd_of_mul_zpow_eq {a b c : Nat} {e q : Int} (h : ((c * a : Nat) : ℚ) * 2 ^ e = b * 2 ^ q) : ∃ t, a ∣ b * 2 ^ t := by
  rcases le_total e q with heq | heq
  · rw [two_zpow_of_le heq, ← mul_assoc] at h
    have hn : c * a = b * 2 ^ (q - e).toNat := by exact_mod_cast mul_right_cancel₀ (zpow_ne_zero e two_ne_zero) h
    exact ⟨_, hn ▸ Nat.dvd_mul_left a c⟩
  · rw [two_zpow_of_le heq, ← mul_assoc] at h
    have hn : c * a * 2 ^ (e - q).toNat = b := by exact_mod_cast mul_right_cancel₀ (zpow_ne_zero q two_ne_zero) h
    refine ⟨0, ?_⟩
    rw [← hn, pow_zero, mul_one, mul_assoc]
    exact (Nat.dvd_mul_right a _).mul_left c

theorem scaled_mul_two_pow (n : Bool) (m k : Nat) (e : Int) : scaled n (m * 2 ^ k) e = scaled n m (e + k) := by
  unfold scaled
  rw [zpow_add₀ two_ne_zero, zpow_natCast]
  push_cast
  ring

theorem scaled_sticky (n : Bool) (q : Nat) (e : Int) : scaled n (2 * q) (e - 1) = scaled n q e := by
  rw [mul_comm, ← pow_one 2, scaled_mul_two_pow]
  congr 1
  push_cast
  omega

theorem sticky_exact (n : Bool) (q : Nat) (e : Int) : sticky n q false e = .fin n (2 * q) (e - 1) := rfl

theorem scaled_f32_mul {x y z : Half} (h : f32Num z * f32Num y = f32Num x * 2 ^ 149) :
    scaled (z.getLsbD 31 != y.getLsbD 31) (f32Sig z * f32Sig y) (f32Unit z + f32Unit y)
      = scaled (x.getLsbD 31) (f32Sig x) (f32Unit x) := by
  have hq : (f32Num z : ℚ) * f32Num y = f32Num x * 2 ^ 149 := by exact_mod_cast h
  rw [scaled_mul, scaled_f32, scaled_f32, scaled_f32, mul_mul_mul_comm, hq, zpow_neg]
  field_simp

/-- The quotient of the significands has no remainder after 80 more places, and is the number z. -/
theorem quotient_exact {x y z : Half} (hx0 : f32Sig x ≠ 0) (hy0 : f32Sig y ≠ 0) (h : f32Num z * f32Num y = f32Num x * 2 ^ 149) :
    f32Sig x * 2 ^ 80 % f32Sig y = 0
      ∧ scaled (x.getLsbD 31 != y.getLsbD 31) (f32Sig x * 2 ^ 80 / f32Sig y) (f32Unit x - f32Unit y - 80)
        = f32Num z * 2 ^ (-149 : Int) := by
  have hprod := scaled_f32_mul h
  obtain ⟨hn, hmag⟩ := scaled_inj hx0 hprod
  obtain ⟨t, ht⟩ := dvd_of_mul_zpow_eq hmag
  have hdvd : f32Sig y ∣ f32Sig x * 2 ^ 80 :=
    dvd_mul_two_pow hy0 ((f32Sig_lt y).trans (Nat.pow_lt_pow_right Nat.one_lt_two (by norm_num))) ht
  refine ⟨Nat.mod_eq_zero_of_dvd hdvd, ?_⟩
  have hy : scaled (y.getLsbD 31) (f32Sig y) (f32Unit y) ≠ 0 := mt scaled_eq_zero.1 hy0
  refine mul_right_cancel₀ hy ?_
  have hexp : f32Unit x - f32Unit y - 80 + f32Unit y + (80 : Nat) = f32Unit x := by push_cast; omega
  have hsign : ((x.getLsbD 31 != y.getLsbD 31) != y.getLsbD 31) = x.getLsbD 31 := by simp
  rw [← scaled_mul, Nat.div_mul_cancel hdvd, scaled_mul_two_pow, hexp, hsign, ← scaled_f32, ← scaled_mul, hprod]

/-! ### Square roots -/

theorem isqrtAux_mul_self (w : Nat) : ∀ k r : Nat, r ≤ w → w < r + 2 ^ k → isqrtAux k (w * w) r = w
  | 0, r, h1, h2 => by
    rw [isqrtAux]
    omega
  | k + 1, r, h1, h2 => by
    rw [pow_succ] at h2
    rw [isqrtAux]
    by_cases ht : r + 2 ^ k ≤ w
    · rw [if_pos (Nat.mul_self_le_mul_self ht)]
      exact isqrtAux_mul_self w k _ ht (by omega)
    · rw [if_neg (mt Nat.mul_self_le_mul_self_iff.1 ht)]
      exact isqrtAux_mul_self w k r h1 (by omega)

theorem lt_two_pow_bitLen (n : Nat) : n < 2 ^ bitLen n := by
  unfold bitLen
  split
  · omega
  · exact Nat.lt_log2_self

theorem isqrt_mul_self (w : Nat) : isqrt (w * w) = w := by
  refine isqrtAux_mul_self w _ 0 (Nat.zero_le w) ?_
  rw [Nat.zero_add]
  refine Nat.mul_self_lt_mul_self_iff.1 ((lt_two_pow_bitLen _).trans_le ?_)
  rw [← pow_add]
  exact Nat.pow_le_pow_right Nat.two_pos (by omega)

/-- A number that is a square of a number at an even exponent has a square significand there. -/
theorem sq_of_mul_zpow_eq {s m : Nat} {u h : Int} (heq : ((s * s : Nat) : ℚ) * 2 ^ (u + u) = m * 2 ^ (h + h)) :
    ∃ w : Nat, m = w * w ∧ (w : ℚ) * 2 ^ h = s * 2 ^ u := by
  rcases le_total h u with hle | hle
  · refine ⟨s * 2 ^ (u - h).toNat, ?_, ?_⟩
    · have hh : h + h ≤ u + u := by omega
      have hexp : (u + u - (h + h)).toNat = (u - h).toNat + (u - h).toNat := by omega
      rw [two_zpow_of_le hh, hexp, pow_add, ← mul_assoc] at heq
      have hn : s * s * (2 ^ (u - h).toNat * 2 ^ (u - h).toNat) = m := by
        exact_mod_cast mul_right_cancel₀ (zpow_ne_zero (h + h) two_ne_zero) heq
      rw [← hn, mul_mul_mul_comm]
    · rw [two_zpow_of_le hle]
      push_cast
      ring
  · have hh : u + u ≤ h + h := by omega
    have hexp : (h + h - (u + u)).toNat = (h - u).toNat + (h - u).toNat := by omega
    rw [two_zpow_of_le hh, hexp, pow_add, ← mul_assoc] at heq
    have hn : s * s = m * (2 ^ (h - u).toNat * 2 ^ (h - u).toNat) := by
      exact_mod_cast mul_right_cancel₀ (zpow_ne_zero (u + u) two_ne_zero) heq
    obtain ⟨w, rfl⟩ : 2 ^ (h - u).toNat ∣ s := by
      rw [← Nat.pow_dvd_pow_iff two_ne_zero, sq, sq]
      exact hn ▸ Nat.dvd_mul_left _ m
    refine ⟨w, ?_, ?_⟩
    · refine Nat.eq_of_mul_eq_mul_right (Nat.mul_pos (Nat.two_pow_pos (h - u).toNat) (Nat.two_pow_pos (h - u).toNat)) ?_
      rw [← hn]
      ring
    · rw [two_zpow_of_le hle]
      push_cast
      ring

/-- At an exponent made even, the significand of a square number is a square, and its root is the number squared. -/
theorem sqrt_exact {m : Nat} {e : Int} {s : Nat} {u : Int} (h : ((s * s : Nat) : ℚ) * 2 ^ (u + u) = m * 2 ^ e) :
    ∃ w : Nat, (if e % 2 = 0 then m else 2 * m) = w * w ∧ (w : ℚ) * 2 ^ ((if e % 2 = 0 then e else e - 1) / 2) = s * 2 ^ u := by
  refine sq_of_mul_zpow_eq (h.trans ?_)
  by_cases he : e % 2 = 0
  · rw [if_pos he, if_pos he]
    congr 2
    omega
  · have hexp : (e - 1) / 2 + (e - 1) / 2 + 1 = e := by omega
    rw [if_neg he, if_neg he]
    conv_lhs => rw [← hexp, zpow_add_one₀ two_ne_zero]
    push_cast
    ring

theorem isqrt_shifted (w : Nat) : isqrt (w * w * 2 ^ 80) = w * 2 ^ 40 := by
  have hsq : w * w * 2 ^ 80 = w * 2 ^ 40 * (w * 2 ^ 40) := by ring
  rw [hsq, isqrt_mul_self]

theorem sign_of_pos {z : Half} (h : 0 < f32Num z) : z.getLsbD 31 = false := by
  by_contra hs
  rw [f32Num, if_pos (Bool.not_eq_false _ ▸ hs)] at h
  split at h <;> omega

/-! ### Operations on finite words -/

section
variable {x y z : Half} (rm : Rm) (hx : f32Exp x ≠ 255)
include hx

theorem f32Div_exact (hy : f32Exp y ≠ 255) (hz : f32Exp z ≠ 255) (hz0 : f32Num z ≠ 0) (hy0 : f32Num y ≠ 0)
    (h : f32Num z * f32Num y = f32Num x * 2 ^ 149) : f32Div rm x y = (z, 0) := by
  have hx0 : f32Num x ≠ 0 := by
    intro h0
    rw [h0, zero_mul] at h
    exact mul_ne_zero hz0 hy0 h
  have hsx := mt (f32Num_eq_zero_iff x).2 hx0
  have hsy := mt (f32Num_eq_zero_iff y).2 hy0
  obtain ⟨hmod, hval⟩ := quotient_exact hsx hsy h
  rw [f32Div, f32_of_fin x hx, f32_of_fin y hy]
  refine (if_neg hsy).trans ((if_neg hsx).trans ?_)
  have hrest : (f32Sig x * 2 ^ 80 % f32Sig y != 0) = false := by rw [hmod, bne_self_eq_false]
  refine (congrArg (fun rest => toF32 rm (sticky _ _ rest _)) hrest).trans ?_
  rw [sticky_exact]
  exact toF32_exact hz hz0 ((scaled_sticky _ _ _).trans hval) rm

theorem f32Sqrt_exact (hz : f32Exp z ≠ 255) (h0 : 0 < f32Num z) (h : f32Num z * f32Num z = f32Num x * 2 ^ 149) :
    f32Sqrt rm x = (z, 0) := by
  have hx0 : f32Sig x ≠ 0 := by
    intro hs
    rw [(f32Num_eq_zero_iff x).2 hs, zero_mul] at h
    exact mul_ne_zero h0.ne' h0.ne' h
  obtain ⟨hn, hmag⟩ := scaled_inj hx0 (scaled_f32_mul h)
  rw [bne_self_eq_false] at hn
  obtain ⟨w, hw, hval⟩ := sqrt_exact hmag
  have hroot : scaled false (w * 2 ^ 40) ((if f32Unit x % 2 = 0 then f32Unit x else f32Unit x - 1) / 2 - 40)
      = f32Num z * 2 ^ (-149 : Int) := by
    rw [scaled_mul_two_pow, ← scaled_f32, sign_of_pos h0, scaled, scaled, mul_assoc, mul_assoc, ← hval]
    congr 3
    push_cast
    omega
  have hrest : (w * 2 ^ 40 * (w * 2 ^ 40) != w * w * 2 ^ 80) = false := by
    rw [bne_eq_false_iff_eq]
    ring
  rw [f32Sqrt, f32_of_fin x hx]
  refine (if_neg hx0).trans ((if_neg (ne_true_of_eq_false hn.symm)).trans ?_)
  dsimp only
  rw [hw, isqrt_shifted, hrest, sticky_exact]
  exact toF32_exact hz h0.ne' ((scaled_sticky _ _ _).trans hroot) rm

end
end Sys2Proof.Machine
end

section
/-!
SUPPORT. Binary32 operations on NaN, infinity and zero, and their order (R86, R89, R192).
-/

namespace Sys2Proof.Machine

/-! ### NaN -/

/-- The word is a NaN. -/
def F32Nan (b : Half) : Prop := f32Exp b = 255 ∧ f32Frac b ≠ 0

/-- The word is a signalling NaN. -/
def F32Signalling (b : Half) : Prop := F32Nan b ∧ b.getLsbD 22 = false

/-- The word is an infinity. -/
def F32IsInf (b : Half) : Prop := f32Exp b = 255 ∧ f32Frac b = 0

theorem F32IsInf.val {b : Half} (h : F32IsInf b) : f32 b = .inf (b.getLsbD 31) := f32_of_inf b h.1 h.2

theorem F32IsInf.word {b : Half} (h : F32IsInf b) : b = f32Inf (b.getLsbD 31) := eq_f32Inf h.1 h.2

theorem F32Nan.val {b : Half} (h : F32Nan b) : f32 b = .nan (decide (b.getLsbD 22 = false)) := f32_of_nan b h.1 h.2

theorem isInf_of_not_nan {b : Half} (h : ¬ F32Nan b) (hf : ¬ f32Exp b ≠ 255) : F32IsInf b :=
  ⟨not_not.1 hf, not_not.1 fun h0 => h ⟨not_not.1 hf, h0⟩⟩

theorem isNan_f32 (b : Half) : (f32 b).isNan = true ↔ F32Nan b := by
  rw [f32_eq, F32Nan]
  split
  · split <;> simp_all [Val.isNan]
  · simp_all [Val.isNan]

theorem isSig_f32 (b : Half) : (f32 b).isSig = true ↔ F32Signalling b := by
  rw [f32_eq, F32Signalling, F32Nan, quiet_iff]
  split
  · split <;> simp_all [Val.isSig]
  · simp_all [Val.isSig]

theorem isNan_f32_of_fin {b : Half} (h : f32Exp b ≠ 255) : (f32 b).isNan = false := by
  rw [f32_of_fin b h]
  rfl

section
variable (rm : Rm) (x y : Half)

theorem any_isSig_two : [f32 x, f32 y].any Val.isSig = true ↔ F32Signalling x ∨ F32Signalling y := by
  simp [isSig_f32]

theorem any_isSig_one : [f32 x].any Val.isSig = true ↔ F32Signalling x := by
  simp [isSig_f32]

theorem val_add_nan_left (s : Bool) (v : Val) : Val.add rm (.nan s) v = (.nan false, 0) := by
  cases v <;> rfl

theorem val_add_nan_right (v : Val) (s : Bool) : Val.add rm v (.nan s) = (.nan false, 0) := by
  cases v <;> rfl

theorem val_mul_nan_left (s : Bool) (v : Val) : Val.mul (.nan s) v = (.nan false, 0) := by
  cases v <;> rfl

theorem val_mul_nan_right (v : Val) (s : Bool) : Val.mul v (.nan s) = (.nan false, 0) := by
  cases v <;> rfl

theorem val_mul_inf_fin (a n : Bool) (m : Nat) (e : Int) :
    Val.mul (.inf a) (.fin n m e) = if m == 0 then (.nan false, flNV) else (.inf (a != n), 0) := rfl

theorem finish_nan (fl : BitVec 5) : finish rm (.nan false, 0) fl = (0x7FC00000, fl) :=
  congrArg (Prod.mk f32Nan) (BitVec.zero_or (x := fl))

theorem finish_invalid : finish rm (.nan false, flNV) 0 = (0x7FC00000, flNV) := rfl

theorem finish_inf (n : Bool) : finish rm (.inf n, 0) 0 = (f32Inf n, 0) := by
  simp only [finish, toF32_inf, BitVec.or_self]

variable {x y} (h : F32Nan x ∨ F32Nan y)
include h

theorem f32Add_nan : f32Add rm x y = (0x7FC00000, sigFlag [f32 x, f32 y]) := by
  rw [f32Add, ← finish_nan rm]
  congr 1
  rcases h with h | h
  · rw [h.val, val_add_nan_left]
  · rw [h.val, val_add_nan_right]

theorem f32Sub_nan : f32Sub rm x y = (0x7FC00000, sigFlag [f32 x, f32 y]) := by
  rw [f32Sub, ← finish_nan rm]
  congr 1
  rcases h with h | h
  · rw [h.val, val_add_nan_left]
  · rw [h.val, Val.neg, val_add_nan_right]

theorem f32Mul_nan : f32Mul rm x y = (0x7FC00000, sigFlag [f32 x, f32 y]) := by
  rw [f32Mul, ← finish_nan rm]
  congr 1
  rcases h with h | h
  · rw [h.val, val_mul_nan_left]
  · rw [h.val, val_mul_nan_right]

theorem f32Div_nan : f32Div rm x y = (0x7FC00000, sigFlag [f32 x, f32 y]) := by
  unfold f32Div
  rcases h with h | h
  · rw [h.val]
    cases f32 y <;> rfl
  · rw [h.val]
    cases f32 x <;> rfl

theorem isNan_or_of_nan : ((f32 x).isNan || (f32 y).isNan) = true := by
  rw [Bool.or_eq_true, isNan_f32, isNan_f32]
  exact h

theorem f32Min_nan : f32Min x y = (0x7FC00000, sigFlag [f32 x, f32 y]) := if_pos (isNan_or_of_nan h)

theorem f32Max_nan : f32Max x y = (0x7FC00000, sigFlag [f32 x, f32 y]) := if_pos (isNan_or_of_nan h)

end

/-! ### The sign of a word -/

theorem f32_xor_sign (b : Half) : f32 (b ^^^ 0x80000000) = (f32 b).neg := by
  have he : f32Exp (b ^^^ 0x80000000) = f32Exp b := by
    rw [f32Exp, BitVec.extractLsb'_xor, f32Exp]
    exact congrArg BitVec.toNat BitVec.xor_zero
  have hf : f32Frac (b ^^^ 0x80000000) = f32Frac b := by
    rw [f32Frac, BitVec.extractLsb'_xor, f32Frac]
    exact congrArg BitVec.toNat BitVec.xor_zero
  have hs : (b ^^^ 0x80000000).getLsbD 31 = !b.getLsbD 31 := by
    rw [BitVec.getLsbD_xor]
    exact Bool.xor_true _
  rw [f32_eq, f32_eq, f32Sig, f32Unit, he, hf, hs]
  split
  · split <;> rfl
  · rfl

theorem isSig_neg (v : Val) : v.neg.isSig = v.isSig := by
  cases v <;> rfl

theorem f32Sub_eq (rm : Rm) (x y : Half) : f32Sub rm x y = f32Add rm x (y ^^^ 0x80000000) := by
  have hsig : sigFlag [f32 x, (f32 y).neg] = sigFlag [f32 x, f32 y] := by
    simp [sigFlag, isSig_neg]
  rw [f32Sub, f32Add, f32_xor_sign, hsig]

/-! ### Infinities and zeros -/

section
variable {rm : Rm} {x y : Half}

theorem f32Add_inf_left (hx : F32IsInf x) (hy : f32Exp y ≠ 255) : f32Add rm x y = (x, 0) := by
  rw [f32Add, hx.val, f32_of_fin y hy]
  refine (finish_inf rm _).trans ?_
  rw [← hx.word]

theorem f32Add_inf_right (hx : F32IsInf x) (hy : f32Exp y ≠ 255) : f32Add rm y x = (x, 0) := by
  rw [f32Add, hx.val, f32_of_fin y hy]
  refine (finish_inf rm _).trans ?_
  rw [← hx.word]

theorem f32Add_inf_inf (hx : F32IsInf x) (hy : F32IsInf y) :
    f32Add rm x y = if x = y then (x, 0) else (0x7FC00000, flNV) := by
  rw [f32Add, hx.val, hy.val]
  by_cases h : x = y
  · subst h
    rw [if_pos rfl, Val.add, if_pos (beq_self_eq_true _)]
    refine (finish_inf rm _).trans ?_
    rw [← hx.word]
  · have hs : x.getLsbD 31 ≠ y.getLsbD 31 := fun hs => h (by rw [hx.word, hy.word, hs])
    rw [if_neg h, Val.add, if_neg (mt beq_iff_eq.1 hs)]
    exact finish_invalid rm

theorem f32Mul_inf (hx : F32IsInf x) (hy : ¬ F32Nan y) : f32Mul rm x y
    = if f32Exp y ≠ 255 ∧ f32Num y = 0 then (0x7FC00000, flNV) else ((x ^^^ y) &&& 0x80000000 ||| 0x7F800000, 0) := by
  rw [f32Mul, hx.val, xor_and_signBit]
  by_cases hf : f32Exp y ≠ 255
  · rw [f32_of_fin y hf, val_mul_inf_fin]
    by_cases h0 : f32Num y = 0
    · rw [if_pos (beq_iff_eq.2 ((f32Num_eq_zero_iff y).1 h0)), if_pos ⟨hf, h0⟩]
      exact finish_invalid rm
    · rw [if_neg (mt (beq_iff_eq.trans (f32Num_eq_zero_iff y).symm).1 h0), if_neg (mt And.right h0)]
      exact finish_inf rm _
  · rw [(isInf_of_not_nan hy hf).val, if_neg (mt And.left hf)]
    exact finish_inf rm _

theorem f32Div_inf (hx : F32IsInf x) (hy : ¬ F32Nan y) : f32Div rm x y
    = if f32Exp y = 255 ∧ f32Frac y = 0 then (0x7FC00000, flNV) else ((x ^^^ y) &&& 0x80000000 ||| 0x7F800000, 0) := by
  rw [f32Div, hx.val, xor_and_signBit]
  by_cases hf : f32Exp y ≠ 255
  · rw [f32_of_fin y hf, if_neg (mt And.left hf)]
    exact toF32_inf rm _
  · have hi := isInf_of_not_nan hy hf
    rw [hi.val]
    exact (if_pos hi).symm

theorem f32Div_fin_inf (hx : f32Exp x ≠ 255) (hy : F32IsInf y) : f32Div rm x y = ((x ^^^ y) &&& 0x80000000, 0) := by
  rw [f32Div, f32_of_fin x hx, hy.val, xor_and_signBit]
  exact toF32_zero rm _ 0

theorem f32Div_zero (hy : f32Exp y ≠ 255) (hx0 : f32Num x = 0) (hy0 : f32Num y ≠ 0) :
    f32Div rm x y = ((x ^^^ y) &&& 0x80000000, 0) := by
  have hs := (f32Num_eq_zero_iff x).1 hx0
  have hx : f32Exp x ≠ 255 := by
    rw [((f32Sig_eq_zero_iff x).1 hs).1]
    exact Nat.zero_ne_add_one 254
  rw [f32Div, f32_of_fin x hx, f32_of_fin y hy, xor_and_signBit]
  exact (if_neg (mt (f32Num_eq_zero_iff y).2 hy0)).trans ((if_pos hs).trans (toF32_zero rm _ 0))

theorem f32Div_by_zero (hx : f32Exp x ≠ 255) (hy : f32Exp y ≠ 255) (hy0 : f32Num y = 0) : f32Div rm x y
    = if f32Num x = 0 then (0x7FC00000, flNV) else ((x ^^^ y) &&& 0x80000000 ||| 0x7F800000, flDZ) := by
  rw [f32Div, f32_of_fin x hx, f32_of_fin y hy, xor_and_signBit]
  refine (if_pos ((f32Num_eq_zero_iff y).1 hy0)).trans (if_congr (f32Num_eq_zero_iff x).symm rfl ?_)
  rw [toF32_inf]
  rfl

end

/-! ### Order -/

section
variable {x y : Half}

theorem lt_f32 (hx : f32Exp x ≠ 255) (hy : f32Exp y ≠ 255) : Val.lt (f32 x) (f32 y) = decide (f32Num x < f32Num y) := by
  have hscaled {a b c : ℚ} (hc : 0 < c) : a * c < b * c ↔ a < b := mul_lt_mul_iff_left₀ hc
  rw [f32_of_fin x hx, f32_of_fin y hy, Val.lt]
  refine decide_eq_decide.2 ?_
  rw [← Int.cast_lt (R := ℚ), ← hscaled (zpow_pos two_pos (min (f32Unit x) (f32Unit y))), intAt_mul_zpow _ _ (min_le_left _ _),
    intAt_mul_zpow _ _ (min_le_right _ _), scaled_f32, scaled_f32, hscaled (zpow_pos two_pos (-149)), Int.cast_lt]

variable (hx : f32Exp x ≠ 255) (hy : f32Exp y ≠ 255) (h : f32Num x < f32Num y)
include hx hy h

theorem lt_f32_true : Val.lt (f32 x) (f32 y) = true := (lt_f32 hx hy).trans (decide_eq_true h)

theorem lt_f32_false : Val.lt (f32 y) (f32 x) = false := (lt_f32 hy hx).trans (decide_eq_false (not_lt_of_gt h))

theorem f32Min_of_lt : f32Min x y = (x, 0) ∧ f32Min y x = (x, 0) := by
  simp [f32Min, isNan_f32_of_fin hx, isNan_f32_of_fin hy, lt_f32_true hx hy h, lt_f32_false hx hy h]

theorem f32Max_of_lt : f32Max x y = (y, 0) ∧ f32Max y x = (y, 0) := by
  simp [f32Max, isNan_f32_of_fin hx, isNan_f32_of_fin hy, lt_f32_true hx hy h, lt_f32_false hx hy h]

end

end Sys2Proof.Machine
end

section
/-!
SUPPORT. The manual's worked values of binary32, and the cases of its arithmetic together (R192, R198, R201).
-/

namespace Sys2Proof.Machine

section
variable (rm : Rm)

theorem worked_sums : f32Add rm 0x3F800000 0x3F800000 = (0x40000000, 0) ∧ f32Add rm 0x40490FDB 0 = (0x40490FDB, 0)
    ∧ f32Mul rm 0x40490FDB 0x3F800000 = (0x40490FDB, 0) ∧ f32Sub rm 0x40400000 0x3F800000 = (0x40000000, 0)
    ∧ f32Add rm 0x7FC00001 0x3F800000 = (0x7FC00000, 0) ∧ f32Add rm 0x7F800001 0x3F800000 = (0x7FC00000, flNV)
    ∧ f32Sub rm 0x7F800000 0x7F800000 = (0x7FC00000, flNV) := by
  cases rm <;> decide +kernel

theorem worked_quotients_roots : f32Div rm 0x3F800000 0x80000000 = (0xFF800000, flDZ)
    ∧ f32Div rm 0 0 = (0x7FC00000, flNV) ∧ f32Fma rm false 0x3F800000 0x40000000 0x40400000 = (0x40E00000, 0)
    ∧ f32Sqrt rm 0x40800000 = (0x40000000, 0) ∧ f32Rsq rm 0x40800000 = (0x3F000000, 0)
    ∧ f32Sqrt rm 0xBF800000 = (0x7FC00000, flNV)
    ∧ f32Max 0x7FC00000 0x3F800000 = f32Max 0x3F800000 0x7FC00000 := by
  cases rm <;> decide +kernel

end

theorem worked_zero_order : f32Min 0 0x80000000 = (0x80000000, 0) ∧ f32Min 0x80000000 0 = (0x80000000, 0)
    ∧ f32Max 0 0x80000000 = (0, 0) ∧ f32Max 0x80000000 0 = (0, 0) := by
  decide +kernel

theorem worked_conversions {f : Fmt} (hf : fmtOf [] 8 = some f) :
    (convert (f32 0x3F880000) f .rne .sat 0).bits = 0x38 ∧ (convert (f32 0x43FA0000) f .rne .sat 0).bits = 0x7E
      ∧ (convert (f32 0x3B400000) f .rne .sat 0).bits = 0x02 ∧ (convert (f32 0x7FC00000) f .rne .sat 0).bits = 0x7F
      ∧ (convert (f32 0x3F880000) f .rne .sat 0).flags = flIX ∧ (convert (f32 0x43FA0000) f .rne .sat 0).flags = flOF ||| flIX
      ∧ (convert (f32 0x3B400000) f .rne .sat 0).flags = flUF ||| flIX := by
  obtain ⟨⟩ := hf
  decide +kernel

theorem worked_reduction_draws : redAddF .rne [0x4B800000, 0x3F800000, 0x3F800000, 0xCB800000] = (0x40000000, 0)
    ∧ gen 0 0 = 0 ∧ gen 0 1 = 0x90218008 ∧ gen 0x100000000 0 = 0x8019C430 := by
  decide +kernel

/-- Settles O24: an exact result is a multiple of the last place of the rounding, so rounding leaves it; the special operands
are the cases of the model's operations. -/
theorem binaryArithmeticCases : Obligations.BinaryArithmeticCases := by
  refine ⟨?_, fun rm _ => ?_, fun f hf => worked_conversions hf, worked_reduction_draws⟩
  · intro rm x y a z _ exp frac num fin inf nan signalling invalid sign isExact
    have hinvalid : sigFlag [f32 x, f32 y] = invalid := if_congr (any_isSig_two x y) rfl rfl
    have hsig : sigFlag [f32 x] = if signalling x then flNV else 0 := if_congr (any_isSig_one x) rfl rfl
    refine ⟨?add, ?sub, ?mul, ?div, ?sqrt, ?fma, ?addZero, ?mulZero, ?divZero, ?subAdd, ?nan, ?infFin, ?infInf, ?mulInf, ?divInf,
      ?divFinInf, ?divByZero, ?order, worked_zero_order, ?abs, ?neg⟩
    case add => exact fun hx hy ⟨hz, h0, h⟩ => f32Add_exact rm hx hy hz h0 h
    case sub => exact fun hx hy ⟨hz, h0, h⟩ => f32Sub_exact rm hx hy hz h0 h
    case mul => exact fun hx hy hz h0 h => f32Mul_exact rm hx hy hz h0 h
    case div => exact fun hx hy hz h0 hy0 h => f32Div_exact rm hx hy hz h0 hy0 h
    case sqrt => exact fun hx hz h0 h => f32Sqrt_exact rm hx hz h0 h
    case fma => exact fun ha hx hy hz h0 h => f32Fma_exact rm hx hy ha hz h0 h
    case addZero => exact fun hx hy h => f32Add_zero rm hx hy h
    case mulZero => exact fun hx hy h => f32Mul_zero rm hx hy h
    case divZero => exact fun hy hx0 hy0 => f32Div_zero hy hx0 hy0
    case subAdd => exact fun _ => f32Sub_eq rm x y
    case nan =>
      intro h
      rw [← hinvalid]
      exact ⟨f32Add_nan rm h, f32Sub_nan rm h, f32Mul_nan rm h, f32Div_nan rm h, f32Min_nan h, f32Max_nan h⟩
    case infFin => exact fun hx hy => ⟨f32Add_inf_left hx hy, f32Add_inf_right hx hy⟩
    case infInf => exact fun hx hy => f32Add_inf_inf hx hy
    case mulInf => exact fun hx hy => f32Mul_inf hx hy
    case divInf => exact fun hx hy => f32Div_inf hx hy
    case divFinInf => exact fun hx hy => f32Div_fin_inf hx hy
    case divByZero => exact fun hx hy hy0 => f32Div_by_zero hx hy hy0
    case order =>
      intro hx hy h
      obtain ⟨hmin, hmin'⟩ := f32Min_of_lt hx hy h
      obtain ⟨hmax, hmax'⟩ := f32Max_of_lt hx hy h
      exact ⟨hmin, hmax, hmin', hmax'⟩
    case abs =>
      rw [← hsig]
      exact if_congr (isNan_f32 x) rfl rfl
    case neg =>
      rw [← hsig]
      exact if_congr (isNan_f32 x) rfl rfl
  · obtain ⟨h1, h2, h3, h4, h5, h6, h7⟩ := worked_sums rm
    exact ⟨h1, h2, h3, h4, h5, h6, h7, worked_quotients_roots rm⟩

end Sys2Proof.Machine
end

section
/-!
SUPPORT. Outcomes of issue that wait or trap with a state of their own; memory of the reset state (O2); ACOPY (O36).
-/

namespace Sys2Proof.Machine

/-- Settles O2: nothing is listed after reset, so every byte reads as an unlisted one. -/
theorem resetMemoryCanonical : Obligations.ResetMemoryCanonical := by
  refine ⟨State.reset_memOk, fun p => ?_⟩
  have hkeys : State.reset.drawOf p = none := by
    unfold State.drawOf
    split <;> rfl
  rw [State.byteAt, hkeys]
  rfl

/-! ### Outcomes that wait or trap with a state of their own -/

section
variable {s s1 : State} {t : Task} {i : Instr} {keys : Context → List Nat} {body : State → Task → Res}

theorem completes_of_wait {code : Nat} (he : exec i s = .next (issue i keys body s)) (hb : body s t = .wait s1 code) :
    Completes s t i (keys s.ctx) (s1.showWait s.cur code) := fun h => by
  rw [he, issue_settles h, hb]
  rfl

theorem completes_of_trap {cause : Nat} {info : Word} (he : exec i s = .next (issue i keys body s))
    (hb : body s t = .trap s1 cause info) :
    Completes s t i (keys s.ctx) (s1.syncTrap s.cur t cause info s.ctx.pc (s.nextPc s.cur s.ctx.pc (words i))) := fun h => by
  rw [he, issue_settles h, hb]
  rfl

end

/-! ### ACOPY (R109 to R111, R216) -/

theorem copyOverlap_eq_false {a b : Word} {n : Nat} : copyOverlap a b n = false ↔ n ≤ (a - b).toNat ∧ n ≤ (b - a).toNat := by
  simp [copyOverlap]

/-- The slot ACOPY takes is the lowest one that is free. -/
theorem find?_copySlot {cs : Sparse Copy} {j : Nat} (hj : j < 512) (hfree : (Sparse.find cs j).isNone = true)
    (htaken : ∀ m, m < j → (Sparse.find cs m).isSome = true) :
    (List.range Config.copySlots).find? (fun j => (Sparse.find cs j).isNone) = some j :=
  List.find?_range_eq_some.mpr ⟨hfree, List.mem_range.mpr hj, fun m hm => by
    rw [← Option.not_isSome, htaken m hm]
    rfl⟩

theorem find?_copySlot_none {cs : Sparse Copy} (htaken : ∀ m, m < 512 → (Sparse.find cs m).isSome = true) :
    (List.range Config.copySlots).find? (fun j => (Sparse.find cs j).isNone) = none :=
  List.find?_eq_none.mpr fun m hm => by
    rw [← Option.not_isSome, htaken m (List.mem_range.mp hm)]
    exact Bool.false_ne_true

section
variable {s : State} {t : Task} {a b c e : XReg} {f : Option XReg} {scope : Scope} {disp : BitVec 32}

theorem traps_acopy_range (h : 2 ^ 32 ≤ (s.ctx.x c).toNat ∨ copyOverlap (s.ctx.x a) (s.ctx.x b) (s.ctx.x c).toNat = true) :
    Traps s t (.acopy a b c e f scope disp) (keysOf ([a, b, c, e] ++ f.toList) s.ctx) cIllegal
      (word0 (.acopy a b c e f scope disp)) :=
  traps_of_trap (keys := keysOf ([a, b, c, e] ++ f.toList)) rfl (if_pos (by simpa using h))

section
variable (hn : (s.ctx.x c).toNat < 0x100000000) (ho : copyOverlap (s.ctx.x a) (s.ctx.x b) (s.ctx.x c).toNat = false)
include hn ho

theorem traps_acopy_misaligned (hm : (s.ctx.eaDisp e disp).toNat % (if f.isSome then 8 else 16) ≠ 0) :
    Traps s t (.acopy a b c e f scope disp) (keysOf ([a, b, c, e] ++ f.toList) s.ctx) cMisaligned (s.ctx.eaDisp e disp) :=
  traps_of_trap (keys := keysOf ([a, b, c, e] ++ f.toList)) rfl (by simp [Nat.not_le.mpr hn, ho, hm])

variable (hm : (s.ctx.eaDisp e disp).toNat % (if f.isSome then 8 else 16) = 0)
include hm

theorem traps_acopy_far (hw : 0x1400000 ≤ (s.ctx.eaDisp e disp).toNat) :
    Traps s t (.acopy a b c e f scope disp) (keysOf ([a, b, c, e] ++ f.toList) s.ctx) cProtection (s.ctx.eaDisp e disp) :=
  traps_of_trap (keys := keysOf ([a, b, c, e] ++ f.toList)) rfl (by
    simp [Nat.not_le.mpr hn, ho, hm, nearWindow, Nat.not_lt.mpr hw])

variable {p : Nat} (hw : (s.ctx.eaDisp e disp).toNat < 0x1400000) (hs : oneWindow (s.ctx.x b) (s.ctx.x c).toNat = true)
  (hd : oneWindow (s.ctx.x a) (s.ctx.x c).toNat = true)
  (hp : s.checkAccess s.cur t (s.ctx.eaDisp e disp) (if f.isSome then 8 else 16) (if f.isSome then 8 else 16) .store = .ok p)
include hw hs hd hp

theorem completes_acopy_full (hk : ∀ m, m < 512 → (Sparse.find (s.core s.cur).copies m).isSome = true) :
    Completes s t (.acopy a b c e f scope disp) (keysOf ([a, b, c, e] ++ f.toList) s.ctx) (s.waits wCopySlots) :=
  completes_of_wait (keys := keysOf ([a, b, c, e] ++ f.toList)) rfl (by
    simp [Nat.not_le.mpr hn, ho, hm, nearWindow, hw, hs, hd, hp, find?_copySlot_none hk])

/-- The copy that ACOPY asks for, with the place of its completion word. -/
def State.askedCopy (s : State) (t : Task) (a b c : XReg) (f : Option XReg) (scope : Scope) (p : Nat) : Copy :=
  ⟨t.serial, t.part, t.ctx, t.clustered, t.graph, t.load, s.ctx.x b, s.ctx.x a, (s.ctx.x c).toNat, f.map s.ctx.x, p, scope, 0,
    .moving, (s.core s.cur).engines, none, 0, [], 0, [], []⟩

variable {j : Nat} (hfree : (List.range Config.copySlots).find? (fun j => (Sparse.find (s.core s.cur).copies j).isNone) = some j)
  (hx : s.ctx.settling = false)
include hfree hx

theorem completes_acopy_slot :
    Completes s t (.acopy a b c e f scope disp) (keysOf ([a, b, c, e] ++ f.toList) s.ctx)
      (s.after t (.acopy a b c e f scope disp) (if (s.ctx.x c).toNat = 0 then s.creditCopy (s.askedCopy t a b c f scope p)
        else s.setCore s.cur { s.core s.cur with
          copies := (s.core s.cur).copies.set j (s.askedCopy t a b c f scope p), engines := (s.core s.cur).engines + 1 })) :=
  completes_of_done (keys := keysOf ([a, b, c, e] ++ f.toList)) rfl (by
    simp [Nat.not_le.mpr hn, ho, hm, nearWindow, hw, hs, hd, hp, hfree, hx, State.askedCopy, apply_ite Res.done])

end

end

/-- Settles O36: the checks of ACOPY in their order, and then the first free slot. -/
theorem copiesIssue : Obligations.CopiesIssue := by
  intro s t a b c e f scope disp x dst src n w u i ks k apart cp
  refine ⟨fun h => traps_acopy_range (h.imp_right fun ho => ?_),
    fun hn ha => traps_acopy_misaligned hn (copyOverlap_eq_false.mpr ha),
    fun hn ha => traps_acopy_far hn (copyOverlap_eq_false.mpr ha), fun p hn ha hm hw hs hd hp => ⟨fun j hj hfree htaken hx => ?_,
      completes_acopy_full hn (copyOverlap_eq_false.mpr ha) hm hw hs hd hp⟩⟩
  · rwa [← Bool.not_eq_false, copyOverlap_eq_false]
  · have hslot := find?_copySlot hj hfree htaken
    have h := completes_acopy_slot (e := e) (scope := scope) (disp := disp) hn (copyOverlap_eq_false.mpr ha) hm hw hs hd hp hslot hx
    exact ⟨fun h0 => by rwa [if_pos h0] at h, fun h0 => by rwa [if_neg h0] at h⟩

end Sys2Proof.Machine
end

section
/-!
SUPPORT. Marking a cluster's banks as reached from outside; accesses at issue that are allowed; barrier objects (O37).
-/

namespace Sys2Proof.Machine

/-! ### What an access of the cluster window marks (R21) -/

theorem State.markRemote_induction {P : State → Prop} {s : State} (core : Nat) (t : Task) (a : Nat) (h : P s)
    (hstep : ∀ u j, P u → P (u.setBank j { u.bank j with remote := true })) : P (s.markRemote core t a) := by
  unfold State.markRemote
  split
  · split
    · refine List.foldlRecOn _ _ h fun u hu k _ => ?_
      dsimp only
      split
      · exact hstep u _ hu
      · exact hu
    · exact h
  · exact h

theorem State.markRemote_eq (s : State) (core : Nat) (t : Task) (a : Nat) :
    ∃ cs, s.markRemote core t a = { s with cores := cs } :=
  State.markRemote_induction (P := fun u => ∃ cs, u = { s with cores := cs }) core t a ⟨s.cores, rfl⟩
    fun _ _ ⟨_, h⟩ => h ▸ ⟨_, rfl⟩

@[simp] theorem State.markRemote_cur (s : State) (core : Nat) (t : Task) (a : Nat) : (s.markRemote core t a).cur = s.cur := by
  obtain ⟨cs, h⟩ := s.markRemote_eq core t a
  rw [h]

theorem State.bank_markRemote (s : State) (core : Nat) (t : Task) (a j : Nat) :
    ∃ r, (s.markRemote core t a).bank j = { s.bank j with remote := r } := by
  refine State.markRemote_induction (P := fun u => ∃ r, u.bank j = { s.bank j with remote := r }) core t a ⟨_, rfl⟩ ?_
  rintro u i ⟨r, h⟩
  by_cases hj : j = i
  · subst hj
    exact ⟨true, by rw [State.bank_setBank, h]⟩
  · exact ⟨r, by rw [State.bank_setBank_ne _ _ hj, h]⟩

theorem State.ctx_markRemote (s : State) (core : Nat) (t : Task) (a : Nat) :
    ∃ r, (s.markRemote core t a).ctx = { s.ctx with remote := r } := by
  unfold State.ctx
  rw [State.markRemote_cur]
  exact s.bank_markRemote core t a s.cur

theorem State.markRemote_of_not_clustered (s : State) (core : Nat) {t : Task} (a : Nat) (h : t.clustered = false) :
    s.markRemote core t a = s := by
  unfold State.markRemote
  split
  · simp [h]
  · rfl

theorem State.natAt_cores (s : State) (cs : Sparse Core) (p n : Nat) : ({ s with cores := cs } : State).natAt p n = s.natAt p n := by
  induction n generalizing p with
  | zero => rfl
  | succ n ih =>
    rw [State.natAt, State.natAt, ih]
    rfl

theorem State.natAt_markRemote (s : State) (core : Nat) (t : Task) (a p n : Nat) :
    (s.markRemote core t a).natAt p n = s.natAt p n := by
  obtain ⟨cs, h⟩ := s.markRemote_eq core t a
  rw [h, State.natAt_cores]

theorem State.poisonPast_markRemote (s : State) (core : Nat) (t : Task) (a : Nat) (es : List Entry) (xs : List Span) :
    (s.markRemote core t a).poisonPast es xs = s.poisonPast es xs := by
  obtain ⟨cs, h⟩ := s.markRemote_eq core t a
  rw [h]
  rfl

theorem State.ctx_fly_markRemote (s : State) (core : Nat) (t : Task) (a : Nat) :
    (s.markRemote core t a).ctx.fly = s.ctx.fly := by
  obtain ⟨r, h⟩ := s.ctx_markRemote core t a
  rw [h]

/-! ### No copy in flight -/

theorem Sparse.mem_of_find {α : Type} {m : Sparse α} {k : Nat} {v : α} (h : Sparse.find m k = some v) : (k, v) ∈ m := by
  induction m with
  | nil => cases h
  | cons e m ih =>
    unfold Sparse.find at h
    split at h
    · next hk =>
      cases h
      exact hk ▸ .head m
    · exact .tail e (ih h)

/-- No core has a copy. -/
def State.noCopies (s : State) : Prop := ∀ y ∈ s.cores, y.2.copies = []

theorem State.copies_core {s : State} (h : s.noCopies) (j : Nat) : (s.core j).copies = [] := by
  unfold State.core
  rw [Sparse.get_eq_find]
  cases hf : Sparse.find s.cores j with
  | none => rfl
  | some k => exact h (j, k) (Sparse.mem_of_find hf)

theorem State.noCopies_markRemote {s : State} (core : Nat) (t : Task) (a : Nat) (h : s.noCopies) :
    (s.markRemote core t a).noCopies :=
  State.markRemote_induction core t a h fun u j hu y hy => by
    obtain rfl | hy := Sparse.mem_set u.cores j _ y hy
    · exact State.copies_core hu j
    · exact hu y hy

theorem State.copiesTo_of_noCopies {s : State} (h : s.noCopies) (p : Nat) : s.copiesTo p = [] :=
  List.flatMap_eq_nil_iff.mpr fun y hy => by simp [h y hy]

/-! ### An access at issue that its checks allow -/

section
variable {s : State} {t : Task} {a : Word} {n u p : Nat} {kind : AccKind}

theorem State.access_of_ok (hp : s.checkAccess s.cur t a n u kind = .ok p)
    (hclean : kind ≠ .store → s.poisonPast s.ctx.fly [⟨p, n, false⟩] = none) (k : State → Nat → Res) :
    s.access t a n u kind k = k (s.markRemote s.cur t a.toNat) p := by
  unfold State.access State.place
  rw [hp]
  cases kind with
  | load | atomic =>
    simp [State.clean, State.ctx_fly_markRemote, State.poisonPast_markRemote, hclean]
  | store | sidecar => simp

/-- Nothing the task has issued or that a trap has captured stands before an access at issue. -/
def Context.first (c : Context) : Prop := c.fly = [] ∧ ∀ y ∈ c.rq ++ c.susp, c.trapst = true ∧ y.hand = false

theorem Context.captured_of_first {c : Context} (h : c.first) {e : Entry} (he : e.hand = c.trapst) : c.captured e = [] := by
  obtain ⟨-, hbehind⟩ := h
  refine List.filter_eq_nil_iff.mpr fun y hy => ?_
  obtain ⟨ht, hhand⟩ := hbehind y hy
  simp [Entry.ahead, hhand, he, ht]

theorem State.mustWait_of_first {e : Entry} (h : s.ctx.first) (he : e.hand = s.ctx.trapst) : s.mustWait t e = false := by
  have hcaptured := Context.captured_of_first h he
  obtain ⟨hfly, -⟩ := h
  simp [State.mustWait, Context.mayPerform, hcaptured, hfly, placeAll, blockedBy]

theorem State.first_markRemote (h : s.ctx.first) (core : Nat) (x : Nat) : (s.markRemote core t x).ctx.first := by
  obtain ⟨r, hr⟩ := s.ctx_markRemote core t x
  rw [hr]
  exact h

end

/-! ### Barrier objects (R110, R217) -/

theorem State.barObj_markRemote (s : State) (core : Nat) (t : Task) (a p : Nat) :
    (s.markRemote core t a).barObj p = s.barObj p := by
  rw [State.barObj, State.natAt_markRemote, State.barObj]

section
variable {s : State} {t : Task} {b c : XReg} {disp : BitVec 32} {scope : Scope}

theorem State.objPlace_of_misaligned {a : Word} {kind : AccKind} {k : State → Nat → Res} (h : a.toNat % 16 ≠ 0) :
    s.objPlace t a kind k = .trap s cMisaligned a :=
  if_pos (bne_iff_ne.mpr h)

theorem State.objPlace_of_ok {a : Word} {kind : AccKind} {k : State → Nat → Res} {p : Nat} (ha : a.toNat % 16 = 0)
    (hw : a.toNat < 0x1400000) (hp : s.checkAccess s.cur t a 16 16 kind = .ok p) (hfly : s.ctx.fly = [])
    (hclean : s.poisonPast [] [⟨p, 16, false⟩] = none) :
    s.objPlace t a kind k = k (s.markRemote s.cur t a.toNat) p := by
  rw [State.objPlace, if_neg (by simp [ha]), if_neg (by simp [nearWindow, hw]), State.access_of_ok hp fun _ => hfly ▸ hclean]

section
variable {i : Instr} {f : BarObj → BitVec 48 → BarObj} (he : exec i s = objOp i b c disp scope f s)
include he

theorem traps_objOp_count (h : 2 ^ 48 ≤ (s.ctx.x c).toNat) : Traps s t i (keysOf [b, c] s.ctx) cIllegal (word0 i) :=
  traps_of_trap (keys := keysOf [b, c]) he (if_pos (by
    rw [bne_iff_ne]
    exact (Nat.div_pos h (by decide)).ne'))

variable (hv : (s.ctx.x c).toNat < 2 ^ 48)
include hv

theorem traps_objOp_misaligned (ha : (s.ctx.eaDisp b disp).toNat % 16 ≠ 0) :
    Traps s t i (keysOf [b, c] s.ctx) cMisaligned (s.ctx.eaDisp b disp) :=
  traps_of_trap (keys := keysOf [b, c]) he (by simp only [Nat.div_eq_of_lt hv, State.objPlace_of_misaligned ha]; rfl)

theorem completes_objOp {p : Nat} (ha : (s.ctx.eaDisp b disp).toNat % 16 = 0) (hw : (s.ctx.eaDisp b disp).toNat < 0x1400000)
    (hfirst : s.ctx.first) (hp : s.checkAccess s.cur t (s.ctx.eaDisp b disp) 16 16 .atomic = .ok p)
    (hclean : s.poisonPast [] [⟨p, 16, false⟩] = none) :
    Completes s t i (keysOf [b, c] s.ctx) (s.after t i ((s.markRemote s.cur t (s.ctx.eaDisp b disp).toNat).setBarObj p
      (f (s.barObj p) ((s.ctx.x c).extractLsb' 0 48)))) := by
  refine completes_of_done (keys := keysOf [b, c]) he ?_
  have hwait := State.mustWait_of_first (t := t) (State.first_markRemote (t := t) hfirst s.cur (s.ctx.eaDisp b disp).toNat)
    (e := Context.entry _ i (.store 8) 0 0 0 (s.ctx.eaDisp b disp) .rel scope [⟨p, 16, true⟩]) rfl
  simp only [Nat.div_eq_of_lt hv, State.objPlace_of_ok ha hw hp hfirst.1 hclean, hwait, State.barObj_markRemote]
  rfl

end

theorem traps_bwait_generation (h : 2 ^ 16 ≤ (s.ctx.x c).toNat) :
    Traps s t (.bwait b c disp scope) (keysOf [b, c] s.ctx) cIllegal (word0 (.bwait b c disp scope)) :=
  traps_of_trap (keys := keysOf [b, c]) rfl (if_pos (by
    rw [bne_iff_ne]
    exact (Nat.div_pos h (by decide)).ne'))

section
variable (hv : (s.ctx.x c).toNat < 2 ^ 16)
include hv

theorem traps_bwait_misaligned (ha : (s.ctx.eaDisp b disp).toNat % 16 ≠ 0) :
    Traps s t (.bwait b c disp scope) (keysOf [b, c] s.ctx) cMisaligned (s.ctx.eaDisp b disp) :=
  traps_of_trap (keys := keysOf [b, c]) rfl (by simp only [Nat.div_eq_of_lt hv, State.objPlace_of_misaligned ha]; rfl)

/-- The generation an object has reached is no earlier than the named one, modulo 2^16. -/
theorem reached_iff (o : BarObj) : o.gen - (s.ctx.x c).extractLsb' 0 16 < 0x8000 ↔
    (o.gen.toNat + 2 ^ 16 - (s.ctx.x c).toNat) % 2 ^ 16 < 2 ^ 15 := by
  rw [BitVec.lt_def, BitVec.toNat_sub, BitVec.extractLsb'_toNat, Nat.shiftRight_zero, Nat.mod_eq_of_lt hv]
  have hgen := o.gen.isLt
  change (2 ^ 16 - (s.ctx.x c).toNat + o.gen.toNat) % 2 ^ 16 < 2 ^ 15 ↔ _
  omega

variable {p : Nat} (ha : (s.ctx.eaDisp b disp).toNat % 16 = 0) (hw : (s.ctx.eaDisp b disp).toNat < 0x1400000)
  (hfirst : s.ctx.first) (hp : s.checkAccess s.cur t (s.ctx.eaDisp b disp) 16 16 .load = .ok p)
  (hclean : s.poisonPast [] [⟨p, 16, false⟩] = none)
include ha hw hfirst hp hclean

theorem completes_bwait_reached (hgen : (s.barObj p).gen - (s.ctx.x c).extractLsb' 0 16 < 0x8000) :
    Completes s t (.bwait b c disp scope) (keysOf [b, c] s.ctx)
      (s.after t (.bwait b c disp scope) (s.markRemote s.cur t (s.ctx.eaDisp b disp).toNat)) := by
  refine completes_of_done (keys := keysOf [b, c]) rfl ?_
  have hwait := State.mustWait_of_first (t := t) (State.first_markRemote (t := t) hfirst s.cur (s.ctx.eaDisp b disp).toNat)
    (e := Context.entry _ (.bwait b c disp scope) (.load 8 false (.g 0)) 0 0 0 (s.ctx.eaDisp b disp) .plain .core [⟨p, 16, false⟩]) rfl
  simp only [Nat.div_eq_of_lt hv, State.objPlace_of_ok ha hw hp hfirst.1 hclean, hwait, State.barObj_markRemote, hgen]
  rfl

theorem completes_bwait_waits (hgen : ¬ (s.barObj p).gen - (s.ctx.x c).extractLsb' 0 16 < 0x8000) (hcopies : s.noCopies) :
    Completes s t (.bwait b c disp scope) (keysOf [b, c] s.ctx)
      ((s.markRemote s.cur t (s.ctx.eaDisp b disp).toNat).waits wBarrier) := by
  have hwait := State.mustWait_of_first (t := t) (State.first_markRemote (t := t) hfirst s.cur (s.ctx.eaDisp b disp).toNat)
    (e := Context.entry _ (.bwait b c disp scope) (.load 8 false (.g 0)) 0 0 0 (s.ctx.eaDisp b disp) .plain .core [⟨p, 16, false⟩]) rfl
  have hnone := State.copiesTo_of_noCopies (State.noCopies_markRemote s.cur t (s.ctx.eaDisp b disp).toNat hcopies) p
  rw [State.waits, State.markRemote_cur]
  refine completes_of_wait (keys := keysOf [b, c]) rfl ?_
  simp only [Nat.div_eq_of_lt hv, State.objPlace_of_ok ha hw hp hfirst.1 hclean, hwait, State.barObj_markRemote, hgen, hnone]
  rfl

end

theorem exec_binit : exec (.binit b c disp scope) s =
    objOp (.binit b c disp scope) b c disp scope (fun _ n => ⟨0, 0, n != 0, n⟩) s := rfl

theorem exec_bexpect : exec (.bexpect b c disp scope) s =
    objOp (.bexpect b c disp scope) b c disp scope (fun o n => ({ o with need := o.need + n, armed := true }).settle) s := rfl

end

theorem BarObj.settle_eq (o : BarObj) :
    o.settle = if o.armed = true ∧ o.need.toNat ≤ o.credit.toNat then ⟨o.gen + 1, o.credit - o.need, false, 0⟩ else o :=
  if_congr (by simp) rfl rfl

/-- Settles O37: BINIT and BEXPECT are one update of the object, BWAIT compares its generation. -/
theorem barrierObjects : Obligations.BarrierObjects := by
  intro s t b c disp scope x v ea ks s1 old settle put n first
  have hbits {i : Instr} {p : Nat} {o o' : BarObj} (ho : o = o') (h : Completes s t i ks (s.after t i (s1.setBarObj p o))) :
      put i p o' := ho ▸ h
  refine ⟨fun hv => ⟨traps_objOp_count exec_binit hv, traps_objOp_count exec_bexpect hv⟩, traps_bwait_generation, fun hv ha => ?_,
    fun p hv ha hw hfirst => ⟨fun hp hclean => ⟨?init, ?expect⟩, fun hp hclean hg => ⟨fun hgen => ?_, fun hgen hcopies => ?_⟩⟩⟩
  · have hv' : v.toNat < 2 ^ 48 := by omega
    exact ⟨traps_objOp_misaligned exec_binit hv' ha, traps_objOp_misaligned exec_bexpect hv' ha, traps_bwait_misaligned hv ha⟩
  case init =>
    refine hbits ?_ (completes_objOp exec_binit hv ha hw hfirst hp hclean)
    congr
    exact Bool.eq_iff_iff.mpr (bne_iff_ne.trans decide_eq_true_iff.symm)
  case expect =>
    exact hbits (BarObj.settle_eq _) (completes_objOp exec_bexpect hv ha hw hfirst hp hclean)
  · exact completes_bwait_reached hg ha hw hfirst hp hclean ((reached_iff hg _).mpr hgen)
  · exact completes_bwait_waits hg ha hw hfirst hp hclean (fun h => Nat.not_lt.mpr hgen ((reached_iff hg _).mp h)) hcopies

end Sys2Proof.Machine
end

section
/-!
SUPPORT. Stream commands: SBIND, SGATE, SWAIT (O33).
-/

namespace Sys2Proof.Machine

/-! ### The sidecar lines that generators hold (R107) -/

/-- A stream without the sidecar lines it holds. -/
def Stream.bare (x : Stream) : Stream := { x with lines := [] }

theorem Sparse.get_map {α β : Type} (f : α → β) (d : α) (m : Sparse α) (k : Nat) :
    Sparse.get (f d) (m.map fun e => (e.1, f e.2)) k = f (Sparse.get d m k) := by
  induction m with
  | nil => rfl
  | cons e m ih =>
    rw [List.map_cons, Sparse.get, Sparse.get, ih]
    exact (apply_ite f _ _ _).symm

theorem Context.gen_dropLines (c : Context) (j : Nat) :
    c.dropLines.gen j = { c.gen j with streams := (c.gen j).streams.map Stream.bare } := by
  have hbare : (fun x : Stream => { x with lines := x.lines.filter fun _ => !true }) = Stream.bare :=
    funext fun x => by rw [Stream.bare, Bool.not_true, List.filter_false]
  have h := Sparse.get_map (fun g : Gen => { g with streams := g.streams.map Stream.bare }) Gen.reset c.gens j
  rw [← hbare] at h ⊢
  exact h

/-! ### SBIND (R205, R206, R337) -/

section
variable {s : State} {t : Task} {pg : Sys2Proof.Gen} {b c : DReg} {cfg : StreamCfg} {rep : BitVec 32} {wtag : Tag}

/-- The stream that SBIND asks for. -/
def State.askedStream (s : State) (b c : DReg) (cfg : StreamCfg) (rep : BitVec 32) (wtag : Tag) : Stream :=
  { cfg := cfg, tile := s.ctx.desc b, idx := if cfg.gath then s.ctx.desc c else 0, rep := rep.toNat, wtag := wtag,
    fts := s.ctx.ft, gate := 0xFFFF, gateFrom := 0, order := (s.core s.cur).engines, tokBits := 0, pos := [], taken := [],
    lines := [], fault := none, wait := 0, packBlk := none, packed := [], msg := 0, got := [], rows := [], packBad := false }

/-- The registers SBIND names. -/
def sbindKeys (b c : DReg) (cfg : StreamCfg) : List Nat := keyD b ++ if cfg.gath then keyD c else []

theorem traps_sbind {cause : Nat} {info : Word}
    (h : (s.askedStream b c cfg rep wtag).check s.ctx s.cur (word0 (.sbind pg b c cfg rep wtag)) = some (cause, info)) :
    Traps s t (.sbind pg b c cfg rep wtag) (sbindKeys b c cfg) cause info :=
  traps_of_trap (keys := fun _ => sbindKeys b c cfg) rfl (by
    simp only [State.askedStream] at h
    simp only [h])

variable (hcheck : (s.askedStream b c cfg rep wtag).check s.ctx s.cur (word0 (.sbind pg b c cfg rep wtag)) = none)
include hcheck

theorem waits_sbind (h : 2 ≤ (s.ctx.gen pg.val).streams.length ∨ 32 ≤ s.streamEntries s.cur) :
    Completes s t (.sbind pg b c cfg rep wtag) (sbindKeys b c cfg) (s.waits wPortFull) :=
  completes_of_wait (keys := fun _ => sbindKeys b c cfg) rfl (by
    simp only [State.askedStream] at hcheck
    simp only [hcheck]
    exact if_pos (by rwa [Bool.or_eq_true, decide_eq_true_eq, decide_eq_true_eq]))

theorem completes_sbind (hroom : (s.ctx.gen pg.val).streams.length < 2) (hboard : s.streamEntries s.cur < 32)
    (hsettled : s.ctx.settling = false) :
    let u := s.setCtx (s.ctx.dropLines.setGen pg.val { s.ctx.dropLines.gen pg.val with
      streams := (s.ctx.gen pg.val).streams.map Stream.bare ++ [s.askedStream b c cfg rep wtag] })
    Completes s t (.sbind pg b c cfg rep wtag) (sbindKeys b c cfg) (s.after t (.sbind pg b c cfg rep wtag)
      (u.setCore s.cur { u.core s.cur with engines := (u.core s.cur).engines + 1 })) := by
  refine completes_of_done (keys := fun _ => sbindKeys b c cfg) rfl ?_
  have hlines : (s.ctx.gen pg.val).streams.map Stream.bare = (s.ctx.dropLines.gen pg.val).streams := by
    rw [Context.gen_dropLines]
  simp only [State.askedStream] at hcheck
  have hfits : ¬ (decide (2 ≤ (s.ctx.gen pg.val).streams.length) || decide (Config.streamEntries ≤ s.streamEntries s.cur)) = true := by
    rw [Bool.or_eq_true, decide_eq_true_eq, decide_eq_true_eq]
    exact not_or.mpr ⟨Nat.not_le.mpr hroom, Nat.not_le.mpr hboard⟩
  rw [hlines]
  simp only [hcheck]
  exact (if_neg hfits).trans (if_neg (by simp [hsettled]))

end

/-! ### SGATE and SWAIT (R208, R209, R357) -/

section
variable {s : State} {t : Task} {pg : Sys2Proof.Gen} {p : PReg} {start : BitVec 32} {scope : Scope}

theorem completes_sgate_none (h : (s.ctx.gen pg.val).streams = []) :
    Completes s t (.sgate pg p start) (keyP p) (s.after t (.sgate pg p start) s) :=
  completes_of_done (keys := fun _ => keyP p) rfl (by simp only [h])

theorem completes_sgate_one {y : Stream} (h : (s.ctx.gen pg.val).streams = [y])
    (hcompat : ((s.ctxInfo t.part t.ctx).compat.getD 0).getLsbD 1 = false) :
    Completes s t (.sgate pg p start) (keyP p) (s.after t (.sgate pg p start) (s.setCtx (s.ctx.setGen pg.val
      { s.ctx.gen pg.val with streams := [{ y with gate := s.ctx.pred p, gateFrom := start.toNat }] }))) :=
  completes_of_done (keys := fun _ => keyP p) rfl (by simp only [h, hcompat]; rfl)

theorem completes_swait_none (h : (s.ctx.gen pg.val).streams = []) :
    Completes s t (.swait pg scope) [] (s.after t (.swait pg scope) s) :=
  completes_of_done (keys := fun _ => []) rfl (by simp only [h]; rfl)

/-- What a stream is to a wait for its generator: it cannot be switched out, and the driver may have its fault (R357). -/
def Stream.agent (x : Stream) : Bool × Bool := (false, match x.fault with | some f => f.asked | none => false)

theorem completes_swait_some (h : (s.ctx.gen pg.val).streams ≠ []) :
    Completes s t (.swait pg scope) [] (s.waits (peerCode wBarrier ((s.ctx.gen pg.val).streams.map Stream.agent))) :=
  completes_of_wait (keys := fun _ => []) rfl (by
    simp only [List.isEmpty_eq_false_iff.mpr h]
    rfl)

theorem peerCode_of_running {xs : List Stream} {y : Stream} (hy : y ∈ xs) (hfault : y.fault = none) :
    peerCode wBarrier (xs.map Stream.agent) = wBarrier := by
  have hagent : Stream.agent y = (false, false) := by rw [Stream.agent, hfault]
  have hmem : (false, false) ∈ xs.map Stream.agent := hagent ▸ List.mem_map_of_mem hy
  unfold peerCode
  split
  · rfl
  · rw [if_neg (by rw [List.all_eq_true]; exact fun h => Bool.false_ne_true (h _ hmem)),
      if_neg (by rw [List.all_eq_true]; exact fun h => Bool.false_ne_true (h _ hmem))]

theorem peerCode_of_asked {xs : List Stream} (hne : xs ≠ []) (h : ∀ y ∈ xs, ∃ f, y.fault = some f ∧ f.asked = true) :
    peerCode wBarrier (xs.map Stream.agent) = wPeerFault := by
  have hall : ((xs.map Stream.agent).all fun a => a.2) = true := by
    rw [List.all_map, List.all_eq_true]
    intro y hy
    obtain ⟨f, hf, hasked⟩ := h y hy
    simp [Stream.agent, hf, hasked]
  unfold peerCode
  rw [if_neg (by simpa using hne), if_pos hall]

end

/-- Settles O33: SBIND by its checks and the room for one more stream, SGATE and SWAIT by the streams there are. -/
theorem streamCommands : Obligations.StreamCommands := by
  intro s t pg b c cfg rep wtag p start scope k g i ks x bare
  exact ⟨fun _ _ => traps_sbind, waits_sbind, completes_sbind, k.gen_dropLines,
    fun h => ⟨completes_sgate_none h, completes_swait_none h⟩, fun y => completes_sgate_one,
    fun y hy hf => peerCode_of_running hy hf ▸ completes_swait_some (List.ne_nil_of_mem hy),
    fun hne h => peerCode_of_asked hne h ▸ completes_swait_some hne⟩

end Sys2Proof.Machine
end

section
/-!
SUPPORT. The checks of an access, in their order, and what an instruction does whose access fails them (O18).
-/

namespace Sys2Proof.Machine

/-! ### Windows (R93) -/

section
variable {x : Nat}

theorem windowOf_own (h : x < 0x400000) : windowOf x = .own := if_pos h

theorem windowOf_member {m : Nat} (hm : m < 4) (h1 : 0x400000 * (m + 1) ≤ x) (h2 : x < 0x400000 * (m + 2)) :
    windowOf x = .member m := by
  rw [windowOf, if_neg (by omega), if_pos (by omega), show (x - 0x400000) / 0x400000 = m by omega]

theorem windowOf_reserved (h1 : 0x1400000 ≤ x) (h2 : x < 0x100000000) : windowOf x = .reserved := by
  rw [windowOf, if_neg (by omega), if_neg (by omega), if_pos h2]

theorem windowOf_translated (h1 : 0x100000000 ≤ x) (h2 : x < 0x1000000000000) : windowOf x = .translated := by
  rw [windowOf, if_neg (by omega), if_neg (by omega), if_neg (by omega), if_pos h2]

theorem windowOf_unmapped (h : 0x1000000000000 ≤ x) : windowOf x = .unmapped := by
  rw [windowOf, if_neg (by omega), if_neg (by omega), if_neg (by omega), if_neg (by omega)]

/-- Every window begins at a multiple of 64, so an aligned access ends where it begins. -/
theorem windowOf_last {n : Nat} (hn : n = 1 ∨ n = 2 ∨ n = 4 ∨ n = 8) (h : x % n = 0) : windowOf (x + n - 1) = windowOf x := by
  have hlt (k : Nat) : x + n - 1 < 64 * k ↔ x < 64 * k := by
    obtain rfl | rfl | rfl | rfl := hn <;> omega
  have hdiv : (x + n - 1 - 0x400000) / 0x400000 = (x - 0x400000) / 0x400000 := by
    obtain rfl | rfl | rfl | rfl := hn <;> omega
  unfold windowOf
  rw [hdiv, if_congr (hlt 0x10000) rfl rfl, if_congr (hlt 0x50000) rfl rfl, if_congr (hlt 0x4000000) rfl rfl,
    if_congr (hlt 0x40000000000) rfl rfl]

/-- Accesses to the window can be checked further. -/
def Window.mapped (w : Window) : Bool := match w with | .reserved => false | .unmapped => false | _ => true

theorem rangeTranslates_eq (x n : Nat) : rangeTranslates x n = ((windowOf x).mapped && (windowOf (x + n - 1)).mapped) := by
  unfold rangeTranslates Window.mapped
  rfl

end

/-! ### The checks in their order (R121) -/

section
variable {s : State} {core : Nat} {t : Task} {a : Word} {n u : Nat} {kind : AccKind}

theorem State.checkAccess_misaligned (hc : core < 384) (h : a.toNat % u ≠ 0) :
    s.checkAccess core t a n u kind = .trap cMisaligned a := by
  have hcp : decide (Config.cpCore ≤ core) = false := decide_eq_false (Nat.not_le.mpr hc)
  unfold State.checkAccess
  rw [if_pos (bne_iff_ne.mpr h)]
  simp [hcp]

section
variable (ha : a.toNat % u = 0)
include ha

theorem State.checkAccess_unmapped (h : rangeTranslates a.toNat n = false) :
    s.checkAccess core t a n u kind = .trap cTranslation a := by
  simp [State.checkAccess, ha, h]

theorem State.checkAccess_split (hm : rangeTranslates a.toNat n = true) (h : windowOf a.toNat ≠ windowOf (a.toNat + n - 1)) :
    s.checkAccess core t a n u kind = .trap cProtection a := by
  simp [State.checkAccess, ha, hm, h]

theorem State.checkAccess_inside (hc : core < 384) (hm : (windowOf a.toNat).mapped = true)
    (h : windowOf (a.toNat + n - 1) = windowOf a.toNat) :
    s.checkAccess core t a n u kind = s.placeChk core t a.toNat kind := by
  have hcp : decide (Config.cpCore ≤ core) = false := decide_eq_false (Nat.not_le.mpr hc)
  simp [State.checkAccess, ha, rangeTranslates_eq, hm, h, hcp]

end

/-! ### The place of an access by its window -/

theorem State.spadChk_home {c off : Nat} (h : s.bankForeign c off = false) : s.spadChk c off = .ok (spadPlace c off) := by
  simp [State.spadChk, h]

theorem State.spadChk_away {c off : Nat} (h : s.bankForeign c off = true) : s.spadChk c off = .away (spadPlace c off) := by
  simp [State.spadChk, h]

theorem State.placeChk_own {x : Nat} (h : windowOf x = .own) : s.placeChk core t x kind = s.spadChk core x := by
  simp [State.placeChk, h]

theorem State.placeChk_member {x m : Nat} (h : windowOf x = .member m) : s.placeChk core t x kind =
    if t.clustered && (s.bank (core / 4 * 4 + m)).isChain (t.serial - core % 4 + m) then
      s.spadChk (core / 4 * 4 + m) (x % 0x400000) else .trap cProtection (BitVec.ofNat 64 x) := by
  have hmember : s.member core t m = (t.clustered && (s.bank (core / 4 * 4 + m)).isChain (t.serial - core % 4 + m)) := rfl
  rw [← hmember]
  cases hv : s.member core t m <;> simp [State.placeChk, h, hv, groupBase]

theorem State.placeChk_miss {x : Nat} (h : windowOf x = .translated) (hm : s.cached t.part t.ctx x = none) :
    s.placeChk core t x kind = .miss x := by
  simp only [State.placeChk, h, hm]

theorem State.placeChk_cached {x : Nat} {e : TlbEntry} (h : windowOf x = .translated) (he : s.cached t.part t.ctx x = some e) :
    s.placeChk core t x kind = s.linkChk core (s.leafChk t x e.leaf e.va kind) := by
  simp only [State.placeChk, h, he]

end

/-! ### The place of an address under its leaf (R383) -/

section
variable {s : State} {t : Task} {x va : Nat} {e : BitVec 128} {kind : AccKind}

theorem State.leafChk_refused (h : rightsOk e kind = false ∨ pteKind e ≠ 0) :
    s.leafChk t x e va kind = .trap cProtection (BitVec.ofNat 64 x) :=
  if_pos (by simpa using h)

section
variable (hr : rightsOk e kind = true) (hk : pteKind e = 0)
include hr hk

theorem State.leafChk_granted : s.leafChk t x e va kind = s.leafRest t x (pteAddr e + (x - va)) e kind :=
  if_neg (by simp [hr, hk])

theorem State.leafChk_flipping (hf : s.flipping t.part (pteAddr e + (x - va)) = true) :
    s.leafChk t x e va kind = .wait wBiasFlip :=
  (State.leafChk_granted hr hk).trans (if_pos hf)

variable (hf : s.flipping t.part (pteAddr e + (x - va)) = false)
include hf

theorem State.leafChk_host (hb : pteBias e = true) : s.leafChk t x e va kind =
    if kind = .atomic then .trap cProtection (BitVec.ofNat 64 x) else .ok (hostMark + t.part * 2 ^ 48 + (pteAddr e + (x - va))) := by
  rw [State.leafChk_granted hr hk]
  simp [State.leafRest, hf, hb]

theorem State.leafChk_device (hb : pteBias e = false) (hs : isSpad (pteAddr e + (x - va)) = false) (hh : pteHold e = false) :
    s.leafChk t x e va kind = .ok (leafPlace t.part (pteKey e).toNat (pteAddr e + (x - va))) := by
  rw [State.leafChk_granted hr hk]
  simp [State.leafRest, hf, hb, hs, hh]

end

theorem State.linkChk_ok (s : State) (core p : Nat) :
    s.linkChk core (.ok p) = if s.pathHeld core p then .wait wLinkRetrain else .ok p := rfl

end

/-! ### An instruction whose access fails its checks (R121, R170) -/

section
variable {s : State} {t : Task} {i : Instr} {keys : Context → List Nat} {body : State → Task → Res} {a : Word} {n : Nat}
  {kind : AccKind} {k : State → Nat → Res}

/-- What the outcomes of the check of an access of n bytes make of instruction i, other than that it may go on. -/
def StopsAt (s : State) (t : Task) (i : Instr) (ks : List Nat) (a : Word) (n : Nat) (kind : AccKind) : Prop :=
  (∀ cause info, s.checkAccess s.cur t a n n kind = .trap cause info → Traps s t i ks cause info)
    ∧ (∀ code, s.checkAccess s.cur t a n n kind = .wait code → Completes s t i ks (s.waits code))
    ∧ (∀ p, s.checkAccess s.cur t a n n kind = .away p → Completes s t i ks ((s.touch p).waits wRacking))
    ∧ (∀ va, s.checkAccess s.cur t a n n kind = .miss va → s.ctx.walkTrap = none →
        Completes s t i ks ((s.needWalk t.part t.ctx va kind (.instr s.cur)).waits wTranslation))
    ∧ ∀ p q, kind ≠ .store → s.checkAccess s.cur t a n n kind = .ok p → t.clustered = false →
        s.poisonPast s.ctx.fly [⟨p, n, false⟩] = some q →
        Completes s t i ks ((s.logPoison t.part q).syncTrap s.cur t cMachineCheck (paOf q) s.ctx.pc
          (s.nextPc s.cur s.ctx.pc (words i)))

theorem State.needWalk_cur (s : State) (part ctx va : Nat) (kind : AccKind) (g : Agent) :
    (s.needWalk part ctx va kind g).cur = s.cur := by
  unfold State.needWalk
  dsimp only
  split <;> rfl

theorem State.place_trap {u cause : Nat} {info : Word} (h : s.checkAccess s.cur t a n u kind = .trap cause info) :
    s.place t a n u kind k = .trap s cause info := by
  simp only [State.place, h]

theorem State.place_ok {u p : Nat} (h : s.checkAccess s.cur t a n u kind = .ok p) :
    s.place t a n u kind k = k (s.markRemote s.cur t a.toNat) p := by
  simp only [State.place, h]

theorem stopsAt_of_access (he : exec i s = .next (issue i keys body s)) (hkind : kind ≠ .sidecar)
    (hb : body s t = s.access t a n n kind k) : StopsAt s t i (keys s.ctx) a n kind := by
  refine ⟨fun cause info h => ?trap, fun code h => ?wait, fun p h => ?away, fun va h hw => ?miss, fun p q hst h hc hq => ?poison⟩
  case trap => exact traps_of_trap he (hb.trans (State.place_trap h))
  case wait => exact completes_of_wait he (hb.trans (by simp only [State.access, State.place, h]))
  case away =>
    rw [State.waits, State.touch, State.setCore_cur]
    exact completes_of_wait he (hb.trans (by simp only [State.access, State.place, h]; rfl))
  case miss =>
    rw [State.waits, State.needWalk_cur]
    exact completes_of_wait he (hb.trans (by simp only [State.access, State.place, h, hw]))
  case poison =>
    refine completes_of_trap he (hb.trans ?_)
    have hread : (kind == .load || kind == .atomic) = true := by
      cases kind with
      | load | atomic => rfl
      | store => exact absurd rfl hst
      | sidecar => exact absurd rfl hkind
    rw [State.access, State.place_ok h, State.markRemote_of_not_clustered s s.cur a.toNat hc, if_pos hread]
    simp only [State.clean, hq]

end

/-! ### The sixteen lanes of LDV and STV (R178) -/

theorem toNat_add_sixty (a : Word) : (a + 60).toNat = (a.toNat + 60) % 18446744073709551616 := BitVec.toNat_add a 60

section
variable {s : State} {t : Task} {a info : Word} {cause : Nat} {kind : AccKind} {k : State → List Span → Res}

theorem State.access16_head (h : s.checkAccess s.cur t a 64 4 kind = .trap cause a)
    (hr : (Chk.trap cause a).rank ≤ (s.checkAccess s.cur t (a + 60) 4 4 kind).rank) :
    s.access16 t a kind k = .trap s cause a := by
  rw [State.access16, h, if_neg (Nat.not_lt.mpr hr), State.place_trap h]
  exact congrArg _ (ite_self a)

theorem State.access16_tail {p : Nat} (h : s.checkAccess s.cur t a 64 4 kind = .ok p) (hcause : cause ≠ cMachineCheck)
    (h2 : s.checkAccess s.cur t (a + 60) 4 4 kind = .trap cause info) : s.access16 t a kind k = .trap s cause a := by
  have hr : (Chk.trap cause info).rank < (Chk.ok p).rank := by
    unfold Chk.rank
    dsimp only
    split_ifs <;> decide
  rw [State.access16, h, h2, if_pos hr, State.place_trap h2]
  exact congrArg _ (if_neg (by simpa using hcause))

theorem State.spadChk_rank (s : State) (c off : Nat) : 2 ≤ (s.spadChk c off).rank := by
  unfold State.spadChk
  split_ifs
  · exact (Nat.le_add_left 2 2 : 2 ≤ 4)
  · exact (Nat.le_add_left 2 3 : 2 ≤ 5)

/-- The last word of an access that leaves a slot of the cluster window lies in the next slot. -/
theorem State.placeChk_member_rank {core x m : Nat} (h : windowOf x = .member m) : 2 ≤ (s.placeChk core t x kind).rank := by
  rw [State.placeChk_member h]
  split_ifs
  · exact s.spadChk_rank _ _
  · exact le_of_eq rfl

theorem State.access16_unmapped (h : a.toNat % 4 = 0)
    (hr : 0x13FFFC0 < a.toNat ∧ a.toNat < 0x100000000 ∨ 0xFFFFFFFFFFC0 < a.toNat) :
    s.access16 t a kind k = .trap s cTranslation a := by
  have hlast : ((windowOf a.toNat).mapped && (windowOf (a.toNat + 64 - 1)).mapped) = false := by
    obtain ⟨h1, h2⟩ | h1 := hr
    · by_cases hx : a.toNat + 63 < 0x100000000
      · rw [windowOf_reserved (x := a.toNat + 64 - 1) (by omega) (by omega)]
        exact Bool.and_false _
      · rw [windowOf_reserved (x := a.toNat) (by omega) (by omega)]
        rfl
    · rw [windowOf_unmapped (x := a.toNat + 64 - 1) (by omega)]
      exact Bool.and_false _
  exact State.access16_head (State.checkAccess_unmapped h ((rangeTranslates_eq _ _).trans hlast)) (Nat.zero_le _)

section
variable (hcur : s.cur < 384)
include hcur

theorem State.access16_misaligned (h : a.toNat % 4 ≠ 0) : s.access16 t a kind k = .trap s cMisaligned a := by
  have hlast : (a + 60).toNat % 4 ≠ 0 := by
    rw [toNat_add_sixty]
    omega
  refine State.access16_head (State.checkAccess_misaligned hcur h) ?_
  rw [State.checkAccess_misaligned hcur hlast]
  exact le_rfl

theorem State.access16_crossing {n : Nat} (hn : 1 ≤ n) (hn4 : n ≤ 4) (h : a.toNat % 4 = 0)
    (h1 : 0x400000 * n < a.toNat + 64) (h2 : a.toNat < 0x400000 * n) :
    s.access16 t a kind k = .trap s cProtection a := by
  have hhead : windowOf a.toNat = .own ∨ ∃ m, m + 1 < n ∧ windowOf a.toNat = .member m := by
    by_cases hx : a.toNat < 0x400000
    · exact .inl (windowOf_own hx)
    · exact .inr ⟨n - 2, by omega, windowOf_member (by omega) (by omega) (by omega)⟩
  have htail {y : Nat} (hy1 : 0x400000 * n ≤ y) (hy2 : y < 0x400000 * n + 64) : windowOf y = .member (n - 1) :=
    windowOf_member (by omega) (by omega) (by omega)
  have hlast := htail (y := a.toNat + 64 - 1) (by omega) (by omega)
  have hword : (a + 60).toNat = a.toNat + 60 := by
    rw [toNat_add_sixty]
    omega
  have hwordWin := htail (y := (a + 60).toNat) (by omega) (by omega)
  refine State.access16_head (State.checkAccess_split h ?mapped ?split) ?_
  case mapped =>
    rw [rangeTranslates_eq, hlast]
    obtain hw | ⟨m, -, hw⟩ := hhead <;> rw [hw] <;> rfl
  case split =>
    rw [hlast]
    obtain hw | ⟨m, hm, hw⟩ := hhead <;> rw [hw]
    · exact Window.noConfusion
    · exact fun he => absurd (Window.member.inj he) (by omega)
  rw [State.checkAccess_inside (by omega) hcur (by rw [hwordWin]; rfl) (windowOf_last (n := 4) (by omega) (by omega))]
  exact State.placeChk_member_rank hwordWin

/-- How an instruction traps whose body is an access of sixteen lanes. -/
theorem traps_of_access16 {i : Instr} {keys : Context → List Nat} {body : State → Task → Res}
    (he : exec i s = .next (issue i keys body s)) (hb : body s t = s.access16 t a kind k) :
    (a.toNat % 4 ≠ 0 → Traps s t i (keys s.ctx) cMisaligned a)
      ∧ (a.toNat % 4 = 0 → (0x13FFFC0 < a.toNat ∧ a.toNat < 0x100000000 ∨ 0xFFFFFFFFFFC0 < a.toNat) →
          Traps s t i (keys s.ctx) cTranslation a)
      ∧ (∀ n, 1 ≤ n → n ≤ 4 → a.toNat % 4 = 0 → 0x400000 * n < a.toNat + 64 → a.toNat < 0x400000 * n →
          Traps s t i (keys s.ctx) cProtection a)
      ∧ ∀ p cause info, cause ≠ cMachineCheck → s.checkAccess s.cur t a 64 4 kind = .ok p →
          s.checkAccess s.cur t (a + 60) 4 4 kind = .trap cause info → Traps s t i (keys s.ctx) cause a :=
  ⟨fun h => traps_of_trap he (hb.trans (State.access16_misaligned hcur h)),
    fun h hr => traps_of_trap he (hb.trans (State.access16_unmapped h hr)),
    fun _ hn hn4 h h1 h2 => traps_of_trap he (hb.trans (State.access16_crossing hcur hn hn4 h h1 h2)),
    fun _ _ _ hcause h h2 => traps_of_trap he (hb.trans (State.access16_tail h hcause h2))⟩

end

end

/-! ### The obligation -/

/-- The checks of an aligned access whose first and last byte lie in one window. -/
theorem State.checkAccess_mapped {s : State} {core : Nat} {t : Task} {a : Word} {n : Nat} {kind : AccKind} (hc : core < 384)
    (hn : n = 1 ∨ n = 2 ∨ n = 4 ∨ n = 8) (ha : a.toNat % n = 0) (hm : (windowOf a.toNat).mapped = true) :
    s.checkAccess core t a n n kind = s.placeChk core t a.toNat kind :=
  State.checkAccess_inside ha hc hm (windowOf_last hn ha)

/-- The right that an access needs of its leaf (R383). -/
theorem rightsOk_iff (e : BitVec 128) (kind : AccKind) : rightsOk e kind = true ↔
    match kind with
    | .load | .sidecar => pteR e = true
    | .store => pteW e = true
    | .atomic => pteR e = true ∧ pteW e = true := by
  cases kind with
  | load | sidecar | store => exact Iff.rfl
  | atomic => exact Bool.and_eq_true_iff

section
variable {s : State} {core : Nat} {t : Task} {a : Word} {n : Nat} {kind : AccKind} (hc : core < 384)
  (hn : n = 1 ∨ n = 2 ∨ n = 4 ∨ n = 8) (ha : a.toNat % n = 0)
include hc hn ha

theorem State.checkAccess_own (hx : a.toNat < 0x400000) :
    s.checkAccess core t a n n kind = s.spadChk core a.toNat := by
  have hw := windowOf_own hx
  rw [State.checkAccess_mapped hc hn ha (by rw [hw]; rfl), State.placeChk_own hw]

theorem State.checkAccess_member {m : Nat} (hm : m < 4) (h1 : 0x400000 * (m + 1) ≤ a.toNat)
    (h2 : a.toNat < 0x400000 * (m + 2)) : s.checkAccess core t a n n kind =
      if t.clustered && (s.bank (core / 4 * 4 + m)).isChain (t.serial - core % 4 + m) then
        s.spadChk (core / 4 * 4 + m) (a.toNat % 0x400000) else .trap cProtection a := by
  have hw := windowOf_member hm h1 h2
  rw [State.checkAccess_mapped hc hn ha (by rw [hw]; rfl), State.placeChk_member hw, BitVec.ofNat_toNat,
    BitVec.setWidth_eq]

theorem State.checkAccess_cached {e : TlbEntry} (h1 : 0x100000000 ≤ a.toNat) (h2 : a.toNat < 0x1000000000000)
    (he : s.cached t.part t.ctx a.toNat = some e) :
    s.checkAccess core t a n n kind = s.linkChk core (s.leafChk t a.toNat e.leaf e.va kind) := by
  have hw := windowOf_translated h1 h2
  rw [State.checkAccess_mapped hc hn ha (by rw [hw]; rfl), State.placeChk_cached hw he]

end

/-- Settles O18: the checks go in R121's order, and an access that stops at one leaves the instruction unexecuted. -/
theorem accessChecks : Obligations.AccessChecks := by
  unfold Obligations.AccessChecks
  refine ⟨fun s core t a n kind hc hn => ⟨State.checkAccess_misaligned hc, fun ha =>
    ⟨?range, ?home, ?away, ?member, ?miss, ?cached⟩⟩, ?scalar, ?wide⟩
  case range =>
    intro hx
    refine State.checkAccess_unmapped ha ?_
    rw [rangeTranslates_eq]
    obtain ⟨h1, h2⟩ | h1 := hx
    · rw [windowOf_reserved h1 h2]
      rfl
    · rw [windowOf_unmapped h1]
      rfl
  case home => exact fun hx hf => (State.checkAccess_own hc hn ha hx).trans (State.spadChk_home hf)
  case away => exact fun hx hf => (State.checkAccess_own hc hn ha hx).trans (State.spadChk_away hf)
  case member =>
    intro m hm h1 h2
    refine ⟨fun h => ?_, fun hcl hch => ?_⟩
    · rw [State.checkAccess_member hc hn ha hm h1 h2, if_neg]
      obtain h | h := h <;> simp [h]
    · rw [State.checkAccess_member hc hn ha hm h1 h2, if_pos (by rw [hcl, hch]; rfl)]
      rfl
  case miss =>
    intro h1 h2 hm
    have hw := windowOf_translated h1 h2
    rw [State.checkAccess_mapped hc hn ha (by rw [hw]; rfl), State.placeChk_miss hw hm]
  case cached =>
    intro e h1 h2 he
    have hself : BitVec.ofNat 64 a.toNat = a := by rw [BitVec.ofNat_toNat, BitVec.setWidth_eq]
    have hgranted := rightsOk_iff e.leaf kind
    rw [State.checkAccess_cached hc hn ha h1 h2 he]
    refine ⟨fun h => ?_, fun hr hk hf => ?_, fun hr hk hf hb hat => ?_, fun hr hk hf hb hat => ?_, fun hr hk hf hb hs hh => ?_⟩
    · rw [State.leafChk_refused (h.imp (fun h => Bool.eq_false_iff.mpr fun hr => h (hgranted.mp hr)) id), hself]
      rfl
    · rw [State.leafChk_flipping (hgranted.mpr hr) hk hf]
      rfl
    · rw [State.leafChk_host (hgranted.mpr hr) hk hf hb, if_pos hat, hself]
      rfl
    · rw [State.leafChk_host (hgranted.mpr hr) hk hf hb, if_neg hat, State.linkChk_ok, if_pos hb]
    · rw [State.leafChk_device (hgranted.mpr hr) hk hf hb hs hh, State.linkChk_ok, if_neg (Bool.eq_false_iff.mp hb)]
  case scalar =>
    intro s t a m o
    refine ⟨?_, ?_, ?_, ?_, ?_, ?_, ?_, ?_, ?_, ?_, ?_, ?_, ?_, ?_, ?_, ?_, ?_, ?_, ?_, ?_, ?_⟩
    all_goals exact stopsAt_of_access rfl (by decide) rfl
  case wide =>
    intro s t v m hcur
    have hldv := traps_of_access16 (t := t) (a := s.ctx.ea m 4) (kind := .load) (i := .ldv v m)
      (keys := fun c => keyV v ++ keysOf [m.base, m.index] c) hcur rfl rfl
    have hstv := traps_of_access16 (t := t) (a := s.ctx.ea m 4) (kind := .store) (i := .stv v m)
      (keys := fun c => keyV v ++ keysOf [m.base, m.index] c) hcur rfl rfl
    exact ⟨hldv, hstv⟩

end Sys2Proof.Machine
end

section
/-!
SUPPORT. Row slots: what a handle names, which rows an access closes, and what ROWOPEN takes (O29).
-/

namespace Sys2Proof.Machine

/-! ### Handles (R115) -/

section
variable {s : State} {t : Task} {i : Instr} {a b : XReg} {f : RowSlot → RowSlot × Word}

theorem handleForm_iff (h : Word) : handleForm h = true ↔
    h.toNat / 2 ^ 32 = 0 ∧ h.toNat / 2 ^ 12 % 16 = 0 ∧ h.toNat / 256 % 16 < 12 := by
  rw [handleForm, Bool.and_eq_true, Bool.and_eq_true, beq_iff_eq, beq_iff_eq, decide_eq_true_eq, and_assoc]

theorem RowSlot.live_iff (r : RowSlot) : r.live = true ↔ r.st ≠ .free ∧ r.reserved = false := by
  rw [RowSlot.live, Bool.and_eq_true, bne_iff_ne, Bool.not_eq_true']

/-- A task chain owns the slot that a handle names. -/
def State.owns (s : State) (owner : Nat) (h : Word) : Prop :=
  let r := s.rowSlot (handleChan h) (handleSlot h)
  h.toNat / 2 ^ 32 = 0 ∧ h.toNat / 2 ^ 12 % 16 = 0 ∧ h.toNat / 256 % 16 < 12 ∧ r.st ≠ .free ∧ r.reserved = false
    ∧ r.owner = owner ∧ r.seq.toNat = h.toNat / 65536 % 65536

theorem State.owns_iff (s : State) (owner : Nat) (h : Word) : s.owns owner h ↔
    let r := s.rowSlot (handleChan h) (handleSlot h)
    (handleForm h && r.live && r.owner == owner && r.seq.toNat == h.toNat / 65536 % 65536) = true := by
  rw [State.owns]
  simp only [Bool.and_eq_true, handleForm_iff, RowSlot.live_iff, beq_iff_eq]
  tauto

theorem State.ownedSlot_of_owns {owner : Nat} {h : Word} (ho : s.owns owner h) :
    s.ownedSlot owner h = some (s.rowSlot (handleChan h) (handleSlot h)) :=
  if_pos ((s.owns_iff owner h).mp ho)

theorem State.ownedSlot_of_not_owns {owner : Nat} {h : Word} (ho : ¬ s.owns owner h) : s.ownedSlot owner h = none :=
  if_neg fun hc => ho ((s.owns_iff owner h).mpr hc)

theorem completes_rowOp_of_owns (he : exec i s = rowOp i a b f s) (ho : s.owns t.serial (s.ctx.x b)) {r : RowSlot} {v : Word}
    (hf : f (s.rowSlot (handleChan (s.ctx.x b)) (handleSlot (s.ctx.x b))) = (r, v)) :
    Completes s t i (keysOf [a, b] s.ctx) (s.after t i
      ((s.setRowSlot (handleChan (s.ctx.x b)) (handleSlot (s.ctx.x b)) r).mapCtx fun c => c.setX a v)) :=
  completes_of_done (keys := keysOf [a, b]) he (by simp only [State.ownedSlot_of_owns ho, hf])

theorem completes_rowOp_of_not_owns (he : exec i s = rowOp i a b f s) (ho : ¬ s.owns t.serial (s.ctx.x b)) :
    Completes s t i (keysOf [a, b] s.ctx) (s.after t i (s.mapCtx fun c => c.setX a (-1))) :=
  completes_of_done (keys := keysOf [a, b]) he (by simp only [State.ownedSlot_of_not_owns ho])

/-! ### ROWOPEN at issue (R116) -/

theorem traps_rowopen_of_window {cause : Nat}
    (hw : windowOf (s.ctx.x b).toNat = .reserved ∧ cause = cTranslation
      ∨ (windowOf (s.ctx.x b).toNat = .own ∨ ∃ m, windowOf (s.ctx.x b).toNat = .member m) ∧ cause = cProtection) :
    Traps s t (.rowopen a b) (keysOf [a, b] s.ctx) cause (s.ctx.x b) := by
  refine traps_of_trap (keys := keysOf [a, b]) rfl ?_
  obtain ⟨h, rfl⟩ | ⟨h | ⟨m, h⟩, rfl⟩ := hw <;> simp only [State.rowAccess, h]

theorem windowOf_scratchpads {x : Nat} (h : x < 0x1400000) : windowOf x = .own ∨ ∃ m, windowOf x = .member m := by
  by_cases hx : x < 0x400000
  · exact .inl (windowOf_own hx)
  · exact .inr ⟨x / 0x400000 - 1, windowOf_member (by omega) (by omega) (by omega)⟩

section
variable {e : TlbEntry} (hw : windowOf (s.ctx.x b).toNat = .translated)
  (he : s.cached t.part t.ctx (s.ctx.x b).toNat = some e)
include hw he

theorem completes_rowopen (hh : pteHold e.leaf = true) :
    Completes s t (.rowopen a b) (keysOf [a, b] s.ctx) (s.launched t (.rowopen a b)
      (s.ctx.entry (.rowopen a b) (.rowOpen a) 0 (s.ctx.x b) 0 0 .plain .core
        [⟨pteAddr e.leaf + ((s.ctx.x b).toNat - e.va), 0, false⟩])) :=
  completes_of_done (keys := keysOf [a, b]) rfl (by simp only [State.rowAccess, hw, he, hh]; rfl)

theorem traps_rowopen_of_page (hh : pteHold e.leaf = false) :
    Traps s t (.rowopen a b) (keysOf [a, b] s.ctx) cProtection (s.ctx.x b) :=
  traps_of_trap (keys := keysOf [a, b]) rfl (by simp only [State.rowAccess, hw, he, hh]; rfl)

end

end

/-! ### The rows an access closes (R115) -/

/-- An access closes no row where the slots in use are of other subarrays. -/
theorem State.rowYield_eq_self {s : State} {p : Nat}
    (h : ∀ j < 4, (s.rowSlot (rowChan p) j).live = true → sameSub (s.rowSlot (rowChan p) j).row (p / 1024) = false) :
    s.rowYield p = s := by
  refine List.foldlRecOn (motive := fun u => u = s) _ _ rfl fun u hu j hj => ?_
  subst hu
  refine if_neg fun hc => ?_
  simp only [Bool.and_eq_true] at hc
  obtain ⟨⟨⟨hlive, -⟩, hsub⟩, -⟩ := hc
  exact Bool.eq_false_iff.mp (h j (List.mem_range.mp hj) hlive) hsub

theorem rowChan_direct {stack pc row : Nat} (hpc : pc < 64) (hrow : row < 2 ^ 20) :
    rowChan (0x040000000000 + stack * 2 ^ 36 + pc * 2 ^ 30 + row * 1024) = stack * 64 + pc := by
  unfold rowChan
  omega

/-! ### The slot of ROWOPEN (R116) -/

section
variable {s : State} {owner p k : Nat}

theorem State.rowOpen_held (hk : k < 4) (hlive : (s.rowSlot (rowChan p) k).live = true)
    (howner : (s.rowSlot (rowChan p) k).owner = owner) (hrow : (s.rowSlot (rowChan p) k).row = p / 1024)
    (hfirst : ∀ j, j < k → ¬ ((s.rowSlot (rowChan p) j).live = true ∧ (s.rowSlot (rowChan p) j).owner = owner
      ∧ (s.rowSlot (rowChan p) j).row = p / 1024)) :
    s.rowOpen owner p = (s, rowHandle (rowChan p) k (s.rowSlot (rowChan p) k).seq) := by
  have hfind : (List.range 4).find? (fun j => (s.rowSlot (rowChan p) j).live && (s.rowSlot (rowChan p) j).owner == owner
      && (s.rowSlot (rowChan p) j).row == p / 1024) = some k := by
    refine List.find?_range_eq_some.mpr ⟨by simp [hlive, howner, hrow], List.mem_range.mpr hk, fun j hj => ?_⟩
    rw [Bool.not_eq_true', Bool.eq_false_iff]
    simpa using hfirst j hj
  simp only [State.rowOpen, hfind]

theorem State.rowOpen_free (hk : k < 4) (hfree : ∀ j, j < 4 → ((s.rowSlot (rowChan p) j).st = .free ↔ k ≤ j))
    (hother : ∀ j, j < k → sameSub (s.rowSlot (rowChan p) j).row (p / 1024) = false
      ∧ (s.rowSlot (rowChan p) j).row ≠ p / 1024) :
    s.rowOpen owner p = (s.setRowSlot (rowChan p) k ⟨.opened, owner, p / 1024, (s.rowSlot (rowChan p) k).seq + 1, false⟩,
      rowHandle (rowChan p) k ((s.rowSlot (rowChan p) k).seq + 1)) := by
  have hlive (j : Nat) (hj : j < 4) (hl : (s.rowSlot (rowChan p) j).live = true) : j < k :=
    Nat.lt_of_not_le fun h => ((RowSlot.live_iff _).mp hl).1 ((hfree j hj).mpr h)
  have hnone : (List.range 4).find? (fun j => (s.rowSlot (rowChan p) j).live && (s.rowSlot (rowChan p) j).owner == owner
      && (s.rowSlot (rowChan p) j).row == p / 1024) = none := by
    refine List.find?_eq_none.mpr fun j hj hc => ?_
    simp only [Bool.and_eq_true, beq_iff_eq] at hc
    obtain ⟨⟨hl, -⟩, hr⟩ := hc
    exact (hother j (hlive j (List.mem_range.mp hj) hl)).2 hr
  have hyield : s.rowYield p = s := State.rowYield_eq_self fun j hj hl => (hother j (hlive j hj hl)).1
  have hslot : (List.range 4).find? (fun j => (s.rowSlot (rowChan p) j).st == .free) = some k := by
    refine List.find?_range_eq_some.mpr ⟨?_, List.mem_range.mpr hk, fun j hj => ?_⟩
    · exact beq_iff_eq.mpr ((hfree k hk).mpr le_rfl)
    · simpa using fun h => Nat.not_le.mpr hj ((hfree j (hj.trans hk)).mp h)
  unfold State.rowOpen
  simp only [hnone, hyield, hslot]
  refine if_neg fun hc => ?_
  obtain ⟨j, hj, hbar⟩ := List.any_eq_true.mp hc
  rw [Bool.and_eq_true] at hbar
  obtain ⟨hl, hbar⟩ := hbar
  obtain ⟨hsub, hrow⟩ := hother j (hlive j (List.mem_range.mp hj) hl)
  simp [hsub, hrow] at hbar

theorem State.rowOpen_barred (hk : k < 4) (hlive : (s.rowSlot (rowChan p) k).live = true)
    (howner : (s.rowSlot (rowChan p) k).owner ≠ owner) (hrow : (s.rowSlot (rowChan p) k).row = p / 1024)
    (hown : ∀ j, j < 4 → (s.rowSlot (rowChan p) j).owner = owner → (s.rowSlot (rowChan p) j).live = false) :
    s.rowOpen owner p = (s, -1) := by
  have hnone : (List.range 4).find? (fun j => (s.rowSlot (rowChan p) j).live && (s.rowSlot (rowChan p) j).owner == owner
      && (s.rowSlot (rowChan p) j).row == p / 1024) = none := by
    refine List.find?_eq_none.mpr fun j hj hc => ?_
    simp only [Bool.and_eq_true, beq_iff_eq] at hc
    obtain ⟨⟨hl, ho⟩, -⟩ := hc
    exact Bool.eq_false_iff.mp (hown j (List.mem_range.mp hj) ho) hl
  unfold State.rowOpen
  simp only [hnone]
  exact if_pos (List.any_eq_true.mpr ⟨k, List.mem_range.mpr hk, by simp [hlive, howner, hrow]⟩)

theorem State.rowOpen_eq (s : State) (owner p : Nat) : ∃ rows, (s.rowOpen owner p).1 = { s with rows := rows } := by
  obtain ⟨rows, hrows⟩ := s.rowYield_eq p
  unfold State.rowOpen
  dsimp only
  split
  · exact ⟨s.rows, rfl⟩
  · split_ifs
    · exact ⟨s.rows, rfl⟩
    · split
      · exact ⟨s.rows, rfl⟩
      · rw [hrows]
        exact ⟨_, rfl⟩

end

/-! ### Completion, refresh and re-opening (R116, R118) -/

theorem State.completeEntry_rowOpen {s : State} {core : Nat} {t : Task} {before after : List Entry} {e : Entry} {d : XReg}
    {p : Nat} (hop : e.op = .rowOpen d) (hsp : e.spans = [⟨p, 0, false⟩]) :
    let r := s.rowOpen t.serial p
    let u := s.completeEntry core t before e after
    u.rows = r.1.rows ∧ u.mem = s.mem
      ∧ u.bank core = { (s.bank core).setXAt e.wpe d r.2 with fly := (s.bank core).trim (before ++ after) }
      ∧ ∀ j, j ≠ core → u.core j = s.core j := by
  obtain ⟨rows, hrows⟩ := s.rowOpen_eq t.serial p
  have hu : s.completeEntry core t before e after = (s.rowOpen t.serial p).1.setBank core
      { (s.bank core).setXAt e.wpe d (s.rowOpen t.serial p).2 with fly := (s.bank core).trim (before ++ after) } := by
    unfold State.completeEntry
    simp only [hop, hsp, List.headD_cons, State.bank_setBank, State.setBank_setBank]
    rw [hrows]
    rfl
  dsimp only
  rw [hu]
  refine ⟨rfl, by rw [hrows]; rfl, State.bank_setBank _ _ _, fun j hj => ?_⟩
  rw [State.core_setBank_ne _ _ hj, hrows]
  rfl

theorem State.rowSlot_setRowSlot_self (s : State) (c k c' k' : Nat) :
    (s.setRowSlot c k (s.rowSlot c k)).rowSlot c' k' = s.rowSlot c' k' := by
  refine (Sparse.get_set _ _ _ _ _).trans ?_
  split_ifs with h
  · exact congrArg (Sparse.get RowSlot.free s.rows) h.symm
  · rfl

theorem rowSlot_rowRefresh (s : State) (stack : Fin 12) (pc : Fin 64) :
    ∃ u, exec (.rowRefresh stack pc) s = .next u ∧ ∀ c k, u.rowSlot c k = s.rowSlot c k := by
  refine ⟨_, rfl, List.foldlRecOn (motive := fun u : State => ∀ c k, u.rowSlot c k = s.rowSlot c k) _ _
    (fun _ _ => rfl) fun u hu j _ c k => ?_⟩
  rw [State.rowSlot_setRowSlot_self, hu]

theorem exec_rowReopen {s : State} {stack : Fin 12} {pc : Fin 64} {k : Fin 4}
    (hkeep : (s.rowSlot (stack.val * 64 + pc.val) k.val).st = .keep)
    (hres : (s.rowSlot (stack.val * 64 + pc.val) k.val).reserved = true)
    (hback : (s.cores.any fun e => e.2.swapping && e.2.bank.isChain (s.rowSlot (stack.val * 64 + pc.val) k.val).owner) = true)
    (hfree : ∀ j, j < 4 → j ≠ k.val → (s.rowSlot (stack.val * 64 + pc.val) j).st = .free) :
    exec (.rowReopen stack pc k) s = .next (s.setRowSlot (stack.val * 64 + pc.val) k.val
      { s.rowSlot (stack.val * 64 + pc.val) k.val with reserved := false }) := by
  have hdead (j : Nat) (hj : j < 4) : (s.rowSlot (stack.val * 64 + pc.val) j).live = false := by
    rw [← Bool.not_eq_true, RowSlot.live_iff]
    rintro ⟨hst, hr⟩
    by_cases h : j = k.val
    · exact Bool.false_ne_true (hr.symm.trans (h ▸ hres))
    · exact hst (hfree j hj h)
  have hbarred : ((List.range 4).any fun j => (s.rowSlot (stack.val * 64 + pc.val) j).live
      && (s.rowSlot (stack.val * 64 + pc.val) j).owner != (s.rowSlot (stack.val * 64 + pc.val) k.val).owner
      && ((s.rowSlot (stack.val * 64 + pc.val) j).st == .keep || (s.rowSlot (stack.val * 64 + pc.val) j).st == .drop)
      && sameSub (s.rowSlot (stack.val * 64 + pc.val) j).row (s.rowSlot (stack.val * 64 + pc.val) k.val).row) = false :=
    List.any_eq_false.mpr fun j hj => by simp [hdead j (List.mem_range.mp hj)]
  have hyield : s.rowYield (0x040000000000 + stack.val * 2 ^ 36 + pc.val * 2 ^ 30
      + (s.rowSlot (stack.val * 64 + pc.val) k.val).row % 2 ^ 20 * 1024) = s := by
    refine State.rowYield_eq_self fun j hj hl => absurd hl ?_
    rw [rowChan_direct pc.isLt (Nat.mod_lt _ (by decide)), hdead j hj]
    exact Bool.false_ne_true
  change execRowReopen stack pc k s = _
  unfold execRowReopen
  dsimp only
  rw [hyield, hbarred, hback, hkeep, hres]
  rfl

/-- Settles O29: the slot an owned handle names, the slot ROWOPEN takes, and refresh and re-opening. -/
theorem rowInstructions : Obligations.RowInstructions := by
  unfold Obligations.RowInstructions
  refine ⟨fun s t a b => ⟨fun (ho : s.owns t.serial (s.ctx.x b)) => ?owned, fun (ho : ¬ s.owns t.serial (s.ctx.x b)) => ?stale,
    ?page, ?scratchpad, ?reserved⟩, fun s owner p k hk => ?opens, ?completes, rowSlot_rowRefresh, fun s stack pc k => exec_rowReopen⟩
  case owned =>
    refine ⟨completes_rowOp_of_owns rfl ho rfl, completes_rowOp_of_owns rfl ho rfl, completes_rowOp_of_owns rfl ho rfl,
      completes_rowOp_of_owns rfl ho ?_⟩
    obtain ⟨-, -, -, hst, -⟩ := ho
    unfold handleChan handleSlot at hst ⊢
    generalize s.rowSlot _ _ = r at hst ⊢
    obtain ⟨st, owner, row, seq, reserved⟩ := r
    cases st with
    | free => exact absurd rfl hst
    | opened | keep | drop => rfl
  case stale =>
    exact ⟨completes_rowOp_of_not_owns rfl ho, completes_rowOp_of_not_owns rfl ho, completes_rowOp_of_not_owns rfl ho,
      completes_rowOp_of_not_owns rfl ho⟩
  case page =>
    intro h1 h2 e he
    have hw := windowOf_translated h1 h2
    exact ⟨completes_rowopen hw he, traps_rowopen_of_page hw he⟩
  case scratchpad => exact fun h => traps_rowopen_of_window (.inr ⟨windowOf_scratchpads h, rfl⟩)
  case reserved => exact fun h1 h2 => traps_rowopen_of_window (.inl ⟨windowOf_reserved h1 h2, rfl⟩)
  case opens => exact ⟨State.rowOpen_held hk, State.rowOpen_free hk, State.rowOpen_barred hk⟩
  case completes =>
    intro s core n t before after e d p c r ht hswap hk hop hsp
    exact ⟨_, exec_variableLatencyComplete ht hswap hk, State.completeEntry_rowOpen hop hsp⟩

end Sys2Proof.Machine
end

section
/-!
SUPPORT. A tile copy over a line of a cached page table takes the sidecar lines of another core (O32).
-/

namespace Sys2Proof.Machine

namespace TableCopy

/-- A task of context 0 of partition 0. -/
def task : Task := ⟨0, 0, 0, 0, 0, 0, 0, 0, 0, 0, false, 1, 0, 0⟩

/-- One 32-bit element in main memory: at address 0, where a table stands, and at address 64. -/
def dest : BitVec 128 := BitVec.ofNat 128 (2 ^ 126 + 5 * 2 ^ 120)
/-- The source of the copy. -/
def source : BitVec 128 := BitVec.ofNat 128 (2 ^ 126 + 5 * 2 ^ 120 + 64)

/-- An LDT that has issued from the one to the other. -/
def entry : Entry :=
  ⟨.ldt 1 2 dest source .none, 8, [], 0, 0, 0, 0, 0, 0, .plain, .core, [⟨64, 4, false⟩, ⟨0, 4, true⟩], 0, false, 0, []⟩

/-- A stream of another core's task holds the sidecar line 0 of the page that the table maps. -/
def stream : Stream :=
  { cfg := ⟨false, .core, .none, false, false, false, false, false, 0⟩, tile := 0, idx := 0, rep := 1, wtag := 0, fts := [],
    gate := 0xFFFF, gateFrom := 0, order := 0, tokBits := 0, pos := [], taken := [], lines := [(0, 0)], fault := none, wait := 0,
    packBlk := none, packed := [], packBad := false, msg := 0, got := [], rows := [] }

/-- The device: the LDT on core 0, the stream on core 1, and a cached translation that came from line 0. -/
def state : State :=
  { State.reset with
    cores := [(0, { Core.reset with bank := { Context.reset with task := some task, fly := [entry] } }),
      (1, { Core.reset with bank := { Context.reset with task := some task, gens := [(0, { Gen.reset with streams := [stream] })] } })]
    tlb := [⟨0, 0, 0, 2 ^ 19, 0, [0]⟩] }

/-- The sidecar lines that the streams of a core's generator 0 hold. -/
def heldLines (k : Core) : List (Sparse (BitVec 1024)) := (k.bank.gen 0).streams.map (·.lines)

end TableCopy

open TableCopy in
/-- Refutes O32: the destination, main memory, is a line that a cached translation came from (R384), so the write takes that
translation back and with it the sidecar line that a stream of core 1 holds of the page (R107): core 1 changes, though no byte
of its scratchpad is written. -/
theorem not_tileCopyIssues : ¬ Obligations.TileCopyIssues := by
  unfold Obligations.TileCopyIssues
  intro h
  obtain ⟨-, h⟩ := h
  obtain ⟨u, hu, -, -, -, -, -, hcore⟩ := h state 0 0 task [] [] entry 1 2 dest source .none [⟨64, 4, false⟩] [⟨0, 4, true⟩]
    rfl rfl rfl rfl rfl (by decide) (by decide) (by decide) (by decide) (by decide) rfl rfl (by decide +kernel)
    (.inl (by decide)) (by decide +kernel)
  obtain rfl := Host.Outcome.next.inj hu
  have hlines := congrArg heldLines (hcore (by decide) 1 (by decide))
  revert hlines
  decide +kernel

end Sys2Proof.Machine
end

section
/-!
SUPPORT. The memory list after a store of two runs of bytes, where the list it starts from is not in canonical form (O21).
-/

namespace Sys2Proof.Machine

/-! ### The cells of one key -/

/-- The cells of a memory list that stand under a key. -/
def cellsAt (a : Nat) (m : List Host.Cell) : List Host.Cell := m.filter fun c => c.1 == a

theorem cellsAt_cons (a : Nat) (c : Host.Cell) (m : List Host.Cell) :
    cellsAt a (c :: m) = if c.1 = a then c :: cellsAt a m else cellsAt a m := by
  simp [cellsAt, List.filter_cons]

theorem cellsAt_erase {a k : Nat} (h : k ≠ a) (m : List Host.Cell) : cellsAt a (Sparse.erase m k) = cellsAt a m := by
  induction m with
  | nil => rfl
  | cons c m ih =>
    rw [Sparse.erase, cellsAt_cons]
    split_ifs with hk ha ha
    · exact absurd (hk.symm.trans ha) h
    · exact ih
    · rw [cellsAt_cons, if_pos ha, ih]
    · rw [cellsAt_cons, if_neg ha, ih]

theorem cellsAt_set {a k : Nat} (h : k ≠ a) (m : List Host.Cell) (v : Byte) : cellsAt a (Sparse.set m k v) = cellsAt a m := by
  induction m with
  | nil => exact (cellsAt_cons a (k, v) []).trans (if_neg h)
  | cons c m ih =>
    rw [Sparse.set]
    split_ifs with hk
    · rw [cellsAt_cons, cellsAt_cons, if_neg h, if_neg (hk ▸ h)]
    · exact (cellsAt_cons a (k, v) _).trans (if_neg h)
    · rw [cellsAt_cons, cellsAt_cons, ih]

theorem cellsAt_memPut {a k : Nat} (h : k ≠ a) (m : List Host.Cell) (v : Byte) : cellsAt a (memPut m k v) = cellsAt a m := by
  unfold memPut Sparse.put
  split_ifs
  · exact cellsAt_erase h m
  · exact cellsAt_set h m v

/-- Putting the 64 bytes of a line changes the cells of its first byte as putting that byte does. -/
theorem cellsAt_foldl_memPut (a : Nat) (f : Nat → Byte) (m : List Host.Cell) :
    cellsAt a ((List.range 64).foldl (fun m k => memPut m (a + k) (f k)) m) = cellsAt a (memPut m a (f 0)) := by
  rw [List.range_succ_eq_map, List.foldl_cons]
  refine List.foldlRecOn (motive := fun u => cellsAt a u = cellsAt a (memPut m a (f 0))) _ _ rfl fun u hu k hk => ?_
  obtain ⟨j, -, rfl⟩ := List.mem_map.mp hk
  rw [cellsAt_memPut (by omega), hu]

theorem cellsAt_rekey {s : State} {l d : Nat} (hd : s.drawOf (64 * l) = some d)
    (hf : s.foreignLine d (s.storage (64 * l)) = true) : cellsAt (s.storage (64 * l)) (s.rekey [l]).mem =
      cellsAt (s.storage (64 * l)) (memPut s.mem (s.storage (64 * l)) (s.readUnder (some d) (s.storage (64 * l)))) := by
  rw [State.rekey, hd]
  dsimp only
  rw [if_pos hf, State.rekey]
  exact cellsAt_foldl_memPut _ (fun k => s.readUnder (some d) (s.storage (64 * l) + k)) _

/-! ### A store that performs on the device alone -/

theorem State.sendStore_of_device (s : State) (part : Nat) {xs : List Span} (hx : ∀ x ∈ xs, x.place < hostMark)
    (bs : List Byte) (tag : Nat) : s.sendStore part xs bs tag = (s, tag) := by
  induction xs generalizing bs with
  | nil => rfl
  | cons x xs ih =>
    rw [State.sendStore, if_neg (Nat.not_le.mpr (hx x List.mem_cons_self))]
    exact ih (fun y hy => hx y (List.mem_cons_of_mem x hy)) _

theorem State.loseObjects_of_signals {s : State} (h : ∀ k ∈ s.cores, ∀ c ∈ k.2.copies, c.2.signal.isSome = true)
    (xs : List Span) : s.loseObjects xs = s := by
  have hwords : (s.cores.flatMap fun e => e.2.copies.filterMap fun c => if c.2.signal.isNone then some c.2.word else none) = [] := by
    refine List.flatMap_eq_nil_iff.mpr fun k hk => List.filterMap_eq_nil_iff.mpr fun c hc => if_neg ?_
    rw [← Option.not_isSome, h k hk c hc]
    exact Bool.false_ne_true
  unfold State.loseObjects
  rw [hwords]
  rfl

theorem State.performEntry_store_mem {s : State} {core : Nat} {second : Bool} {t : Task} {before after : List Entry} {e : Entry}
    {n : Nat} (hgo : (s.bankOf core second).mayPerform (s.fstrOf t) e before = true) (hop : e.op = .store n) (hmsg : e.msg = 0)
    (hx : ∀ x ∈ e.spans, x.place < hostMark)
    (hobj : ∀ k ∈ ((s.yieldRows e.spans).storeHere e.spans e.data).cores, ∀ c ∈ k.2.copies, c.2.signal.isSome = true) :
    (s.performEntry core second t before e after).mem = ((s.yieldRows e.spans).storeHere e.spans e.data).mem := by
  unfold State.performEntry
  simp only [hgo, hop, hmsg, State.sendStore_of_device _ _ hx, State.loseObjects_of_signals hobj]
  unfold State.setBankOf
  cases second <;> rfl

theorem State.rekey_sliceMap (s : State) (ls : List Nat) : (s.rekey ls).sliceMap = s.sliceMap := by
  induction ls generalizing s with
  | nil => rfl
  | cons l ls ih =>
    rw [State.rekey]
    split
    · exact ih s
    · exact ih _

/-- A store of one byte. -/
theorem State.write_byte_mem (s : State) (p : Nat) (b : Byte) :
    (s.write p [b]).mem = memPut (s.rekey [p / 64]).mem (s.storage p) b := by
  have hline : linesOf p [b].length = [p / 64] := by simp [linesOf]
  rw [State.write_mem, hline, ← storage_congr (s.rekey_sliceMap [p / 64]) p]
  rfl

theorem State.storeHere_two {s : State} {x y : Span} {bs : List Byte} (hx : x.place < hostMark ∧ isFw x.place = false)
    (hy : y.place < hostMark ∧ isFw y.place = false) :
    s.storeHere [x, y] bs = (s.write x.place (bs.take x.n)).write y.place ((bs.drop x.n).take y.n) := by
  have hperf (u : State) {z : Span} (hz : z.place < hostMark ∧ isFw z.place = false) (cs : List Byte) :
      (if hostMark ≤ z.place then u else u.perfWrite z.place cs) = u.write z.place cs := by
    rw [if_neg (Nat.not_le.mpr hz.1), State.perfWrite, hz.2]
    rfl
  rw [State.storeHere, State.storeHere, State.storeHere, hperf s hx, hperf _ hy]

namespace TwoRuns

/-- A byte outside the lofts. -/
def far : Nat := 0x060000000000
/-- The first byte of a loft, and its place under the key of tenant 0 of partition 0. -/
def loft : Nat := 0x030000000000
/-- The line of that place. -/
def line : Nat := (16 * 2 ^ 48 + loft) / 64

/-- A store of two zero bytes: one outside the lofts, then the second byte of the loft line. -/
def entry : Entry :=
  ⟨.store 2, 8, [], 0, 0, 0, 0, 0, 0, .plain, .core, [⟨far, 1, true⟩, ⟨64 * line + 1, 1, true⟩], 0, false, 0, []⟩

/-- What the two keystreams make of the line's first byte. -/
def mask : Byte := Config.keystream (Config.tenantKey 0) 0 loft ^^^ Config.keystream (Config.tenantKey 5) 0 loft

/-- A device whose memory list is a given one: draw 5 is the tenant's key, and draw 0 wrote the line last. -/
def device (m : List Host.Cell) : State :=
  { State.reset with
    cores := [(0, { Core.reset with bank := { Context.reset with task := some TableCopy.task, fly := [entry] } })]
    mem := m, keys := [(0, 5)], loftKey := [(loft / 64, 1)] }

/-- The list: the far byte stands before the loft byte, against the order of the keys. The loft byte reads 1. -/
def cells : List Host.Cell := [(far, 1), (loft, mask ^^^ 1)]

theorem readUnder_device {m : List Host.Cell} (hm : memByte m loft = mask ^^^ 1) :
    (device m).readUnder (some 5) loft = 1 := by
  have hmask : (device m).mask 5 loft = mask := rfl
  change memByte m loft ^^^ (device m).mask 5 loft = 1
  rw [hm, hmask, BitVec.xor_comm mask, BitVec.xor_assoc, BitVec.xor_self, BitVec.xor_zero]

theorem storage_line (m : List Host.Cell) : (device m).storage (64 * line) = loft := by
  have h : (device []).storage (64 * line) = loft := by decide +kernel
  exact (storage_congr rfl _).trans h

theorem drawOf_line (m : List Host.Cell) : (device m).drawOf (64 * line) = some 5 := by
  have h : (device []).drawOf (64 * line) = some 5 := by decide +kernel
  exact Eq.trans rfl h

theorem foreignLine_loft (m : List Host.Cell) : (device m).foreignLine 5 loft = true := by
  have h : (device []).foreignLine 5 loft = true := by decide +kernel
  exact Eq.trans rfl h

/-- What is under the loft byte's key once its line is under the key of the store. -/
theorem cellsAt_rekey_device {m : List Host.Cell} (hm : memByte m loft = mask ^^^ 1) :
    cellsAt loft ((device m).rekey [line]).mem = cellsAt loft (memPut m loft 1) := by
  have h := cellsAt_rekey (drawOf_line m) (storage_line m ▸ foreignLine_loft m)
  rwa [storage_line, readUnder_device hm] at h

theorem performEntry_mem : ((device cells).performEntry 0 false TableCopy.task [] entry []).mem =
    ((device cells).storeHere entry.spans entry.data).mem := by
  refine State.performEntry_store_mem (n := 2) ?_ rfl rfl (by decide) ?_
  · decide +kernel
  · decide +kernel

/-- The memory after the store: the loft line comes under the store's key once the far byte is gone. -/
theorem performEntry_cells : cellsAt loft ((device cells).performEntry 0 false TableCopy.task [] entry []).mem = [(loft, 1)] := by
  have hfar : ((device cells).write far [0]).mem = [(loft, mask ^^^ 1)] := by
    have hnot : ∀ l ∈ [far / 64], isLoft (64 * l) = false := by decide
    rw [State.write_byte_mem, State.rekey_of_not_loft _ _ hnot]
    rfl
  have hrekey := (State.rekey_congr (u := (device cells).write far [0]) (s := device [(loft, mask ^^^ 1)]) hfar rfl rfl rfl rfl [line]).1
  have hfirst : (64 * line + 1) / 64 = line := by decide
  have hsecond : ((device cells).write far [0]).storage (64 * line + 1) = loft + 1 := by
    have h : (device []).storage (64 * line + 1) = loft + 1 := by decide +kernel
    exact (storage_congr rfl _).trans h
  rw [performEntry_mem, entry, State.storeHere_two (by decide) (by decide)]
  change cellsAt loft (((device cells).write far [0]).write (64 * line + 1) [0]).mem = _
  rw [State.write_byte_mem, cellsAt_memPut (by rw [hsecond]; decide), hfirst, hrekey, cellsAt_rekey_device rfl]
  rfl

/-- The memory that the statement names: the line comes under the store's key before the far byte goes. -/
theorem keyed_cells : cellsAt loft ((device cells).rekey [far / 64, line]).mem = [(loft, 1), (loft, mask ^^^ 1)] := by
  have hfar : (device cells).drawOf (64 * (far / 64)) = none := State.drawOf_of_not_loft _ (by decide)
  rw [State.rekey, hfar]
  exact (cellsAt_rekey_device rfl).trans rfl

end TwoRuns

open TwoRuns in
/-- Refutes O21: two runs of a store to a memory list whose keys do not rise. The model takes each run's lines under the store's
key as the run performs, the statement all of them before the first byte; where the loft byte's cell stands behind a cell of a
greater key, the statement's order leaves two cells of the loft byte and the model's one. -/
theorem not_storesAndAtomicsPerform : ¬ Obligations.StoresAndAtomicsPerform := by
  unfold Obligations.StoresAndAtomicsPerform
  rintro ⟨h, -⟩
  have hstore := h (device cells) 0 false 0 TableCopy.task [] [] entry [0, 0] rfl rfl (by decide +kernel) (by decide +kernel) rfl
    (by decide) (.inl ⟨rfl, rfl⟩)
  obtain ⟨u, hu, hmem, -⟩ := hstore.2 (by decide +kernel)
  obtain rfl := Host.Outcome.next.inj hu
  have hcells := congrArg (cellsAt loft) hmem
  have hput (p : Nat) (hp : (device cells).storage p ≠ loft) (m : List Host.Cell) (b : Byte) :
      cellsAt loft (memPut m ((device cells).storage p) b) = cellsAt loft m := cellsAt_memPut hp m b
  have hstated : cellsAt loft (memPut (memPut ((device cells).rekey [far / 64, line]).mem ((device cells).storage far) 0)
      ((device cells).storage (64 * line + 1)) 0) = [(loft, 1), (loft, mask ^^^ 1)] := by
    rw [hput _ (by decide +kernel), hput _ (by decide +kernel), keyed_cells]
  exact absurd (congrArg List.length (performEntry_cells.symm.trans (hcells.trans hstated))) (by decide)

end Sys2Proof.Machine
end

section
/-!
SUPPORT. Port generators: delivering tokens, storing them, and the end of a stream (O49).
-/

namespace Sys2Proof.Machine

/-! ### Delivering (R249, R280) -/

theorem Gen.deliver_lane (g : Gen) {y : Stream} (l : Nat) (tok : Token) (h : y.cfg.rsym = false) : g.deliver y l tok = { g with
    streams := { y with pos := y.pos.set l (laneCount y.pos l + 1), wait := 0, got := [], rows := [] } :: g.streams.drop 1,
    rx := g.rx.set l (laneList g.rx l ++ [tok]) } := by
  unfold Gen.deliver
  rw [h]
  rfl

theorem Sparse.get_foldl_set_of_mem {α : Type} (d : α) (f : Nat → α) {ks : List Nat} (m : Sparse α) {j : Nat} (h : j ∈ ks) :
    Sparse.get d (ks.foldl (fun m k => m.set k (f k)) m) j = f j := by
  induction ks using List.reverseRecOn with
  | nil => exact absurd h List.not_mem_nil
  | append_singleton ks k ih =>
    rw [List.foldl_append, List.foldl_cons, List.foldl_nil, Sparse.get_set]
    split_ifs with hk
    · rw [hk]
    · exact ih ((List.mem_append.mp h).resolve_right (by simpa using hk))

theorem Gen.deliver_group (g : Gen) {y : Stream} {l j : Nat} (tok : Token) (h : y.cfg.rsym = true) (hj : j < 16)
    (hpos : laneCount y.pos j = laneCount y.pos l) :
    laneList (g.deliver y l tok).rx j = laneList g.rx j ++ [tok] := by
  unfold Gen.deliver
  rw [h]
  refine Sparse.get_foldl_set_of_mem [] (fun j => laneList g.rx j ++ [tok]) g.rx ?_
  exact List.mem_filter.mpr ⟨List.mem_range.mpr hj, beq_iff_eq.mpr hpos⟩

/-- The next lane is the first in walk order of those with room. -/
theorem Gen.nextLane_spec {g : Gen} {x : Stream} {depth l : Nat} (h : g.nextLane x depth = some l) :
    l < 16 ∧ x.laneDone l = false ∧ (laneList g.rx l).length < depth
      ∧ ∀ j, j < (if x.cfg.rsym then 1 else 16) → x.laneDone j = false → (laneList g.rx j).length < depth →
        16 * laneCount x.pos l + l ≤ 16 * laneCount x.pos j + j := by
  unfold Gen.nextLane at h
  have hfirst := List.find?_some h
  obtain ⟨hl, hroom⟩ := List.mem_filter.mp (List.mem_of_find?_eq_some h)
  rw [Bool.and_eq_true, Bool.not_eq_true', decide_eq_true_eq] at hroom
  refine ⟨?_, hroom.1, hroom.2, fun j hj hdone hlen => ?_⟩
  · have hl := List.mem_range.mp hl
    split_ifs at hl <;> omega
  · refine of_decide_eq_true (List.all_eq_true.mp hfirst j (List.mem_filter.mpr ⟨List.mem_range.mpr hj, ?_⟩))
    rw [hdone, decide_eq_true hlen]
    rfl

/-- Besides its generator, a delivery changes row slots alone. -/
theorem State.delivered_spec (s : State) (core g : Nat) (gen : Gen) (rows : List Nat) :
    let u := (rows.foldl (fun s r => s.rowYield (r * 1024)) s).setGen core g gen
    u.mem = s.mem ∧ u.cores = (s.setGen core g gen).cores ∧ (rows = [] → u = s.setGen core g gen) := by
  obtain ⟨slots, h⟩ := State.foldl_rows (fun (u : State) k => u.rowYield_eq (k * 1024)) s rows
  rw [h]
  refine ⟨rfl, rfl, fun hrows => ?_⟩
  rw [← h, hrows]
  rfl

section
variable {s : State} {core : CoreId} {g : Fin 4} {t : Task} {x0 : Stream} {rest : List Stream}
  (ht : (s.bank core.val).task = some t) (hswap : (s.core core.val).swapping = false)
  (hx : ((s.bank core.val).gen g.val).streams = x0 :: rest) (hfault : x0.fault = none)
include ht hswap hx hfault

theorem exec_generatorReadReturn {h l : Nat} {nxt : Bool} {blk : Block} {ent : StreamEnt} {tok : Token} {y : Stream}
    (hread : x0.cfg.write = false) (hb : (s.bank core.val).binder g.val false = some (h, nxt, blk, ent))
    (hwide : (x0.fix ent.slots).tooWide (x0.fix ent.slots).tokBits = false)
    (hlane : ((s.bank core.val).gen g.val).nextLane (x0.fix ent.slots) (s.fillTarget t blk ent) = some l)
    (hboard : s.boardHolds core.val t (x0.fix ent.slots).order (x0.fix ent.slots).ranges false = false)
    (htok : s.readToken core.val t (x0.fix ent.slots) ((s.bank core.val).stageOf core.val h (x0.fix ent.slots) ent.dst.idx) l
      (laneCount (x0.fix ent.slots).pos l) = .ok (tok, y)) :
    exec (.generatorReadReturn core g) s = .next ((y.rows.foldl (fun s r => s.rowYield (r * 1024)) s).setGen core.val g.val
      (((s.bank core.val).gen g.val).deliver y l tok)) := by
  change execGeneratorReadReturn core g s = _
  simp [execGeneratorReadReturn, ht, hx, hread, hfault, hswap, hb, hwide, hlane, hboard, htok]

/-! ### The end of a stream (R206, R209) -/

theorem exec_streamFinish_over (hover : x0.finished = true) (hmsg : x0.msg = 0) :
    exec (.streamFinish core g) s = .next (s.setGen core.val g.val
      { (s.bank core.val).gen g.val with streams := inheritLines x0 rest }) := by
  change execStreamFinish core g s = _
  simp [execStreamFinish, State.streamOver, ht, hx, hfault, hswap, hover, hmsg]

omit hswap hfault in
theorem exec_streamFinish_running (hover : x0.finished = false) : exec (.streamFinish core g) s = .next s := by
  change execStreamFinish core g s = _
  simp [execStreamFinish, State.streamOver, ht, hx, hover]

end

/-! ### Marks of poisoned lines (R423, R427) -/

theorem State.markPoison_poison_mono (s : State) (p n : Nat) {k : Nat} (h : k ∈ s.poison) : k ∈ (s.markPoison p n).poison := by
  refine List.foldlRecOn (motive := fun ps => k ∈ ps) _ _ h fun ps hps l _ => ?_
  dsimp only
  split_ifs
  · exact hps
  · exact List.mem_append_left _ hps

theorem State.poisoned_byte (s : State) (p : Nat) : s.poisoned p 1 = true ↔ s.storage (64 * (p / 64)) / 64 ∈ s.poison := by
  simp [State.poisoned, linesOf]

theorem State.poisoned_markPoison (s : State) (p : Nat) : (s.markPoison p 1).poisoned p 1 = true := by
  rw [State.poisoned_byte]
  have hline : linesOf p 1 = [p / 64] := by simp [linesOf]
  have hstorage : (s.markPoison p 1).storage (64 * (p / 64)) = s.storage (64 * (p / 64)) := storage_congr rfl _
  rw [hstorage, State.markPoison, hline, List.foldl_cons, List.foldl_nil]
  dsimp only
  split_ifs with h
  · exact List.contains_iff_mem.mp h
  · exact List.mem_append_right _ List.mem_cons_self

/-- Later marks keep a mark. -/
theorem State.poisoned_markPoison_mono (s : State) (q n : Nat) {p : Nat} (h : s.poisoned p 1 = true) :
    (s.markPoison q n).poisoned p 1 = true := by
  rw [State.poisoned_byte] at h ⊢
  rw [storage_congr (u := s.markPoison q n) (s := s) rfl]
  exact s.markPoison_poison_mono q n h

theorem State.markPlaces_mem (s : State) (bad : Bool) (items : List (Loc × Byte × Option Byte)) :
    (s.markPlaces bad items).mem = s.mem := by
  refine List.foldlRecOn (motive := fun u : State => u.mem = s.mem) _ _ rfl fun u hu y _ => ?_
  split
  · unfold State.markIf
    split_ifs
    · exact hu
    · exact hu
  · exact hu

theorem State.poisoned_markPlaces_mono {s : State} (bad : Bool) (items : List (Loc × Byte × Option Byte)) {p : Nat}
    (h : s.poisoned p 1 = true) : (s.markPlaces bad items).poisoned p 1 = true := by
  refine List.foldlRecOn (motive := fun u : State => u.poisoned p 1 = true) _ _ h fun u hu y _ => ?_
  split
  · unfold State.markIf
    split_ifs
    · exact State.poisoned_markPoison_mono u _ 1 hu
    · exact hu
  · exact hu

theorem State.poisoned_markPlaces {s : State} {items : List (Loc × Byte × Option Byte)} {p : Nat} {q : Byte × Option Byte}
    (hp : p < hostMark) (hq : q.2.isSome = true) (h : (.place p, q) ∈ items) :
    (s.markPlaces true items).poisoned p 1 = true := by
  obtain ⟨xs, ys, rfl⟩ := List.append_of_mem h
  obtain ⟨m, v⟩ := q
  obtain ⟨v, rfl⟩ := Option.isSome_iff_exists.mp hq
  rw [State.markPlaces, List.foldl_append, List.foldl_cons]
  refine State.poisoned_markPlaces_mono true ys ?_
  dsimp only
  rw [decide_eq_true hp]
  exact State.poisoned_markPoison _ p

/-! ### Storing (R250, R430) -/

theorem filterMap_places {α : Type} {f : Loc → Option α} (hf : ∀ q, f (.place q) = none) {ps : List Loc}
    (hps : ∀ p ∈ ps, ∃ q, p = .place q ∧ q < hostMark) : ps.filterMap f = [] := by
  refine List.filterMap_eq_nil_iff.mpr fun p hp => ?_
  obtain ⟨q, rfl, -⟩ := hps p hp
  exact hf q

/-- A generator that has stored the token of a lane. -/
def Gen.storedToken (gen : Gen) (x : Stream) (l tag : Nat) (q : List SentTok) (wx : Sparse (List SentTok)) : Gen :=
  { gen.setHead { x with pos := x.pos.set l (laneCount x.pos l + x.span), wait := 0, msg := if tag = 0 then x.msg else tag } with
    wx := wx.set l q }

/-- The state once the bytes of a token are stored, marked, and the token is gone from its lane. -/
def State.tokenStored (s : State) (core part g l : Nat) (bad : Bool) (items : List (Loc × Byte × Option Byte)) (x : Stream)
    (q : List SentTok) (wx : Sparse (List SentTok)) : State :=
  let r := s.storePlaces part items 0
  let u := r.1.markPlaces bad items
  u.setGen core g (((u.bank core).gen g).storedToken x l r.2 q wx)

theorem State.tokenStored_spec (s : State) (core part g l : Nat) (bad : Bool) (items : List (Loc × Byte × Option Byte))
    (x : Stream) (q : List SentTok) (wx : Sparse (List SentTok)) :
    let u := s.tokenStored core part g l bad items x q wx
    u.mem = (s.storePlaces part items 0).1.mem
      ∧ (bad = true → ∀ p y, p < hostMark → (.place p, y) ∈ items → y.2.isSome = true → u.poisoned p 1 = true)
      ∧ laneList ((u.bank core).gen g).wx l = q
      ∧ ∃ z, ((u.bank core).gen g).streams.head? = some z ∧ laneCount z.pos l = laneCount x.pos l + x.span := by
  refine ⟨State.markPlaces_mem _ bad items, ?_, ?_, ?_⟩
  · rintro rfl p y hp hy hq
    exact State.poisoned_markPlaces (s := (s.storePlaces part items 0).1) hp hq hy
  · simp only [State.tokenStored, State.setGen, State.bank_setBank, Context.gen_setGen]
    exact Sparse.get_set_self _ _ _ _
  · simp only [State.tokenStored, State.setGen, State.bank_setBank, Context.gen_setGen]
    exact ⟨_, rfl, Sparse.get_set_self _ _ _ _⟩

/-- The oldest token of a lane may be stored, whatever the other lanes have stored, at places of the device. -/
structure State.TokenReady (s : State) (core g l : Nat) (t : Task) (x0 : Stream) (tk : SentTok) (more : List SentTok)
    (ent : StreamEnt) (ps : List Loc) : Prop where
  write : x0.cfg.write = true
  fault : x0.fault = none
  wx : laneList ((s.bank core).gen g).wx l = tk :: more
  entry : ∃ h nxt blk, (s.bank core).bySerial tk.blk = some (h, nxt, blk) ∧ blk.prog.genEntry g true = some ent
  lane : (x0.fix ent.slots).laneDone l = false
  span : (x0.fix ent.slots).span ≤ (tk :: more).length
  board : s.boardHolds core t (x0.fix ent.slots).order (x0.fix ent.slots).ranges true = false
  anyOrder : (x0.fix ent.slots).disjoint = true ∧ s.fstrOf t = false ∧ (x0.fix ent.slots).packBlk = none
  places : s.tokenPlaces core t (x0.fix ent.slots) l (laneCount (x0.fix ent.slots).pos l)
    (joinTokens ((tk :: more).take (x0.fix ent.slots).span)).2
    ((x0.fix ent.slots).tokenBytes l (laneCount (x0.fix ent.slots).pos l)
      (joinTokens ((tk :: more).take (x0.fix ent.slots).span)).1 (joinTokens ((tk :: more).take (x0.fix ent.slots).span)).2) = .ok ps
  device : ∀ p ∈ ps, ∃ q, p = .place q ∧ q < hostMark
  page : tk.pk = false

section
variable {s : State} {core : CoreId} {g : Fin 4} {lane : Fin 16} {t : Task} {x0 : Stream} {rest : List Stream} {tk : SentTok}
  {more : List SentTok} {ent : StreamEnt} {ps : List Loc}

theorem exec_generatorStore (ht : (s.bank core.val).task = some t) (hswap : (s.core core.val).swapping = false)
    (hx : ((s.bank core.val).gen g.val).streams = x0 :: rest) (hready : s.TokenReady core.val g.val lane.val t x0 tk more ent ps) :
    let x := x0.fix ent.slots
    let toks := (tk :: more).take x.span
    let v := joinTokens toks
    exec (.generatorStore core g lane) s = .next (s.tokenStored core.val t.part g.val lane.val (toks.any fun y => y.tok.poison)
      (ps.zip ((x.tokenBytes lane.val (laneCount x.pos lane.val) v.1 v.2).map fun y => y.2)) x ((tk :: more).drop x.span)
      ((s.bank core.val).gen g.val).wx) := by
  intro x toks v
  obtain ⟨hwrite, hfault, hwx, ⟨h1, n1, blk, hserial, hent⟩, hlane, hspan, hboard, ⟨hdisjoint, hfstr, hpack⟩, hplaces, hdev, hpk⟩ :=
    hready
  have hstore : s.storeToken core.val t g.val lane.val = .stored (s.tokenStored core.val t.part g.val lane.val
      (toks.any fun y => y.tok.poison) (ps.zip ((x.tokenBytes lane.val (laneCount x.pos lane.val) v.1 v.2).map fun y => y.2)) x
      ((tk :: more).drop x.span) ((s.bank core.val).gen g.val).wx) := by
    unfold State.storeToken
    simp only [hx, hwx, hwrite, hfault, hserial, hent]
    rw [if_neg (by simp), if_neg (by simpa [hlane] using hspan), if_neg (by simp [hboard]),
      if_neg (by simp [hdisjoint, hfstr, hpack]), hplaces]
    dsimp only
    rw [filterMap_places (fun _ => rfl) hdev]
    simp only [List.any_nil, List.isEmpty_nil, hpk]
    rw [if_neg (by simp), if_neg (by simp), if_neg (by simp)]
    rfl
  change execGeneratorStore core g lane s = _
  unfold execGeneratorStore
  simp only [ht, hswap, hstore]
  rfl

end

end Sys2Proof.Machine
end

section
/-!
SUPPORT. Copies: what moving, crediting and cancelling leave of a core's copies and of its task (O49).
-/

namespace Sys2Proof.Machine

/-! ### Operations that leave every core's copies and task alone -/

/-- The copies of a core and the task of its active bank. -/
def Core.work (k : Core) : Sparse Copy × Option Task := (k.copies, k.bank.task)

/-- Every core has the copies and the task it has in the other state. -/
def State.sameWork (u s : State) : Prop := ∀ j, (u.core j).work = (s.core j).work

theorem State.sameWork.trans {u v s : State} (h : u.sameWork v) (h' : v.sameWork s) : u.sameWork s := fun j => (h j).trans (h' j)

theorem State.sameWork_of_cores {u s : State} (h : u.cores = s.cores) : u.sameWork s := fun j => by
  rw [State.core, State.core, h]

theorem State.sameWork.copies {u s : State} (h : u.sameWork s) (j : Nat) : (u.core j).copies = (s.core j).copies :=
  congrArg Prod.fst (h j)

theorem State.sameWork.isChain {u s : State} (h : u.sameWork s) (j n : Nat) : (u.bank j).isChain n = (s.bank j).isChain n := by
  have htask : (u.bank j).task = (s.bank j).task := congrArg Prod.snd (h j)
  rw [Context.isChain, Context.isChain, htask]

theorem State.sameWork_foldl {α : Type} {f : State → α → State} {xs : List α} (hf : ∀ u, ∀ x ∈ xs, (f u x).sameWork u)
    (s : State) : (xs.foldl f s).sameWork s :=
  List.foldlRecOn (motive := fun u : State => u.sameWork s) _ _ (fun _ => rfl) fun u hu x hx => (hf u x hx).trans hu

theorem State.sameWork_setCore {s : State} {c : Nat} {k : Core} (h : k.work = (s.core c).work) : (s.setCore c k).sameWork s := by
  intro j
  by_cases hj : j = c
  · rw [hj, State.core_setCore, h]
  · rw [State.core_setCore_ne _ _ hj]

theorem State.sameWork_wakeCore (s : State) (c : Nat) : (s.wakeCore c).sameWork s := by
  unfold State.wakeCore Context.wake
  split_ifs
  · exact State.sameWork_setCore rfl
  · exact fun _ => rfl

/-- A core whose generators give up the sidecar lines of stale translations. -/
def Core.staleLines (gone : List TlbEntry) (k : Core) : Core :=
  { k with bank := k.bank.staleLines gone, other := k.other.staleLines gone }

theorem State.sameWork_dropTlb (s : State) (stale : TlbEntry → Bool) : (s.dropTlb stale).sameWork s := by
  unfold State.dropTlb
  dsimp only
  split_ifs
  · exact fun _ => rfl
  · intro j
    have h := congrArg Core.work (Sparse.get_map (Core.staleLines (s.tlb.filter stale)) Core.reset s.cores j)
    exact h

theorem State.rekey_cores (s : State) (ls : List Nat) : (s.rekey ls).cores = s.cores := by
  induction ls generalizing s with
  | nil => rfl
  | cons l ls ih =>
    rw [State.rekey]
    split
    · exact ih s
    · exact ih _

theorem State.sameWork_write (s : State) (p : Nat) (bs : List Byte) : (s.write p bs).sameWork s := by
  have hbytes (u : State) : (((u.rekey (linesOf p bs.length)).putBytes p bs).bumpGen (linesOf p bs.length)).cores = u.cores := by
    obtain ⟨m, hm⟩ := (u.rekey (linesOf p bs.length)).putBytes_eq p bs
    rw [hm]
    exact u.rekey_cores _
  unfold State.write
  dsimp only
  split_ifs
  · exact (State.sameWork_wakeCore _ _).trans ((State.sameWork_of_cores (hbytes _)).trans (s.sameWork_dropTlb _))
  · exact State.sameWork.trans (State.sameWork_of_cores (hbytes _)) (s.sameWork_dropTlb _)

theorem State.sameWork_creditCopy (s : State) (c : Copy) : (s.creditCopy c).sameWork s := by
  unfold State.creditCopy
  split
  · exact s.sameWork_write _ _
  · exact s.sameWork_write _ _

theorem State.sameWork_yieldRun (s : State) (p n : Nat) : (s.yieldRun p n).sameWork s := by
  obtain ⟨rows, h⟩ := s.yieldRun_eq p n
  exact State.sameWork_of_cores (by rw [h])

theorem State.sameWork_sendMem (s : State) (part : Nat) (ty : BitVec 8) (arg : BitVec 96) (bs : List Byte) :
    (s.sendMem part ty arg bs).1.sameWork s :=
  State.sameWork_of_cores (State.sendSeq_cores ..)

/-! ### What a copy moves (R109) -/

theorem mem_runsOf {l : List (Nat × Byte)} {x : Nat × List Byte} (h : x ∈ runsOf l) : ∃ y ∈ l, y.1 = x.1 := by
  induction l generalizing x with
  | nil => exact absurd h List.not_mem_nil
  | cons e l ih =>
    have hrest (hx : x ∈ runsOf l) : ∃ y ∈ e :: l, y.1 = x.1 := by
      obtain ⟨y, hy, hp⟩ := ih hx
      exact ⟨y, .tail e hy, hp⟩
    obtain ⟨p, b⟩ := e
    have hhead : ∃ y ∈ (p, b) :: l, y.1 = p := ⟨(p, b), .head l, rfl⟩
    unfold runsOf at h
    split at h
    next q bs more hr =>
      rw [hr] at hrest
      split_ifs at h
      · obtain rfl | h := List.mem_cons.mp h
        · exact hhead
        · exact hrest (.tail _ h)
      · obtain rfl | h := List.mem_cons.mp h
        · exact hhead
        · exact hrest h
    next =>
      obtain rfl := List.mem_singleton.mp h
      exact hhead

theorem mem_copyValues {s : State} {c : Copy} {ms : List Moved} {m : Nat × Byte} (h : m ∈ s.copyValues c ms) :
    ∃ x ∈ ms, m.1 = x.dst ∨ m.1 = x.src ∧ (Sparse.find c.kept x.src).isSome = true := by
  obtain h | h := List.mem_append.mp h
  · obtain ⟨e, he, rfl⟩ := List.mem_map.mp h
    exact ⟨e.1, List.fst_mem_of_mem_zipIdx he, .inl rfl⟩
  · obtain ⟨e, he, rfl⟩ := List.mem_map.mp h
    obtain ⟨he, hkept⟩ := List.mem_filter.mp he
    exact ⟨e.1, List.fst_mem_of_mem_zipIdx he, .inr ⟨rfl, hkept⟩⟩

/-- A place that is no source of the copy takes the byte that moves there. -/
theorem moved_mem_copyValues (s : State) {c : Copy} {ms : List Moved} {x : Moved} (hx : x ∈ ms)
    (hsrc : x.dst ∉ ms.map fun z => z.src) (hreads : x.dst ∉ c.reads) : (x.dst, x.val) ∈ s.copyValues c ms := by
  obtain ⟨i, hi, rfl⟩ := List.mem_iff_getElem.mp hx
  refine List.mem_append_left _ (List.mem_map.mpr ⟨(ms[i], i), List.mk_mem_zipIdx_iff_getElem?.mpr (List.getElem?_eq_getElem hi), ?_⟩)
  refine congrArg (Prod.mk _) (if_neg ?_)
  rw [Bool.or_eq_true, not_or]
  refine ⟨fun h => hsrc ?_, fun h => hreads (List.contains_iff_mem.mp h)⟩
  obtain ⟨y, hy, hp⟩ := List.any_eq_true.mp h
  exact List.mem_map.mpr ⟨y, hy, beq_iff_eq.mp hp⟩

/-- Bytes that lie outside the firmware's registers. -/
def Moved.plain (c : Copy) (m : Moved) : Prop :=
  isFw m.dst = false ∧ ((Sparse.find c.kept m.src).isSome = true → isFw m.src = false)

theorem State.sameWork_moveBytes (s : State) {c : Copy} {ms : List Moved} (h : ∀ m ∈ ms, m.plain c) :
    (s.moveBytes c ms).1.sameWork s := by
  have hplain {x : Nat × List Byte} (hx : x ∈ runsOf (s.copyValues c ms)) : isFw x.1 = false := by
    obtain ⟨y, hy, hp⟩ := mem_runsOf hx
    obtain ⟨m, hm, hd | ⟨hs, hk⟩⟩ := mem_copyValues hy
    · rw [← hp, hd, (h m hm).1]
    · rw [← hp, hs, (h m hm).2 hk]
  obtain ⟨rows, hrows⟩ := State.yieldRows_eq { s with turn := s.turn + 2 * ms.length } (ms.map fun m => ⟨m.src, 1, false⟩)
  unfold State.moveBytes
  dsimp only
  refine State.sameWork.trans (State.sameWork_foldl (f := fun u (m : Moved) => u.markPoison m.dst 1) (fun _ _ _ _ => rfl) _) ?_
  refine List.foldlRecOn (motive := fun r : State × Nat => r.1.sameWork s) _ _ ?_ fun r hr x hx => ?_
  · rw [hrows]
    exact fun _ => rfl
  · split_ifs
    · exact (State.sameWork_sendMem _ _ _ _ _).trans hr
    · rw [State.perfWrite, hplain hx]
      exact ((State.sameWork_write _ _ _).trans (State.sameWork_yieldRun _ _ _)).trans hr

/-! ### The slot of a copy -/

theorem Sparse.find_erase_self {α : Type} (m : Sparse α) (k : Nat) : Sparse.find (m.erase k) k = none := by
  induction m with
  | nil => rfl
  | cons e m ih =>
    rw [Sparse.erase]
    split_ifs with h
    · exact ih
    · rw [Sparse.find, if_neg h, ih]

/-- Every copy of a core stands in one of its slots: none waits for one (R109, R113). -/
def State.seated (s : State) (k : Nat) : Prop := ∀ e ∈ (s.core k).copies, e.1 < 512

theorem State.seatCopies_of_seated {s : State} {k : Nat} (h : s.seated k) : s.seatCopies k = s := by
  have hmine : ((s.core k).copies.filter fun e =>
      decide (512 ≤ e.1) && !((s.contexts k).drop 1).any fun c => c.isChain e.2.owner) = [] :=
    List.filter_eq_nil_iff.mpr fun e he => by simp [h e he]
  unfold State.seatCopies
  dsimp only
  rw [hmine]
  exact ite_self s

theorem State.seatCopies_induction {P : State → Prop} {s : State} (k : Nat) (h : P s)
    (hmove : ∀ u i j c, P u → P (u.moveSlot k i j c)) : P (s.seatCopies k) := by
  unfold State.seatCopies
  dsimp only
  split_ifs
  · exact h
  · refine List.foldlRecOn _ _ h fun u hu e _ => ?_
    split
    · exact hmove _ _ _ _ hu
    · exact hu

/-- Seating copies changes no memory and no bank. -/
theorem State.seatCopies_mem_bank (s : State) (k : Nat) :
    (s.seatCopies k).mem = s.mem ∧ ∀ j, (s.seatCopies k).bank j = s.bank j := by
  have hset (u : State) (cs : Sparse Copy) (j : Nat) : (u.setCore k { u.core k with copies := cs }).bank j = u.bank j := by
    by_cases hj : j = k
    · rw [hj, State.bank, State.core_setCore]
      rfl
    · rw [State.bank, State.core_setCore_ne _ _ hj]
      rfl
  refine State.seatCopies_induction (P := fun u => u.mem = s.mem ∧ ∀ j, u.bank j = s.bank j) k ⟨rfl, fun _ => rfl⟩
    fun u i n c hu => ⟨hu.1, fun j => ?_⟩
  exact ((hset (u.dropCopy k i) _ j).trans (hset u _ j)).trans (hu.2 j)

section
variable {s : State} {k slot : Nat} {c : Copy}

/-- A slot is free once its copy is dropped and no other copy waits for one. -/
theorem State.copy_dropCopy_seatCopies (h : s.seated k) : ((s.dropCopy k slot).seatCopies k).copy k slot = none := by
  have hdrop : ((s.dropCopy k slot).core k).copies = (s.core k).copies.erase slot := by
    rw [State.dropCopy, State.core_setCore]
  have hseated : (s.dropCopy k slot).seated k := by
    intro e he
    rw [hdrop] at he
    exact h e (Sparse.mem_erase _ _ _ he)
  rw [State.seatCopies_of_seated hseated, State.copy, hdrop, Sparse.find_erase_self]

/-! ### Completion and credit (R110, R111) -/

theorem State.finishCopy_mem (s : State) (k slot : Nat) (c : Copy) : (s.finishCopy k slot c).mem = (s.creditCopy c).mem := by
  unfold State.finishCopy
  dsimp only
  split_ifs
  · rw [State.wakeCore_mem, (State.seatCopies_mem_bank _ k).1]
    rfl
  · rw [(State.seatCopies_mem_bank _ k).1]
    rfl

theorem State.finishCopy_copy (c : Copy) (h : s.seated k) : (s.finishCopy k slot c).copy k slot = none := by
  have hcredit : (s.creditCopy c).seated k := by
    intro e he
    rw [(s.sameWork_creditCopy c).copies] at he
    exact h e he
  have hfree := State.copy_dropCopy_seatCopies (slot := slot) hcredit
  unfold State.finishCopy
  dsimp only
  split_ifs
  · rw [State.copy, (State.sameWork_wakeCore _ k).copies]
    exact hfree
  · exact hfree

/-- The completion word reads as its signal. -/
theorem State.finishCopy_signal {v : Word} (hv : c.signal = some v) (hfirst : isLoft c.word = false)
    (hlast : isLoft (c.word + 7) = false) : (s.finishCopy k slot c).natAt c.word 8 = v.toNat := by
  have hbyte (j : Nat) (hj : j < 8) : isLoft (c.word + j) = false := by
    simp only [isLoft, Bool.and_eq_false_iff, decide_eq_false_iff_not] at hfirst hlast ⊢
    omega
  have hlen : (bytesOf v.toNat 8).length = 8 := bytesOf_length _ _
  have hlines : ∀ l ∈ linesOf c.word (bytesOf v.toNat 8).length, isLoft (64 * l) = false := by
    intro l hl
    obtain ⟨h1, h2⟩ := mem_linesOf_bounds hl
    rw [hlen] at h2
    simp only [isLoft, Bool.and_eq_false_iff, decide_eq_false_iff_not] at hfirst hlast ⊢
    omega
  have hmem : (s.finishCopy k slot c).mem = (s.putBytes c.word (bytesOf v.toNat 8)).mem := by
    rw [State.finishCopy_mem, State.creditCopy, hv]
    exact (State.write_mem ..).trans (by rw [State.rekey_of_not_loft s _ hlines])
  have hnat := State.natAt_eq (s.finishCopy k slot c) (p := c.word) (v := v.toNat) (n := 8) fun j hj => by
    rw [State.byteAt_of_not_loft _ (hbyte j hj), hmem, State.memByte_putBytes _ _ _ (fun i hi => hbyte i (hlen ▸ hi)),
      if_pos (by omega), Nat.add_sub_cancel_left]
    simp [bytesOf, hj]
  exact hnat.trans (Nat.mod_eq_of_lt v.isLt)

end

/-! ### COPY_COMPLETE and COPY_FAULT (R112) -/

section
variable {s : State} {core : CoreId} {slot : Fin 512} {c : Copy} (hcopy : s.copy core.val slot.val = some c)
  (hst : c.st = .moving) (hheld : s.copyHeld core.val c = false)
include hcopy hst hheld

section
variable (hfault : c.fault = none)
include hfault

theorem exec_copyComplete_away (hword : s.wordAway c = true) : exec (.copyComplete core slot) s = .next (s.touch c.word) := by
  change execCopyComplete core slot s = _
  simp [execCopyComplete, hcopy, hst, hheld, hfault, hword]

variable (hword : s.wordAway c = false)
include hword

theorem exec_copyComplete_moved (hoff : c.off = c.n) (hans : s.answered c.part c.msg = true) :
    exec (.copyComplete core slot) s = .next (s.finishCopy core.val slot.val c) := by
  change execCopyComplete core slot s = _
  simp [execCopyComplete, hcopy, hst, hheld, hfault, hword, hoff, hans]

theorem exec_copyComplete_moves {ms : List Moved} (hoff : c.off ≠ c.n)
    (hscan : s.copyScan core.val c (c.n - c.off) c.off 0 = (ms, none)) (htag : (s.moveBytes c ms).2 = 0) :
    exec (.copyComplete core slot) s = .next ((s.moveBytes c ms).1.finishCopy core.val slot.val c) := by
  change execCopyComplete core slot s = _
  simp [execCopyComplete, hcopy, hst, hheld, hfault, hword, hoff, hscan, htag]

end

theorem exec_copyFault {cause : Nat} {info : Word} (hfault : c.fault = some (cause, info)) :
    exec (.copyFault core slot) s =
      .next ((s.advanceCopy core.val slot.val c.n).cancelCopy core.val slot.val cause info) := by
  change execCopyFault core slot s = _
  simp [execCopyFault, hcopy, hst, hheld, hfault]

end

/-- A copy that has moved what it can keeps its slot and its owner; banks keep their tasks. -/
theorem State.advanceCopy_spec {s : State} {k slot : Nat} {c : Copy} (hcopy : s.copy k slot = some c) (hslot : slot < 512)
    (h : ∀ m ∈ (s.copyScan k c (c.n - c.off) c.off 0).1, m.plain c) :
    let u := s.advanceCopy k slot c.n
    (∃ d, u.copy k slot = some d ∧ d.owner = c.owner) ∧ (∀ n, (u.bank k).isChain n = (s.bank k).isChain n)
      ∧ (s.seated k → u.seated k) := by
  unfold State.advanceCopy
  rw [hcopy]
  dsimp only
  split_ifs with hoff
  · exact ⟨⟨c, hcopy, rfl⟩, fun _ => rfl, id⟩
  · generalize max c.off _ = g
    have hmoved := s.sameWork_moveBytes (c := c) (ms := (s.copyScan k c (c.n - c.off) c.off 0).1.filter fun m => decide (m.k < g))
      fun m hm => h m (List.mem_filter.mp hm).1
    generalize List.filter _ _ = ms at hmoved ⊢
    have hcopies (u : State) (d : Copy) : ((u.setCopy k slot d).core k).copies = (u.core k).copies.set slot d := by
      rw [State.setCopy, State.core_setCore]
    refine ⟨⟨s.copyMoved c ms g, ?_, rfl⟩, fun n => ?_, fun hseated e he => ?_⟩
    · rw [State.copy, hcopies, Sparse.find_set_self]
    · rw [← hmoved.isChain k n, State.setCopy, State.bank, State.core_setCore]
      rfl
    · rw [hcopies] at he
      obtain rfl | he := Sparse.mem_set _ _ _ _ he
      · exact hslot
      · rw [hmoved.copies] at he
        exact hseated e he

theorem State.pushChain_spec (s : State) {k chain : Nat} (a : Async) (h : (s.bank k).isChain chain = true) :
    ((s.pushChain k chain a).core k).copies = (s.core k).copies ∧ a ∈ ((s.pushChain k chain a).bank k).asyncs := by
  unfold State.pushChain State.mapChain State.bank State.core
  dsimp only [State.setCore]
  rw [Sparse.get_set_self]
  refine ⟨rfl, ?_⟩
  have h : (Sparse.get Core.reset s.cores k).bank.isChain chain = true := h
  rw [if_pos h]
  exact List.mem_append_right _ (List.mem_singleton.mpr rfl)

/-- The copy's slot is free, and its task takes the trap. -/
theorem State.cancelCopy_spec {s : State} {k slot cause : Nat} {info : Word} {d : Copy} (hcopy : s.copy k slot = some d)
    (hchain : (s.bank k).isChain d.owner = true) :
    let u := s.cancelCopy k slot cause info
    (s.seated k → u.copy k slot = none)
      ∧ ∃ z ∈ (u.bank k).asyncs, z.cause = BitVec.ofNat 8 cause ∧ z.copy = true ∧ z.info = info := by
  unfold State.cancelCopy
  rw [hcopy]
  dsimp only
  have hdrop : (s.dropCopy k slot).bank k = s.bank k := by
    rw [State.dropCopy, State.bank, State.core_setCore]
    rfl
  obtain ⟨hcopies, hasync⟩ := State.pushChain_spec ((s.dropCopy k slot).seatCopies k) (chain := d.owner)
    ⟨BitVec.ofNat 8 cause, false, 0, true, info, cause == cMachineCheck⟩
    (by rw [(State.seatCopies_mem_bank _ k).2, hdrop, hchain])
  refine ⟨fun hseated => ?_, _, hasync, rfl, rfl, rfl⟩
  rw [State.copy, hcopies]
  exact State.copy_dropCopy_seatCopies hseated

/-- Settles O49: the effect of each of the five steps, from the equation of its execution. -/
theorem streamsAndCopies : Obligations.StreamsAndCopies := by
  unfold Obligations.StreamsAndCopies
  intro s core g lane slot t x0 rest h nxt blk ent l tok y c ms b gen k x still moving seated
  refine ⟨?delivers, gen.deliver_lane l tok, fun j hsym hj hpos => gen.deliver_group tok hsym hj hpos,
    fun depth => Gen.nextLane_spec, ?stores, ?finishes, ?runs, ?away, ?completes, fun m hm => ?values,
    fun m hm hsrc hreads => moved_mem_copyValues s hm hsrc hreads, ?cancels⟩
  case delivers =>
    rintro ⟨ht, hswap, hx, hf⟩ hread hb hwide hlane hboard htok
    exact ⟨_, exec_generatorReadReturn ht hswap hx hf hread hb hwide hlane hboard htok, s.delivered_spec k g.val _ y.rows⟩
  case stores =>
    rintro tk more h1 n1 ps n v bs ⟨ht, hswap, hx, hf⟩ hwrite hwx hserial hent hlane hspan hboard hdisj hfstr hpack hplaces
      hdev hpk
    have hexec := exec_generatorStore ht hswap hx
      ⟨hwrite, hf, hwx, ⟨h1, n1, blk, hserial, hent⟩, hlane, hspan, hboard, ⟨hdisj, hfstr, hpack⟩, hplaces, hdev, hpk⟩
    obtain ⟨hmem, hmark, hq, hpos⟩ := s.tokenStored_spec k t.part g.val lane.val
      (((tk :: more).take x.span).any fun z => z.tok.poison) (ps.zip (bs.map fun z => z.2)) x ((tk :: more).drop x.span) gen.wx
    refine ⟨_, hexec, hmem, fun hbad p q hpq hs => hmark hbad p q ?_ hpq hs, hq, hpos⟩
    obtain ⟨p', hp', hlt⟩ := hdev _ (List.of_mem_zip hpq).1
    exact Loc.place.inj hp' ▸ hlt
  case finishes =>
    rintro ⟨ht, hswap, hx, hf⟩ hover hmsg z zs
    have hexec := exec_streamFinish_over ht hswap hx hf hover hmsg
    exact ⟨fun hr => hexec.trans (by rw [hr]; rfl), fun hr => hexec.trans (by rw [hr]; rfl)⟩
  case runs =>
    rintro ⟨ht, -, hx, -⟩ hover
    exact exec_streamFinish_running ht hx hover
  case away =>
    rintro ⟨hcopy, hst, hheld⟩ hf hword
    exact exec_copyComplete_away hcopy hst hheld hf hword
  case completes =>
    rintro ⟨hcopy, hst, hheld⟩ hf hword
    refine ⟨fun hoff hans => ?_, fun v hoff hans hv hfirst hlast => ?_, fun hoff hscan htag => ?_⟩
    · exact ⟨_, exec_copyComplete_moved hcopy hst hheld hf hword hoff hans, State.finishCopy_copy c, State.finishCopy_mem ..⟩
    · exact ⟨_, exec_copyComplete_moved hcopy hst hheld hf hword hoff hans, State.finishCopy_signal hv hfirst hlast⟩
    · exact ⟨_, exec_copyComplete_moves hcopy hst hheld hf hword hoff hscan htag, State.finishCopy_copy c,
        State.finishCopy_mem ..⟩
  case values =>
    obtain ⟨z, hz, hd | ⟨hs, -⟩⟩ := mem_copyValues hm
    · exact ⟨z, hz, .inl hd⟩
    · exact ⟨z, hz, .inr hs⟩
  case cancels =>
    rintro cause info ⟨hcopy, hst, hheld⟩ hf hchain hplain
    obtain ⟨⟨d, hd, howner⟩, hbank, hseated⟩ := State.advanceCopy_spec hcopy slot.isLt hplain
    obtain ⟨hnone, hasync⟩ := State.cancelCopy_spec (cause := cause) (info := info) hd (by rw [hbank, howner]; exact hchain)
    exact ⟨_, exec_copyFault hcopy hst hheld hf, fun hs => hnone (hseated hs), hasync⟩

end Sys2Proof.Machine
end

section
/-!
SUPPORT. WAITA, FENCE and CBAR at issue (O22).
-/

namespace Sys2Proof.Machine

/-! ### What an access at issue waits for (R124) -/

section
variable {s : State} {t : Task}

theorem State.fstrOf_markRemote (core : Nat) (x : Nat) : (s.markRemote core t x).fstrOf t = s.fstrOf t := by
  obtain ⟨cs, h⟩ := s.markRemote_eq core t x
  rw [h]
  rfl

theorem State.mustWait_eq_false {e : Entry} (hmay : s.ctx.mayPerform (s.fstrOf t) e s.ctx.fly = true)
    (hown : ∀ y ∈ s.ctx.fly, y.isStore = true → y.overlaps e = false) : s.mustWait t e = false := by
  rw [State.mustWait, hmay, Bool.not_true, Bool.false_or, List.any_eq_false]
  exact fun y hy h => Bool.eq_false_iff.mp (hown y hy (Bool.and_eq_true_iff.mp h).1) (Bool.and_eq_true_iff.mp h).2

/-- Marking the cluster's banks changes nothing that an access at issue waits for. -/
theorem State.mustWait_markRemote (core : Nat) (x : Nat) (e : Entry) :
    (s.markRemote core t x).mustWait t e = s.mustWait t e := by
  obtain ⟨r, h⟩ := s.ctx_markRemote core t x
  rw [State.mustWait, State.fstrOf_markRemote, h]
  rfl

theorem State.entry_markRemote (core : Nat) (x : Nat) {i : Instr} {op : PendOp} {opa opb opc addr : Word} {ord : Order}
    {scope : Scope} {spans : List Span} : (s.markRemote core t x).ctx.entry i op opa opb opc addr ord scope spans =
      s.ctx.entry i op opa opb opc addr ord scope spans := by
  obtain ⟨r, h⟩ := s.ctx_markRemote core t x
  rw [h]
  rfl

/-! ### WAITA (R181) -/

variable {a b : XReg} {scope : Scope} {disp : BitVec 32}

theorem traps_waita_misaligned (h : (s.ctx.eaDisp b disp).toNat % 8 ≠ 0) :
    Traps s t (.waita a b scope disp) (keysOf [a, b] s.ctx) cMisaligned (s.ctx.eaDisp b disp) :=
  traps_of_trap (keys := keysOf [a, b]) rfl (if_pos (bne_iff_ne.mpr h))

section
variable (ha : (s.ctx.eaDisp b disp).toNat % 8 = 0)
include ha

theorem traps_waita_far (h : 0x1400000 ≤ (s.ctx.eaDisp b disp).toNat) :
    Traps s t (.waita a b scope disp) (keysOf [a, b] s.ctx) cProtection (s.ctx.eaDisp b disp) :=
  traps_of_trap (keys := keysOf [a, b]) rfl (by simp [ha, nearWindow, Nat.not_lt.mpr h])

variable {p : Nat} (hw : (s.ctx.eaDisp b disp).toNat < 0x1400000)
  (hp : s.checkAccess s.cur t (s.ctx.eaDisp b disp) 8 8 .load = .ok p)
  (hclean : s.poisonPast s.ctx.fly [⟨p, 8, false⟩] = none)
  (hwait : s.mustWait t (s.ctx.entry (.waita a b scope disp) (.load 8 false (.g 0)) 0 0 0 (s.ctx.eaDisp b disp) .plain .core
    [⟨p, 8, false⟩]) = false)
include hw hp hclean hwait

theorem completes_waita_equal (heq : BitVec.ofNat 64 (s.natAt p 8) = s.ctx.x a) :
    Completes s t (.waita a b scope disp) (keysOf [a, b] s.ctx) (s.after t (.waita a b scope disp)
      (s.markRemote s.cur t (s.ctx.eaDisp b disp).toNat)) :=
  completes_of_done (keys := keysOf [a, b]) rfl (by
    simp only [ha, nearWindow, hw, State.access_of_ok hp fun _ => hclean, State.entry_markRemote, State.mustWait_markRemote,
      hwait, State.natAt_markRemote, heq, BEq.rfl]
    rfl)

theorem completes_waita_waits (hne : BitVec.ofNat 64 (s.natAt p 8) ≠ s.ctx.x a) (hcopies : s.noCopies) :
    Completes s t (.waita a b scope disp) (keysOf [a, b] s.ctx)
      ((s.markRemote s.cur t (s.ctx.eaDisp b disp).toNat).waits wSignal) := by
  have hnone := State.copiesTo_of_noCopies (State.noCopies_markRemote s.cur t (s.ctx.eaDisp b disp).toNat hcopies) p
  rw [State.waits, State.markRemote_cur]
  refine completes_of_wait (keys := keysOf [a, b]) rfl ?_
  simp only [ha, nearWindow, hw, State.access_of_ok hp fun _ => hclean, State.entry_markRemote, State.mustWait_markRemote,
    hwait, State.natAt_markRemote, beq_false_of_ne hne, hnone]
  rfl

end

/-! ### FENCE (R126, R182) -/

/-- Which fences are done depends on the captured instructions alone. -/
theorem Context.trim_congr {c d : Context} (hrq : c.rq = d.rq) (hsusp : c.susp = d.susp) {es : List Entry} :
    c.trim es = d.trim es := by
  induction es with
  | nil => rfl
  | cons e es ih =>
    have hholds : c.holds e = d.holds e := by rw [Context.holds, Context.captured, hrq, hsusp, Context.holds, Context.captured]
    rw [Context.trim, Context.trim, ih, hholds]

variable {kind : BitVec 4}

theorem completes_fence (h : kind.getLsbD 2 = false ∨ ∀ e ∈ s.ctx.fly, e.isStore = false) :
    Completes s t (.fence kind scope) [] (s.after t (.fence kind scope) (s.setCtx { s.ctx with
      issued := s.ctx.issued + 1
      fly := s.ctx.trim (s.ctx.fly ++ [s.ctx.entry (.fence kind scope) (.fence kind) 0 0 0 0 .plain scope []]) })) := by
  have hfree : (kind.getLsbD 2 && s.ctx.fly.any Entry.isStore) = false :=
    Bool.and_eq_false_iff.mpr (h.imp_right fun h => List.any_eq_false.mpr fun e he => by simp [h e he])
  refine completes_of_done (keys := fun _ => []) rfl ?_
  rw [hfree, if_neg Bool.false_ne_true]
  simp only [State.launch, State.ctx_setCtx, State.setCtx_setCtx]
  refine congrArg (fun es => Res.done (s.setCtx { s.ctx with issued := s.ctx.issued + 1, fly := es })) ?_
  apply Context.trim_congr <;> rfl

theorem waits_fence (hk : kind.getLsbD 2 = true) (h : ∃ e ∈ s.ctx.fly, e.isStore = true) :
    Completes s t (.fence kind scope) [] (s.waits 0) :=
  completes_of_stall (keys := fun _ => []) rfl (if_pos (by rw [hk, Bool.true_and, List.any_eq_true]; exact h))

/-! ### CBAR (R183) -/

/-- The bank of a member after the barrier of its cluster has completed. -/
def Context.freed (c : Context) (core j : Nat) : Context :=
  { c with remote := false, arrived := if j = core then .no else .released }

theorem State.bank_foldl_freed (core j : Nat) (js : List Nat) (s : State) :
    (js.foldl (fun u i => u.setBank i ((u.bank i).freed core i)) s).bank j =
      if j ∈ js then (s.bank j).freed core j else s.bank j := by
  induction js generalizing s with
  | nil => rfl
  | cons i js ih =>
    rw [List.foldl_cons, ih]
    by_cases hi : j = i
    · subst hi
      rw [State.bank_setBank, if_pos List.mem_cons_self]
      exact ite_self _
    · rw [State.bank_setBank_ne _ _ hi]
      simp only [List.mem_cons, hi, false_or]

theorem State.bank_barrierDone {core j : Nat} (h : j ∈ s.members core t) :
    (s.barrierDone core t).bank j = (s.bank j).freed core j :=
  (State.bank_foldl_freed core j _ s).trans (if_pos h)

/-- The task has arrived at the barrier of its cluster. -/
def State.arrives (s : State) : State := s.setCtx { s.ctx with arrived := .yes }

/-- Every live member of the task's cluster has arrived. -/
def State.allArrived (s : State) (t : Task) : Bool := (s.members s.cur t).all fun j => (s.bank j).arrived == .yes

section
variable (hquiet : ∀ e ∈ s.ctx.fly, e.isLoad = false ∧ e.isStore = false)
include hquiet

theorem any_access_eq_false : (s.ctx.fly.any fun e => e.isLoad || e.isStore) = false :=
  List.any_eq_false.mpr fun e he => by simp [hquiet e he]

theorem completes_cbar_alone (h : t.clustered = false) : Completes s t .cbar [] (s.after t .cbar s) :=
  completes_of_done (keys := fun _ => []) rfl (by simp [any_access_eq_false hquiet, h])

variable (hc : t.clustered = true)
include hc

theorem completes_cbar_released (h : s.ctx.arrived = .released) :
    Completes s t .cbar [] (s.after t .cbar (s.setCtx { s.ctx with arrived := .no })) :=
  completes_of_done (keys := fun _ => []) rfl (by simp [any_access_eq_false hquiet, hc, h])

variable (h : s.ctx.arrived ≠ .released)
include h

theorem waits_cbar (hall : s.arrives.allArrived t = false) :
    Completes s t .cbar [] (s.arrives.waits wCluster) :=
  completes_of_wait (keys := fun _ => []) rfl (by
    simp only [any_access_eq_false hquiet, hc, beq_false_of_ne h, Bool.not_true, Bool.false_eq_true, if_false]
    exact if_neg (Bool.eq_false_iff.mp hall))

theorem completes_cbar_last (hall : s.arrives.allArrived t = true) :
    Completes s t .cbar [] (s.after t .cbar (s.arrives.barrierDone s.cur t)) :=
  completes_of_done (keys := fun _ => []) rfl (by
    simp only [any_access_eq_false hquiet, hc, beq_false_of_ne h, Bool.not_true, Bool.false_eq_true, if_false]
    exact if_pos hall)

end

end

/-- Settles O22: WAITA by its checks and the doubleword, FENCE by the stores in flight, CBAR by who has arrived. -/
theorem waitFenceBarrier : Obligations.WaitFenceBarrier := by
  intro s t a b scope disp kind c ea w ks quiet s1
  refine ⟨traps_waita_misaligned, traps_waita_far, ?waita, completes_fence, waits_fence, completes_cbar_alone,
    completes_cbar_released, ?cbar⟩
  case waita =>
    intro p ha hw hp hclean hcopies look hmay hown
    have hwait := State.mustWait_eq_false hmay hown
    exact ⟨completes_waita_equal ha hw hp hclean hwait, fun hne => completes_waita_waits ha hw hp hclean hwait hne hcopies⟩
  case cbar =>
    intro hquiet hc hr s2
    refine ⟨waits_cbar hquiet hc hr, fun hall => ⟨_, completes_cbar_last hquiet hc hr hall, fun j hj => ?_⟩⟩
    have hfreed : (s2.barrierDone s.cur t).bank j = (s2.bank j).freed s.cur j := State.bank_barrierDone hj
    exact hfreed ▸ ⟨rfl, rfl⟩

end Sys2Proof.Machine
end

section
/-!
SUPPORT. Block commands: FSTART, FBAR, FWAIT, FRESTART and FQRY (O35).
-/

namespace Sys2Proof.Machine

section
variable {s : State} {t : Task} {h : Hnd} {b : Block} {nxt : Bool}

/-! ### FSTART (R212) -/

/-- The registers FSTART reads for a block (R227, R232). -/
def Prog.startKeys (p : Prog) (c : Context) : List Nat :=
  keysOf p.regs c ++ (p.bufs.filter bufDsrc).flatMap fun w => keyD (bufReg w)

/-- The registers FSTART reads: those of the block it would start. -/
def Context.startKeys (c : Context) (h : Hnd) : List Nat :=
  match (c.handle h.val).startable with
  | some (_, b) => b.prog.startKeys c
  | none => []

/-- What FSTART does once the registers it reads are free. -/
def startBody (h : Hnd) (s : State) (t : Task) : Res :=
  if s.setMoving s.cur t.serial h.val then .wait s wNoPage
  else match (s.ctx.handle h.val).startable with
  | none => .trap s cIllegal (word0 (.fstart h))
  | some (nxt, b) =>
    match s.ctx.startCheck s.cur h.val b.prog (word0 (.fstart h)) with
    | some (cause, info) => .trap s cause info
    | none =>
      if s.ctx.settling then .stall
      else
        let n := if b.prog.hasMatrix then (s.ctx.x (regOf (b.prog.nsrc.toNat % 64))).toNat else 0
        .done (s.setCtx { s.ctx.setBlock h.val nxt (s.ctx.started b n) with gctr := s.ctx.gctr + 0x100000000 })

theorem exec_fstart (h : Hnd) (s : State) :
    exec (.fstart h) s = .next (issue (.fstart h) (fun c => c.startKeys h) (startBody h) s) := rfl

section
variable (hs : (s.ctx.handle h.val).startable = some (nxt, b))
include hs

theorem Context.startKeys_of_startable : s.ctx.startKeys h = b.prog.startKeys s.ctx := by
  rw [Context.startKeys, hs]

theorem waits_fstart (hm : s.setMoving s.cur t.serial h.val = true) :
    Completes s t (.fstart h) (b.prog.startKeys s.ctx) (s.waits wNoPage) :=
  Context.startKeys_of_startable hs ▸ completes_of_wait (exec_fstart h s) (if_pos hm)

variable (hm : s.setMoving s.cur t.serial h.val = false)
include hm

theorem traps_fstart {cause : Nat} {info : Word}
    (hc : s.ctx.startCheck s.cur h.val b.prog (word0 (.fstart h)) = some (cause, info)) :
    Traps s t (.fstart h) (b.prog.startKeys s.ctx) cause info :=
  Context.startKeys_of_startable hs ▸ traps_of_trap (exec_fstart h s) (by simp [startBody, hm, hs, hc])

theorem completes_fstart (hc : s.ctx.startCheck s.cur h.val b.prog (word0 (.fstart h)) = none) (hx : s.ctx.settling = false) :
    Completes s t (.fstart h) (b.prog.startKeys s.ctx) (s.after t (.fstart h) (s.setCtx
      { s.ctx.setBlock h.val nxt
          (s.ctx.started b (if b.prog.hasMatrix then (s.ctx.x (regOf (b.prog.nsrc.toNat % 64))).toNat else 0)) with
        gctr := s.ctx.gctr + 0x100000000 })) :=
  Context.startKeys_of_startable hs ▸ completes_of_done (exec_fstart h s) (by simp [startBody, hm, hs, hc, hx])

end

theorem traps_fstart_none (hs : (s.ctx.handle h.val).startable = none) (hm : s.setMoving s.cur t.serial h.val = false) :
    Traps s t (.fstart h) [] cIllegal (word0 (.fstart h)) := by
  have hkeys : s.ctx.startKeys h = [] := by rw [Context.startKeys, hs]
  exact hkeys ▸ traps_of_trap (exec_fstart h s) (by simp [startBody, hm, hs])

/-! ### FBAR and FWAIT (R134, R213, R357) -/

variable {scope : Scope} {mask : BitVec 8}

theorem completes_fbar (scope : Scope) : Completes s t (.fbar scope) [] (s.after t (.fbar scope)
    (s.setCtx { s.ctx.dropLines with phase := s.ctx.phase + 1 })) :=
  completes_of_done (keys := fun _ => []) rfl rfl

/-- The blocks that FWAIT waits for: those its mask names that have started and not completed. -/
def Context.awaited (c : Context) (mask : BitVec 8) : List (Nat × Bool × Block) :=
  c.blocks.filter fun e => mask.getLsbD e.1 && e.2.2.live

/-- A block as an agent of R357: it cannot be switched out, and the driver may have its fault, or a stream of it has lost its
die link. -/
def Context.blockAgent (c : Context) (b : Block) : Bool × Bool := (false, b.inService || c.blockCut b)

theorem Block.live_iff (b : Block) : b.live = true ↔ b.st ≠ .loaded := bne_iff_ne

theorem Context.mem_awaited {c : Context} {e : Nat × Bool × Block} :
    e ∈ c.awaited mask ↔ e ∈ c.blocks ∧ mask.getLsbD e.1 = true ∧ e.2.2.st ≠ .loaded := by
  rw [Context.awaited, List.mem_filter, Bool.and_eq_true, Block.live_iff]

theorem completes_fwait_none (hnone : s.ctx.awaited mask = []) :
    Completes s t (.fwait scope mask) [] (s.after t (.fwait scope mask) s) :=
  completes_of_done (keys := fun _ => []) rfl (if_pos (List.isEmpty_iff.mpr hnone))

theorem completes_fwait_some (hsome : s.ctx.awaited mask ≠ []) : Completes s t (.fwait scope mask) []
    (s.waits (peerCode wBarrier ((s.ctx.awaited mask).map fun e => s.ctx.blockAgent e.2.2))) :=
  completes_of_wait (keys := fun _ => []) rfl (if_neg fun hnone => hsome (List.isEmpty_iff.mp hnone))

/-- A wait that some agent could end which runs on shows its own reason. -/
theorem peerCode_of_own {own : Nat} {agents : List (Bool × Bool)} (hmem : (false, false) ∈ agents) :
    peerCode own agents = own := by
  unfold peerCode
  split
  · rfl
  · rw [if_neg fun hall => Bool.false_ne_true (List.all_eq_true.mp hall _ hmem),
      if_neg fun hall => Bool.false_ne_true (List.all_eq_true.mp hall _ hmem)]

/-- A wait whose agents all wait for the driver shows PEER_FAULT. -/
theorem peerCode_of_driver {own : Nat} {agents : List (Bool × Bool)} (hne : agents ≠ []) (hall : ∀ y ∈ agents, y.2 = true) :
    peerCode own agents = wPeerFault := by
  unfold peerCode
  rw [if_neg (by simpa using hne), if_pos (List.all_eq_true.mpr hall)]

theorem Context.blockCut_eq_false {c : Context} (b : Block) (hcut : ∀ g, g < 4 → ∀ y ∈ (c.gen g).streams, y.isCut = false) :
    c.blockCut b = false := by
  refine List.any_eq_false.mpr fun g hg hb => ?_
  obtain ⟨y, hy, hyc⟩ := List.any_eq_true.mp (Bool.and_eq_true_iff.mp hb).2
  rw [hcut g (List.mem_range.mp hg) y (List.mem_of_mem_take hy)] at hyc
  exact Bool.false_ne_true hyc

theorem waits_fwait_running {e : Nat × Bool × Block} (he : e ∈ s.ctx.blocks) (hmask : mask.getLsbD e.1 = true)
    (hst : e.2.2.st = .running) (hcut : ∀ g, g < 4 → ∀ y ∈ (s.ctx.gen g).streams, y.isCut = false) :
    Completes s t (.fwait scope mask) [] (s.waits wBarrier) := by
  have hmem : e ∈ s.ctx.awaited mask := Context.mem_awaited.mpr ⟨he, hmask, by simp [hst]⟩
  have hagent : s.ctx.blockAgent e.2.2 = (false, false) := by
    simp [Context.blockAgent, Block.inService, hst, Context.blockCut_eq_false _ hcut]
  have hown : (false, false) ∈ (s.ctx.awaited mask).map fun e => s.ctx.blockAgent e.2.2 := List.mem_map.mpr ⟨e, hmem, hagent⟩
  exact peerCode_of_own (own := wBarrier) hown ▸ completes_fwait_some (List.ne_nil_of_mem hmem)

theorem waits_fwait_fault (hsome : ∃ e ∈ s.ctx.blocks, mask.getLsbD e.1 = true ∧ e.2.2.st ≠ .loaded)
    (hall : ∀ e ∈ s.ctx.blocks, mask.getLsbD e.1 = true → e.2.2.st ≠ .loaded → e.2.2.st = .frozen ∧ e.2.2.told = false) :
    Completes s t (.fwait scope mask) [] (s.waits wPeerFault) := by
  obtain ⟨e, he⟩ := hsome
  have hne : s.ctx.awaited mask ≠ [] := List.ne_nil_of_mem (Context.mem_awaited.mpr he)
  have hcode : peerCode wBarrier ((s.ctx.awaited mask).map fun e => s.ctx.blockAgent e.2.2) = wPeerFault :=
    peerCode_of_driver (by simpa using hne) fun y hy => by
      obtain ⟨x, hx, rfl⟩ := List.mem_map.mp hy
      obtain ⟨hx, hmask, hlive⟩ := Context.mem_awaited.mp hx
      obtain ⟨hst, htold⟩ := hall x hx hmask hlive
      simp [Context.blockAgent, Block.inService, hst, htold]
  exact hcode ▸ completes_fwait_some hne

/-! ### FRESTART (R214) -/

theorem completes_frestart (hf : (s.ctx.handle h.val).frozen = some (nxt, b)) :
    Completes s t (.frestart h) [] (s.after t (.frestart h) (s.restart s.cur t h.val nxt b)) :=
  completes_of_done (keys := fun _ => []) rfl (by simp only [hf])

theorem traps_frestart (hf : (s.ctx.handle h.val).frozen = none) :
    Traps s t (.frestart h) [] cIllegal (word0 (.frestart h)) :=
  traps_of_trap (keys := fun _ => []) rfl (by simp only [hf])

/-- A block that has made no restart copy runs again from its first word. -/
theorem State.restart_of_no_copy (core : Nat) (hcopies : b.copies = []) :
    s.restart core t h.val nxt b = s.setBlock core h.val nxt { b with st := .running, trap := none, told := false, refill := true } := by
  have hpoint : b.point = none := by rw [Block.point, hcopies]; rfl
  rw [State.restart, hpoint]

theorem State.block_setBlock (s : State) (core h : Nat) (nxt : Bool) (b : Block) :
    (((s.setBlock core h nxt b).bank core).handle h).block nxt = some b := by
  rw [State.bank_setBlock]
  exact Context.block_setBlock ..

/-! ### FQRY (R215) -/

theorem writes_fqry (a : XReg) (item : BitVec 4) :
    Writes s t (.fqry a h item) (keysOf [a] s.ctx) a ((s.ctx.handle h.val).item item.toNat) :=
  completes_of_done (keys := keysOf [a]) rfl rfl

theorem Handle.item_zero (hd : Handle) : hd.item 0 =
    BitVec.ofNat 64 (optCode hd.cur + optCode hd.next * 2 ^ 3 + (match hd.cur with
      | some b => (match b.trap with | some x => if b.st = .frozen then x.cause else 0 | none => 0)
      | none => 0) * 2 ^ 8) := by
  rw [Handle.item, if_pos rfl]
  simp only [beq_iff_eq] <;> rfl

theorem Handle.item_of_ne_zero (hd : Handle) {k : Nat} (hk : k ≠ 0) :
    hd.item k = match hd.cur with | some b => BitVec.ofNat 64 (b.item k) | none => 0 := by
  rw [Handle.item, if_neg hk]
  cases hd.cur <;> rfl

end

/-- Settles O35: each command by what the handle holds and the blocks its mask names. -/
theorem blockCommands : Obligations.BlockCommands := by
  intro s t h a item scope mask b nxt c hd startKeys moving
  refine ⟨fun hm hs hc hx => completes_fstart hs hm hc hx, fun hm hs => waits_fstart hs hm, fun hm hs => traps_fstart_none hs hm,
    fun cause info hm hs => traps_fstart hs hm, completes_fbar scope, ?none, fun e => waits_fwait_running,
    waits_fwait_fault, fun hf => ⟨completes_frestart hf, ?copy⟩, traps_frestart, ?query⟩
  case none =>
    intro hloaded
    refine completes_fwait_none (List.eq_nil_iff_forall_not_mem.mpr fun e he => ?_)
    obtain ⟨hmem, hmask, hlive⟩ := Context.mem_awaited.mp he
    exact hlive (hloaded e hmem hmask)
  case copy =>
    intro hcopies
    refine ⟨_, completes_frestart hf, ?_⟩
    rw [State.restart_of_no_copy _ hcopies]
    exact State.block_setBlock s s.cur h.val nxt _
  case query =>
    refine (congrArg (Writes s t (.fqry a h item) (keysOf [a] c) a) ?_).mp (writes_fqry a item)
    split
    · next hzero => exact hzero ▸ hd.item_zero
    · next hne => exact hd.item_of_ne_zero fun h0 => hne (BitVec.eq_of_toNat_eq h0)

end Sys2Proof.Machine
end

section
/-!
SUPPORT. What a store leaves of the control cores, and that it does not look at them; the racking engine.
-/

namespace Sys2Proof.Machine

/-! ### Stores and the control cores -/

/-- A store takes stale sidecar lines from a core and may wake it: what neither changes is kept. -/
theorem State.core_write {β : Type} (f : Core → β) (hstale : ∀ gone k, f (Core.staleLines gone k) = f k)
    (hwake : ∀ k : Core, f { k with bank := k.bank.wake } = f k) (s : State) (p : Nat) (bs : List Byte) (j : Nat) :
    f ((s.write p bs).core j) = f (s.core j) := by
  have hdrop (stale : TlbEntry → Bool) : f ((s.dropTlb stale).core j) = f (s.core j) := by
    unfold State.dropTlb
    dsimp only
    split_ifs
    · rfl
    · have h := congrArg f (Sparse.get_map (Core.staleLines (s.tlb.filter stale)) Core.reset s.cores j)
      exact h.trans (hstale _ _)
  have hbytes (u : State) : (((u.rekey (linesOf p bs.length)).putBytes p bs).bumpGen (linesOf p bs.length)).cores = u.cores := by
    obtain ⟨m, hm⟩ := (u.rekey (linesOf p bs.length)).putBytes_eq p bs
    rw [hm]
    exact u.rekey_cores _
  have hkept (u : State) (ls : List Nat) :
      f (({ ((u.rekey (linesOf p bs.length)).putBytes p bs).bumpGen (linesOf p bs.length) with poison := ls } : State).core j)
        = f (u.core j) := congrArg (fun cs => f (Sparse.get Core.reset cs j)) (hbytes u)
  have hwoken (u : State) (c : Nat) : f ((u.wakeCore c).core j) = f (u.core j) := by
    unfold State.wakeCore
    split_ifs
    · by_cases hj : j = c
      · rw [hj, State.core_setBank]
        exact hwake _
      · rw [State.core_setBank_ne _ _ hj]
    · rfl
  unfold State.write
  dsimp only
  split_ifs
  · exact (hwoken _ _).trans ((hkept _ _).trans (hdrop _))
  · exact (hkept _ _).trans (hdrop _)

/-- Two states that differ in their control cores alone. -/
def State.sameDevice (u s : State) : Prop := ∃ cs, u = { s with cores := cs }

theorem State.sameDevice.mem {u s : State} (h : u.sameDevice s) : u.mem = s.mem := by
  obtain ⟨cs, rfl⟩ := h
  rfl

theorem State.sameDevice.symm {u s : State} (h : u.sameDevice s) : s.sameDevice u := by
  obtain ⟨cs, rfl⟩ := h
  exact ⟨s.cores, rfl⟩

theorem State.sameDevice.trans {u v s : State} (h : u.sameDevice v) (h' : v.sameDevice s) : u.sameDevice s := by
  obtain ⟨cs, rfl⟩ := h
  obtain ⟨cs', rfl⟩ := h'
  exact ⟨cs, rfl⟩

theorem State.sameDevice_setBank (s : State) (c : Nat) (x : Context) : (s.setBank c x).sameDevice s := ⟨_, rfl⟩

theorem State.sameDevice_wakeCore (s : State) (c : Nat) : (s.wakeCore c).sameDevice s := by
  unfold State.wakeCore
  split_ifs
  · exact s.sameDevice_setBank c _
  · exact ⟨s.cores, rfl⟩

theorem State.sameDevice.rekey {u s : State} (h : u.sameDevice s) (ls : List Nat) : (u.rekey ls).sameDevice (s.rekey ls) := by
  induction ls generalizing u s with
  | nil => exact h
  | cons l ls ih =>
    obtain ⟨cs, rfl⟩ := h
    rw [State.rekey, State.rekey]
    change State.sameDevice (match s.drawOf (64 * l) with | none => _ | some d => _) _
    cases s.drawOf (64 * l) with
    | none => exact ih ⟨cs, rfl⟩
    | some d => exact ih ⟨cs, rfl⟩

theorem State.sameDevice.putBytes {u s : State} (h : u.sameDevice s) (p : Nat) (bs : List Byte) :
    (u.putBytes p bs).sameDevice (s.putBytes p bs) := by
  induction bs generalizing u s p with
  | nil => exact h
  | cons b bs ih =>
    obtain ⟨cs, rfl⟩ := h
    exact ih (u := { s with cores := cs, mem := _ }) (s := { s with mem := memPut s.mem (s.storage p) b }) ⟨cs, rfl⟩ (p + 1)

theorem State.sameDevice.dropTlb {u s : State} (h : u.sameDevice s) (stale : TlbEntry → Bool) :
    (u.dropTlb stale).sameDevice (s.dropTlb stale) := by
  obtain ⟨cs, rfl⟩ := h
  unfold State.dropTlb
  dsimp only
  split_ifs
  · exact ⟨cs, rfl⟩
  · exact ⟨_, rfl⟩

theorem State.sameDevice.write {u s : State} (h : u.sameDevice s) (p : Nat) (bs : List Byte) :
    (u.write p bs).sameDevice (s.write p bs) := by
  obtain ⟨cs, hcs⟩ := ((h.dropTlb fun e => e.lines.any fun l => (linesOf (bare p) bs.length).contains l).rekey
    (linesOf p bs.length)).putBytes p bs
  obtain ⟨cs0, rfl⟩ := h
  unfold State.write
  dsimp only
  rw [hcs]
  split_ifs
  · refine (State.sameDevice_wakeCore _ _).trans (State.sameDevice.trans ?_ (State.sameDevice_wakeCore _ _).symm)
    exact ⟨cs, rfl⟩
  · exact ⟨cs, rfl⟩

/-! ### The places of a group (R143) -/

theorem State.rackPlaces_length {s : State} {core : Nat} {t : Task} {limit : Word} {kind : AccKind} {as : List Word}
    {ps : List Nat} (h : s.rackPlaces core t limit kind as = .ok ps) : ps.length = as.length := by
  induction as generalizing ps with
  | nil =>
    cases h
    rfl
  | cons a as ih =>
    rw [State.rackPlaces] at h
    split at h
    · cases h
    · cases hp : s.rackPlace core t a kind with
      | ok p =>
        simp only [hp] at h
        split at h
        · next hps =>
          cases h
          exact congrArg Nat.succ (ih hps)
        · cases h
      | trap cause i =>
        simp only [hp] at h
        split at h <;> cases h
      | wait code | away p | miss va =>
        simp only [hp] at h
        cases h

theorem hostRuns_of_device {ps : List Nat} (h : ∀ p ∈ ps, p < hostMark) : hostRuns ps = [] :=
  foldl_eq_self fun p hp => if_pos (h p hp)

theorem State.fillFrom_of_device (s : State) {ps : List Nat} (h : ∀ p ∈ ps, p < hostMark) (got : List Byte) :
    s.fillFrom ps got = ps.map fun p => BitVec.ofNat 64 (s.natAt p 8) := by
  induction ps with
  | nil => rfl
  | cons p ps ih =>
    rw [State.fillFrom, if_neg (Nat.not_le.mpr (h p List.mem_cons_self)), ih fun q hq => h q (List.mem_cons_of_mem p hq),
      List.map_cons]

/-- Values stored at places, one after another. -/
def State.storeAll (s : State) (xs : List (Nat × Word)) : State := xs.foldl (fun s e => s.writeNat e.1 e.2.toNat 8) s

theorem State.spillTo_of_device (s : State) (part : Nat) {ps : List Nat} (h : ∀ p ∈ ps, p < hostMark) (vs : List Word) :
    s.spillTo part ps vs = s.storeAll (ps.zip vs) := by
  rw [State.spillTo, hostRuns_of_device h]
  refine List.foldl_ext _ _ _ fun u e he => if_neg (Nat.not_le.mpr (h e.1 (List.of_mem_zip he).1))

theorem State.sameDevice.storeAll {u s : State} (h : u.sameDevice s) (xs : List (Nat × Word)) :
    (u.storeAll xs).sameDevice (s.storeAll xs) := by
  induction xs generalizing u s with
  | nil => exact h
  | cons e xs ih => exact ih (h.write e.1 _)

/-- Stores leave the window ring of every core as it was. -/
theorem State.bank_storeAll (s : State) (xs : List (Nat × Word)) (j : Nat) :
    ((s.storeAll xs).bank j).ring = (s.bank j).ring := by
  induction xs generalizing s with
  | nil => rfl
  | cons e xs ih =>
    refine (ih (s.writeNat e.1 e.2.toNat 8)).trans ?_
    refine State.core_write (fun k => k.bank.ring) (fun _ _ => rfl) (fun k => ?_) s e.1 _ j
    unfold Context.wake
    split_ifs <;> rfl

/-! ### Marking a group's accesses (R21) -/

/-- The cluster's banks after an access to each address has marked them. -/
def State.markAll (s : State) (core : Nat) (t : Task) (as : List Word) : State :=
  as.foldl (fun s a => s.markRemote core t a.toNat) s

theorem State.markAll_spec (s : State) (core : Nat) (t : Task) (as : List Word) :
    (s.markAll core t as).sameDevice s ∧ ∀ j, ∃ r, (s.markAll core t as).bank j = { s.bank j with remote := r } := by
  induction as generalizing s with
  | nil => exact ⟨⟨s.cores, rfl⟩, fun j => ⟨_, rfl⟩⟩
  | cons a as ih =>
    obtain ⟨hdevice, hbank⟩ := ih (s.markRemote core t a.toNat)
    refine ⟨hdevice.trans (s.markRemote_eq core t a.toNat), fun j => ?_⟩
    obtain ⟨r, hr⟩ := hbank j
    obtain ⟨r0, hr0⟩ := s.bank_markRemote core t a.toNat j
    exact ⟨r, hr.trans (by rw [hr0])⟩

/-! ### One group of registers moves (R143, R130) -/

/-- The addresses of a group in the spill area. -/
def Context.rackAddrs (c : Context) (pos : Nat) : List Word :=
  (List.range 24).map fun k => c.rkbase + BitVec.ofNat 64 (8 * (pos + k))

section
variable {s : State} {core : Nat} {t : Task} {ps : List Nat}

/-- A group moves now: its bytes lie on the device, and no access before it is in its way. -/
def Context.mayRack (c : Context) (fstr spill : Bool) (ps : List Nat) : Prop :=
  (∀ p ∈ ps, p < hostMark) ∧ (spill = true → destIn c.fly c.lo = false)
    ∧ (∀ e ∈ c.fly, e.overlaps (c.rackEntry spill ps) = false) ∧ c.mayPerform fstr (c.rackEntry spill ps) c.fly = true

theorem Context.mayRack.free {c : Context} {fstr spill : Bool} (h : c.mayRack fstr spill ps) {pos : Nat}
    (hpos : spill = true → pos = c.lo) : ¬ (spill && destIn c.fly pos || (c.fly.any fun a => a.overlaps (c.rackEntry spill ps))
      || !c.mayPerform fstr (c.rackEntry spill ps) c.fly) = true := by
  obtain ⟨-, hdest, hover, hmay⟩ := h
  have hany : (c.fly.any fun a => a.overlaps (c.rackEntry spill ps)) = false :=
    List.any_eq_false.mpr fun e he => Bool.eq_false_iff.mp (hover e he)
  have hwrites : (spill && destIn c.fly pos) = false := by
    cases spill with
    | false => rfl
    | true => rw [hpos rfl, hdest rfl, Bool.and_false]
  rw [hany, hmay, hwrites]
  exact Bool.false_ne_true

/-- The oldest group of the ring lies in the spill area. -/
def State.spilled (s : State) (core : Nat) (t : Task) (ps : List Nat) : State :=
  let c := s.bank core
  let u := (s.markAll core t (c.rackAddrs c.lo)).storeAll (ps.zip (c.group c.lo))
  u.setBank core { u.bank core with lo := c.lo + 24 }

theorem State.rackGroup_spill (hmay : (s.bank core).mayRack (s.ctxInfo t.part t.ctx).fstr true ps)
    (hps : s.rackPlaces core t (s.bank core).rklimit .store ((s.bank core).rackAddrs (s.bank core).lo) = .ok ps) :
    s.rackGroup core t true (s.bank core).fly = .ok (s.spilled core t ps) := by
  have hfree := hmay.free (pos := (s.bank core).lo) fun _ => rfl
  unfold State.rackGroup
  simp only [if_true]
  unfold Context.rackAddrs at hps
  simp only [hps, if_neg hfree, State.spillTo_of_device _ _ hmay.1]
  rfl

theorem State.spilled_ring (s : State) (core : Nat) (t : Task) (ps : List Nat) :
    ((s.spilled core t ps).bank core).ring = (s.bank core).ring := by
  obtain ⟨-, hbank⟩ := s.markAll_spec core t ((s.bank core).rackAddrs (s.bank core).lo)
  obtain ⟨r, hr⟩ := hbank core
  rw [State.spilled, State.bank_setBank]
  exact (State.bank_storeAll _ _ core).trans (by rw [hr])

theorem State.spilled_mem (s : State) (core : Nat) (t : Task) (ps : List Nat) :
    (s.spilled core t ps).mem = (s.storeAll (ps.zip ((s.bank core).group (s.bank core).lo))).mem := by
  rw [State.spilled, State.setBank_mem]
  exact ((s.markAll_spec core t _).1.storeAll _).mem

theorem State.spilled_lo (s : State) (core : Nat) (t : Task) (ps : List Nat) :
    ((s.spilled core t ps).bank core).lo = (s.bank core).lo + 24 := by
  rw [State.spilled, State.bank_setBank]

/-- A group goes to its places register by register, the oldest first. -/
theorem State.storeAll_group (s : State) (c : Context) (pos : Nat) {ps : List Nat} (hps : ps.length = 24) :
    s.storeAll (ps.zip (c.group pos)) = (List.range 24).foldl (fun u j =>
      u.writeNat (ps.getD j 0) (Sparse.get 0 c.ring ((pos + j) % 256)).toNat 8) s := by
  have hzip : ps.zip (c.group pos) = (List.range 24).map fun j => (ps.getD j 0, Sparse.get 0 c.ring ((pos + j) % 256)) := by
    refine List.ext_getElem (by simp [Context.group, hps]) fun j hj _ => ?_
    have hlt : j < ps.length := by simp at hj; omega
    simp [Context.group, hlt]
  rw [State.storeAll, hzip, List.foldl_map]

/-- The group below the ring has come back from the spill area. -/
def State.filled (s : State) (core : Nat) (t : Task) (ps : List Nat) : State :=
  let c := s.bank core
  let u := s.markAll core t (c.rackAddrs (c.lo - 24))
  u.setBank core { (u.bank core).putGroup (c.lo - 24) (ps.map fun p => BitVec.ofNat 64 (s.natAt p 8)) with
    lo := c.lo - 24, fillMsg := 0, fillData := [] }

theorem State.rackGroup_fill (hmay : (s.bank core).mayRack (s.ctxInfo t.part t.ctx).fstr false ps)
    (hps : s.rackPlaces core t (s.bank core).rklimit .load ((s.bank core).rackAddrs ((s.bank core).lo - 24)) = .ok ps)
    (hclean : ∀ p ∈ ps, s.poisoned p 8 = false) :
    s.rackGroup core t false (s.bank core).fly = .ok (s.filled core t ps) := by
  have hfree := hmay.free (pos := (s.bank core).lo - 24) fun h => by cases h
  have hfind : (ps.find? fun p => decide (p < hostMark) && s.poisoned p 8) = none :=
    List.find?_eq_none.mpr fun p hp => by simp [hclean p hp]
  unfold State.rackGroup
  simp only [Bool.false_eq_true, if_false]
  unfold Context.rackAddrs at hps
  simp only [hps, if_neg hfree, hostRuns_of_device hmay.1, nextRun, hfind, State.fillFrom_of_device s hmay.1]
  rfl

theorem Sparse.get_foldl_set_key {α : Type} (d : α) (key : Nat → Nat) (f : Nat → α) {n : Nat} (m : Sparse α)
    (hkey : ∀ i j, i < n → j < n → key i = key j → i = j) {j : Nat} (hj : j < n) :
    Sparse.get d ((List.range n).foldl (fun m k => m.set (key k) (f k)) m) (key j) = f j := by
  induction n with
  | zero => exact absurd hj (Nat.not_lt_zero j)
  | succ n ih =>
    rw [List.range_succ, List.foldl_append, List.foldl_cons, List.foldl_nil, Sparse.get_set]
    split_ifs with hk
    · rw [hkey j n hj n.lt_succ_self hk]
    · have hne : j ≠ n := fun h => hk (congrArg key h)
      exact ih (fun i k hi hk => hkey i k (Nat.lt_succ_of_lt hi) (Nat.lt_succ_of_lt hk)) (by omega)

theorem ringIndex_inj (pos i k : Nat) (hi : i < 24) (hk : k < 24) (h : (pos + i) % 256 = (pos + k) % 256) : i = k := by
  omega

theorem Context.putGroup_ring (c : Context) (pos : Nat) (vs : List Word) {j : Nat} (hj : j < 24) :
    Sparse.get 0 (c.putGroup pos vs).ring ((pos + j) % 256) = vs.getD j 0 := by
  have hring := Sparse.get_foldl_set_key 0 (fun k => (pos + k) % 256) (fun k => vs.getD k 0) c.ring (ringIndex_inj pos) hj
  unfold Context.putGroup
  dsimp only at hring ⊢
  rw [hring]

theorem State.filled_ring (s : State) (core : Nat) (t : Task) {ps : List Nat} {j : Nat} (hj : j < ps.length) (hps : ps.length = 24) :
    Sparse.get 0 ((s.filled core t ps).bank core).ring (((s.bank core).lo - 24 + j) % 256)
      = BitVec.ofNat 64 (s.natAt (ps.getD j 0) 8) := by
  rw [State.filled, State.bank_setBank]
  dsimp only
  rw [Context.putGroup_ring _ _ _ (hps ▸ hj)]
  simp [hj]

theorem State.filled_lo (s : State) (core : Nat) (t : Task) (ps : List Nat) :
    ((s.filled core t ps).bank core).lo = (s.bank core).lo - 24 := by
  rw [State.filled, State.bank_setBank]

theorem State.filled_mem (s : State) (core : Nat) (t : Task) (ps : List Nat) : (s.filled core t ps).mem = s.mem := by
  rw [State.filled, State.setBank_mem]
  exact (s.markAll_spec core t _).1.mem

/-! ### WINDOW_RACK (R143, R354) -/

/-- An instruction of a core waits for the racking engine, which is to move a group for it. -/
def State.awaitsRack (s : State) (core : Nat) (t : Task) (spill : Bool) : Prop :=
  (s.bank core).task = some t ∧ (s.core core).swapping = false ∧ (s.bank core).stopped = false
    ∧ (s.bank core).wait.toNat = wRacking ∧ (s.bank core).checkDue = false ∧ s.rackNeed core = some spill

theorem exec_windowRack {core : CoreId} {spill : Bool} (h : s.awaitsRack core.val t spill) :
    exec (.windowRack core) s = .next (s.rackFor core.val t spill) := by
  obtain ⟨ht, hswap, hstop, hwait, hcheck, hneed⟩ := h
  change execWindowRack core s = _
  unfold execWindowRack
  simp only [ht, hswap, hstop, hwait, hcheck, hneed]
  rfl

theorem State.rackFor_of_ok {spill : Bool} {u : State} (h : s.rackGroup core t spill (s.bank core).fly = .ok u) :
    s.rackFor core t spill = u.setBank core { u.bank core with wait := 0 } := by
  rw [State.rackFor, h]

/-- A group is spilled for the instruction at issue, which waits no more. -/
theorem exec_windowRack_spill {core : CoreId} (h : s.awaitsRack core.val t true)
    (hmay : (s.bank core.val).mayRack (s.ctxInfo t.part t.ctx).fstr true ps)
    (hps : s.rackPlaces core.val t (s.bank core.val).rklimit .store ((s.bank core.val).rackAddrs (s.bank core.val).lo) = .ok ps) :
    ∃ u, exec (.windowRack core) s = .next u ∧ (u.bank core.val).lo = (s.bank core.val).lo + 24 ∧ (u.bank core.val).wait = 0
      ∧ (u.bank core.val).ring = (s.bank core.val).ring
      ∧ u.mem = ((List.range 24).foldl (fun (x : State) j => x.writeNat (ps.getD j 0)
          (Sparse.get 0 (s.bank core.val).ring (((s.bank core.val).lo + j) % 256)).toNat 8) s).mem := by
  have hexec := (exec_windowRack h).trans (congrArg _ (State.rackFor_of_ok (State.rackGroup_spill hmay hps)))
  have hlen : ps.length = 24 := (State.rackPlaces_length hps).trans (by simp [Context.rackAddrs])
  refine ⟨_, hexec, ?_⟩
  rw [State.bank_setBank, State.setBank_mem, ← s.storeAll_group _ _ hlen]
  exact ⟨s.spilled_lo core.val t ps, rfl, s.spilled_ring core.val t ps, s.spilled_mem core.val t ps⟩

/-- A group is filled for the instruction at issue, which waits no more. -/
theorem exec_windowRack_fill {core : CoreId} (h : s.awaitsRack core.val t false)
    (hmay : (s.bank core.val).mayRack (s.ctxInfo t.part t.ctx).fstr false ps)
    (hps : s.rackPlaces core.val t (s.bank core.val).rklimit .load ((s.bank core.val).rackAddrs ((s.bank core.val).lo - 24)) = .ok ps)
    (hclean : ∀ p ∈ ps, s.poisoned p 8 = false) :
    ∃ u, exec (.windowRack core) s = .next u ∧ (u.bank core.val).lo = (s.bank core.val).lo - 24 ∧ (u.bank core.val).wait = 0
      ∧ u.mem = s.mem ∧ ∀ j, j < 24 → Sparse.get 0 (u.bank core.val).ring (((s.bank core.val).lo - 24 + j) % 256)
        = BitVec.ofNat 64 (s.natAt (ps.getD j 0) 8) := by
  have hexec := (exec_windowRack h).trans (congrArg _ (State.rackFor_of_ok (State.rackGroup_fill hmay hps hclean)))
  have hlen : ps.length = 24 := (State.rackPlaces_length hps).trans (by simp [Context.rackAddrs])
  have hlo := s.filled_lo core.val t ps
  have hmem := s.filled_mem core.val t ps
  have hring (j : Nat) (hj : j < 24) := s.filled_ring core.val t (hj.trans_eq hlen.symm) hlen
  generalize s.filled core.val t ps = v at hexec hlo hmem hring
  refine ⟨_, hexec, ?_⟩
  rw [State.bank_setBank, State.setBank_mem]
  exact ⟨hlo, rfl, hmem, hring⟩

theorem State.rackFor_of_fail {bad : Word}
    (h : s.rackPlaces core t (s.bank core).rklimit .store ((s.bank core).rackAddrs (s.bank core).lo) = .error (.fail bad)) :
    s.rackFor core t true = s.syncTrap core t cWindowSpill bad (s.bank core).pc (s.bank core).pc := by
  have hgroup : s.rackGroup core t true (s.bank core).fly = .fail bad := by
    unfold State.rackGroup
    unfold Context.rackAddrs at h
    simp only [if_true, h]
  rw [State.rackFor, hgroup]

theorem State.rackFor_of_away {p : Nat}
    (h : s.rackPlaces core t (s.bank core).rklimit .store ((s.bank core).rackAddrs (s.bank core).lo) = .error (.away p)) :
    s.rackFor core t true = s.touch p := by
  have hgroup : s.rackGroup core t true (s.bank core).fly = .wait (s.touch p) wRacking := by
    unfold State.rackGroup
    unfold Context.rackAddrs at h
    simp only [if_true, h]
  rw [State.rackFor, hgroup]

/-- The scratchpad bank of a place that has been touched is wanted back. -/
theorem State.wanted_touch (s : State) (p : Nat) :
    ((s.touch p).core (spadCore p)).wanted.getLsbD (p % 2 ^ 22 / 64 % 64) = true := by
  have hbit : p % 2 ^ 22 / 64 % 64 < 64 := Nat.mod_lt _ (by decide)
  rw [State.touch, State.core_setCore]
  simp only [BitVec.getLsbD_or, BitVec.getLsbD_shiftLeft, Nat.sub_self, hbit]
  simp

end

end Sys2Proof.Machine
end

section
/-!
SUPPORT. What a page walk comes to for the agents that wait for it.
-/

namespace Sys2Proof.Machine

/-! ### A walk finds its page (R385) -/

section
variable {s : State} {k : Nat} {w : Walk}

/-- An agent whose page has been found goes on: an instruction that waits for it waits no more, and no other does. -/
theorem State.wait_walkFound (s : State) (g : Agent) (j : Nat) : ((s.walkFound g).bank j).wait =
    if g = .instr j ∧ (s.bank j).wait.toNat = wTranslation then 0 else (s.bank j).wait := by
  cases g with
  | copy => rfl
  | gen c g chain lane =>
    rw [if_neg (by simp), State.walkFound]
    split
    · by_cases hj : j = c
      · rw [hj, State.setGen, State.bank_setBank]
        rfl
      · rw [State.setGen, State.bank_setBank_ne _ _ hj]
    · rfl
  | instr c =>
    by_cases hj : j = c
    · subst hj
      by_cases hwait : (s.bank j).wait.toNat = wTranslation
      · rw [if_pos ⟨rfl, hwait⟩, State.walkFound, if_pos (beq_iff_eq.mpr hwait), State.bank_setBank]
      · rw [if_neg fun h => hwait h.2, State.walkFound, if_neg fun h => hwait (beq_iff_eq.mp h)]
    · rw [if_neg fun h => hj (by cases h.1; rfl), State.walkFound]
      split_ifs
      · rw [State.bank_setBank_ne _ _ hj]
      · rfl

theorem State.walkFound_eq (s : State) (g : Agent) : ∃ cs, s.walkFound g = { s with cores := cs } := by
  cases g with
  | copy => exact ⟨s.cores, rfl⟩
  | gen c g chain lane =>
    rw [State.walkFound]
    split
    · exact ⟨_, rfl⟩
    · exact ⟨s.cores, rfl⟩
  | instr c =>
    rw [State.walkFound]
    split_ifs
    · exact ⟨_, rfl⟩
    · exact ⟨s.cores, rfl⟩

/-- Every agent of a list goes on. -/
def State.allFound (s : State) (gs : List Agent) : State := gs.foldl (fun s g => s.walkFound g) s

theorem State.allFound_eq (s : State) (gs : List Agent) : ∃ cs, s.allFound gs = { s with cores := cs } := by
  induction gs generalizing s with
  | nil => exact ⟨s.cores, rfl⟩
  | cons g gs ih =>
    obtain ⟨cs, hcs⟩ := s.walkFound_eq g
    obtain ⟨cs', hcs'⟩ := ih (s.walkFound g)
    exact ⟨cs', hcs'.trans (by rw [hcs])⟩

theorem State.wait_allFound_of_zero {s : State} (gs : List Agent) {j : Nat} (h : (s.bank j).wait = 0) :
    ((s.allFound gs).bank j).wait = 0 := by
  induction gs generalizing s with
  | nil => exact h
  | cons g gs ih =>
    refine ih ?_
    rw [State.wait_walkFound, h, ite_self]

theorem State.wait_allFound {s : State} {gs : List Agent} {j : Nat} (hmem : .instr j ∈ gs)
    (hwait : (s.bank j).wait.toNat = wTranslation) : ((s.allFound gs).bank j).wait = 0 := by
  induction gs generalizing s with
  | nil => cases hmem
  | cons g gs ih =>
    have hstep := s.wait_walkFound g j
    by_cases hg : g = .instr j
    · rw [if_pos ⟨hg, hwait⟩] at hstep
      exact State.wait_allFound_of_zero gs hstep
    · rw [if_neg fun h => hg h.1] at hstep
      exact ih ((List.mem_cons.mp hmem).resolve_left (Ne.symm hg)) (hstep ▸ hwait)

/-! ### PAGE_WALK_COMPLETE (R383 to R386, R428) -/

theorem exec_pageWalkComplete_of_no_walker (h : s.walkerFor k = false) : exec (.pageWalkComplete k) s = .next s := by
  change execPageWalkComplete k s = _
  unfold execPageWalkComplete
  rw [h]
  cases s.walks[k]? <;> rfl

/-- A walk has left the list of those that are pending. -/
def State.walked (s : State) (k : Nat) : State := { s with walks := dropAt s.walks k }

/-- A translation is cached, and no walk for its page is pending. -/
def State.translated (s : State) (w : Walk) (e : BitVec 128) (va size : Nat) (lines : List Nat) : State :=
  { s with
    tlb := s.tlb ++ [⟨w.part, w.ctx, va, size, e, lines⟩]
    walks := s.walks.filter fun x => !w.on x va size }

/-- The agents of a walk, and of the walks that its translation serves. -/
def State.served (s : State) (w : Walk) (va size : Nat) : List Agent :=
  w.agents ++ (s.walks.filter fun x => w.on x va size).flatMap fun x => x.agents

theorem State.mem_served {j va size : Nat} : .instr j ∈ s.served w va size ↔
    .instr j ∈ w.agents ∨ ∃ x ∈ s.walks, w.on x va size = true ∧ .instr j ∈ x.agents := by
  simp only [State.served, List.mem_append, List.mem_flatMap, List.mem_filter, and_assoc]

section
variable (hw : s.walks[k]? = some w) (hfree : s.walkerFor k = true)
include hw hfree

theorem exec_pageWalkComplete_leaf {e : BitVec 128} {va size : Nat} {lines : List Nat}
    (h : s.walk w.part w.ctx w.va = .leaf e va size lines) : exec (.pageWalkComplete k) s =
      .next (((s.walked k).translated w e va size lines).allFound ((s.walked k).served w va size)) := by
  change execPageWalkComplete k s = _
  unfold execPageWalkComplete
  simp only [hw, hfree, h]
  rfl

variable {c : Nat} (hagents : w.agents = [.instr c])
include hagents

theorem exec_pageWalkComplete_prot (h : s.walk w.part w.ctx w.va = .prot) : exec (.pageWalkComplete k) s =
    .next ((s.walked k).walkBad w.va cProtection none (.instr c)) := by
  change execPageWalkComplete k s = _
  unfold execPageWalkComplete
  simp only [hw, hfree, h, hagents]
  rfl

theorem exec_pageWalkComplete_poison {p : Nat} (h : s.walk w.part w.ctx w.va = .poison p) : exec (.pageWalkComplete k) s =
    .next (((s.walked k).logPoison w.part p).walkBad w.va cMachineCheck (some (p / 64 * 64)) (.instr c)) := by
  change execPageWalkComplete k s = _
  unfold execPageWalkComplete
  simp only [hw, hfree, h, hagents]
  rfl

theorem exec_pageWalkComplete_invalid {u : State} (h : s.walk w.part w.ctx w.va = .invalid)
    (hu : (s.walked k).faultRecord w.part w.ctx w.va w.kind 1 w.agents = some u) :
    exec (.pageWalkComplete k) s = .next u := by
  change execPageWalkComplete k s = _
  unfold execPageWalkComplete
  unfold State.walked at hu
  simp only [hw, hfree, h, hu]
  rw [hagents]
  rfl

end

/-! ### Fault records (R386) -/

/-- With room for a record, every agent of a fault stands in one of its page. -/
theorem State.faultRecord_spec (s : State) {part : Nat} (ctx va : Nat) (kind : AccKind) (reason : Nat) (gs : List Agent)
    (hroom : (s.part part).records.length < Config.faultRecords) :
    ∃ u, s.faultRecord part ctx va kind reason gs = some u ∧ u.walks = s.walks ∧ u.cores = s.cores
      ∧ ∀ g ∈ gs, ∃ r ∈ (u.part part).records,
        r.ctx = ctx ∧ r.va / 2 ^ 19 = va / 2 ^ 19 ∧ r.reason = reason ∧ g ∈ r.agents := by
  unfold State.faultRecord
  dsimp only
  by_cases hsame : ((s.part part).records.any fun r => r.ctx == ctx && r.va / 2 ^ 19 == va / 2 ^ 19 && r.reason == reason) = true
  · rw [if_pos hsame]
    refine ⟨_, rfl, rfl, rfl, fun g hg => ?_⟩
    obtain ⟨r, hr, hpage⟩ := List.any_eq_true.mp hsame
    refine ⟨_, by rw [State.part_setPart]; exact List.mem_map_of_mem hr, ?_⟩
    simp only [Bool.and_eq_true, beq_iff_eq, and_assoc] at hpage
    obtain ⟨hctx, hva, hreason⟩ := hpage
    simp only [hctx, hva, hreason, BEq.rfl, Bool.and_self, if_true, true_and, List.mem_append, List.mem_filter]
    by_cases hin : g ∈ r.agents
    · exact .inl hin
    · exact .inr ⟨hg, by simpa using hin⟩
  · rw [if_neg hsame, if_neg (Nat.not_le.mpr hroom)]
    refine ⟨_, rfl, ?_, ?_, fun g hg => ?_⟩
    · rw [State.event_walks]; rfl
    · rw [State.event_cores]; rfl
    · refine ⟨⟨(s.part part).recno, va, ctx, kind, reason, gs⟩, ?_, rfl, rfl, rfl, hg⟩
      have hparts : ∀ (u : State) (bs : List Byte), (u.event part 2 bs).part part = u.part part := fun u bs => by
        rw [State.part, State.event_parts]; rfl
      rw [hparts, State.part_setPart]
      exact List.mem_append_right _ List.mem_cons_self

end

end Sys2Proof.Machine
end

section
/-!
SUPPORT. Traps that come from outside the instruction at issue: what taking one leaves, which comes first, and the watchdog.
What ends a wait (O46).
-/

namespace Sys2Proof.Machine

/-! ### Stopping a task (R351) -/

section
variable {s : State} {core : Nat} {t : Task} {a : TrapArg}

/-- A bank whose task has stopped. -/
def Context.halt (c : Context) : Context :=
  { c with stopped := true, wait := 0, retry := false, idle := none, atBound := false, resuming := false }

theorem State.core_stopTask (s : State) (core : Nat) :
    (s.stopTask core).core core = { s.core core with bank := (s.bank core).halt } := by
  unfold State.stopTask
  dsimp only
  rw [State.core, State.event_cores]
  exact State.core_setBank ..

/-! ### Taking a trap (R346, R347) -/

/-- The trap goes to the driver: it always does, or the task has no handler that can be entered (R342, R347). -/
def State.toDriver (s : State) (core : Nat) (a : TrapArg) : Bool :=
  a.driver || driverCause a.cause || !(s.bank core).handlerOn || !s.entryLine core (s.bank core).handlerEntry

/-- The bank of a core as a trap with its frame leaves it, before the handler's window and entry. -/
def State.framed (s : State) (core : Nat) (a : TrapArg) : Context :=
  let c := s.bank core
  let held := c.strip.map fun x => { x with tpc := x.place s.turn }
  let arg := match held with | some x => { a with tpc := x.tpc } | none => a
  let b : Context :=
    { c with rq := c.rq ++ (captureFly c.fly).1, frame := arg.frame c.frame c.wp, xfer := none, wait := 0, retry := false,
             owed := if a.async then c.owed else none, idle := none, atBound := false, walkTrap := none, cause2 := 0, strip := none,
             stripHeld := held, fillMsg := 0, fillData := [] }
  { b with fly := b.trim (captureFly c.fly).2 }

theorem State.framed_frame (h : (s.bank core).strip = none) :
    (s.framed core a).frame = a.frame (s.bank core).frame (s.bank core).wp := by
  simp only [State.framed, h, Option.map_none]

/-- The bank of a core after a trap has been taken out of trap state. -/
def State.trapBank (s : State) (core : Nat) (a : TrapArg) : Context :=
  if s.toDriver core a = true then (s.framed core a).halt
  else { s.framed core a with
    trapst := true, wp := (s.bank core).wp + 48, pc := (s.bank core).handlerEntry.toNat }

theorem State.trapBank_taken : ((s.trapBank core a).trapst || (s.trapBank core a).stopped) = true := by
  unfold State.trapBank
  split_ifs
  · exact Bool.or_true _
  · rfl

theorem State.trapBank_asyncs : (s.trapBank core a).asyncs = (s.bank core).asyncs := by
  unfold State.trapBank
  split_ifs <;> rfl

/-- The frame, the replay queue and the synchronous trap that is owed are the same, whoever answers the trap. -/
theorem State.trapBank_frame (hstrip : (s.bank core).strip = none) :
    (s.trapBank core a).frame = a.frame (s.bank core).frame (s.bank core).wp
      ∧ (s.trapBank core a).rq = (s.bank core).rq ++ (captureFly (s.bank core).fly).1
      ∧ (s.trapBank core a).owed = if a.async then (s.bank core).owed else none := by
  have hframe : (s.framed core a).frame = _ := State.framed_frame hstrip
  unfold State.trapBank
  by_cases hd : s.toDriver core a = true
  · rw [if_pos hd]
    exact ⟨hframe, rfl, rfl⟩
  · rw [if_neg hd]
    exact ⟨hframe, rfl, rfl⟩

/-- The driver answers a stopped task as it stands, the handler has a window and an entry of its own. -/
theorem State.trapBank_answer (hstop : (s.bank core).stopped = false) (htrap : (s.bank core).trapst = false) :
    if s.toDriver core a = true then (s.trapBank core a).stopped = true ∧ (s.trapBank core a).trapst = false
      ∧ (s.trapBank core a).wp = (s.bank core).wp
    else (s.trapBank core a).stopped = false ∧ (s.trapBank core a).trapst = true
      ∧ (s.trapBank core a).wp = (s.bank core).wp + 48 ∧ (s.trapBank core a).pc = (s.bank core).handlerEntry.toNat := by
  unfold State.trapBank
  split_ifs
  · exact ⟨rfl, htrap, rfl⟩
  · exact ⟨hstop, rfl, rfl, rfl⟩

section
variable (hcheck : core < Config.cpCore ∨ a.cause ≠ cMachineCheck)
include hcheck

theorem State.not_takeover : ¬ (decide (Config.cpCore ≤ core) && a.cause == cMachineCheck) = true := by
  rw [Bool.and_eq_true, decide_eq_true_eq, beq_iff_eq]
  rintro ⟨hcore, hcause⟩
  exact hcheck.elim (Nat.not_lt.mpr hcore) fun h => h hcause

theorem State.takeTrap_in_trap (ht : (s.bank core).trapst = true) :
    s.takeTrap core t a = (s.setBank core { s.bank core with
      cause2 := BitVec.ofNat 8 a.cause, xfer := none, owed := none }).stopTask core := by
  unfold State.takeTrap
  dsimp only
  rw [if_neg (State.not_takeover hcheck), if_pos ht]

variable (ht : (s.bank core).trapst = false)
include ht

theorem State.takeTrap_to_driver (hd : s.toDriver core a = true) :
    s.takeTrap core t a = (s.setBank core (s.framed core a)).stopTask core := by
  unfold State.takeTrap
  dsimp only
  rw [if_neg (State.not_takeover hcheck), if_neg (ht ▸ Bool.false_ne_true)]
  exact if_pos hd

theorem State.takeTrap_to_handler (hd : s.toDriver core a = false)
    (hroom : (s.bank core).wp + 80 ≤ 256 + (s.bank core).lo) :
    s.takeTrap core t a = s.setBank core { s.framed core a with
      trapst := true, wp := (s.bank core).wp + 48, pc := (s.bank core).handlerEntry.toNat } := by
  have hspill (es : List Entry) : s.spillUntil core t ((s.bank core).wp + 48) es 11 = .ok s := by
    rw [State.spillUntil, if_pos (by omega)]
  unfold State.takeTrap
  dsimp only
  rw [if_neg (State.not_takeover hcheck), if_neg (ht ▸ Bool.false_ne_true), hspill]
  exact if_neg (Bool.eq_false_iff.mp hd)

theorem State.core_takeTrap (hroom : s.toDriver core a = false → (s.bank core).wp + 80 ≤ 256 + (s.bank core).lo) :
    (s.takeTrap core t a).core core = { s.core core with bank := s.trapBank core a } := by
  cases hd : s.toDriver core a with
  | true => rw [State.takeTrap_to_driver hcheck ht hd, State.core_stopTask, State.core_setBank, State.bank_setBank, State.trapBank, hd, if_pos rfl]
  | false =>
    rw [State.takeTrap_to_handler hcheck ht hd (hroom hd), State.core_setBank, State.trapBank, hd, if_neg Bool.false_ne_true]

end

end

/-! ### Which asynchronous trap comes first (R344) -/

section
variable {c : Context} {a : Async}

theorem Context.firstAsync_of_check (h : ∃ x ∈ c.asyncs, x.cause.toNat = cMachineCheck) :
    ∃ y, c.firstAsync = some y ∧ y.cause.toNat = cMachineCheck := by
  obtain ⟨x, hx, hcause⟩ := h
  obtain ⟨y, hy⟩ := Option.isSome_iff_exists.mp
    ((List.find?_isSome (p := fun a : Async => a.cause.toNat == cMachineCheck)).mpr ⟨x, hx, beq_iff_eq.mpr hcause⟩)
  refine ⟨y, ?_, beq_iff_eq.mp (List.find?_some (p := fun a : Async => a.cause.toNat == cMachineCheck) hy)⟩
  simp only [Context.firstAsync, hy, Option.orElse]

theorem Context.find?_check_none (h : ∀ x ∈ c.asyncs, x.cause.toNat ≠ cMachineCheck) :
    (c.asyncs.find? fun a => a.cause.toNat == cMachineCheck) = none :=
  List.find?_eq_none.mpr fun x hx hc => h x hx (beq_iff_eq.mp hc)

theorem Context.firstAsync_of_copy (hnone : ∀ x ∈ c.asyncs, x.cause.toNat ≠ cMachineCheck) (h : ∃ x ∈ c.asyncs, x.copy = true) :
    ∃ y, c.firstAsync = some y ∧ y.copy = true := by
  obtain ⟨y, hy⟩ := Option.isSome_iff_exists.mp ((List.find?_isSome (p := Async.copy)).mpr h)
  refine ⟨y, ?_, List.find?_some (p := Async.copy) hy⟩
  simp only [Context.firstAsync, Context.find?_check_none hnone, hy, Option.orElse]

theorem Context.mem_of_firstAsync (h : c.firstAsync = some a) : a ∈ c.asyncs := by
  unfold Context.firstAsync at h
  dsimp only at h
  cases hcheck : c.asyncs.find? fun a => a.cause.toNat == cMachineCheck with
  | some y =>
    simp only [hcheck, Option.orElse] at h
    cases h
    exact List.mem_of_find?_eq_some hcheck
  | none =>
    cases hcopy : c.asyncs.find? fun a => a.copy with
    | some y =>
      simp only [hcheck, hcopy, Option.orElse] at h
      cases h
      exact List.mem_of_find?_eq_some hcopy
    | none =>
      cases hfab : (List.range 8).findSome? fun h => c.asyncs.find? fun a => a.fab && a.handle.toNat == h with
      | some y =>
        simp only [hcheck, hcopy, hfab, Option.orElse] at h
        cases h
        obtain ⟨k, -, hk⟩ := List.exists_of_findSome?_eq_some hfab
        exact List.mem_of_find?_eq_some hk
      | none =>
        simp only [hcheck, hcopy, hfab, Option.orElse] at h
        exact List.mem_of_head? h

end

/-! ### TAKE_ASYNC_TRAP (R344, R350, R360) -/

section
variable {s : State} {core : CoreId} {t : Task} {a : Async}

/-- The trap that an asynchronous event raises at a boundary. -/
def Context.asyncArg (c : Context) (a : Async) : TrapArg :=
  ⟨a.cause.toNat, a.info, c.pc, true, a.fab, a.handle, a.copy, a.driver, false, 0, .none⟩

/-- The state after the asynchronous trap of a core has been taken and has left those that are held. -/
def State.tookAsync (s : State) (core : Nat) (t : Task) (a : Async) : State :=
  let u := s.takeTrap core t ((s.bank core).asyncArg a)
  u.setBank core { u.bank core with
    asyncs := dropAsync a (u.bank core).asyncs, atBound := !(u.bank core).stopped && (u.core core).preq }

/-- A synchronous trap that waits to be taken comes before every asynchronous one but MACHINE_CHECK. -/
theorem exec_takeAsyncTrap_of_owed (howed : (s.bank core.val).owed.isSome = true)
    (hnone : ∀ x ∈ (s.bank core.val).asyncs, x.cause.toNat ≠ cMachineCheck) : exec (.takeAsyncTrap core) s = .next s := by
  change execTakeAsyncTrap core s = _
  unfold execTakeAsyncTrap
  dsimp only
  congr 1
  split
  · next t a ht ha =>
    refine if_pos ?_
    simp [howed, hnone a (Context.mem_of_firstAsync ha)]
  · rfl

section
variable (ht : (s.bank core.val).task = some t) (ha : (s.bank core.val).firstAsync = some a)
  (hxfer : (s.bank core.val).xfer = none) (htrap : (s.bank core.val).trapst = false) (hstop : (s.bank core.val).stopped = false)
  (hhalt : (s.bank core.val).halted = true) (hswap : (s.core core.val).swapping = false)
  (hcheck : core.val < Config.cpCore ∨ a.cause.toNat ≠ cMachineCheck)
  (howed : (s.bank core.val).owed = none ∨ a.cause.toNat = cMachineCheck)
include ht ha hxfer htrap hstop hhalt hswap hcheck howed

theorem exec_takeAsyncTrap (hroom : (s.bank core.val).wp + 80 ≤ 256 + (s.bank core.val).lo) :
    exec (.takeAsyncTrap core) s = .next (s.tookAsync core.val t a) := by
  have hdue : (s.bank core.val).asyncDue = true := by
    have hmem := Context.mem_of_firstAsync ha
    simp [Context.asyncDue, Context.boundary, hxfer, htrap, List.ne_nil_of_mem hmem]
  have howe : ((s.bank core.val).owed.isSome && a.cause.toNat != cMachineCheck) = false := by
    obtain h | h := howed <;> simp [h]
  have hfree : ¬ (!(s.bank core.val).asyncDue || (s.bank core.val).stopped || (s.core core.val).swapping || !(s.bank core.val).halted
      || ((s.bank core.val).owed.isSome && a.cause.toNat != cMachineCheck)
      || (decide (Config.cpCore ≤ core.val) && a.cause.toNat == cMachineCheck)) = true := by
    rw [hdue, hstop, hswap, hhalt, howe]
    exact State.not_takeover (a := (s.bank core.val).asyncArg a) hcheck
  have hcore := State.core_takeTrap (t := t) (a := (s.bank core.val).asyncArg a) hcheck htrap fun _ => hroom
  have htaken : (((s.takeTrap core.val t ((s.bank core.val).asyncArg a)).core core.val).bank.trapst
      || ((s.takeTrap core.val t ((s.bank core.val).asyncArg a)).core core.val).bank.stopped) = true := by
    rw [hcore]
    exact State.trapBank_taken
  change execTakeAsyncTrap core s = _
  unfold execTakeAsyncTrap
  simp only [ht, ha]
  rw [if_neg hfree]
  exact congrArg Host.Outcome.next (if_pos htaken)

end

theorem State.bank_tookAsync (hcheck : core.val < Config.cpCore ∨ a.cause.toNat ≠ cMachineCheck)
    (htrap : (s.bank core.val).trapst = false) (hroom : (s.bank core.val).wp + 80 ≤ 256 + (s.bank core.val).lo) :
    (s.tookAsync core.val t a).bank core.val = { s.trapBank core.val ((s.bank core.val).asyncArg a) with
      asyncs := dropAsync a (s.bank core.val).asyncs
      atBound := !(s.trapBank core.val ((s.bank core.val).asyncArg a)).stopped && (s.core core.val).preq } := by
  have hcore := State.core_takeTrap (t := t) (a := (s.bank core.val).asyncArg a) hcheck htrap fun _ => hroom
  rw [State.tookAsync, State.bank_setBank, State.bank, hcore]
  dsimp only
  rw [State.trapBank_asyncs]

/-! ### WATCHDOG (R356, R359) -/

section
variable (ht : (s.bank core.val).task = some t) (hstop : (s.bank core.val).stopped = false)
  (hswap : (s.core core.val).swapping = false) (hcounts : waitCounts (s.bank core.val).wait.toNat = true) {n : BitVec 32}
include ht hstop hswap hcounts

theorem exec_watchdog_counts (hsmall : (s.bank core.val).wdcnt.toNat + n.toNat < 2 ^ 32)
    (h : (s.bank core.val).wdlim = 0 ∨ (s.bank core.val).wdcnt.toNat + n.toNat < (s.bank core.val).wdlim.toNat
      ∨ (s.bank core.val).owed.isSome = true) :
    exec (.watchdog core n) s =
      .next (s.setBank core.val { s.bank core.val with wdcnt := (s.bank core.val).wdcnt + n }) := by
  have hsum : BitVec.ofNat 32 (min ((s.bank core.val).wdcnt.toNat + n.toNat) (2 ^ 32 - 1)) = (s.bank core.val).wdcnt + n := by
    rw [Nat.min_eq_left (by omega), BitVec.ofNat_add, BitVec.ofNat_toNat, BitVec.ofNat_toNat, BitVec.setWidth_eq, BitVec.setWidth_eq]
  change execWatchdog core n s = _
  unfold execWatchdog
  simp only [ht, hstop, hswap, hcounts, hsum, Bool.false_and, Bool.or_self, Bool.not_true, Bool.false_eq_true, if_false]
  refine congrArg Host.Outcome.next (if_pos ?_)
  obtain h | h | h := h <;> simp [h]

/-- The trap of the watchdog. -/
def Context.watchdogArg (c : Context) : TrapArg :=
  ⟨cWatchdog, c.wait.zeroExtend 64, c.pc, true, false, 0, false, true, false, 0, .none⟩

theorem exec_watchdog_ends (hlim : (s.bank core.val).wdlim ≠ 0)
    (hover : (s.bank core.val).wdlim.toNat ≤ (s.bank core.val).wdcnt.toNat + n.toNat) (hxfer : (s.bank core.val).xfer = none)
    (hcheck : (s.bank core.val).checkDue = false) (howed : (s.bank core.val).owed = none) :
    ∃ m, exec (.watchdog core n) s = .next ((s.setBank core.val { s.bank core.val with wdcnt := m }).takeTrap core.val t
      (s.bank core.val).watchdogArg) := by
  refine ⟨if (s.bank core.val).wdcnt < (s.bank core.val).wdlim then (s.bank core.val).wdlim else (s.bank core.val).wdcnt, ?_⟩
  change execWatchdog core n s = _
  unfold execWatchdog
  simp only [ht, hstop, hswap, hcounts, hcheck, howed, beq_false_of_ne hlim, Bool.false_and, Bool.or_self, Bool.not_true,
    Bool.false_eq_true, if_false]
  refine congrArg Host.Outcome.next (if_neg ?_)
  simp [Nat.not_lt.mpr hover, Context.boundary, hxfer]

end

/-- A trap that always goes to the driver stops the task; its cause stands in the frame, or beside it in trap state. -/
theorem State.takeTrap_driver (s : State) {core : Nat} (t : Task) {a : TrapArg} (hcheck : a.cause ≠ cMachineCheck)
    (hdriver : a.driver = true) : ((s.takeTrap core t a).bank core).stopped = true
      ∧ ((s.bank core).trapst = true → ((s.takeTrap core t a).bank core).cause2 = BitVec.ofNat 8 a.cause)
      ∧ ((s.bank core).trapst = false → (s.bank core).strip = none →
        ((s.takeTrap core t a).bank core).frame = a.frame (s.bank core).frame (s.bank core).wp) := by
  have hbank (u : State) : (u.stopTask core).bank core = (u.bank core).halt := congrArg Core.bank (u.core_stopTask core)
  have hd : s.toDriver core a = true := by simp [State.toDriver, hdriver]
  cases htrap : (s.bank core).trapst with
  | true =>
    rw [State.takeTrap_in_trap (.inr hcheck) htrap, hbank, State.bank_setBank]
    exact ⟨rfl, fun _ => rfl, fun h => absurd h.symm Bool.false_ne_true⟩
  | false =>
    rw [State.takeTrap_to_driver (.inr hcheck) htrap hd, hbank, State.bank_setBank]
    exact ⟨rfl, fun h => absurd h Bool.false_ne_true, fun _ hstrip => State.framed_frame hstrip⟩

end

/-! ### WAITER_PROCEED and IDLE_TIMEOUT (R26, R222) -/

theorem exec_waiterProceed {s : State} {core : CoreId} (hidle : (s.bank core.val).idle = none)
    (hstop : (s.bank core.val).stopped = false) (hpower : s.powered core.val = true)
    (hwalk : (s.bank core.val).wait.toNat ≠ wTranslation) (hrack : (s.bank core.val).wait.toNat ≠ wRacking) :
    exec (.waiterProceed core) s = .next (s.setBank core.val { s.bank core.val with retry := decide ((s.bank core.val).wait ≠ 0) }) := by
  have hretry : ((s.bank core.val).wait != 0) = decide ((s.bank core.val).wait ≠ 0) :=
    Bool.eq_iff_iff.mpr (bne_iff_ne.trans decide_eq_true_iff.symm)
  change execWaiterProceed core s = _
  unfold execWaiterProceed
  dsimp only
  rw [hretry]
  exact congrArg Host.Outcome.next (if_neg (by simp [hidle, hstop, hpower, hwalk, hrack]))

theorem exec_idleTimeout {s : State} {core : CoreId} {n : BitVec 32} (h : (s.bank core.val).idle = some n) :
    exec (.idleTimeout core) s =
      .next (if n = 0 then s else s.setBank core.val { s.bank core.val with idle := none, wait := 0 }) := by
  change execIdleTimeout core s = _
  unfold execIdleTimeout
  simp only [h, Context.wake, Option.isSome_some, if_true, beq_iff_eq]

/-! ### The obligation -/

theorem cWatchdog_ne : cWatchdog ≠ cMachineCheck := by decide

/-- Settles O46: the racking engine group by group, the walks by their results, and traps from outside by what taking one
leaves. -/
theorem waitsAndTimers : Obligations.WaitsAndTimers := by
  intro s core t n k w a ps bad c addrs racking onDevice
  have awaits {spill : Bool} (h : racking) (hneed : s.rackNeed core.val = some spill) : s.awaitsRack core.val t spill := by
    obtain ⟨ht, hswap, hstop, hwait, hcheck⟩ := h
    exact ⟨ht, hswap, hstop, hwait, hcheck, hneed⟩
  refine ⟨exec_waiterProceed, ?spill, ?fill, ?fail, ?away, exec_idleTimeout, exec_pageWalkComplete_of_no_walker, ?table, ?walk,
    ?async, exec_takeAsyncTrap_of_owed, Context.firstAsync_of_check, Context.firstAsync_of_copy, ?watchdog⟩
  case spill =>
    intro hr hneed hps hdev
    exact exec_windowRack_spill (awaits hr hneed) hdev hps
  case fill =>
    intro hr hneed hps hdev hclean
    exact exec_windowRack_fill (awaits hr hneed) hdev hps hclean
  case fail =>
    intro hr hneed hps
    exact (exec_windowRack (awaits hr hneed)).trans (congrArg _ (State.rackFor_of_fail hps))
  case away =>
    intro p hr hneed hps
    exact ⟨(exec_windowRack (awaits hr hneed)).trans (congrArg _ (State.rackFor_of_away hps)), s.wanted_touch p⟩
  case table =>
    intro part ctx va h
    exact if_pos h
  case walk =>
    intro hw hfree rest
    refine ⟨fun e va size lines hwalk => ?_, fun hwalk hagents => ?_, fun p hwalk hagents => ?_, fun hwalk hagents hroom => ?_⟩
    · obtain ⟨cs, hcs⟩ := ((s.walked k).translated w e va size lines).allFound_eq ((s.walked k).served w va size)
      refine ⟨_, exec_pageWalkComplete_leaf hw hfree hwalk, by rw [hcs]; rfl, by rw [hcs]; rfl, fun j hj hwait => ?_⟩
      exact State.wait_allFound (State.mem_served.mpr hj) hwait
    · exact exec_pageWalkComplete_prot hw hfree hagents hwalk
    · have hcores : ((s.walked k).logPoison w.part p).bank core.val = c :=
        congrArg (fun cs => (Sparse.get Core.reset cs core.val).bank) (State.logError_cores ..)
      refine ⟨_, exec_pageWalkComplete_poison hw hfree hagents hwalk, State.logError_walks .., ?_⟩
      rw [State.walkBad, State.bank_setBank, hcores]
    · obtain ⟨u, hu, hwalks, hcores, hrec⟩ := (s.walked k).faultRecord_spec w.ctx w.va w.kind 1 w.agents hroom
      have hbank : u.bank core.val = c := congrArg (fun cs => (Sparse.get Core.reset cs core.val).bank) hcores
      exact ⟨u, exec_pageWalkComplete_invalid hw hfree hagents hwalk hu, hwalks, hbank, hrec _ (hagents ▸ List.mem_cons_self)⟩
  case async =>
    intro ht ha hxfer htrap hstop hhalt hstrip hswap hcheck howed hroom
    refine ⟨_, exec_takeAsyncTrap ht ha hxfer htrap hstop hhalt hswap hcheck howed hroom, ?_⟩
    obtain ⟨hframe, hrq, howes⟩ := s.trapBank_frame (core := core.val) (a := c.asyncArg a) hstrip
    have hanswer := s.trapBank_answer (core := core.val) (a := c.asyncArg a) hstop htrap
    rw [State.bank_tookAsync hcheck htrap hroom]
    dsimp only
    rw [hframe, hrq, howes]
    exact ⟨BitVec.ofNat_toNat .., rfl, rfl, rfl, rfl, rfl, rfl, rfl, rfl, rfl, rfl, rfl, fun h => by rw [h]; rfl, hanswer⟩
  case watchdog =>
    intro ht hstop hswap hcounts hsmall
    refine ⟨exec_watchdog_counts ht hstop hswap hcounts hsmall, fun hlim hover hxfer hcheck howed => ?_⟩
    obtain ⟨m, hm⟩ := exec_watchdog_ends ht hstop hswap hcounts hlim hover hxfer hcheck howed
    obtain ⟨hstopped, hcause2, hframe⟩ := (s.setBank core.val { c with wdcnt := m }).takeTrap_driver (core := core.val) t
      (a := c.watchdogArg) cWatchdog_ne rfl
    rw [State.bank_setBank] at hcause2 hframe
    refine ⟨_, hm, hstopped, hcause2, fun htrap hstrip => ?_⟩
    rw [hframe htrap hstrip]
    exact ⟨rfl, rfl, rfl, rfl⟩

end Sys2Proof.Machine
end

section
/-!
SUPPORT. What the host asks of memory: reads, writes, doorbells and answers (O58).
-/

namespace Sys2Proof.Machine

/-! ### Stores leave channels, queues and flips alone -/

theorem State.rekey_eq (s : State) (ls : List Nat) : ∃ m lk, s.rekey ls = { s with mem := m, loftKey := lk } := by
  induction ls generalizing s with
  | nil => exact ⟨s.mem, s.loftKey, rfl⟩
  | cons l ls ih =>
    rw [State.rekey]
    split
    · exact ih s
    · obtain ⟨m, lk, h⟩ := ih { s with mem := _, loftKey := _ }
      exact ⟨m, lk, h⟩

theorem State.dropTlb_eq (s : State) (stale : TlbEntry → Bool) :
    ∃ tlb cs sv, s.dropTlb stale = { s with tlb := tlb, cores := cs, saved := sv } := by
  unfold State.dropTlb
  dsimp only
  split_ifs
  · exact ⟨_, s.cores, s.saved, rfl⟩
  · exact ⟨_, _, _, rfl⟩

/-- What a store can change: translations, cores, memory, loft lines and poison marks. -/
theorem State.write_eq (s : State) (p : Nat) (bs : List Byte) : ∃ tlb cs sv m lk lg po,
    s.write p bs = { s with tlb := tlb, cores := cs, saved := sv, mem := m, loftKey := lk, loftGen := lg, poison := po } := by
  obtain ⟨tlb, cs, sv, hd⟩ := s.dropTlb_eq fun e => e.lines.any fun l => (linesOf (bare p) bs.length).contains l
  obtain ⟨m, lk, hr⟩ := State.rekey_eq { s with tlb := tlb, cores := cs, saved := sv } (linesOf p bs.length)
  obtain ⟨m', hp⟩ := State.putBytes_eq { s with tlb := tlb, cores := cs, saved := sv, mem := m, loftKey := lk } p bs
  unfold State.write
  dsimp only
  rw [hd, hr, hp]
  split_ifs
  · obtain ⟨cs', hw⟩ := State.sameDevice_wakeCore (State.mk ..) (spadCore p)
    rw [hw]
    exact ⟨tlb, cs', sv, m', lk, _, _, rfl⟩
  · exact ⟨tlb, cs, sv, m', lk, _, _, rfl⟩

theorem State.write_chans (s : State) (p : Nat) (bs : List Byte) : (s.write p bs).chans = s.chans := by
  obtain ⟨_, _, _, _, _, _, _, h⟩ := s.write_eq p bs
  rw [h]

theorem State.write_queues (s : State) (p : Nat) (bs : List Byte) : (s.write p bs).queues = s.queues := by
  obtain ⟨_, _, _, _, _, _, _, h⟩ := s.write_eq p bs
  rw [h]

theorem State.write_flips (s : State) (p : Nat) (bs : List Byte) : (s.write p bs).flips = s.flips := by
  obtain ⟨_, _, _, _, _, _, _, h⟩ := s.write_eq p bs
  rw [h]

theorem State.write_heldHost (s : State) (p : Nat) (bs : List Byte) : (s.write p bs).heldHost = s.heldHost := by
  obtain ⟨_, _, _, _, _, _, _, h⟩ := s.write_eq p bs
  rw [h]

/-! ### A store outside the lofts -/

/-- The lofts are made of whole lines. -/
theorem isLoft_line (x : Nat) : isLoft (64 * (x / 64)) = isLoft x := by
  unfold isLoft
  congr 1 <;> exact decide_eq_decide.mpr (by omega)

/-- A line that some bytes touch holds one of them. -/
theorem exists_byte_of_mem_linesOf {l p n : Nat} (h : l ∈ linesOf p n) : ∃ j, j < n ∧ (p + j) / 64 = l := by
  have hn : n ≠ 0 := by
    rintro rfl
    exact List.not_mem_nil h
  obtain ⟨hlow, hhigh⟩ := mem_linesOf_bounds h
  by_cases hp : p ≤ 64 * l
  · exact ⟨64 * l - p, by omega, by omega⟩
  · exact ⟨0, by omega, by omega⟩

/-- A byte outside the lofts after a store whose bytes all lie outside them. -/
theorem State.byteAt_write_of_not_loft (s : State) {p : Nat} {bs : List Byte} (hp : ∀ j, j < bs.length → isLoft (p + j) = false)
    {x : Nat} (hx : isLoft x = false) :
    (s.write p bs).byteAt x = if p ≤ x ∧ x < p + bs.length then bs.getD (x - p) 0 else s.byteAt x := by
  have hlines : ∀ l ∈ linesOf p bs.length, isLoft (64 * l) = false := fun l hl => by
    obtain ⟨j, hj, rfl⟩ := exists_byte_of_mem_linesOf hl
    rw [isLoft_line, hp j hj]
  rw [State.byteAt_of_not_loft _ hx, State.byteAt_of_not_loft _ hx, State.write_mem, State.rekey_of_not_loft s _ hlines,
    State.memByte_putBytes s p bs hp]

/-! ### The next message of the host (R363, R368) -/

/-- The message is the next on a channel of a partition that is not being reset, and it need not be acknowledged yet. -/
def State.hears (s : State) (m : Msg) : Prop :=
  let c := s.chan (msgKey m)
  s.hostOk m = true ∧ s.recovery = false ∧ m.ackv = false ∧ m.seq = c.expect ∧ c.frag = [] ∧ (c.expect + 1 - c.told).toNat < 64
    ∧ m.part.toNat ≠ mgrPart ∧ (s.part m.part.toNat).resetting = none

/-- The state in which a message of the host has been accepted. -/
def State.accepts (s : State) (m : Msg) : State :=
  s.setChan (msgKey m) { s.chan (msgKey m) with expect := (s.chan (msgKey m)).expect + 1 }

/-- The channel of the message, once the next message has been accepted. -/
theorem State.chan_accepts (s : State) (m : Msg) :
    (s.accepts m).chan (msgKey m) = { s.chan (msgKey m) with expect := (s.chan (msgKey m)).expect + 1 } :=
  State.chan_setChan ..

/-- A channel of a partition that carries its queues or its memory. -/
def State.hostMemChan (s : State) (m : Msg) : Prop := m.chan.toNat < s.queueCount ∨ m.chan.toNat = memChan

theorem State.queueCount_le (s : State) : s.queueCount ≤ 512 := by
  unfold State.queueCount
  split_ifs <;> decide

section
variable {s : State} {m : Msg}

theorem State.ackDue_of_early {k part chan : Nat} (h : ((s.chan k).expect - (s.chan k).told).toNat < 64) :
    s.ackDue k part chan = s := if_neg (Nat.not_le.mpr h)

/-- Whatever leaves the channels as they are after the next message was accepted, no acknowledgement follows. -/
theorem State.hears.ackDue {u : State} (h : s.hears m) (hu : u.chans = (s.accepts m).chans) {part chan : Nat} :
    u.ackDue (msgKey m) part chan = u := by
  obtain ⟨-, -, -, -, -, hearly, -, -⟩ := h
  have hc : u.chan (msgKey m) = (s.accepts m).chan (msgKey m) := congrArg (fun cs => Sparse.get Chan.reset cs (msgKey m)) hu
  refine State.ackDue_of_early ?_
  rw [hc, s.chan_accepts m]
  exact hearly

/-- The next message is accepted, and what it asks is done. -/
theorem State.hears.receiveNormal (h : s.hears m) (body : State → State) :
    s.receiveNormal m body = (body (s.accepts m)).ackDue (msgKey m) m.part.toNat m.chan.toNat := by
  obtain ⟨hok, hrec, hackv, hseq, hfrag, -, -, hreset⟩ := h
  have hbreak : (s.accepts m).breakRun (msgKey m) = s.accepts m := by
    refine if_pos ?_
    rw [s.chan_accepts m]
    exact List.isEmpty_iff.mpr hfrag
  have htake : s.takeAck (msgKey m) m = s := by
    rw [State.takeAck, hackv]
    rfl
  unfold State.receiveNormal State.receive State.sequenced
  rw [hrec, if_neg Bool.false_ne_true, if_pos hok, htake, hreset,
    if_neg (by simp), if_pos hseq]
  change (body ((s.accepts m).breakRun (msgKey m))).ackDue _ _ _ = _
  rw [hbreak]

/-- Such a message comes by the host port: a peer's channel is neither a queue nor the memory channel. -/
theorem State.hears.hostPort (h : s.hears m) (hc : s.hostMemChan m) : ¬ m.port.val < 8 := fun hport => by
  obtain ⟨hok, -⟩ := h
  rw [State.hostOk, if_pos hport, State.peerChanOk] at hok
  have hpeer : m.chan.toNat = peerChan := by
    simp only [Bool.and_eq_true, beq_iff_eq] at hok
    exact hok.1.2
  have hle := s.queueCount_le
  obtain hq | hq := hc
  · rw [hpeer, peerChan] at hq
    omega
  · exact absurd (hpeer.symm.trans hq) (by decide)

theorem State.hears.msgKey_eq (h : s.hears m) (hc : s.hostMemChan m) : msgKey m = chanKey m.part.toNat m.chan.toNat :=
  if_neg (h.hostPort hc)

/-- No queue is numbered as the memory channel. -/
theorem State.not_memChan_of_queue (hc : m.chan.toNat < s.queueCount) : m.chan.toNat ≠ memChan := by
  have hle := s.queueCount_le
  unfold memChan
  omega

/-! ### Held accesses (R375, R377, R417) -/

theorem State.hears.exec_write (h : s.hears m) (hc : s.hostMemChan m) :
    exec (.write m) s = .next (((s.accepts m).hostOrHold m true).ackDue (msgKey m) m.part.toNat m.chan.toNat) := by
  obtain ⟨-, -, -, -, -, -, hmgr, -⟩ := id h
  have hto : (s.accepts m).onQueue m = true ∨ (m.chan.toNat == memChan) = true :=
    hc.imp (fun hq => Bool.and_eq_true_iff.mpr ⟨decide_eq_true hmgr, decide_eq_true hq⟩) beq_iff_eq.mpr
  change execWrite m s = _
  rw [execWrite, h.receiveNormal, if_neg hmgr, if_pos (Bool.or_eq_true_iff.mpr hto)]

theorem State.hears.exec_readReq (h : s.hears m) (hc : m.chan.toNat < s.queueCount)
    (hlow : 1 ≤ (m.arg.extractLsb' 64 16).toNat) (hhigh : (m.arg.extractLsb' 64 16).toNat ≤ 8192) :
    exec (.readReq m) s = .next (((s.accepts m).hostOrHold m false).ackDue (msgKey m) m.part.toNat m.chan.toNat) := by
  obtain ⟨-, -, -, -, -, -, hmgr, -⟩ := id h
  have hqueue : (s.accepts m).onQueue m = true := Bool.and_eq_true_iff.mpr ⟨decide_eq_true hmgr, decide_eq_true hc⟩
  have hn : (msgSpan m false).2 = (m.arg.extractLsb' 64 16).toNat := rfl
  change execReadReq m s = _
  rw [execReadReq, h.receiveNormal, if_neg hmgr, hqueue, hn, decide_eq_true hlow, decide_eq_true hhigh]
  rfl

theorem State.hostHeld_accepts (wr : Bool) : (s.accepts m).hostHeld m wr = s.hostHeld m wr := rfl

/-- What holds an access of the host at its port. -/
theorem State.hostHeld_iff (hport : ¬ m.port.val < 8) (wr : Bool) :
    s.hostHeld m wr = true ↔ s.behindLink m wr = true ∨ s.copying m.part.toNat = true
      ∨ s.namesFlip m wr = true ∧ ¬ (wr = true ∧ s.writesBack m = true) := by
  simp only [State.hostHeld, Nat.le_of_not_lt hport, decide_true, Bool.true_and, Bool.or_eq_true, Bool.and_eq_true,
    Bool.not_eq_true', Bool.and_eq_false_iff, Bool.not_eq_true, not_and_or]

theorem State.copying_iff {part : Nat} :
    s.copying part = true ↔ (s.ckState = 1 ∨ s.ckState = 2) ∧ s.ckMask.getLsbD part = true := by
  simp only [State.copying, Bool.and_eq_true, Bool.or_eq_true, beq_iff_eq]

/-- A held access waits behind those held before it. -/
theorem State.hears.hold (h : s.hears m) {wr : Bool} (hh : s.hostHeld m wr = true) {part chan : Nat} :
    ((s.accepts m).hostOrHold m wr).ackDue (msgKey m) part chan
      = { s.accepts m with heldHost := s.heldHost ++ [(wr, m)] } := by
  rw [State.hostOrHold, State.hostHeld_accepts, if_pos hh]
  exact h.ackDue (u := { s.accepts m with heldHost := s.heldHost ++ [(wr, m)] }) rfl

/-- An access that nothing holds, with none held before it, runs. -/
theorem State.hostOrHold_open {wr : Bool} (hh : s.hostHeld m wr = false) (hnone : s.heldHost = []) :
    (s.accepts m).hostOrHold m wr = (s.accepts m).hostAccess m wr := by
  have hempty : (s.accepts m).heldHost = [] := hnone
  rw [State.hostOrHold, State.hostHeld_accepts, hh, if_neg Bool.false_ne_true, hempty, List.isEmpty_nil, if_pos rfl]

theorem State.hostAccess_eq (hport : ¬ m.port.val < 8) (wr : Bool) : ∃ r,
    s.hostAccess m wr = if wr then ({ s with selfRefresh := r } : State).hostWrite m.part.toNat (msgSpan m wr).1 m.payload
      else ({ s with selfRefresh := r } : State).hostRead m := by
  have hwake : ∃ r, (if s.selfRefresh == 0 then s else s.wakeHbm m.part.toNat (msgSpan m wr).1 (msgSpan m wr).2)
      = { s with selfRefresh := r } := by
    unfold State.wakeHbm
    split_ifs
    · exact ⟨s.selfRefresh, rfl⟩
    · exact ⟨_, rfl⟩
    · exact ⟨s.selfRefresh, rfl⟩
  obtain ⟨r, hr⟩ := hwake
  refine ⟨r, ?_⟩
  unfold State.hostAccess
  dsimp only
  rw [if_neg hport, hr]

end

/-! ### A write and a read of memory (R138, R365) -/

theorem runsOf_cons {p : Nat} {b : Byte} {rest : List (Nat × Byte)} {bs : List Byte} {more : List (Nat × List Byte)}
    (h : runsOf rest = (p + 1, bs) :: more) : runsOf ((p, b) :: rest) = (p, b :: bs) :: more := by
  rw [runsOf, h]
  exact if_pos rfl

/-- Bytes at consecutive places are one run. -/
theorem runsOf_consecutive (p : Nat) {bs : List Byte} (h : bs ≠ []) :
    runsOf ((List.range bs.length).map fun j => (p + j, bs.getD j 0)) = [(p, bs)] := by
  induction bs generalizing p with
  | nil => exact absurd rfl h
  | cons b t ih =>
    rw [List.length_cons, List.range_succ_eq_map, List.map_cons, List.map_map]
    have htail : ((fun j => (p + j, (b :: t).getD j 0)) ∘ Nat.succ) = fun j => (p + 1 + j, t.getD j 0) := by
      funext j
      simp [Nat.add_assoc, Nat.add_comm 1]
    rw [htail]
    by_cases ht : t = []
    · subst ht
      rfl
    · exact runsOf_cons (ih (p + 1) ht)

theorem filterMap_eq_map_of_some {α β : Type} {f : α → Option β} {g : α → β} {xs : List α} (h : ∀ x ∈ xs, f x = some (g x)) :
    xs.filterMap f = xs.map g := by
  rw [List.filterMap_congr h]
  exact congrFun List.filterMap_eq_map xs

section
variable {s : State} {part a p : Nat}

/-- A host write to memory at consecutive places is a store there. -/
theorem State.hostWrite_memory {bs : List Byte} (hne : bs ≠ []) (h : ∀ j, j < bs.length → s.hostLoc part (a + j) = .memory (p + j)) :
    s.hostWrite part a bs = (s.yieldRows [⟨p, bs.length, true⟩]).write p bs := by
  have hcells : s.hostCells part a bs = (List.range bs.length).map fun j => (HostLoc.memory (p + j), bs.getD j 0) :=
    List.map_congr_left fun j hj => by rw [h j (List.mem_range.mp hj)]
  unfold State.hostWrite
  dsimp only
  rw [hcells, List.filterMap_map, filterMap_eq_map_of_some (g := fun j => (p + j, bs.getD j 0)), List.filter_eq_nil_iff.mpr,
    runsOf_consecutive p hne]
  · exact if_pos rfl
  · rintro _ hx
    obtain ⟨j, -, rfl⟩ := List.mem_map.mp hx
    exact Bool.false_ne_true
  · exact fun _ _ => rfl

theorem State.hostWrite_nil : s.hostWrite part a [] = s := rfl

/-- What a host write to plain memory does to a byte outside the lofts; it leaves the channels alone. -/
theorem State.hostWrite_spec {bs : List Byte}
    (h : ∀ j, j < bs.length → s.hostLoc part (a + j) = .memory (p + j) ∧ isLoft (p + j) = false) :
    (∀ x, isLoft x = false → (s.hostWrite part a bs).byteAt x
        = if p ≤ x ∧ x < p + bs.length then bs.getD (x - p) 0 else s.byteAt x)
      ∧ (s.hostWrite part a bs).chans = s.chans := by
  by_cases hne : bs = []
  · subst hne
    rw [State.hostWrite_nil]
    exact ⟨fun x _ => (if_neg fun hx => Nat.not_lt.mpr hx.1 hx.2).symm, rfl⟩
  · obtain ⟨rows, hrows⟩ := s.yieldRows_eq [⟨p, bs.length, true⟩]
    rw [State.hostWrite_memory hne fun j hj => (h j hj).1, State.write_chans, hrows]
    refine ⟨fun x hx => ?_, rfl⟩
    rw [State.byteAt_write_of_not_loft _ (fun j hj => (h j hj).2) hx]
    rfl

/-- A host read that meets no poisoned line logs none. -/
theorem State.hostPoison_of_clean {n : Nat} (h : ∀ j, j < n → s.hostLoc part (a + j) = .memory (p + j))
    (hclean : ∀ j, j < n → s.poisoned (p + j) 1 = false) : s.hostPoison part a n = s := by
  have hnone : ((List.range n).map fun j => p + j).filter (fun q => s.poisoned q 1) = [] := by
    rw [List.filter_eq_nil_iff]
    intro q hq
    obtain ⟨j, hj, rfl⟩ := List.mem_map.mp hq
    rw [hclean j (List.mem_range.mp hj)]
    exact Bool.false_ne_true
  unfold State.hostPoison
  dsimp only
  rw [filterMap_eq_map_of_some (g := fun j => p + j) fun j hj => by rw [h j (List.mem_range.mp hj)], hnone]
  rfl

end

section
variable {s : State} {m : Msg} {p : Nat}

/-- A write that nothing holds puts its bytes into memory, and changes no channel but by its acceptance. -/
theorem State.hears.write (h : s.hears m) (hc : s.hostMemChan m) (hh : s.hostHeld m true = false) (hnone : s.heldHost = [])
    (hplain : ∀ j, j < m.payload.length →
      s.hostLoc m.part.toNat ((m.arg.extractLsb' 0 64).toNat + j) = .memory (p + j) ∧ isLoft (p + j) = false) :
    ∃ u, exec (.write m) s = .next u ∧ u.chans = (s.accepts m).chans ∧ ∀ x, isLoft x = false →
      u.byteAt x = if p ≤ x ∧ x < p + m.payload.length then m.payload.getD (x - p) 0 else s.byteAt x := by
  obtain ⟨r, hr⟩ := (s.accepts m).hostAccess_eq (h.hostPort hc) true
  obtain ⟨hbytes, hchans⟩ := State.hostWrite_spec (s := { s.accepts m with selfRefresh := r }) (bs := m.payload) hplain
  refine ⟨_, ?_, hchans, hbytes⟩
  rw [h.exec_write hc, State.hostOrHold_open hh hnone, hr]
  exact congrArg _ (h.ackDue hchans)

theorem State.ackDue_of_told {k part chan : Nat} (h : (s.chan k).told = (s.chan k).expect) : s.ackDue k part chan = s :=
  State.ackDue_of_early (by rw [h, BitVec.sub_self]; decide)

theorem State.emit_of_plain {part chan : Nat} {ty : BitVec 8} {arg : BitVec 96} {bs : List Byte}
    (hty : (ty == mtCompletion || ty == mtLoadDone) = false) :
    s.emit part chan ty arg bs = s.sendSeq (chanKey part chan) part chan ty arg bs 0 := by
  rw [State.emit, hty, Bool.and_false]
  rfl

/-- A message sent on a channel with room goes out at once and acknowledges all that was accepted. -/
theorem State.sendSeq_answer {k part chan tag : Nat} {ty : BitVec 8} {arg : BitVec 96} {bs : List Byte}
    (h : (s.chan k).unacked.length < 1024) (hq : (s.chan k).queued = []) :
    (s.sendSeq k part chan ty arg bs tag).sent
        = s.sent ++ [⟨ty, part, chan, (s.chan k).next, (s.chan k).expect, arg, bs, tag, portOf k⟩]
      ∧ (s.sendSeq k part chan ty arg bs tag).mem = s.mem
      ∧ (s.sendSeq k part chan ty arg bs tag).ackDue k part chan = s.sendSeq k part chan ty arg bs tag := by
  have hc (u : State) (x : List OutMsg) (c : Chan) : ({ u.setChan k c with sent := x } : State).chan k = c := State.chan_setChan u k c
  refine ⟨s.sendSeq_sent k part chan ty arg bs tag h hq, State.sendSeq_mem .., State.ackDue_of_told ?_⟩
  rw [State.sendSeq, if_pos (by simp [h, hq]), hc]

/-- The bytes a read of the host is answered with. -/
def State.respBytes (s : State) (m : Msg) : List Byte :=
  (List.range (m.arg.extractLsb' 64 16).toNat).map fun k => s.hostByte m.part.toNat ((m.arg.extractLsb' 0 64).toNat + k) k

/-- The answer to a read of the host: it carries the number of the request. -/
def State.readResp (s : State) (m : Msg) : OutMsg :=
  let c := (s.accepts m).chan (msgKey m)
  ⟨0x03, m.part.toNat, m.chan.toNat, c.next, c.expect, m.seq.zeroExtend 96, s.respBytes m, 0, portOf (msgKey m)⟩

section
variable
  (hmem : ∀ j, j < (m.arg.extractLsb' 64 16).toNat →
    s.hostLoc m.part.toNat ((m.arg.extractLsb' 0 64).toNat + j) = .memory (p + j))
  (hclean : ∀ j, j < (m.arg.extractLsb' 64 16).toNat → s.poisoned (p + j) 1 = false)
include hmem hclean

/-- A read of memory without poison logs nothing. -/
theorem State.hostRead_clean : s.hostRead m
    = ({ s with turn := s.turn + (m.arg.extractLsb' 64 16).toNat } : State).sendSeq (chanKey m.part.toNat m.chan.toNat) m.part.toNat
        m.chan.toNat 0x03 (m.seq.zeroExtend 96) (s.respBytes m) 0 := by
  unfold State.hostRead
  dsimp only
  rw [State.hostPoison_of_clean (s := { s with turn := s.turn + (m.arg.extractLsb' 64 16).toNat }) hmem hclean, State.emit_of_plain (by decide)]
  rfl

/-- A read that nothing holds, of memory without poison, on a channel with room, is answered at once. -/
theorem State.hears.read (h : s.hears m) (hc : m.chan.toNat < s.queueCount) (hh : s.hostHeld m false = false)
    (hnone : s.heldHost = []) (hlow : 1 ≤ (m.arg.extractLsb' 64 16).toNat) (hhigh : (m.arg.extractLsb' 64 16).toNat ≤ 8192)
    (hacked : (s.chan (msgKey m)).unacked = []) (hqueued : (s.chan (msgKey m)).queued = []) :
    ∃ u, exec (.readReq m) s = .next u ∧ u.sent = s.sent ++ [s.readResp m] ∧ u.mem = s.mem := by
  obtain ⟨r, hr⟩ := (s.accepts m).hostAccess_eq (h.hostPort (.inl hc)) false
  have hchan := s.chan_accepts m
  have hroom : ((s.accepts m).chan (msgKey m)).unacked.length < 1024 := by
    rw [hchan, hacked]
    decide
  have hempty : ((s.accepts m).chan (msgKey m)).queued = [] := by rw [hchan, hqueued]
  have hread := State.hostRead_clean (s := { s.accepts m with selfRefresh := r }) hmem hclean
  rw [← h.msgKey_eq (.inl hc)] at hread
  obtain ⟨hsent, hsame, hdue⟩ := State.sendSeq_answer
    (s := { s.accepts m with selfRefresh := r, turn := s.turn + (m.arg.extractLsb' 64 16).toNat }) (part := m.part.toNat)
    (chan := m.chan.toNat) (tag := 0) (ty := 0x03) (arg := m.seq.zeroExtend 96) (bs := s.respBytes m) hroom hempty
  refine ⟨_, ?_, hsent, hsame⟩
  rw [h.exec_readReq hc hlow hhigh, State.hostOrHold_open hh hnone, hr, if_neg Bool.false_ne_true, hread]
  exact congrArg _ hdue

/-- The bytes of the answer are those of memory. -/
theorem State.respBytes_memory {j : Nat} (hj : j < (m.arg.extractLsb' 64 16).toNat) : (s.respBytes m).getD j 0 = s.byteAt (p + j) := by
  have hbyte (k : Nat) : s.hostByte m.part.toNat ((m.arg.extractLsb' 0 64).toNat + j) k = s.byteAt (p + j) := by
    rw [State.hostByte, hmem j hj]
    exact if_neg (Bool.eq_false_iff.mp (hclean j hj))
  rw [State.respBytes, List.getD_eq_getElem _ _ (by simpa using hj), List.getElem_map, List.getElem_range, hbyte]

end

end

/-! ### Doorbells (R322, R338, R373) -/

theorem State.putRecs_queues (s : State) (i : Nat) (rs : List JRec) : (s.putRecs i rs).queues = s.queues := by
  induction rs generalizing s i with
  | nil => rfl
  | cons r rs ih => rw [State.putRecs, ih, State.write_queues]

theorem State.follow_queues (s : State) : s.follow.queues = s.queues := by
  unfold State.follow
  split_ifs
  · exact s.write_queues _ _
  · rfl

theorem State.batch_queues {s u : State} {rs : List JRec} (h : s.batch rs = some u) : u.queues = s.queues := by
  unfold State.batch at h
  split_ifs at h
  obtain rfl := Option.some.inj h
  exact (State.follow_queues _).trans (State.putRecs_queues _ _ _)

/-- What a doorbell sets in a queue. -/
def Queue.bell (q : Queue) : BitVec 32 × Bool := (q.wr, q.kick)

theorem State.bell_setQueue {s : State} {p q : Nat} {x : Queue} (h : x.bell = (s.queue p q).bell) (p' q' : Nat) :
    ((s.setQueue p q x).queue p' q').bell = (s.queue p' q').bell := by
  by_cases hk : 512 * p' + q' = 512 * p + q
  · rw [State.queue, State.queue, hk]
    exact (congrArg Queue.bell (State.queue_setQueue s p q x)).trans h
  · exact congrArg Queue.bell (Sparse.get_set_ne _ _ _ hk)

/-- Testing a waiting graph leaves WR and KICK of every queue. -/
theorem State.bell_testGraph (s : State) (k p q : Nat) : ((s.testGraph k).queue p q).bell = (s.queue p q).bell := by
  unfold State.testGraph
  dsimp only
  split
  · rfl
  next g _ =>
    split
    · split
      · rfl
      · split
        · rfl
        next u hu =>
          have hqueue (i j : Nat) : u.queue i j = s.queue i j :=
            congrArg (fun qs => Sparse.get Queue.reset qs (512 * i + j)) (State.batch_queues hu)
          split
          · exact (State.bell_setQueue (s := { u with graphs := _ }) (x := { s.queue g.part g.queue with st := .active })
              (congrArg Queue.bell (hqueue g.part g.queue).symm :) p q).trans (congrArg Queue.bell (hqueue p q))
          · exact congrArg Queue.bell (hqueue p q)
    · rfl

theorem State.bell_testGraphs (s : State) (part p q : Nat) : ((s.testGraphs part).queue p q).bell = (s.queue p q).bell :=
  List.foldlRecOn (motive := fun u : State => (u.queue p q).bell = (s.queue p q).bell) _ _ rfl
    fun u hu e _ => (u.bell_testGraph e.1 p q).trans hu

theorem State.ackDue_queues (s : State) (k part chan : Nat) : (s.ackDue k part chan).queues = s.queues := by
  unfold State.ackDue
  dsimp only
  split_ifs
  · rfl
  · rfl

section
variable {s : State} {m : Msg}

theorem State.hears.doorbell (h : s.hears m) (hc : m.chan.toNat < s.queueCount) (hlive : (s.part m.part.toNat).failed = false) :
    ∃ u, exec (.doorbell m) s = .next u ∧ (u.queue m.part.toNat m.chan.toNat).bell = (m.arg.extractLsb' 0 32, true) := by
  obtain ⟨-, -, -, -, -, -, hmgr, -⟩ := id h
  have hqueue : (s.accepts m).onQueue m = true := Bool.and_eq_true_iff.mpr ⟨decide_eq_true hmgr, decide_eq_true hc⟩
  have hfailed : ((s.accepts m).part m.part.toNat).failed = false := hlive
  refine ⟨_, congrArg Host.Outcome.next (h.receiveNormal _), ?_⟩
  dsimp only
  rw [hqueue, hfailed, State.queue, State.ackDue_queues]
  refine (State.bell_testGraphs _ m.part.toNat m.part.toNat m.chan.toNat).trans ?_
  rw [State.queue_setQueue]
  rfl

theorem State.hears.doorbell_failed (h : s.hears m) (hc : m.chan.toNat < s.queueCount) (hfail : (s.part m.part.toNat).failed = true) :
    exec (.doorbell m) s = .next (s.accepts m) := by
  obtain ⟨-, -, -, -, -, -, hmgr, -⟩ := id h
  have hqueue : (s.accepts m).onQueue m = true := Bool.and_eq_true_iff.mpr ⟨decide_eq_true hmgr, decide_eq_true hc⟩
  have hfailed : ((s.accepts m).part m.part.toNat).failed = true := hfail
  change execDoorbell m s = _
  rw [execDoorbell, h.receiveNormal]
  dsimp only
  rw [hqueue, hfailed]
  exact congrArg _ (h.ackDue rfl)

/-! ### Answers on the memory channel (R138, R365) -/

/-- The latest message of the memory channel with a number and a tag is the one its answer names. -/
theorem State.asked_of_latest {ty : BitVec 8} {part : Nat} {seq : BitVec 48} {x : OutMsg} {old new : List OutMsg}
    (hsent : s.sent = old ++ x :: new) (hx : x.type = ty ∧ x.part = part ∧ x.chan = memChan ∧ x.seq = seq ∧ x.tag ≠ 0)
    (hnew : ∀ y ∈ new, ¬ (y.type = ty ∧ y.part = part ∧ y.chan = memChan ∧ y.seq = seq ∧ y.tag ≠ 0)) :
    s.asked ty part seq = some x := by
  have hmatch (y : OutMsg) : (y.type == ty && y.part == part && y.chan == memChan && y.seq == seq && y.tag != 0) = true
      ↔ y.type = ty ∧ y.part = part ∧ y.chan = memChan ∧ y.seq = seq ∧ y.tag ≠ 0 := by
    simp only [Bool.and_eq_true, beq_iff_eq, bne_iff_ne, and_assoc]
  rw [State.asked, List.find?_eq_some_iff_append]
  refine ⟨(hmatch x).mpr hx, new.reverse, old.reverse, by simp [hsent], fun y hy => ?_⟩
  rw [Bool.not_eq_true', ← Bool.not_eq_true, hmatch]
  exact hnew y (List.mem_reverse.mp hy)

/-- A message that an answer names carries a tag. -/
theorem State.tag_ne_zero_of_asked {ty : BitVec 8} {part : Nat} {seq : BitVec 48} {x : OutMsg} (h : s.asked ty part seq = some x) :
    x.tag ≠ 0 := by
  have hx := List.find?_some h
  simp only [Bool.and_eq_true, bne_iff_ne] at hx
  exact hx.2

end

theorem Core.answer_reset {tag : Nat} (htag : tag ≠ 0) (bs : List Byte) : Core.reset.answer tag bs = Core.reset := by
  have hfill : (0 == tag) = false := beq_false_of_ne htag.symm
  simp [Core.answer, Context.answer, Core.reset, Context.reset, hfill]

/-- The bytes of an answer are given to every core. -/
theorem State.core_answer (s : State) {tag : Nat} (htag : tag ≠ 0) (bs : List Byte) (core : Nat) :
    Sparse.get Core.reset (s.cores.map fun e => (e.1, e.2.answer tag bs)) core = (s.core core).answer tag bs := by
  have h := Sparse.get_map (Core.answer tag bs) Core.reset s.cores core
  rw [Core.answer_reset htag] at h
  exact h

/-- The bytes of an answer are given to every bank that asked for them. -/
def State.answers (s : State) (tag : Nat) (bs : List Byte) : State :=
  { s with cores := s.cores.map fun e => (e.1, e.2.answer tag bs)
           saved := s.saved.map fun e => (e.1, e.2.map fun c => c.answer tag bs) }

theorem Entry.answer_of_msg {e : Entry} {tag : Nat} (htag : tag ≠ 0) (h : e.msg = tag) (bs : List Byte) :
    e.answer tag bs = { e with msg := 0, got := e.got ++ bs } :=
  if_pos (by simp [h, htag])

section
variable {s : State} {m : Msg} {x : OutMsg}

/-- The bytes the host read go to the accesses that asked for them. -/
theorem State.hears.devReadResp (h : s.hears m) (hc : m.chan.toNat = memChan)
    (hx : s.asked mtDevRead m.part.toNat (m.arg.extractLsb' 0 48) = some x) :
    ∃ u, exec (.devReadResp m) s = .next u ∧ u.mem = s.mem ∧ ∀ core, u.bank core = (s.bank core).answer x.tag m.payload := by
  obtain ⟨-, -, -, -, -, -, hmgr, -⟩ := id h
  have hasked : (s.accepts m).asked mtDevRead m.part.toNat (m.arg.extractLsb' 0 48) = some x := hx
  have htag := State.tag_ne_zero_of_asked hx
  refine ⟨(s.accepts m).answers x.tag m.payload, ?_, rfl, fun core => ?_⟩
  · change execDevReadResp m s = _
    rw [execDevReadResp, h.receiveNormal, decide_eq_false hmgr, hc, hasked]
    exact congrArg _ (h.ackDue (u := (s.accepts m).answers x.tag m.payload) rfl)
  · exact congrArg Core.bank (s.core_answer htag m.payload core)

/-! ### The end of a flip (R139, R375) -/

/-- Storing the bias of a page changes neither the flips nor the accesses held. -/
theorem State.foldl_setBias_flips (s : State) (xs : List (Nat × Nat)) (host : Bool) :
    (xs.foldl (fun u x => u.setBias x.1 host) s).flips = s.flips
      ∧ (xs.foldl (fun u x => u.setBias x.1 host) s).heldHost = s.heldHost :=
  List.foldlRecOn (motive := fun u : State => u.flips = s.flips ∧ u.heldHost = s.heldHost) _ _ ⟨rfl, rfl⟩
    fun u hu _ _ => ⟨(u.write_flips _ _).trans hu.1, (u.write_heldHost _ _).trans hu.2⟩

theorem State.releaseHost_flips (h : s.heldHost = []) : s.releaseHost.flips = s.flips := by
  unfold State.releaseHost
  rw [h]
  rfl

/-- The only flip ends. -/
theorem State.finishFlip_flips {f : Flip} (hflips : s.flips = [f]) (hnone : s.heldHost = []) : (s.finishFlip f).flips = [] := by
  obtain ⟨hbias, hheld⟩ := State.foldl_setBias_flips (State.dropFetched { s with flips := s.flips.erase f })
    ((State.dropFetched { s with flips := s.flips.erase f }).leavesOf f.part f.page) f.host
  have hended : (State.dropFetched { s with flips := s.flips.erase f }).flips = [] := by
    change s.flips.erase f = []
    rw [hflips, List.erase_cons_head]
  unfold State.finishFlip
  dsimp only
  rw [State.emit_flips, hbias, hended, List.find?_nil]
  dsimp only
  rw [State.releaseHost_flips (by rw [State.emit_heldHost, hheld]; exact hnone), State.emit_flips, hbias, hended]

theorem State.ackDue_flips (s : State) (k part chan : Nat) : (s.ackDue k part chan).flips = s.flips := by
  unfold State.ackDue
  dsimp only
  split_ifs
  · rfl
  · rfl

theorem State.hears.flushDone {f : Flip} (h : s.hears m) (hc : m.chan.toNat = memChan)
    (hx : s.asked mtFlush m.part.toNat (m.arg.extractLsb' 0 48) = some x) (hflips : s.flips = [f]) (hpart : f.part = m.part.toNat)
    (hst : f.st = .flushing) (hmsg : f.msg = x.tag) (hnone : s.heldHost = []) :
    ∃ u, exec (.flushDone m) s = .next u ∧ u.flips = [] := by
  obtain ⟨-, -, -, -, -, -, hmgr, -⟩ := id h
  have hasked : (s.accepts m).asked mtFlush m.part.toNat (m.arg.extractLsb' 0 48) = some x := hx
  have hfind : (s.accepts m).flips.find? (fun f => f.part == m.part.toNat && f.st == .flushing && f.msg == x.tag) = some f := by
    change s.flips.find? _ = _
    rw [hflips, List.find?_cons_of_pos]
    simp [hpart, hst, hmsg]
  refine ⟨_, congrArg Host.Outcome.next (h.receiveNormal _), ?_⟩
  dsimp only
  rw [State.ackDue_flips, decide_eq_false hmgr, hc, hasked]
  dsimp only
  rw [hfind]
  exact State.finishFlip_flips (s := s.accepts m) hflips hnone

end

/-- Settles O58, from what the acceptance of a message, an access of the host, a doorbell and an answer each do. -/
theorem hostMemory : Obligations.HostMemory := by
  unfold Obligations.HostMemory
  intro s m p k c part a n took early heard copied unheld held plain
  have hholds (h : s.hears m) (hc : s.hostMemChan m) (wr : Bool) : s.hostHeld m wr = true ↔ s.behindLink m wr = true ∨ copied
      ∨ s.namesFlip m wr = true ∧ ¬ (wr = true ∧ s.writesBack m = true) := by
    rw [State.hostHeld_iff (h.hostPort hc), State.copying_iff]
  have hopen (h : s.hears m) (hc : s.hostMemChan m) {wr : Bool} (ho : unheld wr)
      (hf : s.namesFlip m wr = false ∨ wr = true ∧ s.writesBack m = true) : s.hostHeld m wr = false := by
    obtain ⟨hcopy, hlink, -⟩ := ho
    rw [← Bool.not_eq_true, hholds h hc, hlink]
    rintro (h | h | ⟨hflip, hback⟩)
    · exact Bool.false_ne_true h
    · exact hcopy h
    · exact hf.elim (fun hf => Bool.false_ne_true (hf.symm.trans hflip)) hback
  have hloc {len : Nat} (hp : plain len) :
      ∀ j, j < len → s.hostLoc part (a + j) = .memory (p + j) ∧ isLoft (p + j) = false := fun j hj => by
    obtain ⟨hmem, hloft, -⟩ := hp j hj
    exact ⟨hmem, hloft⟩
  have hwrite (h : s.hears m) (hc : s.hostMemChan m) (hh : s.hostHeld m true = true) : exec (.write m) s = held true := by
    rw [h.exec_write hc, h.hold hh]
    rfl
  have hread (h : s.hears m) (hc : m.chan.toNat < s.queueCount) (hlow : 1 ≤ n) (hhigh : n ≤ 8192) (hh : s.hostHeld m false = true) :
      exec (.readReq m) s = held false := by
    rw [h.exec_readReq hc hlow hhigh, h.hold hh]
    rfl
  refine ⟨?write, ?read, ?writeFlip, ?readFlip, ?memFlip, ?writeWaits, ?readWaits, ?memWrite, ?bell, ?bellFailed, ?answer, ?flush, ?asked⟩
  case write =>
    intro h hc ho hf hp
    obtain ⟨-, -, hnone⟩ := id ho
    obtain ⟨u, hu, hchans, hbytes⟩ := State.hears.write h (.inl hc) (hopen h (.inl hc) ho (.inl hf)) hnone (hloc hp)
    refine ⟨u, hu, fun j hj => ?_, fun x hx hout => ?_, hchans⟩
    · rw [hbytes _ (hloc hp j hj).2, if_pos ⟨Nat.le_add_right p j, Nat.add_lt_add_left hj p⟩, Nat.add_sub_cancel_left]
    · rw [hbytes x hx, if_neg (by omega)]
  case read =>
    intro h hc ho hf hlow hhigh hp hclean hacked hqueued
    obtain ⟨-, -, hnone⟩ := id ho
    have hmem : ∀ j, j < n → s.hostLoc part (a + j) = .memory (p + j) := fun j hj => (hloc hp j hj).1
    obtain ⟨u, hu, hsent, hsame⟩ := State.hears.read hmem hclean h hc (hopen h (.inl hc) ho (.inl hf)) hnone hlow hhigh hacked hqueued
    refine ⟨u, s.readResp m, hu, hsent, rfl, rfl, rfl, ?_, hsame, fun j hj => State.respBytes_memory hmem hclean hj⟩
    change (s.respBytes m).length = n
    rw [State.respBytes, List.length_map, List.length_range]
  case writeFlip =>
    intro h hc hf
    have hback : s.writesBack m = false := by rw [State.writesBack, beq_false_of_ne (State.not_memChan_of_queue hc)]; rfl
    exact hwrite h (.inl hc) ((hholds h (.inl hc) true).mpr (.inr (.inr ⟨hf, fun hb => Bool.false_ne_true (hback.symm.trans hb.2)⟩)))
  case readFlip =>
    intro h hc hlow hhigh hf
    exact hread h hc hlow hhigh ((hholds h (.inl hc) false).mpr (.inr (.inr ⟨hf, fun hb => Bool.false_ne_true hb.1⟩)))
  case memFlip =>
    intro h hc hf hback
    exact hwrite h (.inr hc) ((hholds h (.inr hc) true).mpr (.inr (.inr ⟨hf, fun hb => Bool.false_ne_true (hback.symm.trans hb.2)⟩)))
  case writeWaits =>
    intro h hc hw
    exact hwrite h hc ((hholds h hc true).mpr (hw.elim (fun hw => .inr (.inl hw)) .inl))
  case readWaits =>
    intro h hc hlow hhigh hw
    exact hread h hc hlow hhigh ((hholds h (.inl hc) false).mpr (hw.elim (fun hw => .inr (.inl hw)) .inl))
  case memWrite =>
    intro h hc ho hf hp
    obtain ⟨-, -, hnone⟩ := id ho
    obtain ⟨u, hu, -, hbytes⟩ := State.hears.write h (.inr hc) (hopen h (.inr hc) ho (hf.imp_right fun hb => ⟨rfl, hb⟩)) hnone
      (hloc hp)
    refine ⟨u, hu, fun j hj => ?_⟩
    rw [hbytes _ (hloc hp j hj).2, if_pos ⟨Nat.le_add_right p j, Nat.add_lt_add_left hj p⟩, Nat.add_sub_cancel_left]
  case bell =>
    intro h hc hlive
    obtain ⟨u, hu, hbell⟩ := State.hears.doorbell h hc hlive
    exact ⟨u, hu, congrArg Prod.fst hbell, congrArg Prod.snd hbell⟩
  case bellFailed => exact fun h hc hfail => State.hears.doorbell_failed h hc hfail
  case answer =>
    intro x core h hc hx
    obtain ⟨u, hu, hmem, hbank⟩ := State.hears.devReadResp h hc hx
    refine ⟨u, hu, fun j e he hmsg => ⟨_, ?_, rfl⟩, hmem⟩
    rw [hbank core, Context.answer, List.getElem?_map, he, Option.map_some,
      Entry.answer_of_msg (State.tag_ne_zero_of_asked hx) hmsg]
  case flush => exact fun x f h hc hx hflips hpart hst hmsg hnone => State.hears.flushDone h hc hx hflips hpart hst hmsg hnone
  case asked =>
    exact fun ty x old new hsent hty hpart hchan hseq htag hnew => State.asked_of_latest hsent ⟨hty, hpart, hchan, hseq, htag⟩ hnew

end Sys2Proof.Machine
end

section
/-!
SUPPORT. The decoder undoes the encoder of control-core instructions, field by field and format by format (O5).
-/

namespace Sys2Proof

/-! ### Fields of a word put together from its parts -/

section
variable {v w k l : Nat} (x : BitVec v) (y : BitVec w)

/- The width of the whole is not indexed: the model writes it as one number, not as a sum. -/
theorem extract_append_high (h : w ≤ k) :
    BitVec.extractLsb' (n := no_index (v + w)) k l (@HAppend.hAppend _ _ (no_index _) _ x y) = x.extractLsb' (k - w) l :=
  BitVec.extractLsb'_append_eq_of_le h

theorem extract_append_low (h : k + l ≤ w) :
    BitVec.extractLsb' (n := no_index (v + w)) k l (@HAppend.hAppend _ _ (no_index _) _ x y) = y.extractLsb' k l :=
  BitVec.extractLsb'_append_eq_of_add_le h

theorem bit_append_high (h : w ≤ k) :
    BitVec.getLsbD (w := no_index (v + w)) (@HAppend.hAppend _ _ (no_index _) _ x y) k = x.getLsbD (k - w) :=
  BitVec.getLsbD_append.trans (if_neg (Nat.not_lt.mpr h))

theorem bit_append_low (h : k < w) :
    BitVec.getLsbD (w := no_index (v + w)) (@HAppend.hAppend _ _ (no_index _) _ x y) k = y.getLsbD k :=
  BitVec.getLsbD_append.trans (if_pos h)

end

@[simp] theorem bit_getLsbD_zero (b : Bool) : (bit b).getLsbD 0 = b := by cases b <;> rfl

@[simp] theorem Word0.of_pack (f : Word0) : Word0.of f.pack = f := by
  simp [Word0.of, Word0.pack, extract_append_high, extract_append_low]

@[simp] theorem Word0.of_w0 (maj fn : Nat) (a b c : BitVec 6) :
    Word0.of (w0 maj a b c fn) = ⟨BitVec.ofNat 7 maj, a, b, c, BitVec.ofNat 7 fn⟩ := Word0.of_pack _

section
variable (p : PReg) (sf : Bool) (ov : BitVec 2) (tf : BitVec 6) (rm : BitVec 3) (extra : BitVec 17)

@[simp] theorem cvPred_cv : cvPred (cv p sf ov tf rm extra) = p := by
  simp [cvPred, cv, extract_append_high]

@[simp] theorem cvSf_cv : cvSf (cv p sf ov tf rm extra) = sf := by
  simp [cvSf, cv, bit_append_high, bit_append_low, -BitVec.getLsbD_eq_getElem]

@[simp] theorem cvOv_cv : cvOv (cv p sf ov tf rm extra) = ov := by
  simp [cvOv, cv, extract_append_high, extract_append_low]

@[simp] theorem cvTf_cv : cvTf (cv p sf ov tf rm extra) = tf := by
  simp [cvTf, cv, extract_append_high, extract_append_low]

@[simp] theorem cvRm_cv : cvRm (cv p sf ov tf rm extra) = rm := by
  simp [cvRm, cv, extract_append_high, extract_append_low]

theorem extract_cv {k l : Nat} (h : k + l ≤ 17) : (cv p sf ov tf rm extra).extractLsb' k l = extra.extractLsb' k l :=
  extract_append_low _ _ h

@[simp] theorem cvX_cv : cvX (cv p sf ov tf rm extra) = extra := by
  rw [cvX, extract_cv _ _ _ _ _ _ (by decide), BitVec.extractLsb'_eq_self]

theorem bit_cv {k : Nat} (h : k < 17) : (cv p sf ov tf rm extra).getLsbD k = extra.getLsbD k :=
  bit_append_low _ _ h

end

/-! ### Codes of the small fields -/

@[simp] theorem xreg_code (r : XReg) : xreg r.code = .ok r := by
  revert r
  rintro (i | i) <;> revert i <;> decide

@[simp] theorem vreg_vcode (v : VReg) : vreg (vcode v) = .ok v := by revert v; decide
@[simp] theorem preg_pcode (p : PReg) : preg (pcode p) = .ok p := by revert p; decide
@[simp] theorem dreg_dcode (d : DReg) : dreg (dcode d) = .ok d := by revert d; decide
@[simp] theorem genOf_gcode (g : Gen) : genOf (gcode g) = .ok g := by revert g; decide
@[simp] theorem hndOf_hcode (h : Hnd) : hndOf (hcode h) = .ok h := by revert h; decide
@[simp] theorem orderOf_code (o : Order) : orderOf o.code = o := by cases o <;> rfl
@[simp] theorem scopeOf_code (s : Scope) : scopeOf s.code = .ok s := by cases s <;> rfl
@[simp] theorem rmOf_code (r : Rm) : rmOf r.code = .ok r := by cases r <;> rfl
@[simp] theorem ovfOf_code (o : Ovf) : ovfOf o.code = o := by cases o <;> rfl
@[simp] theorem sizeOf2_code (z : Size) : sizeOf2 z.code = z := by cases z <;> rfl
@[simp] theorem satOf_code (s : Sat) : satOf s.code = .ok s := by cases s <;> rfl
@[simp] theorem transpOf_code (t : Transp) : transpOf t.code = .ok t := by cases t <;> rfl
@[simp] theorem extOf_code (n : ExtWidth) : extOf n.code = .ok n := by cases n <;> rfl

theorem decoded_bind {α β : Type} (x : α) (f : α → Except Reject β) : ((.ok x : Except Reject α) >>= f) = f x := rfl

theorem ensure_true (r : Reject) : ensure true r = .ok () := rfl

/-! ### Bytes and words -/

theorem word32_bytes32 (w : Half) :
    word32 (w.extractLsb' 0 8) (w.extractLsb' 8 8) (w.extractLsb' 16 8) (w.extractLsb' 24 8) = w := by
  unfold word32
  rw [BitVec.extractLsb'_append_extractLsb'_eq_extractLsb' (start₂ := 24) (start₁ := 16) rfl,
    BitVec.extractLsb'_append_extractLsb'_eq_extractLsb' (start₂ := 16) (start₁ := 8) rfl]
  exact (BitVec.extractLsb'_append_extractLsb'_eq_extractLsb' (start₂ := 8) (start₁ := 0) rfl).trans BitVec.extractLsb'_eq_self

theorem takeWords_bytes32 (n : Nat) (w : Half) (bs : List Byte) :
    takeWords (n + 1) (bytes32 w ++ bs) = w :: takeWords n bs :=
  congrArg (· :: takeWords n bs) (word32_bytes32 w)

theorem takeWords_flatMap (ws : List Half) (n : Nat) (bs : List Byte) :
    takeWords (ws.length + n) (ws.flatMap bytes32 ++ bs) = ws ++ takeWords n bs := by
  induction ws with
  | nil => rw [List.length_nil, Nat.zero_add]; rfl
  | cons w ws ih =>
    rw [List.flatMap_cons, List.append_assoc, List.length_cons, Nat.add_right_comm, takeWords_bytes32, ih]
    rfl

theorem length_flatMap_bytes32 (ws : List Half) : (ws.flatMap bytes32).length = 4 * ws.length := by
  induction ws with
  | nil => rfl
  | cons w ws ih =>
    rw [List.flatMap_cons, List.length_append, ih, List.length_cons, Nat.mul_succ, Nat.add_comm]
    rfl

theorem lengthOf_le (f : Word0) : lengthOf f ≤ 4 := by
  unfold lengthOf
  split <;> (try split) <;> decide

/-- What follows the words of an instruction is not read. -/
theorem ite_getD_append (ws more : List Half) (k : Nat) :
    (if k + 2 ≤ ws.length + 1 then (ws ++ more).getD k 0 else 0) = ws.getD k 0 := by
  by_cases h : k < ws.length
  · rw [if_pos (by omega), List.getD_append _ _ _ _ h]
  · rw [if_neg (by omega), List.getD_eq_default _ _ (Nat.not_lt.mp h)]

/-- Words that are one instruction: as many as the format of word 0 takes, and they decode to it. -/
def Decodes (ws : List Half) (i : Instr) : Prop :=
  ∃ x tl, ws = x :: tl ∧ lengthOf (Word0.of x) = tl.length + 1
    ∧ decodeWords x (tl.getD 0 0) (tl.getD 1 0) (tl.getD 2 0) = .ok i

theorem Decodes.decode_append {ws : List Half} {i : Instr} (h : Decodes ws i) (rest : List Byte) :
    decode (ws.flatMap bytes32 ++ rest) = .ok (i, rest) := by
  obtain ⟨x, tl, rfl, hn, hd⟩ := h
  have hle : tl.length + 1 ≤ 4 := hn ▸ lengthOf_le _
  have htake : takeWords 4 ((x :: tl).flatMap bytes32 ++ rest) = x :: (tl ++ takeWords (4 - (tl.length + 1)) rest) := by
    have h := takeWords_flatMap (x :: tl) (4 - (tl.length + 1)) rest
    rwa [List.length_cons, Nat.add_sub_of_le hle] at h
  have hdrop : ((x :: tl).flatMap bytes32 ++ rest).drop (4 * (tl.length + 1)) = rest :=
    List.drop_left' (length_flatMap_bytes32 (x :: tl))
  have hlong : ¬ (tl ++ takeWords (4 - (tl.length + 1)) rest).length + 1 < tl.length + 1 := by
    rw [List.length_append]; omega
  simp only [decode, htake, hn, hdrop, if_neg hlong, ge_iff_le]
  rw [ite_getD_append tl _ 0, ite_getD_append tl _ 1, ite_getD_append tl _ 2, hd]
  rfl

section
variable {maj fn : Nat} {a b c : BitVec 6} {tl : List Half} {i : Instr}

theorem Decodes.of_w0 (hn : lengthOf ⟨BitVec.ofNat 7 maj, a, b, c, BitVec.ofNat 7 fn⟩ = tl.length + 1)
    (hd : ∀ x, Word0.of x = ⟨BitVec.ofNat 7 maj, a, b, c, BitVec.ofNat 7 fn⟩ →
      decodeWords x (tl.getD 0 0) (tl.getD 1 0) (tl.getD 2 0) = .ok i) : Decodes (w0 maj a b c fn :: tl) i :=
  ⟨_, tl, rfl, by rw [Word0.of_w0, hn], hd _ (Word0.of_w0 ..)⟩

theorem Decodes.of_pack {f : Word0} (hn : lengthOf f = tl.length + 1)
    (hd : ∀ x, Word0.of x = f → decodeWords x (tl.getD 0 0) (tl.getD 1 0) (tl.getD 2 0) = .ok i) :
    Decodes (f.pack :: tl) i :=
  ⟨_, tl, rfl, by rw [Word0.of_pack, hn], hd _ (Word0.of_pack f)⟩

end

/-! ### Registers and immediates -/

section
variable (maj fn : BitVec 7) (a b c : XReg)

theorem dec3_codes (mk : XReg → XReg → XReg → Instr) :
    dec3 mk ⟨maj, a.code, b.code, c.code, fn⟩ = .ok (mk a b c) := by
  simp [dec3, decoded_bind]

theorem dec2_codes (mk : XReg → XReg → Instr) : dec2 mk ⟨maj, a.code, b.code, 0, fn⟩ = .ok (mk a b) := by
  simp [dec2, decoded_bind, ensure_true]

theorem decExt_codes (mk : XReg → XReg → ExtWidth → Instr) (n : ExtWidth) :
    decExt mk ⟨maj, a.code, b.code, n.code, fn⟩ = .ok (mk a b n) := by
  simp [decExt, decoded_bind]

theorem decImm_codes (mk : XReg → XReg → BitVec 32 → Instr) (imm : BitVec 32) :
    decImm mk ⟨maj, a.code, b.code, 0, fn⟩ imm = .ok (mk a b imm) := by
  simp [decImm, decoded_bind, ensure_true]

theorem decShi_codes (mk : XReg → XReg → BitVec 6 → Instr) (n : BitVec 6) :
    decShi mk ⟨maj, a.code, b.code, 0, fn⟩ ((0 : BitVec 26) ++ n) = .ok (mk a b n) := by
  simp [decShi, decoded_bind, ensure_true, extract_append_high, extract_append_low]

theorem decLimm_codes (mk : XReg → BitVec 32 → Instr) (imm : BitVec 32) :
    decLimm mk ⟨maj, a.code, 0, 0, fn⟩ imm = .ok (mk a imm) := by
  simp [decLimm, decoded_bind, ensure_true]

theorem decB_codes (mk : XReg → Instr) : decB mk ⟨maj, 0, b.code, 0, fn⟩ = .ok (mk b) := by
  simp [decB, decoded_bind, ensure_true]

theorem decBar_codes (mk : XReg → XReg → BitVec 32 → Scope → Instr) (d : BitVec 32) (s : Scope) :
    decBar mk ⟨maj, 0, b.code, c.code, fn⟩ d ((0 : BitVec 29) ++ s.code) = .ok (mk b c d s) := by
  simp [decBar, decoded_bind, ensure_true, extract_append_high, extract_append_low]

end

/-! ### Memory operands and atomics (R155, R179) -/

@[simp] theorem cmFn_scope (s : Scope) (o : Order) (z : Size) : (cmFn s o z).extractLsb' 4 3 = s.code := by
  simp [cmFn, extract_append_high]

@[simp] theorem cmFn_order (s : Scope) (o : Order) (z : Size) : (cmFn s o z).extractLsb' 2 2 = o.code := by
  simp [cmFn, extract_append_high, extract_append_low]

@[simp] theorem cmFn_size (s : Scope) (o : Order) (z : Size) : (cmFn s o z).extractLsb' 0 2 = z.code := by
  simp [cmFn, extract_append_low]

section
variable (maj : BitVec 7) (r b c : XReg) (m : MemOp) (z : Size)

theorem decLea_codes (d : BitVec 32) : decLea ⟨maj, r.code, b.code, c.code, cmFn .core .plain z⟩ d = .ok (.lea r b c z d) := by
  have hclear : (cmFn .core .plain z).extractLsb' 2 5 = 0 := by cases z <;> rfl
  simp [decLea, hclear, decoded_bind, ensure_true]

theorem decMem_codes (a : BitVec 6) : decMem ⟨maj, a, m.base.code, m.index.code, cmFn m.scope m.ord z⟩ m.disp = .ok m := by
  simp [decMem, decoded_bind]

theorem decLoad_codes (mk : XReg → MemOp → Instr) (h : m.wfLoad = true) :
    decLoad mk ⟨maj, r.code, m.base.code, m.index.code, cmFn m.scope m.ord z⟩ m.disp = .ok (mk r m) := by
  simp [decLoad, decMem_codes, h, decoded_bind, ensure_true]

theorem decStore_codes (mk : XReg → MemOp → Instr) (h : m.wfStore = true) :
    decStore mk ⟨maj, r.code, m.base.code, m.index.code, cmFn m.scope m.ord z⟩ m.disp = .ok (mk r m) := by
  simp [decStore, decMem_codes, h, decoded_bind, ensure_true]

theorem decLdv_codes (v : VReg) (h : m.wfLoad = true) :
    decLdv ⟨maj, vcode v, m.base.code, m.index.code, cmFn m.scope m.ord .b4⟩ m.disp = .ok (.ldv v m) := by
  simp [decLdv, decMem_codes, h, decoded_bind, ensure_true, Size.code]

theorem decStv_codes (v : VReg) (h : m.wfStore = true) :
    decStv ⟨maj, vcode v, m.base.code, m.index.code, cmFn m.scope m.ord .b4⟩ m.disp = .ok (.stv v m) := by
  simp [decStv, decMem_codes, h, decoded_bind, ensure_true, Size.code]

theorem decAtomic_codes (mk0 mk1 : XReg → AtOp → Instr) (o : AtOp) (v : Bool) :
    decAtomic mk0 mk1 ⟨maj, r.code, o.base.code, o.src.code, atFn o.scope o.ord v o.wide⟩ o.disp =
      .ok ((if v then mk1 else mk0) r o) := by
  simp [decAtomic, atFn, decoded_bind, extract_append_high, extract_append_low, bit_append_high, bit_append_low, -BitVec.getLsbD_eq_getElem]

theorem decWaita_codes (s : Scope) (d : BitVec 32) :
    decWaita ⟨maj, r.code, b.code, 32, cmFn s .plain .b8⟩ d = .ok (.waita r b s d) := by
  have hsize : (cmFn s .plain .b8).extractLsb' 0 4 = 3 := by cases s <;> rfl
  simp [decWaita, hsize, decoded_bind, ensure_true]

end

/-- A word with an order and a size. -/
theorem Decodes.of_mem {maj : Nat} {a : BitVec 6} {m : MemOp} {z : Size} {i : Instr}
    (hn : ∀ b c fn, lengthOf ⟨BitVec.ofNat 7 maj, a, b, c, fn⟩ = 2)
    (hd : ∀ x, Word0.of x = ⟨BitVec.ofNat 7 maj, a, m.base.code, m.index.code, cmFn m.scope m.ord z⟩ →
      decodeWords x m.disp 0 0 = .ok i) : Decodes (encMem maj a m z) i :=
  .of_pack (hn ..) hd

/-! ### Branches and fences (R156, R182) -/

section
variable (maj : Nat) (a : BitVec 6) (cond : BitVec 3) (t : CodeRef)

@[simp] theorem maj_cb : (Word0.of (cb maj a cond t)).maj = BitVec.ofNat 7 maj := by
  simp [Word0.of, cb, extract_append_high]

@[simp] theorem a_cb : (Word0.of (cb maj a cond t)).a = a := by
  simp [Word0.of, cb, extract_append_high, extract_append_low]

@[simp] theorem cond_cb : (cb maj a cond t).extractLsb' 16 3 = cond := by
  simp [cb, extract_append_high, extract_append_low]

theorem cbTarget_cb (h : t.wf = true) : cbTarget (cb maj a cond t) = .ok t := by
  have ht : (⟨(cb maj a cond t).extractLsb' 5 11, (cb maj a cond t).extractLsb' 0 5⟩ : CodeRef) = t := by
    simp [cb, extract_append_high, extract_append_low]
  simp [cbTarget, ht, h, decoded_bind, ensure_true]

theorem decBr_cb (mk : XReg → CodeRef → Instr) (r : XReg) (h : t.wf = true) :
    decBr mk (Word0.of (cb maj r.code cond t)) (cb maj r.code cond t) = .ok (mk r t) := by
  simp [decBr, cbTarget_cb _ _ _ _ h, decoded_bind]

end

theorem Decodes.of_cb {maj : Nat} {a : BitVec 6} {cond : BitVec 3} {t : CodeRef} {i : Instr}
    (hn : ∀ b c fn, lengthOf ⟨BitVec.ofNat 7 maj, a, b, c, fn⟩ = 1) (hd : decodeWords (cb maj a cond t) 0 0 0 = .ok i) :
    Decodes [cb maj a cond t] i := by
  refine ⟨_, [], rfl, ?_, hd⟩
  have hmaj := maj_cb maj a cond t
  have ha := a_cb maj a cond t
  generalize Word0.of (cb maj a cond t) = f at hmaj ha ⊢
  obtain ⟨_, _, b, c, fn⟩ := f
  subst hmaj ha
  exact hn b c fn

theorem decMaj37_fence (maj : BitVec 7) (k : BitVec 4) (s : Scope) (h : k ≠ 0) :
    decMaj37 ⟨maj, 0, (0 : BitVec 3) ++ s.code, (0 : BitVec 2) ++ k, 0⟩ = .ok (.fence k s) := by
  have hk : (k != 0#4) = true := bne_iff_ne.mpr h
  simp [decMaj37, decoded_bind, ensure_true, extract_append_high, extract_append_low, hk]

/-! ### Vector instructions (R157) -/

theorem toNat_zero_append {v w : Nat} (x : BitVec w) :
    BitVec.toNat (w := no_index (v + w)) (@HAppend.hAppend _ _ (no_index _) _ (0#v) x) = x.toNat := by
  simp

theorem toNat_zero_append_append {u v w : Nat} (x : BitVec v) (y : BitVec w) :
    BitVec.toNat (w := no_index (u + v + w)) (@HAppend.hAppend _ _ (no_index _) _
      (@HAppend.hAppend _ _ (no_index _) _ (0#u) x) y) = (x ++ y).toNat := by
  simp [BitVec.toNat_append]

section
variable (maj fn : BitVec 7) (a b c : VReg) (f : VCtl) (p : PReg)

theorem decCtl_cv (ov : BitVec 2) (tf : BitVec 6) (extra : BitVec 17) : decCtl (cv f.pred f.sf ov tf f.rm.code extra) = .ok f := by
  simp [decCtl, decoded_bind]

theorem decF3_codes (mk : VReg → VReg → VReg → VCtl → Instr) (h : f.wfIeee = true) :
    decF3 mk ⟨maj, vcode a, vcode b, vcode c, fn⟩ (cv f.pred f.sf 0 0 f.rm.code 0) = .ok (mk a b c f) := by
  simp [decF3, cvUnused, decCtl_cv, h, decoded_bind, ensure_true]

theorem decF2_codes (mk : VReg → VReg → VCtl → Instr) (h : f.wfIeee = true) :
    decF2 mk ⟨maj, vcode a, vcode b, 0, fn⟩ (cv f.pred f.sf 0 0 f.rm.code 0) = .ok (mk a b f) := by
  simp [decF2, cvUnused, decCtl_cv, h, decoded_bind, ensure_true]

theorem decCmp_codes (mk : PReg → VReg → VReg → PReg → Bool → Bool → Instr) (d : PReg) (sf u : Bool) :
    decCmp mk ⟨maj, pcode d, vcode b, vcode c, fn⟩ (cv p sf 0 0 0 ((0 : BitVec 16) ++ bit u)) = .ok (mk d b c p sf u) := by
  have hu : (bit u).toNat ≤ 1 := Nat.le_of_lt_succ (bit u).isLt
  simp [decCmp, cvUnused, toNat_zero_append, bit_cv, bit_append_low, decoded_bind, ensure_true, hu, -BitVec.getLsbD_eq_getElem]

theorem decP3_codes (mk : VReg → VReg → VReg → PReg → Instr) :
    decP3 mk ⟨maj, vcode a, vcode b, vcode c, fn⟩ (cv p false 0 0 0 0) = .ok (mk a b c p) := by
  simp [decP3, cvUnused, decoded_bind, ensure_true]

theorem decVsh_reg (mk : VReg → VReg → VAmount → PReg → Instr) :
    decVsh mk ⟨maj, vcode a, vcode b, vcode c, fn⟩ (cv p false 0 0 0 0) = .ok (mk a b (.reg c) p) := by
  simp [decVsh, cvUnused, bit_cv, decoded_bind, ensure_true, -BitVec.getLsbD_eq_getElem]

theorem decVsh_imm (mk : VReg → VReg → VAmount → PReg → Instr) (k : BitVec 5) :
    decVsh mk ⟨maj, vcode a, vcode b, 0, fn⟩ (cv p false 0 0 0 ((1 : BitVec 1) ++ (0 : BitVec 11) ++ k)) = .ok (mk a b (.imm k) p) := by
  have hk : ((2048#12 ++ k : BitVec 17)).toNat < 131072 := (2048#12 ++ k : BitVec 17).isLt
  simp [decVsh, cvUnused, bit_cv, extract_cv, bit_append_high, extract_append_high, extract_append_low, decoded_bind, ensure_true, hk, -BitVec.getLsbD_eq_getElem]

theorem decVi_codes (mk : VReg → VReg → VReg → Sat → PReg → Instr) (s : Sat) :
    decVi mk ⟨maj, vcode a, vcode b, vcode c, fn⟩ (cv p false 0 0 0 ((0 : BitVec 15) ++ s.code)) = .ok (mk a b c s p) := by
  have hs := s.code.isLt
  simp [decVi, cvUnused, toNat_zero_append, extract_cv, extract_append_low, decoded_bind, ensure_true, hs]

theorem decRed_codes (mk : VReg → VReg → VCtl → BitVec 2 → Instr) (s : BitVec 2) :
    decRed mk ⟨maj, vcode a, vcode b, 0, fn⟩ (cv f.pred f.sf 0 0 f.rm.code ((0 : BitVec 15) ++ s)) = .ok (mk a b f s) := by
  have hs := s.isLt
  simp [decRed, cvUnused, toNat_zero_append, decCtl_cv, extract_cv, extract_append_low, decoded_bind, ensure_true, hs]


theorem decMaj43_vbcast (k : BitVec 4) :
    decMaj43 ⟨maj, vcode a, vcode b, 0, 3⟩ (cv p false 0 0 0 ((0 : BitVec 13) ++ k)) = .ok (.vbcast a b k p) := by
  have hk := k.isLt
  simp [decMaj43, cvUnused, toNat_zero_append, extract_cv, extract_append_low, decoded_bind, ensure_true, hk]

theorem decMaj43_vmov : decMaj43 ⟨maj, vcode a, vcode b, 0, 4⟩ (cv p false 0 0 0 0) = .ok (.vmov a b p) := by
  simp [decMaj43, cvUnused, decoded_bind, ensure_true]

theorem decMaj43_vins (r : XReg) (k : BitVec 4) :
    decMaj43 ⟨maj, vcode a, r.code, 0, 5⟩ (cv 0 false 0 0 0 ((0 : BitVec 13) ++ k)) = .ok (.vins a r k) := by
  have hk := k.isLt
  simp [decMaj43, cvUnused, toNat_zero_append, extract_cv, extract_append_low, decoded_bind, ensure_true, hk]

theorem decMaj43_vext (r : XReg) (z : Bool) (k : BitVec 4) :
    decMaj43 ⟨maj, r.code, vcode b, 0, 6⟩ (cv 0 false 0 0 0 ((0 : BitVec 12) ++ bit z ++ k)) = .ok (.vext r b z k) := by
  have hk := (bit z ++ k).isLt
  simp [decMaj43, cvUnused, toNat_zero_append_append, extract_cv, extract_append_low, bit_cv, bit_append_high, bit_append_low,
    decoded_bind, ensure_true, hk, -BitVec.getLsbD_eq_getElem]

theorem decMaj44_vtag (t : Tag) : decMaj44 ⟨maj, vcode a, vcode b, 0, 0⟩ (cv 0 false 0 t 0 0) = .ok (.vtag a b t) := by
  simp [decMaj44, cvUnused, decoded_bind, ensure_true]

theorem decMaj44_vflags (r : XReg) (k : BitVec 3) (z : Bool) (h : k.toNat < 5) :
    decMaj44 ⟨maj, r.code, 0, 0, 1⟩ (cv p false 0 0 0 ((0 : BitVec 13) ++ bit z ++ k)) = .ok (.vflags r k z p) := by
  have hk := (bit z ++ k).isLt
  simp [decMaj44, cvUnused, toNat_zero_append_append, extract_cv, extract_append_low, bit_cv, bit_append_high, bit_append_low,
    decoded_bind, ensure_true, hk, h, -BitVec.getLsbD_eq_getElem, -BitVec.extractLsb'_toNat]

theorem decMaj60_vcvt (t : Tag) (ov : Ovf) (d s : BitVec 3) (h : Tag.wfTarget t = true) :
    decMaj60 ⟨maj, vcode a, vcode b, 0, 0⟩ (cv f.pred f.sf ov.code t f.rm.code ((0 : BitVec 11) ++ d ++ s)) =
      .ok (.vcvt a b t f ov d s) := by
  have hd := (d ++ s).isLt
  simp [decMaj60, cvUnused, toNat_zero_append_append, extract_cv, extract_append_high, extract_append_low, decCtl_cv, decoded_bind,
    ensure_true, h, hd]

theorem decMaj61_vrng : decMaj61 ⟨maj, vcode a, 0, 0, 0⟩ (cv p false 0 0 0 0) = .ok (.vrng a p) := by
  simp [decMaj61, cvUnused, decoded_bind, ensure_true]

end

/-! ### Streams, blocks and copies (R203) -/

theorem cfgOf_code (k : StreamCfg) : cfgOf k.code = .ok k := by
  simp [cfgOf, StreamCfg.code, extract_append_high, extract_append_low, bit_append_high, bit_append_low, decoded_bind, ensure_true, -BitVec.getLsbD_eq_getElem]

section
variable (maj : BitVec 7) (g : Gen) (h : Hnd) (s : Scope)

theorem decMaj25_ldt (a b : DReg) (t : Transp) :
    decMaj25 ⟨maj, dcode a, dcode b, 0, 0⟩ ((0 : BitVec 25) ++ s.code ++ (0 : BitVec 2) ++ t.code) 0 = .ok (.ldt a b s t) := by
  simp [decMaj25, extract_append_high, extract_append_low, decoded_bind, ensure_true]

theorem decMaj70_sbind (b c : DReg) (k : StreamCfg) (r : BitVec 32) (t : Tag) (hk : k.wf c r t = true) :
    decMaj70 ⟨maj, gcode g, dcode b, dcode c, 0x40⟩ k.code r ((0 : BitVec 26) ++ t) = .ok (.sbind g b c k r t) := by
  simp [decMaj70, cfgOf_code, extract_append_high, extract_append_low, decoded_bind, ensure_true, hk]

theorem decMaj70_sgate (b : PReg) (w : BitVec 32) :
    decMaj70 ⟨maj, gcode g, pcode b, 0, 1⟩ w 0 0 = .ok (.sgate g b w) := by
  simp [decMaj70, decoded_bind, ensure_true]

theorem decMaj70_swait : decMaj70 ⟨maj, gcode g, 0, 0, 2⟩ ((0 : BitVec 29) ++ s.code) 0 0 = .ok (.swait g s) := by
  simp [decMaj70, extract_append_high, extract_append_low, decoded_bind, ensure_true]

theorem decMaj71_fload (i : BitVec 16) : decMaj71 ⟨maj, hcode h, 0, 0, 0⟩ ((0 : BitVec 16) ++ i) 0 = .ok (.fload h i) := by
  simp [decMaj71, extract_append_high, extract_append_low, decoded_bind, ensure_true]

theorem decMaj71_fstart : decMaj71 ⟨maj, hcode h, 0, 0, 1⟩ 0 0 = .ok (.fstart h) := by
  simp [decMaj71, decoded_bind, ensure_true]

theorem decMaj71_fbar : decMaj71 ⟨maj, 0, 0, 0, 2⟩ ((0 : BitVec 29) ++ s.code) 0 = .ok (.fbar s) := by
  simp [decMaj71, extract_append_high, extract_append_low, decoded_bind, ensure_true]

theorem decMaj71_fwait (m : BitVec 8) :
    decMaj71 ⟨maj, 0, 0, 0, 3⟩ ((0 : BitVec 21) ++ s.code ++ m) 0 = .ok (.fwait s m) := by
  simp [decMaj71, extract_append_high, extract_append_low, decoded_bind, ensure_true]

theorem decMaj71_frestart : decMaj71 ⟨maj, hcode h, 0, 0, 4⟩ 0 0 = .ok (.frestart h) := by
  simp [decMaj71, decoded_bind, ensure_true]

theorem decMaj71_fqry (a : XReg) (i : BitVec 4) (hi : i.toNat ≤ 10) :
    decMaj71 ⟨maj, a.code, 0, 0, 5⟩ ((0 : BitVec 20) ++ i ++ (0 : BitVec 2) ++ hcode h) 0 = .ok (.fqry a h i) := by
  have hlow : hndOf (((hcode h).extractLsb' 0 3).setWidth 6) = .ok h := by revert h; decide
  have hclear : (0#20 ++ i ++ 0#2 ++ hcode h : BitVec 32).extractLsb' 3 5 = 0#5 := by revert h i; decide
  simp [decMaj71, hclear, hlow, hi, extract_append_high, extract_append_low, decoded_bind, ensure_true]

theorem decMaj72_acopy_some (a b c e v : XReg) (d : BitVec 32) :
    decMaj72 ⟨maj, a.code, b.code, c.code, 0x40⟩ ((0 : BitVec 28) ++ s.code ++ bit true)
      ((0 : BitVec 20) ++ v.code ++ e.code) d = .ok (.acopy a b c e (some v) s d) := by
  simp [decMaj72, extract_append_high, extract_append_low, bit_append_low, decoded_bind, ensure_true, -BitVec.getLsbD_eq_getElem]

theorem decMaj72_acopy_none (a b c e : XReg) (d : BitVec 32) :
    decMaj72 ⟨maj, a.code, b.code, c.code, 0x40⟩ ((0 : BitVec 28) ++ s.code ++ bit false)
      ((0 : BitVec 26) ++ e.code) d = .ok (.acopy a b c e none s d) := by
  simp [decMaj72, extract_append_high, extract_append_low, bit_append_low, decoded_bind, ensure_true, -BitVec.getLsbD_eq_getElem]

end

/-! ### Control registers and system (R219, R221) -/

theorem append_halves (n : BitVec 12) : n.extractLsb' 6 6 ++ n.extractLsb' 0 6 = n :=
  (BitVec.extractLsb'_append_extractLsb'_eq_extractLsb' (start₂ := 6) (start₁ := 0) rfl).trans BitVec.extractLsb'_eq_self

section
variable (maj : BitVec 7) (a : XReg) (n : BitVec 12)

theorem decMaj7C_crd : decMaj7C ⟨maj, a.code, n.extractLsb' 6 6, n.extractLsb' 0 6, 0⟩ = .ok (.crd a n) := by
  simp [decMaj7C, decoded_bind, append_halves]

theorem decMaj7C_cwr : decMaj7C ⟨maj, a.code, n.extractLsb' 6 6, n.extractLsb' 0 6, 1⟩ = .ok (.cwr a n) := by
  simp [decMaj7C, decoded_bind, append_halves]

theorem decMaj7D_tlbinv (all : Bool) (s : Scope) (h : Instr.wf (.tlbinv a all s) = true) :
    decMaj7D ⟨maj, 0, a.code, (0 : BitVec 2) ++ bit all ++ s.code, 3⟩ = .ok (.tlbinv a all s) := by
  obtain ⟨hs, ha⟩ := Bool.and_eq_true_iff.mp h
  simp [decMaj7D, hs, ha, extract_append_high, extract_append_low, bit_append_high, bit_append_low, decoded_bind, ensure_true,
    -BitVec.getLsbD_eq_getElem]

end

/-! ### Every instruction -/

/-- The words of a well-formed control-core instruction are that instruction. -/
theorem decodes_encode (i : Instr) (hw : i.wf = true) (hne : encode i ≠ []) : Decodes (encode i) i := by
  cases i with
  | add a b c | sub a b c | mul a b c | mulhs a b c | mulhu a b c | divs a b c | divu a b c | rems a b c | remu a b c
  | min a b c | max a b c | minu a b c | maxu a b c | and a b c | or a b c | xor a b c | andn a b c | shl a b c | shr a b c
  | sra a b c | rol a b c | seq a b c | slt a b c | sltu a b c | sel a b c =>
    exact .of_w0 rfl fun x hx => by rw [decodeWords, hx]; exact dec3_codes ..
  | clz a b | ctz a b | popc a b | mov a b | rowopen a b | rowholdKeep a b | rowholdDrop a b | rowrel a b | rowqry a b
  | rqrd a b => exact .of_w0 rfl fun x hx => by rw [decodeWords, hx]; exact dec2_codes ..
  | exts a b n | extz a b n => exact .of_w0 rfl fun x hx => by rw [decodeWords, hx]; exact decExt_codes ..
  | addi a b n | andi a b n | ori a b n | xori a b n =>
    exact .of_w0 rfl fun x hx => by rw [decodeWords, hx]; exact decImm_codes ..
  | shli a b n | shri a b n | srai a b n | roli a b n =>
    exact .of_w0 rfl fun x hx => by rw [decodeWords, hx]; exact decShi_codes ..
  | limm a n | limmh a n => exact .of_w0 rfl fun x hx => by rw [decodeWords, hx]; exact decLimm_codes ..
  | lea a b c z d => exact .of_pack rfl fun x hx => by rw [decodeWords, hx]; exact decLea_codes ..
  | ldb a m | ldh a m | ldw a m | ldd a m | ldbu a m | ldhu a m | ldwu a m =>
    exact .of_mem (fun _ _ _ => rfl) fun x hx => by
      simp only [decodeWords, hx, decMaj20, decMaj21, cmFn_size, sizeOf2_code]
      exact decLoad_codes _ _ _ _ _ hw
  | stb a m | sth a m | stw a m | std a m =>
    exact .of_mem (fun _ _ _ => rfl) fun x hx => by
      simp only [decodeWords, hx, decMaj22, cmFn_size, sizeOf2_code]
      exact decStore_codes _ _ _ _ _ hw
  | ldv v m => exact .of_mem (fun _ _ _ => rfl) fun x hx => by rw [decodeWords, hx]; exact decLdv_codes _ _ _ hw
  | stv v m => exact .of_mem (fun _ _ _ => rfl) fun x hx => by rw [decodeWords, hx]; exact decStv_codes _ _ _ hw
  | aadd a o | aand a o | axor a o | amin a o | amax a o =>
    exact .of_pack rfl fun x hx => by rw [decodeWords, hx]; exact decAtomic_codes _ _ _ _ _ false
  | axchg a o | aor a o | acas a o | aminu a o | amaxu a o =>
    exact .of_pack rfl fun x hx => by rw [decodeWords, hx]; exact decAtomic_codes _ _ _ _ _ true
  | waita a b s d => exact .of_pack rfl fun x hx => by rw [decodeWords, hx]; exact decWaita_codes ..
  | fence k s => exact .of_w0 rfl fun x hx => by rw [decodeWords, hx]; exact decMaj37_fence _ _ _ (bne_iff_ne.mp hw)
  | cbar | ret | rett | brk | trap c | endTask n => exact .of_w0 rfl fun x hx => by rw [decodeWords, hx]; rfl
  | bez a t | bnz a t | bltz a t | bgez a t =>
    exact .of_cb (fun _ _ _ => rfl) (by
      simp only [decodeWords, maj_cb, decMaj38, cond_cb]
      exact decBr_cb _ _ _ _ _ hw)
  | jmp t =>
    exact .of_cb (fun _ _ _ => rfl) (by
      simp [decodeWords, decMaj38, cbTarget_cb _ _ _ _ hw, decoded_bind, ensure_true])
  | call t =>
    exact .of_cb (fun _ _ _ => rfl) (by
      simp [decodeWords, decMaj39, cbTarget_cb _ _ _ _ hw, decoded_bind, ensure_true])
  | jr b | callr b | rqinj b | idle b => exact .of_w0 rfl fun x hx => by rw [decodeWords, hx]; exact decB_codes ..
  | vadd a b c f | vsub a b c f | vmul a b c f | vfma a b c f | vfms a b c f | vmin a b c f | vmax a b c f | vdiv a b c f =>
    exact .of_w0 rfl fun x hx => by rw [decodeWords, hx]; exact decF3_codes _ _ _ _ _ _ _ hw
  | vabs a b f | vneg a b f | vsqrt a b f | vrcp a b f | vrsq a b f =>
    exact .of_w0 rfl fun x hx => by rw [decodeWords, hx]; exact decF2_codes _ _ _ _ _ _ hw
  | vcmpeq a b c p sf u | vcmplt a b c p sf u | vcmple a b c p sf u =>
    exact .of_w0 rfl fun x hx => by rw [decodeWords, hx]; exact decCmp_codes ..
  | vsel a b c p | vand a b c p | vor a b c p | vxor a b c p | vperm a b c p =>
    exact .of_w0 rfl fun x hx => by rw [decodeWords, hx]; exact decP3_codes ..
  | vshl a b n p | vshr a b n p | vsra a b n p =>
    cases n with
    | reg c => exact .of_w0 rfl fun x hx => by rw [decodeWords, hx]; exact decVsh_reg ..
    | imm k => exact .of_w0 rfl fun x hx => by rw [decodeWords, hx]; exact decVsh_imm ..
  | viadd a b c s p | visub a b c s p | vimul a b c s p =>
    exact .of_w0 rfl fun x hx => by rw [decodeWords, hx]; exact decVi_codes ..
  | vredadd a b f s | vredmax a b f s => exact .of_w0 rfl fun x hx => by rw [decodeWords, hx]; exact decRed_codes ..
  | vbcast a b k p => exact .of_w0 rfl fun x hx => by rw [decodeWords, hx]; exact decMaj43_vbcast ..
  | vmov a b p => exact .of_w0 rfl fun x hx => by rw [decodeWords, hx]; exact decMaj43_vmov ..
  | vins a b k => exact .of_w0 rfl fun x hx => by rw [decodeWords, hx]; exact decMaj43_vins ..
  | vext a b z k => exact .of_w0 rfl fun x hx => by rw [decodeWords, hx]; exact decMaj43_vext ..
  | vtag a b t => exact .of_w0 rfl fun x hx => by rw [decodeWords, hx]; exact decMaj44_vtag ..
  | vflags a k z p =>
    exact .of_w0 rfl fun x hx => by rw [decodeWords, hx]; exact decMaj44_vflags _ _ _ _ _ (decide_eq_true_eq.mp hw)
  | vcvt a b t f ov d s => exact .of_w0 rfl fun x hx => by rw [decodeWords, hx]; exact decMaj60_vcvt _ _ _ _ _ _ _ _ hw
  | vrng a p => exact .of_w0 rfl fun x hx => by rw [decodeWords, hx]; exact decMaj61_vrng ..
  | ldt a b s t => exact .of_w0 (by simp [lengthOf]) fun x hx => by rw [decodeWords, hx]; exact decMaj25_ldt ..
  | sbind g b c k r t => exact .of_w0 (by simp [lengthOf]) fun x hx => by rw [decodeWords, hx]; exact decMaj70_sbind _ _ _ _ _ _ _ hw
  | sgate g b w => exact .of_w0 (by simp [lengthOf]) fun x hx => by rw [decodeWords, hx]; exact decMaj70_sgate ..
  | swait g s => exact .of_w0 (by simp [lengthOf]) fun x hx => by rw [decodeWords, hx]; exact decMaj70_swait ..
  | fload h n => exact .of_w0 (by simp [lengthOf]) fun x hx => by rw [decodeWords, hx]; exact decMaj71_fload ..
  | fstart h => exact .of_w0 (by simp [lengthOf]) fun x hx => by rw [decodeWords, hx]; exact decMaj71_fstart ..
  | fbar s => exact .of_w0 (by simp [lengthOf]) fun x hx => by rw [decodeWords, hx]; exact decMaj71_fbar ..
  | fwait s m => exact .of_w0 (by simp [lengthOf]) fun x hx => by rw [decodeWords, hx]; exact decMaj71_fwait ..
  | frestart h => exact .of_w0 (by simp [lengthOf]) fun x hx => by rw [decodeWords, hx]; exact decMaj71_frestart ..
  | fqry a h n => exact .of_w0 (by simp [lengthOf]) fun x hx => by rw [decodeWords, hx]; exact decMaj71_fqry _ _ _ _ (decide_eq_true_eq.mp hw)
  | acopy a b c e f s d =>
    cases f with
    | some v => exact .of_w0 (by simp [lengthOf]) fun x hx => by rw [decodeWords, hx]; exact decMaj72_acopy_some ..
    | none => exact .of_w0 (by simp [lengthOf]) fun x hx => by rw [decodeWords, hx]; exact decMaj72_acopy_none ..
  | binit b c d s | bexpect b c d s | bwait b c d s =>
    exact .of_w0 (by simp [lengthOf]) fun x hx => by rw [decodeWords, hx]; exact decBar_codes ..
  | crd a n => exact .of_w0 rfl fun x hx => by rw [decodeWords, hx]; exact decMaj7C_crd ..
  | cwr a n => exact .of_w0 rfl fun x hx => by rw [decodeWords, hx]; exact decMaj7C_cwr ..
  | tlbinv b all s => exact .of_w0 rfl fun x hx => by rw [decodeWords, hx]; exact decMaj7D_tlbinv _ _ _ _ hw
  | _ => exact absurd rfl hne

/-- Settles O5: the words of each format decode to the instruction they were made from. -/
theorem sequentialWordRoundTrip : Obligations.SequentialWordRoundTrip := by
  have hdecode (i : Instr) (rest : List Byte) (hn : 1 ≤ (encode i).length) (hw : i.wf = true) :=
    (decodes_encode i hw (List.ne_nil_of_length_pos hn)).decode_append rest
  exact ⟨fun i rest hn hw => hdecode i rest hn.ge hw, fun i rest hn hw => hdecode i rest (by omega) hw,
    fun i rest hn hw => hdecode i rest (by omega) hw⟩

end Sys2Proof
end

section
/-!
SUPPORT. Registers that are written and read (O8); instructions that write one integer register (O12).
-/

namespace Sys2Proof.Machine

/-! ### What is read of a register that has been written (R143, R144) -/

/-- Different registers of one window stand in different entries of the ring. -/
theorem ringIndex_injective (wp : Nat) {i j : Fin 32} (h : ringIndex wp i.val = ringIndex wp j.val) : i = j := by
  unfold ringIndex at h
  omega

theorem Context.setX_g0 (c : Context) (v : Word) : c.setX (.g 0) v = c := rfl

theorem Context.x_g0 (c : Context) : c.x (.g 0) = 0 := rfl

theorem Context.setX_g (c : Context) {i : Fin 16} (v : Word) (h : i ≠ 0) : c.setX (.g i) v = { c with g := c.g.set i.val v } :=
  if_neg h

theorem Context.x_setX_self (c : Context) {r : XReg} (v : Word) (h : r ≠ .g 0) : (c.setX r v).x r = v := by
  cases r with
  | w i => exact Sparse.get_set_self 0 c.ring _ v
  | g i =>
    have hi : i ≠ 0 := fun hi => h (congrArg XReg.g hi)
    rw [c.setX_g v hi]
    exact (if_neg hi).trans (Sparse.get_set_self 0 c.g i.val v)

theorem Context.x_setX_ne (c : Context) {a b : XReg} (v : Word) (h : b ≠ a) : (c.setX a v).x b = c.x b := by
  cases a with
  | w i =>
    cases b with
    | w j => exact Sparse.get_set_ne 0 c.ring v fun hk => h (congrArg XReg.w (ringIndex_injective c.wp hk))
    | g j => rfl
  | g i =>
    by_cases hi : i = 0
    · rw [hi, Context.setX_g0]
    · rw [c.setX_g v hi]
      cases b with
      | w j => rfl
      | g j =>
        have hj : j.val ≠ i.val := fun hj => h (congrArg XReg.g (Fin.ext hj))
        exact congrArg (ite (j = 0) 0) (Sparse.get_set_ne 0 c.g v hj)

theorem Context.setPred_zero (c : Context) (m : Mask) : c.setPred 0 m = c := rfl

theorem Context.pred_zero (c : Context) : c.pred 0 = 0xFFFF := rfl

theorem Context.pred_setPred_self (c : Context) {p : PReg} (m : Mask) (h : p ≠ 0) : (c.setPred p m).pred p = m := by
  simp [Context.setPred, Context.pred, h]

theorem Context.pred_setPred_ne (c : Context) {p q : PReg} (m : Mask) (h : q ≠ p) : (c.setPred p m).pred q = c.pred q := by
  have hv : q.val ≠ p.val := fun hv => h (Fin.ext hv)
  by_cases hp : p = 0 <;> simp [Context.setPred, Context.pred, hp, Sparse.get_set_ne _ _ _ hv]

/-- A window 24 positions higher sees the callee part of the lower one as its first registers (R143). -/
theorem Context.x_window_overlap (c : Context) {i j : Fin 32} (w : Nat) (h : j.val = i.val + 24) :
    ({ c with wp := w + 24 } : Context).x (.w i) = ({ c with wp := w } : Context).x (.w j) := by
  have hring : ringIndex (w + 24) i.val = ringIndex w j.val := by rw [h]; unfold ringIndex; omega
  exact congrArg (Sparse.get 0 c.ring) hring

/-- Settles O8, register by register. -/
theorem registersReadBack : Obligations.RegistersReadBack := by
  intro c a b p q v m
  exact ⟨c.x_setX_self v, (c.setX a v).x_g0, c.setX_g0 v, c.x_setX_ne v, c.pred_setPred_self m, (c.setPred p m).pred_zero,
    c.setPred_zero m, c.pred_setPred_ne m, fun _ _ h w => c.x_window_overlap w h⟩

/-! ### Instructions that write one integer register (R168, R171 to R176) -/

/-- The meaning of an instruction that plainDest lists is a write of its destination. -/
theorem exec_of_plainDest {i : Instr} {a : XReg} {names : List XReg} (h : plainDest i = some (a, names)) (s : State) :
    ∃ f : Context → Word, exec i s = writeX i names a f s := by
  cases i with
  | add b c d | sub b c d | min b c d | max b c d | minu b c d | maxu b c d | and b c d | or b c d | xor b c d | andn b c d
  | shl b c d | shr b c d | sra b c d | rol b c d | seq b c d | slt b c d | sltu b c d | sel b c d | clz b c | ctz b c
  | popc b c | mov b c | exts b c d | extz b c d | addi b c d | andi b c d | ori b c d | xori b c d | shli b c d | shri b c d
  | srai b c d | roli b c d | limm b c | limmh b c | lea b c d e f =>
    cases h
    exact ⟨_, rfl⟩
  | _ => cases h

/-- A write changes the window registers or the globals, and nothing else. -/
theorem Context.setX_eq_with (c : Context) (r : XReg) (v : Word) :
    c.setX r v = { c with ring := (c.setX r v).ring, g := (c.setX r v).g } := by
  cases r with
  | w i => rfl
  | g i =>
    by_cases hi : i = 0
    · rw [hi, Context.setX_g0]
    · rw [c.setX_g v hi]

/-- A write leaves every entry of the ring that is not its destination's. -/
theorem Context.ring_setX (c : Context) {r : XReg} (v : Word) {k : Nat} (h : ∀ j : Fin 32, r = .w j → k ≠ ringIndex c.wp j.val) :
    Sparse.get 0 (c.setX r v).ring k = Sparse.get 0 c.ring k := by
  cases r with
  | w i => exact Sparse.get_set_ne 0 c.ring v (h i rfl)
  | g i =>
    by_cases hi : i = 0
    · rw [hi, Context.setX_g0]
    · rw [c.setX_g v hi]

/-! ### Control passing on outside a delay slot (R150, R359) -/

/-- The bank after an instruction that stands in no delay slot: the watchdog count is 0 and control is at nx. -/
def Context.passed (c : Context) (nx : Nat) : Context :=
  { c with pc := nx, wdcnt := 0, wait := 0, retry := false, atBound := false, walkTrap := none }

theorem State.retire_of_no_slot {s : State} {core : Nat} {t : Task} {nx : Nat} (h : (s.bank core).xfer = none) :
    s.retire core t nx = s.setBank core ((s.bank core).passed nx) := by
  simp only [State.retire, Context.passed, h]

theorem State.after_of_no_slot {s s1 : State} {t : Task} {i : Instr} (h : (s1.bank s.cur).xfer = none) :
    s.after t i s1 = s1.setBank s.cur ((s1.bank s.cur).passed (s.nextPc s.cur s.ctx.pc (words i))) :=
  State.retire_of_no_slot h

/-- After an instruction in no delay slot that changed its own bank alone, the other cores and memory are as they were. -/
theorem State.after_setCtx {s : State} {t : Task} {i : Instr} {c : Context} (h : c.xfer = none) :
    s.after t i (s.setCtx c) = s.setCtx (c.passed (s.nextPc s.cur s.ctx.pc (words i))) := by
  have hbank := s.bank_setCtx c
  rw [State.after_of_no_slot (by rw [hbank, h]), hbank]
  exact State.setBank_setBank ..

theorem State.core_setCtx_ne (s : State) (c : Context) {core : Nat} (h : core ≠ s.cur) : (s.setCtx c).core core = s.core core :=
  State.core_setBank_ne s c h

theorem State.byteAt_setCtx (s : State) (c : Context) (p : Nat) : (s.setCtx c).byteAt p = s.byteAt p :=
  State.byteAt_setCore ..

/-- Settles O12: each of these instructions is a write of its destination. -/
theorem registerInstructionsFrame : Obligations.RegisterInstructionsFrame := by
  intro s t i a names hi hissue
  obtain ⟨f, hexec⟩ := exec_of_plainDest hi s
  have hnext : exec i s = .next (s.after t i (s.setCtx (s.ctx.setX a (f s.ctx)))) :=
    completes_of_done (keys := keysOf names) (body := fun s _ => .done (s.mapCtx fun c => c.setX a (f c))) hexec rfl hissue
  refine ⟨s.ctx.setX a (f s.ctx), hnext, s.ctx.setX_eq_with a _, fun r hr => s.ctx.x_setX_ne _ hr,
    fun k hk => s.ctx.ring_setX _ hk, rfl, s.byteAt_setCtx _, fun core hcore => s.core_setCtx_ne _ hcore, fun hx u hu => ?_⟩
  rw [hnext, State.after_setCtx (by rw [Context.setX_xfer, hx])] at hu
  obtain rfl := Host.Outcome.next.inj hu
  refine ⟨rfl, ?_, fun core hcore => s.core_setCtx_ne _ hcore, fun r hr => ?_, s.byteAt_setCtx _⟩
  · rw [State.bank_setCtx]
    exact s.ctx.setX_vstat a _
  · rw [State.bank_setCtx]
    exact s.ctx.x_setX_ne _ hr

end Sys2Proof.Machine
end

section
/-!
SUPPORT. What a core fetches and runs (O4); SYSCALL, BREAK and traps in a delay slot (O14); branches, calls and returns (O13).
-/

namespace Sys2Proof.Machine

/-! ### Fetching (R148 to R150, R161) -/

section
variable {s : State} {c pc k : Nat}

theorem State.fetch_ok {i : Instr} (hpc : pc < 0x40000) (hk : wordIndex pc = some k) (hl : s.lineGood c (pc / 128) = true)
    (hs : hdrStart (s.lineHeader c (pc / 128)) k = true)
    (hd : decodeWords (s.codeWord c pc) (s.codeWord c (pc + 4)) (s.codeWord c (pc + 8)) (s.codeWord c (pc + 12)) = .ok i) :
    s.fetch c pc = .ok i := by
  simp only [State.fetch, if_pos hpc, hk, hl, hs, hd, Bool.and_self, if_true]

theorem State.fetch_illegal (hpc : pc < 0x40000) (hk : wordIndex pc = some k)
    (h : s.lineGood c (pc / 128) = false ∨ hdrStart (s.lineHeader c (pc / 128)) k = false ∨ ∃ e,
      decodeWords (s.codeWord c pc) (s.codeWord c (pc + 4)) (s.codeWord c (pc + 8)) (s.codeWord c (pc + 12)) = .error e) :
    s.fetch c pc = .illegal ((s.codeWord c pc).zeroExtend 64) := by
  simp only [State.fetch, if_pos hpc, hk]
  obtain hl | hs | ⟨e, hd⟩ := h
  · rw [hl, Bool.false_and, if_neg Bool.false_ne_true]
  · rw [hs, Bool.and_false, if_neg Bool.false_ne_true]
  · rw [hd, ite_self]

end

/-! ### The next step (R25, log 4) -/

theorem step_of_word {s : State} {core h : Nat} {nxt : Bool} {w : LaneWord} {op : Instr} {ds : List Due}
    (hd : s.due = .word core h nxt w op :: ds) : step s = exec op s := by
  simp only [step, hd, State.runDue]

theorem step_of_agenda {s : State} {a : Action} {rest : List Action} (hd : s.due = []) (ha : s.agenda = a :: rest) :
    step s = ({ s with agenda := rest } : State).perform a := by
  unfold step
  split
  next d ds h => exact absurd (hd.symm.trans h) nofun
  · split
    next b bs h =>
      obtain ⟨rfl, rfl⟩ := List.cons.inj (ha.symm.trans h)
      rfl
    next h => exact absurd (ha.symm.trans h) nofun

theorem State.perform_event {s : State} (hp : s.hasPower = true) (i : Instr) : s.perform (.event i) = exec i s := by
  simp [State.perform, hp]

theorem State.perform_core {s : State} (hp : s.hasPower = true) (c : Nat) : s.perform (.core c) = s.runCore c := by
  simp [State.perform, hp]

/-! ### A core that runs no Sornen function and is not resumed by the command processor -/

section
variable {s : State} {c : Nat} (hstrip : (s.bank c).strip = none) (hres : (s.bank c).resuming = false)
  (hfun : ({ s with cur := c } : State).sornenAt c = none)
include hstrip hres hfun

theorem State.runCore_of_ok {i : Instr} (h : ({ s with cur := c } : State).fetch c (s.bank c).pc = .ok i) :
    s.runCore c = exec i { s with cur := c } := by
  have hs : (({ s with cur := c } : State).bank c).strip = none := hstrip
  have hr : (({ s with cur := c } : State).bank c).resuming = false := hres
  have hf : ({ s with cur := c } : State).fetch c (({ s with cur := c } : State).bank c).pc = .ok i := h
  simp only [State.runCore, hs, hr, hfun, hf, Option.isSome_none, Bool.false_eq_true, if_false]

theorem State.runCore_of_illegal {w : Word} (h : ({ s with cur := c } : State).fetch c (s.bank c).pc = .illegal w) :
    s.runCore c = .next (({ s with cur := c } : State).fetchTrap c w) := by
  have hs : (({ s with cur := c } : State).bank c).strip = none := hstrip
  have hr : (({ s with cur := c } : State).bank c).resuming = false := hres
  have hf : ({ s with cur := c } : State).fetch c (({ s with cur := c } : State).bank c).pc = .illegal w := h
  simp only [State.runCore, hs, hr, hfun, hf, Option.isSome_none, Bool.false_eq_true, if_false]

end

/-- Settles O4: by what the step takes first, and what the fetch answers. -/
theorem stepRunsDecoded : Obligations.StepRunsDecoded := by
  intro s rest
  refine ⟨?core, fun i hd ha hp => (step_of_agenda hd ha).trans (State.perform_event (s := { s with agenda := rest }) hp i),
    fun core h nxt w op ds hd => step_of_word hd⟩
  case core =>
    intro core hd ha hp u pc word decoded hstrip hres hfun hpc k hk
    have hstep : step s = ({ s with agenda := rest } : State).runCore core :=
      (step_of_agenda hd ha).trans (State.perform_core (s := { s with agenda := rest }) hp core)
    refine ⟨fun i hl hs hi => ?_, fun hbad => ?_⟩
    · have hfetch : u.fetch core pc = .ok i := State.fetch_ok hpc hk hl hs hi
      exact hstep.trans (State.runCore_of_ok (s := { s with agenda := rest }) hstrip hres hfun hfetch)
    · have hfetch : u.fetch core pc = .illegal ((word 0).zeroExtend 64) := State.fetch_illegal hpc hk hbad
      exact hstep.trans (State.runCore_of_illegal (s := { s with agenda := rest }) hstrip hres hfun hfetch)

/-! ### Transfers and traps at issue -/

section
variable {s : State} {t : Task} {i : Instr} {keys : Context → List Nat} {body : State → Task → Res}

theorem completes_of_jump {x : Xfer} (he : exec i s = .next (issue i keys body s)) (hb : body s t = .jump s x) :
    Completes s t i (keys s.ctx) (s.afterJump i x) :=
  fun h => he.trans (congrArg _ (issue_jump h hb))

theorem completes_of_trapNext {cause : Nat} {info : Word} (he : exec i s = .next (issue i keys body s))
    (hb : body s t = .trapNext cause info) : Completes s t i (keys s.ctx)
      (s.syncTrap s.cur t cause info (s.nextPc s.cur s.ctx.pc (words i)) (s.nextPc s.cur s.ctx.pc (words i))) := fun h => by
  rw [he, issue_settles h, hb]
  rfl

end

section
variable {s : State} {core : Nat} {t : Task} {cause : Nat} {info : Word} {tpc nx : Nat}

theorem State.syncTrap_of_no_slot (h : (s.bank core).xfer = none) :
    s.syncTrap core t cause info tpc nx = s.takeTrap core t ⟨cause, info, tpc, false, false, 0, false, false, false, 0, .none⟩ := by
  simp only [State.syncTrap, h, Option.isSome_none]

theorem State.syncTrap_of_slot {x : Xfer} (h : (s.bank core).xfer = some x) :
    s.syncTrap core t cause info tpc nx = s.takeTrap core t
      ⟨cause, info, tpc, false, false, 0, false, false, true, if x.taken then x.target.toNat else nx, x.move⟩ := by
  simp only [State.syncTrap, h, Option.isSome_some]

end

/-- In a delay slot no asynchronous event comes before the instruction (R344). -/
theorem State.interrupted_of_slot {s : State} (h : s.ctx.xfer.isSome = true) : s.interrupted s.cur = false := by
  have hb : s.ctx.boundary = false := by
    rw [Context.boundary, ← Option.not_isSome, h]
    rfl
  simp [State.interrupted, Context.asyncDue, State.bank_cur, hb]

/-- An instruction that a delay slot may not hold raises ILLEGAL_OP there (R162). -/
theorem issue_in_slot {s : State} {t : Task} {i : Instr} {keys : Context → List Nat} {body : State → Task → Res}
    (hi : noSlot i = true) (hx : s.ctx.xfer.isSome = true) (ht : s.ctx.task = some t) (hissue : s.issuing s.cur = true)
    (hc : s.ctx.checkDue = false) (hd : s.ctx.due = none) :
    issue i keys body s = s.trapped t i cIllegal (word0 i) := by
  simp only [issue, ht, hissue, State.interrupted_of_slot hx, hc, hd, hx, hi, Bool.and_self, Bool.or_true, if_true, Bool.not_true,
    Bool.and_false, Bool.or_false, Bool.false_eq_true, if_false]
  rfl

/-- The instructions a delay slot may not hold are all issued. -/
theorem exec_of_noSlot {i : Instr} (h : noSlot i = true) :
    ∃ (keys : Context → List Nat) (body : State → Task → Res), ∀ s, exec i s = .next (issue i keys body s) := by
  cases i with
  | bez | bnz | bltz | bgez | jmp | call | jr | callr | ret | rett | trap | endTask => exact ⟨_, _, fun _ => rfl⟩
  | _ => cases h

/-- Settles O14. -/
theorem synchronousTraps : Obligations.SynchronousTraps := by
  refine ⟨fun s t code => ⟨completes_of_trapNext (keys := fun _ => []) rfl rfl, completes_of_trapNext (keys := fun _ => []) rfl rfl⟩,
    fun s core t cause info tpc nx => ⟨State.syncTrap_of_no_slot, fun x => State.syncTrap_of_slot⟩,
    fun s t i hi _ hx ht hissue hc hd => ?_⟩
  obtain ⟨keys, body, hexec⟩ := exec_of_noSlot hi
  exact (hexec s).trans (congrArg _ (issue_in_slot hi hx ht hissue hc hd))

/-! ### Branches, calls and returns (R184 to R187) -/

theorem sign_bit_iff (x : Word) : x.getLsbD 63 = decide (x.toInt < 0) := by
  rw [← BitVec.msb_eq_toInt, BitVec.msb_eq_getLsbD_last]

theorem not_sign_bit_iff (x : Word) : (!x.getLsbD 63) = decide (0 ≤ x.toInt) := by
  rw [sign_bit_iff, Bool.eq_iff_iff]
  simp

/-- The callee's w8 in the caller's window (R186). -/
theorem keyCallee_eq (c : Context) : keyCallee c = keyX (c.wp + 24) (.w 8) :=
  congrArg (fun n => [n % 256]) (Nat.add_assoc c.wp 24 8).symm

section
variable {s : State} {t : Task} {a : XReg} {r : CodeRef}

theorem completes_branch {i : Instr} {regs : List XReg} {cond : Context → Bool} {taken : Bool}
    (he : exec i s = branchOp i regs r cond s) (hc : cond s.ctx = taken) :
    Completes s t i (keysOf regs s.ctx) (s.afterJump i ⟨cbDest s.ctx.pc r, taken, .none, false⟩) :=
  completes_of_jump he (by rw [hc])

section
variable {i : Instr} {regs : List XReg} {target : Context → Word} (he : exec i s = callOp i regs target s)
include he

theorem completes_callOp (h : s.ctx.wp + 24 + 32 - s.ctx.lo ≤ 256) :
    Completes s t i (keyX (s.ctx.wp + 24) (.w 8) ++ keysOf regs s.ctx) (s.afterJump i ⟨target s.ctx, true, .call, false⟩) :=
  keyCallee_eq s.ctx ▸ completes_of_jump (keys := fun c => keyCallee c ++ keysOf regs c) he
    (if_neg (by rw [Context.callRacks, decide_eq_true_eq]; exact Nat.not_lt.mpr h))

theorem waits_callOp (h : ¬ s.ctx.wp + 24 + 32 - s.ctx.lo ≤ 256) :
    Completes s t i (keyX (s.ctx.wp + 24) (.w 8) ++ keysOf regs s.ctx) (s.waits wRacking) :=
  keyCallee_eq s.ctx ▸ completes_of_wait (keys := fun c => keyCallee c ++ keysOf regs c) he
    (if_pos (by rw [Context.callRacks, decide_eq_true_eq]; exact Nat.not_le.mp h))

end

section
variable (hw : s.ctx.wp ≠ 0)
include hw

theorem completes_ret (h : s.ctx.lo ≤ s.ctx.wp - 24) :
    Completes s t .ret (keysOf [.w 8] s.ctx) (s.afterJump .ret ⟨s.ctx.x (.w 8), true, .ret, false⟩) :=
  completes_of_jump rfl (by simp [hw, Context.retRacks, Nat.not_lt.mpr h])

theorem waits_ret (h : s.ctx.wp - 24 < s.ctx.lo) : Completes s t .ret (keysOf [.w 8] s.ctx) (s.waits wRacking) :=
  completes_of_wait rfl (by simp [hw, Context.retRacks, h])

end

theorem traps_ret (hw : s.ctx.wp = 0) :
    Traps s t .ret (keysOf [.w 8] s.ctx) cWindowSpill (s.ctx.rkbase + BitVec.ofInt 64 (8 * ((s.ctx.lo : Int) - 24))) :=
  traps_of_trap rfl (by simp [hw])

end

/-- Settles O13. -/
theorem transfersIssue : Obligations.TransfersIssue := by
  refine ⟨fun s t a r => ?branches, fun s t a r => ?moves⟩
  case branches =>
    intro x dest slot ks
    have hslot {i : Instr} {keys : List Nat} {target : Word} {taken : Bool}
        (h : Completes s t i keys (s.afterJump i ⟨target, taken, .none, false⟩)) : Completes s t i keys (slot i target taken) := h
    refine ⟨hslot (completes_branch (cond := fun c => c.x a == 0) rfl rfl),
      hslot (completes_branch (cond := fun c => c.x a != 0) rfl ?bnz),
      hslot (completes_branch (cond := fun c => (c.x a).getLsbD 63) rfl (sign_bit_iff x)),
      hslot (completes_branch (cond := fun c => !(c.x a).getLsbD 63) rfl ?bgez),
      hslot (completes_branch (regs := []) (cond := fun _ => true) rfl rfl), hslot (completes_of_jump (keys := keysOf [a]) rfl rfl)⟩
    case bnz => exact Bool.eq_iff_iff.mpr (bne_iff_ne.trans decide_eq_true_iff.symm)
    case bgez => exact not_sign_bit_iff x
  case moves =>
    have hcall : exec (.call r) s = callOp (.call r) [] (fun c => cbDest c.pc r) s := rfl
    have hcallr : exec (.callr a) s = callOp (.callr a) [a] (fun c => c.x a) s := rfl
    refine ⟨fun h => ⟨completes_callOp hcall h, completes_callOp hcallr h⟩, fun h => ⟨waits_callOp hcall h, waits_callOp hcallr h⟩,
      completes_ret, waits_ret, fun hw u hissue hu => ⟨_, Host.Outcome.next.inj (hu.symm.trans (traps_ret hw hissue))⟩⟩

end Sys2Proof.Machine
end

section
/-!
SUPPORT. Loads, stores and atomics that their checks allow join the instructions in flight (O19).
-/

namespace Sys2Proof.Machine

section
variable {s : State} {t : Task} {i : Instr} {n p : Nat} {a : XReg} {m : MemOp}

theorem completes_loadOp {sg : Bool} (he : exec i s = loadOp i n sg a m s)
    (hp : s.checkAccess s.cur t (s.ctx.ea m n) n n .load = .ok p) (hclean : s.poisonPast s.ctx.fly [⟨p, n, false⟩] = none) :
    Completes s t i (keysOf [a, m.base, m.index] s.ctx)
      (s.after t i ((s.markRemote s.cur t (s.ctx.ea m n).toNat).launch
        (s.ctx.entry i (.load n sg a) 0 (s.ctx.x m.base) (s.ctx.x m.index) (s.ctx.ea m n) m.ord m.scope [⟨p, n, false⟩]))) :=
  completes_of_done (keys := keysOf [a, m.base, m.index]) he (by
    simp only [State.access_of_ok hp fun _ => hclean, State.entry_markRemote])

theorem completes_storeOp (he : exec i s = storeOp i n a m s)
    (hp : s.checkAccess s.cur t (s.ctx.ea m n) n n .store = .ok p) :
    Completes s t i (keysOf [a, m.base, m.index] s.ctx)
      (s.after t i ((s.markRemote s.cur t (s.ctx.ea m n).toNat).launch
        (s.ctx.entry i (.store n) (s.ctx.x a) (s.ctx.x m.base) (s.ctx.x m.index) (s.ctx.ea m n) m.ord m.scope [⟨p, n, true⟩]))) :=
  completes_of_done (keys := keysOf [a, m.base, m.index]) he (by
    simp only [State.access_of_ok hp (absurd rfl), State.entry_markRemote])

theorem completes_atomicOp {k : AtKind} {o : AtOp} {w : Nat} (he : exec i s = atomicOp i k a o s) (hw : (if o.wide then 8 else 4) = w)
    (hp : s.checkAccess s.cur t (s.ctx.eaDisp o.base o.disp) w w .atomic = .ok p)
    (hclean : s.poisonPast s.ctx.fly [⟨p, w, false⟩] = none) :
    Completes s t i (keysOf [a, o.base, o.src] s.ctx)
      (s.after t i ((s.markRemote s.cur t (s.ctx.eaDisp o.base o.disp).toNat).launch
        (s.ctx.entry i (.atomic k w a) (if k == .cas then s.ctx.x a else 0) (s.ctx.x o.base) (s.ctx.x o.src)
          (s.ctx.eaDisp o.base o.disp) o.ord o.scope [⟨p, w, true⟩]))) :=
  completes_of_done (keys := keysOf [a, o.base, o.src]) he (by
    simp only [hw, State.access_of_ok hp fun _ => hclean, State.entry_markRemote])

end

/-! ### Sixteen lanes (R178) -/

section
variable {s : State} {t : Task} {a : Word} {kind : AccKind} {p : Nat} {k : State → List Span → Res} {s1 : State}
  (ht : t.clustered = false) (hp : s.checkAccess s.cur t a 64 4 kind = .ok p)
  (hq : s.checkAccess s.cur t (a + 60) 4 4 kind = .ok (p + 60))
include ht hp hq

/-- Sixteen lanes that lie side by side are one run of bytes. -/
theorem State.access16_of_ok (hclean : kind ≠ .store → s.poisonPast s.ctx.fly [⟨p, 64, false⟩] = none)
    (hk : k s [⟨p, 64, kind == .store⟩] = .done s1) : s.access16 t a kind k = .done s1 := by
  have hmark (x : Nat) : s.markRemote s.cur t x = s := s.markRemote_of_not_clustered s.cur x ht
  unfold State.access16
  simp only [hp, hq, Chk.rank, State.place, hmark, lt_irrefl, if_false, BEq.rfl, if_true]
  by_cases hkind : kind = .store
  · subst hkind
    simp only [BEq.rfl] at hk
    simp [hk]
  · have hw : (kind == .store) = false := beq_false_of_ne hkind
    rw [hw] at hk
    simp [hw, State.clean, hclean hkind, hk]

end

/-- Settles O19: by the kind of access. -/
theorem accessesIssue : Obligations.AccessesIssue := by
  refine ⟨fun s t a v m => ?loads, fun s t a v m => ?stores, fun s t a o => ?atomics⟩
  case loads =>
    intro x address load
    have hload {i : Instr} {n : Nat} {sg : Bool} (he : exec i s = loadOp i n sg a m s) : load i n sg :=
      fun p hp hclean => completes_loadOp he hp hclean
    refine ⟨hload rfl, hload rfl, hload rfl, hload rfl, hload rfl, hload rfl, hload rfl, fun p ht hp hq hclean => ?_⟩
    exact completes_of_done (keys := fun c => keyV v ++ keysOf [m.base, m.index] c) rfl
      (State.access16_of_ok ht hp hq (fun _ => hclean) rfl)
  case stores =>
    intro x address store
    have hstore {i : Instr} {n : Nat} (he : exec i s = storeOp i n a m s) : store i n := fun p hp => completes_storeOp he hp
    refine ⟨hstore rfl, hstore rfl, hstore rfl, hstore rfl, fun p ht hp hq => ?_⟩
    exact completes_of_done (keys := fun c => keyV v ++ keysOf [m.base, m.index] c) rfl
      (State.access16_of_ok ht hp hq (absurd rfl) rfl)
  case atomics =>
    intro x n ea atomic
    have hatomic {i : Instr} {k : AtKind} {expect : Word} (he : exec i s = atomicOp i k a o s)
        (hx : (if k == .cas then s.ctx.x a else 0) = expect) : atomic i k expect :=
      fun p hp hclean => hx ▸ completes_atomicOp he rfl hp hclean
    exact ⟨hatomic rfl rfl, hatomic rfl rfl, hatomic rfl rfl, hatomic rfl rfl, hatomic rfl rfl, hatomic rfl rfl, hatomic rfl rfl,
      hatomic rfl rfl, hatomic rfl rfl, hatomic rfl rfl⟩

end Sys2Proof.Machine
end

section
/-!
SUPPORT. Control after a delay slot, and the operations of a Sornen function (O9).
-/

namespace Sys2Proof.Machine

/-! ### A delay slot completes (R151, R162, R186, R187) -/

/-- The bank when its delay slot has completed, before the transfer: control is at nx. -/
def Context.slotOver (c : Context) (nx : Nat) : Context := { c.passed nx with xfer := none }

/-- The window move of a transfer; a call leaves nx in w8 of the callee. -/
def Context.moveWindow (c : Context) (nx : Nat) : Move → Context
  | .none => c
  | .call => ({ c with wp := c.wp + 24 } : Context).setX (.w 8) (BitVec.ofNat 64 nx)
  | .ret => { c with wp := c.wp - 24 }

section
variable {s : State} {core : Nat} {t : Task} {nx : Nat} {x : Xfer} (h : (s.bank core).xfer = some x)
include h

theorem State.retire_of_not_taken (ht : x.taken = false) : s.retire core t nx = s.setBank core ((s.bank core).slotOver nx) := by
  simp only [State.retire, Context.slotOver, Context.passed, h, ht, Bool.not_false, if_true]

theorem State.retire_of_taken (ht : x.taken = true) (hok : s.targetOk core x.target = true)
    (he : x.move = .call → s.entryLine core x.target = true) :
    s.retire core t nx =
      s.setBank core { ((s.bank core).slotOver nx).moveWindow nx x.move with pc := x.target.toNat } := by
  have hcall : (x.move != .call || s.entryLine core x.target) = true := by
    by_cases hm : x.move = .call <;> simp [hm, he]
  simp only [State.retire, h, ht, hok, hcall, Bool.not_true, Bool.and_self, if_true, Bool.false_eq_true, if_false]
  cases x.move <;> rfl

theorem State.retire_of_bad_target (ht : x.taken = true)
    (hbad : s.targetOk core x.target = false ∨ (x.move = .call ∧ s.entryLine core x.target = false)) :
    s.retire core t nx =
      (s.setBank core (if x.rett then { (s.bank core).slotOver nx with trapst := true }
        else (s.bank core).slotOver nx)).syncTrap core t cBadTarget x.target nx nx := by
  have hok : (s.targetOk core x.target && (x.move != .call || s.entryLine core x.target)) = false := by
    obtain hb | ⟨hm, hb⟩ := hbad
    · rw [hb, Bool.false_and]
    · rw [hm, hb]
      exact Bool.and_false _
  simp only [State.retire, Context.slotOver, Context.passed, h, ht, hok, Bool.not_true, Bool.false_eq_true, if_false]
  cases x.rett <;> rfl

end

/-! ### A step of a Sornen function (R306, R308 to R310) -/

/-- Operation op of strip st of the Sornen function f comes next on the core, and nothing holds it up. -/
structure State.SornenAtOp (s : State) (t : Task) (o : Code) (f : SornenFun) (st : SornenStrip) (op : SornenOp) (x : Strip) :
    Prop where
  task : s.ctx.task = some t
  strip : s.ctx.strip = some x
  code : s.codeOf t = some o
  function : o.sornen[x.fn]? = some f
  text : f.strips[x.strip]? = some st
  notLoop : st.loop = false
  op : st.ops[x.op]? = some op
  onCore : x.fab = .core
  stays : x.leaving = false
  called : x.frame ≠ 0
  framed : x.frameBytes t ≤ 8 * (x.frame - 1)
  issuing : s.issuing s.cur = true
  noCheck : s.ctx.checkDue = false
  noTrap : s.ctx.due = none
  notInterrupted : s.interrupted s.cur = false
  noHazard : s.ctx.hazard ((List.range 24).flatMap fun h => keyX s.ctx.wp (sornenX h)) = false

/-- The bank after an operation of a strip that the core runs itself. -/
def Context.operated (d : Context) : Context := { d with atBound := false, walkTrap := none, wait := 0, retry := false, wdcnt := 0 }

section
variable {s s1 : State} {t : Task} {o : Code} {f : SornenFun} {st : SornenStrip} {op : SornenOp} {x : Strip}

theorem State.SornenAtOp.sornenNext (h : s.SornenAtOp t o f st op x) : s.sornenNext t x f = s.sornenOp t x f st op := by
  unfold State.sornenNext
  simp [h.called, h.framed, h.stays, h.text, h.noHazard, h.notLoop, h.onCore, h.op]

theorem State.SornenAtOp.step (h : s.SornenAtOp t o f st op x) (hop : s.sornenOp t x f st op = .done s1) :
    s.sornenStep = s1.mapCtx Context.operated := by
  have hissued : (fun d : Context => d.stripIssued x) = Context.operated := by
    funext d
    unfold Context.stripIssued
    rw [h.onCore]
    rfl
  unfold State.sornenStep
  simp only [h.task, h.strip, h.code, h.function, h.issuing, h.noCheck, h.noTrap, h.sornenNext, hop, h.notInterrupted, hissued,
    Bool.not_true, Bool.false_eq_true, if_false]

/-! ### What an operation does (R309) -/

/-- The predicate of an operation lets it run. -/
def SornenOp.runs (op : SornenOp) (p : Word) : Prop := op.pm = 0 ∨ (op.pm = 1 ∧ p ≠ 0) ∨ (op.pm = 2 ∧ p = 0)

theorem SornenOp.not_skipped_of_runs {p : Word} (h : op.runs p) : ((op.pm == 1 && p == 0) || (op.pm == 2 && p != 0)) = false := by
  obtain hm | ⟨hm, hp⟩ | ⟨hm, hp⟩ := h
  · rw [hm]
    rfl
  · rw [hm, beq_false_of_ne hp]
    rfl
  · rw [hm, hp]
    rfl

theorem State.sornenOp_of_skipped (h : (op.pm = 1 ∧ s.ctx.sornenVal x st.w32 op.p = 0) ∨
    (op.pm = 2 ∧ s.ctx.sornenVal x st.w32 op.p ≠ 0)) : s.sornenOp t x f st op = .done (s.putStrip (x.after none)) := by
  have hskip : ((op.pm == 1 && s.ctx.sornenVal x st.w32 op.p == 0) || (op.pm == 2 && s.ctx.sornenVal x st.w32 op.p != 0)) = true := by
    obtain ⟨hm, hp⟩ | ⟨hm, hp⟩ := h
    · rw [hm, hp]
      rfl
    · rw [hm, bne_iff_ne.mpr hp]
      rfl
  unfold State.sornenOp
  simp only [hskip, if_true]

/-- An operation that accesses nothing keeps its value. -/
theorem State.sornenOp_of_pure {v : Word} (hr : op.runs (s.ctx.sornenVal x st.w32 op.p))
    (hv : sornenPure op.sop (s.ctx.sornenVal x st.w32 op.a) (s.ctx.sornenVal x st.w32 op.b) op.imm = some v) :
    s.sornenOp t x f st op = .done (s.putStrip (x.after (some (if st.w32 then v &&& 0xFFFFFFFF else v)))) := by
  unfold State.sornenOp
  simp only [SornenOp.not_skipped_of_runs hr, Bool.false_eq_true, if_false]
  split
  case h_9 => rw [hv]
  all_goals
    rename_i hsop
    rw [hsop] at hv
    cases hv

theorem State.sornenOp_of_select (hr : op.runs (s.ctx.sornenVal x st.w32 op.p)) (hsop : op.sop = 0x11) :
    s.sornenOp t x f st op =
      let v := if s.ctx.sornenVal x st.w32 op.p ≠ 0 then s.ctx.sornenVal x st.w32 op.a else s.ctx.sornenVal x st.w32 op.b
      .done (s.putStrip (x.after (some (if st.w32 then v &&& 0xFFFFFFFF else v)))) := by
  unfold State.sornenOp
  simp only [SornenOp.not_skipped_of_runs hr, Bool.false_eq_true, if_false, hsop, bne_iff_ne]

theorem State.sornenOp_of_set (hr : op.runs (s.ctx.sornenVal x st.w32 op.p)) (hsop : op.sop = 0x30) :
    s.sornenOp t x f st op =
      .done (s.putStrip { x.after none with sets := x.sets.set (op.imm.toNat % 32) (s.ctx.sornenVal x st.w32 op.a) }) := by
  unfold State.sornenOp
  simp only [SornenOp.not_skipped_of_runs hr, Bool.false_eq_true, if_false, hsop]

theorem State.sornenOp_of_store (hr : op.runs (s.ctx.sornenVal x st.w32 op.p)) (hsop : op.sop = 0x19) :
    s.sornenOp t x f st op =
      s.sornenStore t x (s.ctx.sornenVal x st.w32 op.a + op.imm.signExtend 64) (s.ctx.sornenVal x st.w32 op.b) (2 ^ op.lsz) := by
  unfold State.sornenOp
  simp only [SornenOp.not_skipped_of_runs hr, Bool.false_eq_true, if_false, hsop]

theorem State.sornenOp_of_exit (hr : op.runs (s.ctx.sornenVal x st.w32 op.p)) (hsop : op.sop = 0x38) :
    s.sornenOp t x f st op = .done (s.endStrip x f (exitTo op.imm)) := by
  unfold State.sornenOp
  simp only [SornenOp.not_skipped_of_runs hr, Bool.false_eq_true, if_false, hsop]

theorem exitTo_of_ne {imm : BitVec 32} (h : imm ≠ 0xFFFFFFFF) : exitTo imm = some imm.toNat := by
  unfold exitTo
  rw [beq_false_of_ne h]
  rfl

/-- A store that its checks allow issues at core scope. -/
theorem State.sornenStore_of_ok {ea v : Word} {n p : Nat} (hc : t.clustered = false)
    (hp : s.checkAccess s.cur t ea n n .store = .ok p) :
    s.sornenStore t x ea v n =
      .done ((s.launch (s.ctx.entry (.std (.w 25) ⟨.w 26, .g 0, .plain, .core, 0⟩) (.store n) v ea 0 ea .plain .core
        [⟨p, n, true⟩])).putStrip (x.after none)) := by
  unfold State.sornenStore
  rw [State.access_of_ok hp (absurd rfl), State.markRemote_of_not_clustered s _ _ hc]

end

/-! ### The SETs of a strip (R306, R310) -/

theorem sornenX_injective {h k : Nat} (hh : h < 24) (hk : k < 24) (e : sornenX h = sornenX k) : h = k := by
  have hv := congrArg Fin.val (XReg.w.inj e)
  simp only [Fin.ofNat] at hv
  split at hv <;> split at hv <;> omega

theorem Sparse.get_of_above {α : Type} (d : α) {k : Nat} {m : Sparse α} (h : Sparse.above k m = true) : Sparse.get d m k = d := by
  induction m with
  | nil => rfl
  | cons e m ih =>
    obtain ⟨a, v⟩ := e
    simp only [Sparse.above, List.all_cons, Bool.and_eq_true, decide_eq_true_eq] at h
    exact (if_neg (Nat.ne_of_gt h.1)).trans (ih h.2)

/-- After the SETs a register holds the value its SET gives, and the others hold what they held. -/
theorem Context.x_applySets {h : Nat} (hh : h < 24) (sets : Sparse Word) (c : Context) (hrise : sets.rising = true)
    (hkeys : ∀ e ∈ sets, e.1 < 24) :
    (sets.foldl (fun c e => c.setX (sornenX e.1) e.2) c).x (sornenX h) = Sparse.get (c.x (sornenX h)) sets h := by
  induction sets generalizing c with
  | nil => rfl
  | cons e sets ih =>
    obtain ⟨k, v⟩ := e
    rw [Sparse.rising_cons, Bool.and_eq_true] at hrise
    rw [List.foldl_cons, ih _ hrise.2 fun e he => hkeys e (List.mem_cons_of_mem _ he)]
    by_cases hk : k = h
    · subst hk
      rw [Context.x_setX_self _ _ (by simp [sornenX]), Sparse.get_of_above _ hrise.1]
      exact (if_pos rfl).symm
    · have hne : sornenX h ≠ sornenX k := fun e => hk (sornenX_injective hh (hkeys _ (List.mem_cons_self ..)) e).symm
      rw [Context.x_setX_ne _ _ hne]
      exact (if_neg hk).symm

/-- Settles O9: control after an instruction, after a delay slot, and after an operation of a Sornen function. -/
theorem controlPassesOn : Obligations.ControlPassesOn := by
  refine ⟨fun s s1 t i hx => ?plain, fun s s1 t i x hx => ?slot, fun s t o f st op x => ?sornen⟩
  case plain =>
    have hnext : s.nextPc s.cur s.ctx.pc (words i) =
        if (s.ctx.pc % 128 - 8) / 4 + words i < 30 ∧
            hdrStart (s.lineHeader s.cur (s.ctx.pc / 128)) ((s.ctx.pc % 128 - 8) / 4 + words i) = true then s.ctx.pc + 4 * words i
          else (s.ctx.pc / 128 + 1) * 128 + 8 := by
      simp only [State.nextPc, Bool.and_eq_true, decide_eq_true_eq]
    intro k next
    rw [State.after_of_no_slot hx, hnext]
    rfl
  case slot =>
    intro nx c
    refine ⟨State.retire_of_not_taken hx, fun ht hok hm => ?_, fun ht hok hm => ?_, fun ht hok he hm => ?_,
      State.retire_of_bad_target hx⟩
    · exact (State.retire_of_taken hx ht hok (by simp [hm])).trans (by rw [hm]; rfl)
    · exact (State.retire_of_taken hx ht hok (by simp [hm])).trans (by rw [hm]; rfl)
    · exact (State.retire_of_taken hx ht hok fun _ => he).trans (by rw [hm]; rfl)
  case sornen =>
    intro c a b p ready runs goes past value
    have hat (h : ready) : s.SornenAtOp t o f st op x := by
      obtain ⟨h1, h2, h3, h4, h5, h6, h7, h8, h9, h10, h11, h12, h13, h14, h15, h16⟩ := h
      exact ⟨h1, h2, h3, h4, h5, h6, h7, h8, h9, h10, h11, h12, h13, h14, h15, h16⟩
    refine ⟨fun h hskip => (hat h).step (State.sornenOp_of_skipped hskip), fun h hr => ?pure,
      fun h hpm hsop => (hat h).step (State.sornenOp_of_select (.inl hpm) hsop), fun h hr hsop hc q n hn hp => ?store,
      fun h hr hsop hrise hkeys => ?exit⟩
    case pure =>
      have hvalue {v : Word} {k : Nat} (hsop : op.sop = k) (hv : sornenPure k a b op.imm = some v) : value v :=
        (hat h).step (State.sornenOp_of_pure hr (hsop ▸ hv))
      refine ⟨fun e => hvalue e rfl, fun e => hvalue e rfl, fun e => hvalue e rfl, fun e => hvalue e rfl, fun e => hvalue e rfl,
        fun e => hvalue e rfl, fun e => hvalue e rfl, fun e => hvalue e rfl, fun e => hvalue e rfl, fun e => hvalue e rfl,
        fun e => hvalue e rfl, fun e => hvalue e ?_, fun e => hvalue e ?_, fun e => hvalue e ?_, fun e => hvalue e rfl,
        fun e => hvalue e rfl, fun e => hvalue e rfl, fun e => (hat h).step (State.sornenOp_of_set hr e)⟩
      · simp only [sornenPure, flag01, beq_iff_eq]
      · simp only [sornenPure, flag01, BitVec.slt, decide_eq_true_eq]
      · simp only [sornenPure, flag01, BitVec.ult, decide_eq_true_eq]
    case store =>
      subst hn
      exact (hat h).step ((State.sornenOp_of_store hr hsop).trans (State.sornenStore_of_ok hc hp))
    case exit =>
      refine ⟨s.ctx.applySets x, x.goto (s.ctx.applySets x) f (exitTo op.imm), (hat h).step (State.sornenOp_of_exit hr hsop),
        fun k hk => Context.x_applySets hk x.sets s.ctx hrise hkeys, fun e => ?_, fun e => ?_⟩
      · rw [e]
        rfl
      · rw [exitTo_of_ne e]
        exact ⟨rfl, rfl, rfl, rfl, (hat h).stays⟩

end Sys2Proof.Machine
end

section
/-!
SUPPORT. RETT: what the replay queue puts back in flight and what the task resumes with (O16).
-/

namespace Sys2Proof.Machine

/-- An instruction whose effect is the whole step. -/
theorem completes_of_final {s s1 : State} {t : Task} {i : Instr} {keys : Context → List Nat} {body : State → Task → Res}
    (he : exec i s = .next (issue i keys body s)) (hb : body s t = .final s1 false) : Completes s t i (keys s.ctx) s1 := fun h => by
  rw [he, issue_settles h, hb, State.settle, if_neg (by rw [State.interrupted_of_canIssue h]; exact Bool.false_ne_true)]

/-! ### Program order (R120, R349) -/

/-- An entry apart from its place in program order. -/
def Entry.bare (e : Entry) : Entry := { e with seq := 0, hand := false }

/-- An entry with CAUSE clear. -/
def Entry.cleared (e : Entry) : Entry := { e with cause := 0 }

theorem Entry.placeIn_cleared (e : Entry) (xs : List Entry) :
    e.cleared.placeIn (xs.map Entry.cleared) = (e.placeIn xs).map Entry.cleared := by
  induction xs with
  | nil => rfl
  | cons x xs ih =>
    have hahead : e.cleared.ahead x.cleared = e.ahead x := rfl
    rw [List.map_cons, Entry.placeIn, Entry.placeIn, hahead, ih]
    cases e.ahead x <;> rfl

theorem placeAll_cleared (es into : List Entry) :
    placeAll (es.map Entry.cleared) (into.map Entry.cleared) = (placeAll es into).map Entry.cleared := by
  induction es generalizing into with
  | nil => rfl
  | cons e es ih => exact (congrArg (placeAll _) (e.placeIn_cleared into)).trans (ih _)

theorem Entry.placeIn_of_last {e : Entry} {xs : List Entry} (h : ∀ x ∈ xs, e.ahead x = false) : e.placeIn xs = xs ++ [e] := by
  induction xs with
  | nil => rfl
  | cons x xs ih =>
    rw [Entry.placeIn, h x (List.mem_cons_self ..), ih fun y hy => h y (List.mem_cons_of_mem _ hy)]
    rfl

/-- Entries that stand in program order keep their order. -/
theorem placeAll_of_ordered {es into : List Entry} (h : (into ++ es).Pairwise fun x y => y.ahead x = false) :
    placeAll es into = into ++ es := by
  induction es generalizing into with
  | nil => exact (List.append_nil into).symm
  | cons e es ih =>
    have hlast : e.placeIn into = into ++ [e] :=
      Entry.placeIn_of_last fun x hx => (List.pairwise_append.1 h).2.2 x hx e (List.mem_cons_self ..)
    have hstep : placeAll (e :: es) into = placeAll es (into ++ [e]) := congrArg (placeAll es) hlast
    rw [hstep, ih (by rwa [List.append_assoc]), List.append_assoc]
    rfl

theorem Context.renumber_fly_bare (c : Context) : c.renumber.fly.map Entry.bare = c.fly.map Entry.bare := by
  have hsnd : (((List.range c.fly.length).zip c.fly).map Prod.snd) = c.fly := List.map_snd_zip (by rw [List.length_range])
  calc c.renumber.fly.map Entry.bare
      = (((List.range c.fly.length).zip c.fly).map Prod.snd).map Entry.bare := by
        rw [Context.renumber, List.map_map, List.map_map]
        rfl
    _ = c.fly.map Entry.bare := by rw [hsnd]

theorem Context.renumber_issued (c : Context) : c.renumber.issued = c.renumber.fly.length := by
  simp [Context.renumber]

/-! ### What the ring must hold (R143, R187) -/

theorem moveOf_eq (b : BitVec 2) : moveOf b = if b = 1 then .call else if b = 2 then .ret else .none := by
  simp only [moveOf, beq_iff_eq]

theorem moveOf_beq_ret (b : BitVec 2) : (moveOf b == .ret) = decide (b = 2) := by
  revert b
  decide

theorem moveOf_beq_call (b : BitVec 2) : (moveOf b == .call) = decide (b = 1) := by
  revert b
  decide

/-- The lowest position the frame alone asks for. -/
def Frame.low (f : Frame) : Nat := if f.dslot = true ∧ f.dxfer = 2 then f.twp.toNat - 24 else f.twp.toNat

/-- The ring holds what the frame asks for, and has room for the window of a call. -/
def Context.frameFits (c : Context) : Prop :=
  c.lo ≤ c.frame.low ∧ (c.frame.dslot = true → c.frame.dxfer = 1 → c.frame.twp.toNat + 24 + 32 - c.lo ≤ 256)

theorem le_foldl_min {lo : Nat} (ns : List Nat) {top : Nat} (ht : lo ≤ top) (h : ∀ n ∈ ns, lo ≤ n) : lo ≤ ns.foldl min top := by
  induction ns generalizing top with
  | nil => exact ht
  | cons n ns ih =>
    exact ih (le_min ht (h n (List.mem_cons_self ..))) fun m hm => h m (List.mem_cons_of_mem _ hm)

section
variable {c : Context}

theorem Context.rettLow_eq : c.rettLow = (c.rq.filterMap Entry.destPos).foldl min c.frame.low := by
  simp only [Context.rettLow, Frame.low, moveOf_beq_ret, Bool.and_eq_true, decide_eq_true_eq]

theorem Context.rettRacks_of_fits (h : c.frameFits) (hheld : ∀ e ∈ c.rq, ∀ n, e.destPos = some n → c.lo ≤ n) :
    c.rettRacks = none := by
  have hlow : c.lo ≤ c.rettLow := by
    rw [Context.rettLow_eq]
    refine le_foldl_min _ h.1 fun n hn => ?_
    obtain ⟨e, he, hd⟩ := List.mem_filterMap.1 hn
    exact hheld e he n hd
  have hroom : (c.frame.dslot && moveOf c.frame.dxfer == .call && decide (256 < c.frame.twp.toNat + 24 + 32 - c.lo)) = false := by
    rw [moveOf_beq_call]
    simp only [Bool.and_eq_false_imp, Bool.and_eq_true, decide_eq_true_eq, decide_eq_false_iff_not, Nat.not_lt]
    exact fun hc => h.2 hc.1 hc.2
  rw [Context.rettRacks, if_neg (Nat.not_lt.2 hlow), hroom]
  rfl

theorem Context.rettRacks_of_not_fits (h : ¬ c.frameFits) (hq : c.rq = []) : c.rettRacks.isSome = true := by
  have hlow : c.rettLow = c.frame.low := by rw [Context.rettLow_eq, hq]; rfl
  unfold Context.rettRacks
  by_cases hfill : c.rettLow < c.lo
  · rw [if_pos hfill]
    rfl
  · obtain ⟨hd, hx, hbig⟩ : c.frame.dslot = true ∧ c.frame.dxfer = 1 ∧ 256 < c.frame.twp.toNat + 24 + 32 - c.lo := by
      by_contra hno
      exact h ⟨hlow ▸ Nat.not_lt.1 hfill, fun hd hx => Nat.not_lt.1 fun hbig => hno ⟨hd, hx, hbig⟩⟩
    have hspill : c.lo + 24 ≤ c.rettLow := by
      have htwp : c.frame.low = c.frame.twp.toNat := by simp [Frame.low, hx]
      omega
    rw [if_neg hfill, moveOf_beq_call, hd, hx]
    simp [hbig, hspill]

end

/-! ### The replay queue is executed again (R349) -/

/-- An integer or vector operation that no check stops: it accesses no memory, and divides by no zero. -/
def Entry.passesAgain (e : Entry) : Prop := match e.op with
  | .int k _ => k.divides = true → e.opc ≠ 0
  | .vec .. | .pred .. | .flags .. | .ins .. | .toX .. => True
  | _ => False

section
variable {s : State} {t : Task} {e : Entry}

theorem State.recheck_of_passes (h : e.passesAgain) (k : State → Entry → Res) : s.recheck t e k = k s e := by
  unfold State.recheck
  unfold Entry.passesAgain at h
  cases hop : e.op with
  | int i a =>
    rw [hop] at h
    have hz : (i.divides && e.opc == 0) = false := by
      rw [Bool.and_eq_false_imp]
      exact fun hd => beq_false_of_ne (h hd)
    simp only [hz, Bool.false_eq_true, if_false]
  | vec | pred | flags | ins | toX => rfl
  | _ => simp only [hop] at h

/-- Entries that pass are all back, and the bank is as it was. -/
theorem State.inject_of_passes {es : List Entry} (h : ∀ e ∈ es, e.passesAgain) (s : State) (back : List Entry) :
    ∃ s1, s.inject t back es = .done s1 (back ++ es.map Entry.cleared) ∧ s1.ctx = s.ctx ∧ ∀ c, s1.setCtx c = s.setCtx c := by
  induction es generalizing s back with
  | nil => exact ⟨s, congrArg _ (List.append_nil back).symm, rfl, fun _ => rfl⟩
  | cons e es ih =>
    have hback : s.inject t back (e :: es) = (s.setCtx s.ctx).inject t (back ++ [e.cleared]) es := by
      rw [State.inject, State.recheck_of_passes (h e (List.mem_cons_self ..))]
      simp only [State.ctx_setCtx, State.setCtx_setCtx]
      rfl
    obtain ⟨s1, hinj, hctx, hset⟩ := ih (fun x hx => h x (List.mem_cons_of_mem _ hx)) (s.setCtx s.ctx) (back ++ [e.cleared])
    refine ⟨s1, ?_, hctx.trans (s.ctx_setCtx _), fun c => (hset c).trans (s.setCtx_setCtx _ c)⟩
    rw [hback, hinj, List.append_assoc]
    rfl

/-- A division whose divisor has become zero stays in the queue with its cause. -/
theorem State.inject_of_zero {k : IntKind} {a : XReg} (hop : e.op = .int k a) (hk : k.divides = true) (hz : e.opc = 0)
    (s : State) :
    s.inject t [] [e] = .trap s cDivZero 0 [] [{ e with cause := BitVec.ofNat 8 cDivZero }] := by
  have hcheck (next : State → Entry → Res) : s.recheck t e next = .trap s cDivZero 0 := by
    unfold State.recheck
    rw [hop]
    simp only [hk, hz, BEq.rfl, Bool.and_self, if_true]
  rw [State.inject, hcheck]

end

/-! ### The task goes on (R220) -/

/-- The bank with which a task leaves trap state, with the given instructions in flight. -/
def Context.resumedWith (c : Context) (left : List Entry) : Context :=
  let f := c.frame
  { c with
    rq := [], fly := left, issued := left.length, strip := none, stripHeld := none, trapst := false,
    resuming := false, wp := f.twp.toNat, pc := f.tpc.toNat, wait := 0, retry := false, atBound := false,
    walkTrap := none, wdcnt := 0, fillMsg := 0, fillData := [],
    xfer := if f.dslot then some ⟨f.ttgt, true, if f.dxfer = 1 then .call else if f.dxfer = 2 then .ret else .none, true⟩
            else none }

/-- The entries in flight after the given ones have been put back among those in flight. -/
def Context.afterReplay (c : Context) (back : List Entry) : Context := ({ c with rq := [] }.putBack back).renumber

theorem Context.backInStrip_of_none {c : Context} (h : c.stripHeld = none) : c.backInStrip = false := by
  unfold Context.backInStrip
  rw [h]

theorem Context.resume_afterReplay {c : Context} (h : c.stripHeld = none) (back : List Entry) :
    (c.afterReplay back).resume = c.resumedWith (c.afterReplay back).fly := by
  have hback : (c.afterReplay back).backInStrip = false := Context.backInStrip_of_none h
  rw [Context.resume, hback, moveOf_eq]
  simp only [Context.resumedWith, ← Context.renumber_issued, Context.afterReplay]
  rfl

/-- What RETT asks for before it looks at the ring and the queue. -/
structure State.RettMayGo (s : State) : Prop where
  inTrap : s.ctx.trapst = true
  noStrip : s.ctx.stripHeld = none
  resumes : s.resumeOk s.cur s.ctx.frame.tpc = true
  windowBelow : ¬ (s.ctx.frame.dslot = true ∧ s.ctx.frame.dxfer = 2 ∧ s.ctx.frame.twp = 0)
  quiet : ∀ e ∈ s.ctx.fly, e.hand = true → e.stays = true

theorem State.rett_of_outside {s : State} (t : Task) (ill : Word) (h : s.ctx.trapst = false) :
    s.rett t ill = .trap s cIllegal ill := by
  unfold State.rett
  simp only [h, Bool.not_false, if_true]

theorem State.rett_of_bad_target {s : State} (t : Task) (ill : Word) (htrap : s.ctx.trapst = true) (hstrip : s.ctx.stripHeld = none)
    (hbad : s.resumeOk s.cur s.ctx.frame.tpc = false) : s.rett t ill = .trap s cBadTarget s.ctx.frame.tpc := by
  unfold State.rett
  simp only [htrap, Context.backInStrip_of_none hstrip, hbad, Bool.not_true, Bool.not_false, Bool.and_self, Bool.false_eq_true,
    if_false, if_true]

section
variable {s : State} (h : s.RettMayGo)
include h

theorem State.RettMayGo.spills : (s.ctx.frame.dslot && moveOf s.ctx.frame.dxfer == .ret && s.ctx.frame.twp == 0) = false := by
  have hno := h.windowBelow
  simp only [moveOf_beq_ret, Bool.eq_false_iff, ne_eq, Bool.and_eq_true, decide_eq_true_eq, beq_iff_eq, and_assoc]
  exact hno

theorem State.RettMayGo.ownBusy : s.ctx.ownBusy = false := by
  simp only [Context.ownBusy, List.any_eq_false, Bool.and_eq_true, Bool.not_eq_true', not_and, Bool.not_eq_false]
  exact h.quiet

/-- RETT waits for the racking engine, or goes on with the queue. -/
theorem State.RettMayGo.rett_of_racks (t : Task) (ill : Word) (hr : s.ctx.rettRacks.isSome = true) :
    s.rett t ill = .wait s wRacking := by
  unfold State.rett
  simp only [h.inTrap, Context.backInStrip_of_none h.noStrip, h.resumes, h.spills, h.ownBusy, hr, Bool.not_true, Bool.and_false,
    Bool.false_eq_true, if_false, if_true]

theorem State.RettMayGo.rett_of_injected {t : Task} (ill : Word) {s1 : State} {back : List Entry} (hr : s.ctx.rettRacks = none)
    (hroom : s.ctx.rq.length ≤ s.ctx.room) (hinj : s.inject t [] s.ctx.rq = .done s1 back) (hctx : s1.ctx = s.ctx)
    (hset : ∀ c, s1.setCtx c = s.setCtx c) :
    s.rett t ill = .final (s.setCtx (s.ctx.resumedWith (s.ctx.afterReplay back).fly)) false := by
  have hfull : (decide (s.ctx.room = 0) && !s.ctx.rq.isEmpty) = false := by
    cases hq : s.ctx.rq with
    | nil => exact Bool.and_false _
    | cons e es =>
      rw [hq, List.length_cons] at hroom
      rw [decide_eq_false (by omega), Bool.false_and]
  unfold State.rett
  simp only [h.inTrap, Context.backInStrip_of_none h.noStrip, h.resumes, h.spills, h.ownBusy, hr, hfull, Bool.not_true, Bool.and_false,
    Bool.false_eq_true, if_false, Option.isSome_none, List.take_of_length_le hroom, List.drop_eq_nil_of_le hroom, hinj,
    List.isEmpty_nil, if_true, State.mapCtx, hctx, hset]
  exact congrArg (fun c => Res.final (s.setCtx c) false) (Context.resume_afterReplay h.noStrip back)

theorem State.RettMayGo.rett_of_trapped {t : Task} (ill : Word) {e e1 : Entry} {cause : Nat} {info : Word}
    (hr : s.ctx.rettRacks = none) (hq : s.ctx.rq = [e]) (hfly : s.ctx.fly = [])
    (hinj : s.inject t [] [e] = .trap s cause info [] [e1]) :
    s.rett t ill = .trap (s.mapCtx fun c => { c with rq := [e1] }) cause info := by
  have hroom : s.ctx.room = 8 := by rw [Context.room, Context.unfinished, hfly]; rfl
  unfold State.rett
  simp only [h.inTrap, Context.backInStrip_of_none h.noStrip, h.resumes, h.spills, h.ownBusy, hr, hroom, hq, Bool.not_true, Bool.and_false,
    Bool.false_eq_true, if_false, Option.isSome_none, List.take_succ_cons, List.take_nil, hinj]
  rfl

end

theorem exec_rett (s : State) : exec .rett s = .next (issue .rett (fun _ => []) (fun s t => s.rett t (word0 .rett)) s) := rfl

/-- RETT with a queue whose entries all pass and for which there is room. -/
theorem completes_rett {s : State} (h : s.RettMayGo) (t : Task) (hr : s.ctx.rettRacks = none)
    (hroom : s.ctx.rq.length ≤ s.ctx.room) (hpass : ∀ e ∈ s.ctx.rq, e.passesAgain) :
    Completes s t .rett [] (s.setCtx (s.ctx.resumedWith (s.ctx.afterReplay (s.ctx.rq.map Entry.cleared)).fly)) := by
  obtain ⟨s1, hinj, hctx, hset⟩ := State.inject_of_passes (t := t) hpass s []
  exact completes_of_final (exec_rett s) (h.rett_of_injected _ hr hroom hinj hctx hset)

/-- Settles O16: by what RETT finds of the frame, the ring and the queue. -/
theorem returnFromTrap : Obligations.ReturnFromTrap := by
  intro s t c f low fits quiet mayGo resumed bare again held
  have hgo (h : mayGo) (hq : quiet) : s.RettMayGo := by
    obtain ⟨htrap, hstrip, hok, hbelow⟩ := h
    exact ⟨htrap, hstrip, hok, hbelow, hq⟩
  have hquiet (hfly : c.fly = []) : quiet := fun e he => absurd (hfly ▸ he) List.not_mem_nil
  have hroom (hfly : c.fly = []) : c.room = 8 := by rw [Context.room, Context.unfinished, hfly]; rfl
  refine ⟨fun hm hfit hrq hq => ?empty, fun hm hfit hheld _ hlen hfly hagain => ⟨fun ho => ?ordered, ?replayed⟩,
    fun e k a hm hfit hheld hrq hfly hop hk hz => ?zero, fun hm hfit hrq hq => ?racks, fun htrap => ?outside,
    fun htrap hstrip hbad => ?badTarget⟩
  case empty =>
    have hnone : ∀ e, e ∉ c.rq := fun e he => absurd (hrq ▸ he) List.not_mem_nil
    refine ⟨(c.afterReplay (c.rq.map Entry.cleared)).fly, ?_, completes_rett (hgo hm hq) t
      (Context.rettRacks_of_fits hfit fun e he => absurd he (hnone e)) (by rw [show s.ctx.rq = [] from hrq]; exact Nat.zero_le _)
      fun e he => absurd he (hnone e)⟩
    rw [hrq]
    exact Context.renumber_fly_bare _
  case ordered => exact placeAll_of_ordered ho
  case replayed =>
    refine ⟨(c.afterReplay (c.rq.map Entry.cleared)).fly, ?_, completes_rett (hgo hm (hquiet hfly)) t
      (Context.rettRacks_of_fits hfit hheld) (by rw [hroom hfly]; exact hlen) hagain⟩
    calc (c.afterReplay (c.rq.map Entry.cleared)).fly.map Entry.bare
        = (placeAll (c.rq.map Entry.cleared) c.fly).map Entry.bare := Context.renumber_fly_bare _
      _ = ((placeAll c.rq []).map Entry.cleared).map Entry.bare := by rw [hfly, ← placeAll_cleared]; rfl
      _ = (placeAll c.rq []).map fun e => { bare e with cause := 0 } := List.map_map ..
  case zero =>
    exact completes_of_trap (exec_rett s)
      ((hgo hm (hquiet hfly)).rett_of_trapped _ (Context.rettRacks_of_fits hfit hheld) hrq hfly (State.inject_of_zero hop hk hz s))
  case racks =>
    exact completes_of_wait (exec_rett s) ((hgo hm hq).rett_of_racks t _ (Context.rettRacks_of_not_fits hfit hrq))
  case outside => exact traps_of_trap (exec_rett s) (State.rett_of_outside t _ htrap)
  case badTarget => exact traps_of_trap (exec_rett s) (State.rett_of_bad_target t _ htrap hstrip hbad)

end Sys2Proof.Machine
end
